-- ==== Sys2Proof/Word.lean ====
section
/-! DEFINITION. The word types of the block and nothing else: register words, doublewords, bytes and the element codes
of number formats. Everything that is computed on them stands under Sys2Proof/Machine, where it can be mended. -/

namespace Sys2Proof

/-- A 32-bit word of the management window, of a frame header or of a descriptor (R7, R8). -/
abbrev Word := BitVec 32

/-- A 64-bit register or structure field (R623). -/
abbrev DWord := BitVec 64

/-- One byte of a payload or of a memory (R7). -/
abbrev Byte := BitVec 8

/-- The bit pattern of an FP32 value (R53). -/
abbrev FP32 := BitVec 32

/-- The bit pattern of a BF16 value (R53). -/
abbrev BF16 := BitVec 16

end Sys2Proof
end

