-- ==== Sys2Proof/Types.lean ====
section
/-! DEFINITION. The plain data types that commands and the state share: status codes, frames, messages, records. Each
names the rule of spec/ that lays it out. No function on them stands here. -/

namespace Sys2Proof.Machine

open Sys2Proof

/-- Status codes (R17); their 8-bit values are `statusCode`. -/
inductive Status where
  | ok | deferred | busy | timeout | preempted | contextTorn | noCapacity
  | descInvalid | descStale | alignFault | boundsFilled | tileIllegal
  | wardFault | ticketInvalid | authFail
  | versionGone | superseded | formatUnsupported | adapterUnknown | ownerUnreachable
  | brokenLatch | latchHeld | numericGuard | poolFull | idExhausted | internal
  deriving DecidableEq, Repr

/-- What hardware does to a register field in the very cycle of a software access to it (R12, R424). -/
inductive HwUpdate where
  | none
  | inc (n : Nat)
  | set
  | clear
  | fire
  deriving DecidableEq, Repr

/-- How a management core writes: a 32-bit store, a 64-bit store, or `AMOSWAP.D` (R408). -/
inductive CoreWrite where
  | word
  | dword
  | swap
  deriving DecidableEq, Repr

/-- Who performs a latch operation (R403 `OKIND`): a management core, the host, or the issued step of a partition. -/
inductive Agent where
  | core (c : Nat)
  | host
  | context (p : Nat)
  deriving DecidableEq, Repr

/-- An RCL message from the host: the 32-byte header of its first frame as eight words (R457) and its whole payload,
reassembled from its frames (R459). -/
structure RclFrame where
  w0 : Word
  w1 : Word
  w2 : Word
  w3 : Word
  w4 : Word
  w5 : Word
  w6 : Word
  w7 : Word
  data : List Byte
  deriving DecidableEq, Repr

/-- The ways the frames of a message break segmentation or credit (R460). -/
inductive FrameFault where
  | none          -- no fault of segmentation: the header itself is judged
  | noCredit      -- a frame sent beyond its channel's credits
  | segmentation  -- SEG gap, FIRST missing, interleaved message, or more frames than admitted
  deriving DecidableEq, Repr

/-- The results of the cryptographic checks of a command, as the security core finds them. -/
structure Crypto where
  sigOk : Bool        -- both signatures verify (R505, R515 check 3)
  rootOk : Bool       -- the key digest equals the root digest, or the delegate certificate verifies
  kemOk : Bool        -- decapsulation and ECDH succeed (R515 check 6)
  digest : Nat        -- SHA-384 of EC_KEY then DSA_KEY (R517)
  confirm : List Byte -- CONFIRM of R516
  deriving DecidableEq, Repr

/-- What GCM gives for an upload: whether the tag verifies, and the decrypted blob (R528). -/
structure Plain where
  tagOk : Bool
  blob : List Byte
  deriving DecidableEq, Repr

/-- A row vector as it arrives on a hinge port: the sixteen header words of R605, the partition whose credit its beats
use (R602) and the BF16 data elements. -/
structure RowVec where
  w0 : Word
  w1 : Word
  w2 : Word
  w3 : Word
  rest : List Word   -- header words 0x10–0x3F, reserved
  rowPart : Nat
  data : List BF16
  deriving DecidableEq, Repr

/-- A response on a hinge egress (R222). -/
structure Resp where
  part : Nat
  sseq : Nat
  slot : Nat
  off : Nat
  proj : Nat
  status : Status
  zero : Bool
  placed : Bool
  ofmt : Nat
  data : List Nat    -- element bit patterns in OFMT
  deriving DecidableEq, Repr

/-- The eight words of an RPP frame header (R339). -/
structure RppHdr where
  w0 : Word
  w1 : Word
  w2 : Word
  w3 : Word
  w4 : Word
  w5 : Word
  w6 : Word
  w7 : Word
  deriving DecidableEq, Repr

/-- A pool member as a view lists it (R308). -/
structure Member where
  inst : Nat
  devId : Nat
  addr : Nat
  group : Nat
  rppMinor : Nat
  blobMinor : Nat
  serves : Bool
  deriving DecidableEq, Repr

/-- Range states (R315). -/
inductive RangeState where
  | free | held | moving | lost
  deriving DecidableEq, Repr

/-- An entry of the range table (R315). -/
structure RangeEnt where
  state : RangeState
  inst : Nat
  deriving DecidableEq, Repr

/-- A view: number, whether it is the whole view or the changes since the one before, members added and removed, range
entries changed, ward bindings added (R307, R308, R517). -/
structure ViewPl where
  num : Nat
  full : Bool
  add : List Member
  del : List Nat
  ranges : List (Nat × RangeEnt)
  wards : List (Nat × Nat)
  deriving DecidableEq, Repr

/-- A notice record (R322); `lbytes`, `gbytes` and `blen` in 64-byte units. -/
structure NoteRec where
  aid : Nat
  valid : Bool
  learn : Bool
  epoch : Nat
  ward : Nat
  bminor : Nat
  blen : Nat
  rank : Nat
  wfmtA : Nat
  wfmtB : Nat
  lbytes : Nat
  gbytes : Nat
  projs : List Nat
  deriving DecidableEq, Repr

/-- A quantized vector: format code, element codes and one E8M0 code for each block of 32 (none for BF16 and FP32). -/
structure QVec where
  fmt : Nat
  els : List Nat
  scl : List Nat
  deriving DecidableEq, Repr

/-- A record of `VISIT_ROWS` or `VISIT_DELTA` (R333): header fields and vectors. -/
structure VisitRec where
  aid : Nat
  epoch : Nat
  proj : Nat
  afmt : Nat
  hfmt : Nat
  ofmt : Nat
  honly : Bool
  first : Nat
  sseq : Nat
  part : Nat
  vecs : List QVec
  deriving DecidableEq, Repr

/-- The sort key of a contribution (R255). -/
structure SortKey where
  sseq : Nat
  inst : Nat
  part : Nat
  idx : Nat
  deriving DecidableEq, Repr

/-- Version-table slot states (R352). -/
inductive VState where
  | free | current | retained | retiring | filling | valid
  deriving DecidableEq, Repr

/-- A version-table slot (R352), with what the device keeps beside it: the blob's length, its last-use stamp (R287),
whether its line is damaged (R582), the slower-tier copy that a promoted version keeps (R302), what of a fill has come, and the largest
layer bytes of a blob that has been demoted (R294). -/
structure VSlot where
  epoch : Nat
  vstate : VState
  slow : Bool
  inval : Bool
  bminor : Nat
  refs : Nat
  rbatch : Nat
  loc : Nat
  blen : Nat
  stamp : Nat
  damaged : Bool
  slowLoc : Option Nat
  got : Nat
  lmax : Nat
  deriving DecidableEq, Repr

/-- The optimizer record (R161). -/
structure OptRec where
  kind : Nat
  t : Nat
  lr : Nat
  beta1 : Nat
  beta2 : Nat
  eps : Nat
  wd : Nat
  deriving DecidableEq, Repr

/-- The arrays of one matrix in a master area (R164): FP32 master, BF16 first and second moments, row-major. -/
structure MasterMat where
  w : List Nat
  m : List Nat
  v : List Nat
  deriving DecidableEq, Repr

/-- A master area (R164). -/
structure Master where
  opt : OptRec
  mats : List MasterMat
  deriving DecidableEq, Repr

/-- A contribution slot of an owner gradient drawer (R257); `due` when `GD_HOLD` runs out (R259). -/
structure Contrib where
  slot : Nat
  key : SortKey
  base : Nat
  src : Nat
  due : Nat
  written : Bool
  data : List (List Nat)
  deriving DecidableEq, Repr

/-- An open round (R265): its contributions, scale, target epoch, progress mark, and the optimizer record as it stood when the
round started (R263). -/
structure Round where
  contribs : List Contrib
  gscale : Nat
  target : Nat
  mark : Nat
  opt : OptRec
  deriving DecidableEq, Repr

/-- Directory entry states (R156). -/
inductive EntryState where
  | free | empty | ready | retiring
  deriving DecidableEq, Repr

/-- A directory entry (R154) with the objects bound to it: its index, home partition (R282), projection set, STAT offsets
(R155), version table (R352), master area (R164), contribution slots, round, and the marks of R268, R289, R319, R365
and R582. -/
structure Entry where
  idx : Nat
  aid : Nat
  state : EntryState
  ward : Nat
  learn : Bool
  owned : Bool
  pinned : Bool
  wfmtA : Nat
  wfmtB : Nat
  owner : Nat
  rank : Nat
  curEpoch : Nat
  alpha : Nat
  alphaR : Nat
  tau : Nat
  home : Nat
  projs : List Nat
  statoff : List Nat
  vtab : List VSlot
  master : Option Master
  contribs : List Contrib
  round : Option Round
  target : Nat
  dirty : Bool
  badMaster : Bool
  frozen : Bool
  unknown : Bool
  pinEpoch : Nat
  keysNow : List SortKey
  keysPrev : List SortKey
  freePending : Bool
  deriving DecidableEq, Repr

/-- The payloads of RPP messages. The spec lays out the header (R339), the notice record (R322), the VISIT record (R333)
and the four notices of R363, whose bytes Machine/RppBytes.lean gives; for the other types it names the contents only, so they are carried
as those contents. A payload of more than 65,536 bytes travels in several frames: `part` is a frame of a VISIT exchange, by its bytes
(R333); `cont` a frame before the last of a payload whose bytes spec/ does not lay out. -/
inductive RppPl where
  | none
  | hello (major minor blobMinor pubMinor poolId devId addr group : Nat) (serves authOk : Bool)
  | join (major minor blobMinor poolId devId addr group : Nat) (serves attOk : Bool)
  | joinAck (inst : Nat) (v : ViewPl)
  | view (v : ViewPl)
  | num (n : Nat)
  | window (base bytes : Nat)
  | aids (l : List Nat)
  | notes (l : List NoteRec)
  | pairs (l : List (Nat × Nat))
  | data (off : Nat) (bytes : List Byte) (tagOk : Bool)
  | visit (l : List VisitRec)
  | gdReq (k : SortKey)
  | gdData (slot : Nat) (k : SortKey) (mats : List (List Nat))
  | batch (n : Nat) (l : List (Nat × Nat))
  | moveBegin (range part : Nat) (ents : List Entry) (last : List (Nat × Nat))
  | moveData (range : Nat) (e : Entry) (blobs : List (Nat × List Byte))
  | part (bytes : List Byte)
  | cont
  deriving DecidableEq, Repr

/-- An RPP message: header and payload. -/
structure RppMsg where
  hdr : RppHdr
  pl : RppPl
  deriving DecidableEq, Repr

/-- The readings a governor period takes (R565); `none` for a board sensor that does not answer. Temperatures in °C × 256,
flow in L/min × 256, the average power of the period in W, the largest share of it that one Q-die drew in FP32, the eight
stack temperatures, and the measured 63 % time of R566 in FP32 seconds when a measurement ended. -/
structure Sensors where
  tin : Option Nat
  flow : Option Nat
  hot : Nat
  power : Nat
  share : Nat
  stk : List Nat
  crossed : Option Nat
  deriving DecidableEq, Repr

end Sys2Proof.Machine
end

