-- ==== Sys2Proof/Syntax.lean ====
section
/-! DEFINITION. The commands of the block: one constructor for each row of spec/opcode_table.json, each docstring the
row's summary and rule. The operands are what the row's rule takes from outside: an RCL message, an RPP message, a
partition, a unit, a link, a reading of a sensor. -/

namespace Sys2Proof

open Sys2Proof.Machine

/-- The commands (spec/opcode_table.json). `p` is a partition, `u` the number of a work unit of its step, `f` an RCL
message, `m` an RPP message, `d` a power domain. -/
inductive Instr where
  /-- RCL command that starts the link session and reports versions, identity and READY. (R464) -/
  | hello (f : RclFrame)
  /-- RCL command carrying one SPDM 1.3 request, answered by the responder. (R510) -/
  | spdm (f : RclFrame)
  /-- SPDM request answered with the supported SPDM version. (R510) -/
  | getVersion (f : RclFrame)
  /-- SPDM request answered with responder capabilities. (R510) -/
  | getCapabilities (f : RclFrame)
  /-- SPDM request fixing SHA-384 and ECDSA P-384. (R510) -/
  | negotiateAlgorithms (f : RclFrame)
  /-- SPDM request answered with certificate chain digests. (R510) -/
  | getDigests (f : RclFrame)
  /-- SPDM request answered with the slot 0 certificate chain. (R510) -/
  | getCertificate (f : RclFrame)
  /-- SPDM challenge answered with a signature by the identity key. (R510) -/
  | challenge (f : RclFrame)
  /-- SPDM request answered with the measurement indices, including 0xFD and 0xFE. (R510) -/
  | getMeasurements (f : RclFrame)
  /-- RCL command that checks and opens an OPERATOR or TENANT session with its ticket. (R515) -/
  | sessionOpen (f : RclFrame) (c : Crypto)
  /-- RCL command that ends a session and its ticket. (R520) -/
  | sessionClose (f : RclFrame)
  /-- RCL command that checks signatures, burns life-cycle fuses, closes sessions, wipes and resets. (R505) -/
  | lifecycle (f : RclFrame) (c : Crypto)
  /-- RCL command that reads 1 to 256 words of one register block. (R466) -/
  | regRead (f : RclFrame) (events : List Nat)
  /-- RCL command that writes 1 to 256 words of one register block, P words served as PART_SET. (R466) -/
  | regWrite (f : RclFrame) (hw : List HwUpdate)
  /-- RCL command that performs one latch operation for the host and returns the latch word. (R473) -/
  | latch (f : RclFrame)
  /-- Latch operation that changes nothing and returns the latch word. (R405) -/
  | nop (ag : Agent) (n : Nat)
  /-- Latch operation that acquires a FREE or BROKEN latch or reports LATCH_HELD. (R405) -/
  | acq (ag : Agent) (n : Nat)
  /-- Latch operation that releases a held latch to FREE, or to BROKEN when BRK is set. (R405) -/
  | rel (ag : Agent) (n : Nat)
  /-- Latch operation that releases a held latch to FREE and repairs it. (R407) -/
  | relFix (ag : Agent) (n : Nat)
  /-- Latch operation that makes a HELD latch BROKEN. (R405) -/
  | breakLatch (ag : Agent) (n : Nat)
  /-- Latch operation that sets the DOMAIN of a latch that is not HELD. (R405) -/
  | setDomain (ag : Agent) (n d : Nat)
  /-- RCL command that returns commit records from the commit-record log. (R362) -/
  | logRead (f : RclFrame)
  /-- RCL command that returns one calibration snapshot. (R330) -/
  | calRead (f : RclFrame)
  /-- RCL command that returns entries of the ward job table. (R391) -/
  | wardJobs (f : RclFrame)
  /-- RCL command that checks a descriptor image and returns a handle. (R109) -/
  | descCreate (f : RclFrame)
  /-- RCL command that destroys a descriptor and increments its slot's tag. (R115) -/
  | descDestroy (f : RclFrame)
  /-- RCL command that grants an HBM or HOST allocation to a partition. (R467) -/
  | alloc (f : RclFrame)
  /-- RCL command that releases an allocation and destroys descriptors in it. (R108) -/
  | allocFree (f : RclFrame)
  /-- RCL command that allocates an adapter ID and a directory entry. (R141) -/
  | adapterAlloc (f : RclFrame)
  /-- Pool message by which a member asks the registrar for a range of adapter IDs. (R316) -/
  | rangeReq (m : RppMsg)
  /-- RCL command that puts an adapter entry into RETIRING. (R142) -/
  | adapterFree (f : RclFrame)
  /-- RCL command that returns a directory entry and its version table. (R154) -/
  | adapterQuery (f : RclFrame)
  /-- RCL command that decrypts, checks and commits an uploaded blob. (R162) -/
  | adapterUpload (f : RclFrame) (pl : Plain)
  /-- RCL command that designates a partition's common adapter. (R150) -/
  | commonSet (f : RclFrame)
  /-- COMMON_SET with CLEAR set, removing the partition's common adapter. (R150) -/
  | commonSetClear (f : RclFrame)
  /-- RCL command that sets the operator's pin list for the pinned set. (R289) -/
  | pinList (f : RclFrame)
  /-- RCL command that opens a job on a partition with role, priority and account ward. (R378) -/
  | jobOpen (f : RclFrame)
  /-- RCL command that ends a job after its submitted steps finish. (R384) -/
  | jobClose (f : RclFrame)
  /-- RCL command that ends a job at once, tearing down its steps. (R384) -/
  | jobKill (f : RclFrame)
  /-- RCL command that returns a job's state and counts. (R380) -/
  | jobQuery (f : RclFrame)
  /-- RCL command that checks a submission record and queues a step with its sequence number. (R428) -/
  | stepSubmit (f : RclFrame)
  /-- RCL command that applies partition or CAB configuration pairs together. (R469) -/
  | partSet (f : RclFrame) (fenced : List Nat)
  /-- RCL command that starts moving a range to another member. (R317) -/
  | rangeMove (f : RclFrame)
  /-- RANGE_MOVE with CANCEL set, aborting a move before its commit. (R318) -/
  | rangeMoveCancel (f : RclFrame)
  /-- RCL command that turns a LOST range FREE in the next view. (R320) -/
  | rangeReclaim (f : RclFrame)
  /-- RCL command that returns pool identity, view and range table. (R465) -/
  | poolQuery (f : RclFrame)
  /-- RCL command that starts orderly power-down. (R572) -/
  | powerDown (f : RclFrame)
  /-- A power-down stage ends when its condition or limit is met and the next stage starts. (R572) -/
  | powerDownStageEnd
  /-- RCL frame that returns credits for the virtual channels. (R462) -/
  | credit (f : RclFrame)
  /-- An RCL frame breaking the frame rules is discarded or answered with an error. (R460) -/
  | malformedFrame (f : RclFrame) (k : FrameFault)
  /-- Macro-instruction that loads and checks the row table at issue. (R174) -/
  | rows (p : Nat)
  /-- Macro-instruction that bins rows into drawers and runs admission. (R188) -/
  | sort (p : Nat)
  /-- Macro-instruction that computes h = x·Aᵀ for each row vector. (R197) -/
  | shrink (p : Nat)
  /-- Macro-instruction that computes ALPHA_R × h·Bᵀ and writes the delta. (R198) -/
  | expand (p : Nat)
  /-- Macro-instruction that performs SHRINK and EXPAND with h kept in the tumbler. (R199) -/
  | shrinkExpand (p : Nat)
  /-- Macro-instruction that computes gh and dB partials. (R239) -/
  | gradExpand (p : Nat)
  /-- Macro-instruction that computes dA partials and optionally dX. (R240) -/
  | gradShrink (p : Nat)
  /-- Macro-instruction that adds each drawer's partials into its gradient drawer. (R251) -/
  | poolSum (p : Nat)
  /-- Macro-instruction like POOL_SUM that divides by vector or row count. (R251) -/
  | poolMean (p : Nat)
  /-- Macro-instruction that ships gradient drawers to adapter owners. (R254) -/
  | gradShip (p : Nat)
  /-- Macro-instruction that closes rounds and updates master copies and moments. (R262) -/
  | optStep (p : Nat)
  /-- Macro-instruction that quantizes dirty adapters and hands blobs to the commit engine. (R268) -/
  | quantPublish (p : Nat)
  /-- Macro-instruction that commits STAT counts into offsets. (R443) -/
  | stat (p : Nat)
  /-- Gate macro-instruction that acquires a latch before issue. (R412) -/
  | latchAcq (p : Nat)
  /-- Gate macro-instruction that waits until a latch is not HELD. (R411) -/
  | latchWait (p : Nat)
  /-- Macro-instruction that releases a gate latch after earlier writes are visible. (R441) -/
  | latchRel (p : Nat)
  /-- Macro-instruction that holds later work until earlier writes are visible. (R415) -/
  | fence (p : Nat)
  /-- Macro-instruction that copies or transposes a tensor. (R442) -/
  | copy (p : Nat)
  /-- Macro-instruction that ends the step program. (R429) -/
  | endProg (p : Nat)
  /-- A step at the head of its queue passes load, gate, sample, sort and check phases. (R432) -/
  | stepIssue (p : Nat)
  /-- The arbiter grants a waiting step its whole slot reservation and charges regulators. (R388) -/
  | reservation (p : Nat)
  /-- Phase 8 begins once the reservation is complete and every needed domain is awake. (R483) -/
  | runStart (p : Nat)
  /-- A work unit starts once its vectors, pin, layer buffer, load and footprint room are ready. (R489) -/
  | unitStart (p u : Nat)
  /-- A work unit finishes its walk and drain and releases its pin. (R487) -/
  | unitComplete (p u : Nat)
  /-- A staging stream ends and the next stream on the die begins. (R493) -/
  | stagingStreamEnd (p q : Nat)
  /-- A write becomes visible on acknowledgement, releasing PLACED responses and fences. (R416) -/
  | writeAck (id : Nat)
  /-- A ready response leaves its hinge port's egress in ready order. (R494) -/
  | responseEgress (port : Nat)
  /-- The step's report notice leaves once written and credit allows, and the next job is chosen. (R477) -/
  | stepDone (p : Nat)
  /-- The last save write is acknowledged; SAVED is set and an interim STEP_DONE is sent. (R393) -/
  | saveComplete (p : Nat)
  /-- A row vector arrives on a hinge port and is tag-checked and queued. (R181) -/
  | rowVector (port : Nat) (v : RowVec)
  /-- A hinge or fabric link leaves L1 and its domain wakes. (R601) -/
  | l1Exit (fabric : Bool) (n : Nat)
  /-- A hinge link leaves its active state; unanswered vectors are not served. (R590) -/
  | linkInactive (port : Nat)
  /-- A link exceeds its retry limit and retrains once, fencing on failure. (R600) -/
  | linkRetryLimit (kind n : Nat)
  /-- A failed command link retrains every 10 ms. (R613) -/
  | commandLinkRetrain
  /-- Fabric transfer carrying data for a host read request arrives. (R611) -/
  | hostReadData (xid : Nat) (bytes : List Byte)
  /-- Fabric transfer reporting a host write visible arrives. (R611) -/
  | hostWriteCompletion (xid : Nat)
  /-- A host access without data or completion times out and is an uncorrected error. (R612) -/
  | hostTmo (xid : Nat)
  /-- RPP message opening a session with versions and exchange keys. (R346) -/
  | rppHello (m : RppMsg)
  /-- RPP reply completing session opening or refusing it. (R346) -/
  | helloAck (m : RppMsg)
  /-- RPP request to join the pool, checked by the registrar. (R309) -/
  | joinReq (m : RppMsg)
  /-- RPP reply assigning an instance ID or refusing the join. (R309) -/
  | joinAck (m : RppMsg)
  /-- RPP message by which a member leaves the view. (R312) -/
  | leave (m : RppMsg)
  /-- RPP message carrying view changes, installed in ascending number. (R307) -/
  | view (m : RppMsg)
  /-- RPP acknowledgement that a member installed a view. (R308) -/
  | viewAck (m : RppMsg)
  /-- RPP request for the full view from the registrar. (R307) -/
  | viewPull (m : RppMsg)
  /-- RPP pool heartbeat received as a sign of life. (R311) -/
  | phb (m : RppMsg)
  /-- RPP reply naming the view; the requester resends to the owner. (R341) -/
  | redirect (m : RppMsg)
  /-- RPP reply granting a range of adapter IDs. (R316) -/
  | rangeGrant (m : RppMsg)
  /-- RPP request for a slower-tier window in an export window. (R321) -/
  | exportReq (m : RppMsg)
  /-- RPP reply granting an export window range. (R321) -/
  | exportGrant (m : RppMsg)
  /-- RPP request for notice records of remote adapters. (R324) -/
  | noteReq (m : RppMsg)
  /-- RPP reply with notice records, resuming the waiting step's checks. (R324) -/
  | noteRep (m : RppMsg)
  /-- RPP request for blobs of listed versions, served from the Cabinet. (R331) -/
  | fetchReq (m : RppMsg)
  /-- RPP frame of blob data; the last frame completes or fails the fill. (R332) -/
  | fetchData (m : RppMsg)
  /-- RPP records of row vectors that an owner queues for its serve step. (R334) -/
  | visitRows (m : RppMsg)
  /-- RPP records of deltas or h rows returned to the requester's return area. (R335) -/
  | visitDelta (m : RppMsg)
  /-- RPP ownership request for a contribution slot, checked by the owner. (R257) -/
  | gdReq (m : RppMsg)
  /-- RPP reply granting a slot or giving a status; the learner writes back. (R336) -/
  | gdGrant (m : RppMsg)
  /-- RPP write-back of gradient contents into a granted slot. (R336) -/
  | gdData (m : RppMsg)
  /-- RPP acknowledgement of a contribution; the learner frees its gradient drawer. (R336) -/
  | gdCommit (m : RppMsg)
  /-- RPP probe of 64 KiB answered by an echo. (R329) -/
  | probe (m : RppMsg)
  /-- RPP echo that feeds the calibration estimates. (R329) -/
  | probeEcho (m : RppMsg)
  /-- RPP read request into an export window. (R321) -/
  | slowRd (m : RppMsg)
  /-- RPP slower-tier data for a promotion, authenticated on arrival. (R303) -/
  | slowData (m : RppMsg)
  /-- RPP write of a demoted blob into an export window. (R321) -/
  | slowWr (m : RppMsg)
  /-- RPP acknowledgement of a demotion write; the Cabinet charge is released. (R300) -/
  | slowAck (m : RppMsg)
  /-- RPP notice of new versions that updates notice records and cached epochs. (R363) -/
  | pubNotice (m : RppMsg)
  /-- RPP invalidation batch of retiring versions processed by a member. (R365) -/
  | invalidate (m : RppMsg)
  /-- RPP notice of an eviction, also carrying a batch acknowledgement. (R365) -/
  | evictNotice (m : RppMsg)
  /-- RPP acknowledgement of batches; the owner frees RETIRING slots it allows. (R366) -/
  | retireAck (m : RppMsg)
  /-- RPP message starting a range move, checked by the target. (R317) -/
  | moveBegin (m : RppMsg)
  /-- RPP transfer of a moving range's entries, blobs and learning state. (R317) -/
  | moveData (m : RppMsg)
  /-- RPP request to the registrar to commit a range move in a view. (R318) -/
  | moveCommit (m : RppMsg)
  /-- RPP message aborting a range move; the source stays owner. (R318) -/
  | moveAbort (m : RppMsg)
  /-- An RPP frame with bad fields or tag is discarded and counted. (R339) -/
  | rppFrameDiscard (m : RppMsg) (tagOk : Bool)
  /-- A pool request timer expires; the request is resent or completes TIMEOUT or OWNER_UNREACHABLE. (R342) -/
  | tReqExpiry (r : Nat)
  /-- Silence from a session peer for PEER_DEAD marks it unreachable. (R311) -/
  | peerDead (inst : Nat)
  /-- Silence for LEASE makes the registrar remove a member from the next view. (R312) -/
  | lease (inst : Nat)
  /-- An instance ID leaves quarantine after 2 × LEASE. (R310) -/
  | quarantineExpiry (inst : Nat)
  /-- Core 2 retries a failed pool join every LEASE. (R557) -/
  | joinRetry
  /-- A granted slot without a completed write-back is released after GD_HOLD. (R259) -/
  | gdHold (aid slot : Nat)
  /-- Each PHB_PERIOD a member sends PHB, forms an invalidation batch and sends RETIRE_ACK. (R364) -/
  | phbPeriod
  /-- Each CAL_PERIOD the live estimates are copied into a new snapshot. (R330) -/
  | calPeriod
  /-- An idle peer group is probed after PROBE_PERIOD. (R329) -/
  | probePeriod (grp : Nat)
  /-- Each PIN_PERIOD the pinned set is refreshed from the pin list. (R289) -/
  | pinPeriod
  /-- Each serve window the serve partition forms and runs a serve step. (R334) -/
  | visitWin
  /-- The pool service demotes owned blobs when quota use exceeds DEMOTE_MARK. (R300) -/
  | demotion (p : Nat)
  /-- The commit engine takes a candidate and checks it. (R359) -/
  | commitCandidate
  /-- The commit record write is acknowledged and the version becomes CURRENT atomically. (R361) -/
  | commitPoint
  /-- A unit waiting for hinge vectors beyond VEC_WAIT tears down the step. (R213) -/
  | vecWait (p u : Nat)
  /-- A gate wait limit expires; gate latches are released and the step refused. (R413) -/
  | latWait (p : Nat)
  /-- A ticket's lifetime runs out and its session ends. (R520) -/
  | ticketExpiry (t : Nat)
  /-- Each 1 ms period core 5 sends a HEARTBEAT or counts it skipped. (R476) -/
  | heartbeat
  /-- Every 1 ms WIN_CYCLES is halved. (R387) -/
  | winCyclesDecay
  /-- Regulator token bucket levels grow by their rate up to their depth. (R389) -/
  | regulatorRefill (p : Nat)
  /-- Each 1 ms the governor reads sensors, updates its model and selects an operating point. (R567) -/
  | governorPeriod (r : Sensors)
  /-- After V_SETTLE an upward change switches the CCLK frequency. (R560) -/
  | vSettle
  /-- Every 1 µs on-die sensors are sampled; T_TRIP forces point 7 and T_SHUT resets. (R569) -/
  | sensorSample (temp n : Nat)
  /-- A domain unused for IDLE_HOLD enters its idle state. (R563) -/
  | idleHold (d : Nat)
  /-- The wake controller admits a waiting wake when the rail ramp allows. (R564) -/
  | wakeAdmit
  /-- A domain becomes awake when its wake time has elapsed. (R564) -/
  | wakeComplete (d : Nat)
  /-- PD_WAIT runs out in power-down; unfinished moves are aborted. (R573) -/
  | pdWait
  /-- A corrected SRAM error is counted and may enter the repair list. (R578) -/
  | sramCorrected (kind n bank row word : Nat)
  /-- An uncorrected SRAM error tears down readers and may exhaust spares. (R581) -/
  | sramUncorrected (kind n bank row word : Nat) (readers : List Nat)
  /-- A corrected HBM symbol error is counted. (R578) -/
  | hbmCorrected (addr line row : Nat)
  /-- An uncorrected HBM error poisons its line and affects the holding object. (R582) -/
  | hbmUncorrected (addr line row : Nat) (readers : List Nat)
  /-- A residue or parity fault tears down contexts and fences the tumbler pair. (R584) -/
  | logicFault (kind n part : Nat)
  /-- A management core faults; its services stop and a FAULT notice is sent. (R42) -/
  | managementCoreFault (c : Nat)
  /-- The security core faults; session, key and upload operations stop. (R533) -/
  | securityCoreFault
  /-- Assertion of RST_N resets the device and deasserts DELTA_VALID. (R597) -/
  | rstNAssert
  /-- A supply rail below its brown-out level acts as RST_N assertion. (R589) -/
  | brownOut (vaon : Bool)
  /-- RST_N sampled high starts the boot from ROM and samples the straps. (R546) -/
  | resetRelease (straps : Nat)
  /-- Verification of a boot component ends, advancing the boot or falling back. (R548) -/
  | componentVerified (digestOk sigOk : Bool)
  /-- HBM training ends and the wipe starts. (R546) -/
  | hbmTrainingDone (trained : Nat)
  /-- The wipe of all stores ends and the device becomes READY once configured. (R506) -/
  | wipeEnd (unfinished : List (Nat × Nat))
  /-- I3C target read of MGT, PWR or RAS words after an address write. (R616) -/
  | i3cRead (addr n : Nat)
  /-- I3C command assigning the target a dynamic address from its static one. (R615) -/
  | setdasa (sa addr : Nat)
  /-- I3C dynamic address assignment procedure for the target. (R615) -/
  | entdaa (addr : Nat)
  /-- Test port instruction selecting the bypass register. (R618) -/
  | bypass
  /-- Test port instruction returning the device IDCODE. (R618) -/
  | idcode
  /-- Test port instruction sampling pins, only while RST_N is low. (R618) -/
  | samplePreload (pins : Nat)
  /-- Test port boundary test instruction, only while RST_N is low. (R618) -/
  | extest (pins : Nat)
  /-- W1S field that starts one pinned-set refresh. (R640) -/
  | pinRefresh
  /-- W1S field that takes a calibration snapshot at once. (R640) -/
  | calNow
  /-- Field arming one error injection on the next access to a named word or line. (R632) -/
  | injArm (v : Nat) (hw : HwUpdate)
  /-- W1C write clearing the pending-fault flag. (R592) -/
  | faultPend (v : Nat) (hw : HwUpdate)
  /-- W1C write clearing the lost-write flag of a HWCLR word. (R425) -/
  | writeLost (addr v : Nat) (hw : HwUpdate)
  /-- Clearing read of the hinge bad-beat counter. (R12) -/
  | hngBad (port events : Nat)
  /-- Clearing read of the hinge length-mismatch counter. (R12) -/
  | lenMism (port events : Nat)
  /-- Software write to a register field without a row of its own, resolved by its precedence class. (R424) -/
  | registerWrite (core addr v : Nat) (acc : CoreWrite) (hw : List HwUpdate)
  /-- Training or retraining of a hinge port, fabric sub-port or the command link completes, so that the link becomes active with fresh credits, or the attempt fails. (R600) -/
  | linkTrainingEnd (kind n : Nat) (trained : Bool) (lanes : Nat)
  /-- A timed boot stage (ROM, PROBE, the SLOT header read, or the 0.25 ms configuration apply) ends and the next stage begins. (R546) -/
  | bootStageEnd (ok : Bool) (mbist : List (Nat × Nat × Nat × Nat))
  /-- The xSPI read of a boot component or boot-image blob ends; its verification starts if the engine is free, and the next read begins. (R546) -/
  | componentReadEnd
  /-- A fence finishes installing the new configuration's slot patterns; the device-wide issue hold is released and the FAULT notice is sent. (R585) -/
  | issueHoldRelease
  deriving DecidableEq, Repr

end Sys2Proof
end

