-- ==== Sys2Proof/Decode.lean ====
section
/-! DEFINITION. The decoder of the table's words. spec/opcode_table.json gives no row any bits: the commands arrive as
messages, pin events and timer events, and none is spelled by a word. -/

namespace Sys2Proof

/-- The command that a word spells: none, for every word. -/
def decodeTableWord (_nbits _w : Nat) : Option Instr := none

end Sys2Proof
end

