-- ==== Sys2Proof/Config.lean ====
section
/-! DEFINITION. What an implementation fixes and spec/ leaves open: free values. A free value is an opaque constant
applied to the counter `State.freeCtr` (or to operands); no proof can see what it is. notes/assumptions names each. -/

namespace Sys2Proof.Config

open Sys2Proof

/-- A fresh free number for each reading of the counter: BUSY hint estimates, cycle increments, orders left open. -/
opaque freeNat : Nat → Nat

/-- A fresh free choice for each reading of the counter: whether a write that R137 or R173 leaves open lands. -/
opaque freeBool : Nat → Bool

/-- A free FP32 pattern: e^(−HORIZON/τ) of R567, whose rounding spec/ does not state. -/
opaque expNeg : FP32 → FP32 → FP32

/-- The bytes of an SPDM response body that spec/ does not lay out (certificates, signatures), by request code. -/
opaque spdmBody : Nat → Nat → List Byte

/-- A blob sealed for the slower tier (R530), by partition, adapter, epoch, window offset and write count. -/
opaque sealed : Nat → Nat → Nat → Nat → Nat → List Byte → List Byte

/-- What opening a sealed blob gives: nothing where the tag does not verify (R530). -/
opaque opened : Nat → Nat → Nat → Nat → List Byte → Option (List Byte)

/-- Whether a fraction that a register cannot hold is rounded up: numerator and denominator (`LANE_RATE`, R490). -/
opaque roundUp : Nat → Nat → Bool

/-- The `LEN` of an RPP payload that spec/ does not lay out in bytes. -/
opaque rppLen : Machine.RppPl → Nat

end Sys2Proof.Config
end

