-- ==== Sys2Proof/Machine/State.lean ====
section
/-! DEFINITION. The state of the block: every register of the management window, every table, queue, buffer, counter and
pin that spec/ names, as plain data, and the queue of waiting commands. A sparse table is a list of (index, value) with
rising indices and no entry at the table's default (`SMap`, Machine/Maps.lean). `State.reset` is the device with `RST_N`
held low: every field at the value spec/21_registers.md and the chapters give for reset. INVENTORY.md lists each field
with its rule. -/

namespace Sys2Proof.Machine

open Sys2Proof

/-- A sparse table: indices rise strictly, entries at the default are not listed. -/
abbrev SMap (α : Type) := List (Nat × α)

/-! ### Descriptors and allocations (R96–R120, R467) -/

/-- A descriptor as Bartor keeps it: its partition, the 24 words of its image and the two flags set at creation. -/
structure Desc where
  part : Nat
  words : List Word
  overlap : Bool
  misaligned : Bool
  deriving DecidableEq, Repr

/-- A descriptor slot (R113–R117): generation tag, the descriptor while the slot is in use, whether it has been
destroyed, its references, whether it is retired. -/
structure DescSlot where
  tag : Nat
  desc : Option Desc
  dead : Bool
  refs : Nat
  retired : Bool
  deriving DecidableEq, Repr

/-- An allocation of R467. `space` as R98; `freed` while references hold its memory (R108). -/
structure Alloc where
  part : Nat
  space : Nat
  base : Nat
  size : Nat
  freed : Bool
  deriving DecidableEq, Repr

/-! ### Latches (R403) -/

inductive LatchState where
  | free | held | broken
  deriving DecidableEq, Repr

inductive OwnerKind where
  | none | context | core | host
  deriving DecidableEq, Repr

/-- A latch word (R403), `RES` apart, which reads 0. -/
structure Latch where
  st : LatchState
  brk : Bool
  domain : Nat
  okind : OwnerKind
  oid : Nat
  osav : Bool
  osseq : BitVec 16
  cnt : BitVec 16
  deriving DecidableEq, Repr

/-! ### Cabinet space (R278–R283) -/

/-- What holds a range of Cabinet granules (R281, R321, R375). -/
inductive CabObj where
  | blob (aid epoch : Nat)
  | resv (n : Nat)
  | master (aid : Nat)
  | grad (part aid epoch : Nat)
  | contrib (aid slot : Nat)
  | cached (aid epoch : Nat)
  | alloc (id : Nat)
  | window (inst : Nat)
  | moved (range n : Nat)
  | save (part : Nat)
  deriving DecidableEq, Repr

/-- A charged or reserved range of Cabinet granules; `part` the charged partition, 32 for the cache region and 33 for the
export window. -/
structure Extent where
  base : Nat
  len : Nat
  part : Nat
  obj : CabObj
  deriving DecidableEq, Repr

/-- A gradient drawer (R248): arrays in matrix-record order; `celat` whether its adapter's weights are Celat (R260); `filled` once
something has been added; `homeWrite` while its home write is in progress (R272). -/
structure GradDrawer where
  part : Nat
  aid : Nat
  base : Nat
  celat : Bool
  filled : Bool
  homeWrite : Bool
  data : List (List Nat)
  deriving DecidableEq, Repr

/-- A commit record (R362). -/
structure CommitRec where
  aid : Nat
  kind : Nat
  epoch : Nat
  prev : Nat
  publisher : Nat
  part : Nat
  blob : Nat
  blen : Nat
  lseq : Nat
  sseq : Nat
  esc : Nat
  deriving DecidableEq, Repr

/-- A commit candidate (R358); `up` is the upload that waits for it, `step` the partition whose `QUANT_PUBLISH` does; `since` when it
reached the engine. -/
structure Candidate where
  aid : Nat
  kind : Nat
  target : Nat
  part : Nat
  sseq : Nat
  base : Nat
  blen : Nat
  esc : Nat
  tau : Nat
  resv : Nat
  up : Option Nat
  boot : Bool
  sat : Nat
  since : Nat
  deriving DecidableEq, Repr

/-! ### Steps (R427–R456) -/

/-- A submitted step: its number and the submission record (R427). -/
structure Sub where
  sseq : Nat
  progH : Word
  rptH : Word
  ofsH : Word
  htag : Word
  deriving DecidableEq, Repr

inductive JobState where
  | queued | running | preempted | ended
  deriving DecidableEq, Repr

/-- A job (R378–R385): number, role (true: learner), priority, account ward, state, whether it is closed, its queue, its
last accepted step, when it last became RUNNING. -/
structure Job where
  num : Nat
  learner : Bool
  prio : Nat
  ward : Nat
  st : JobState
  closed : Bool
  queue : List Sub
  last : Nat
  since : Nat
  deriving DecidableEq, Repr

/-- Roles of a step (R377, R378). -/
inductive Role where
  | generator | learner | serve
  deriving DecidableEq, Repr

/-- The phase a step stands in (R432). -/
inductive Phase where
  | load | gate | sample | table | notice | sort | check | reserve | restore | wake | run | saving | saved | ending
  deriving DecidableEq, Repr

/-- A macro-instruction: its eight words (R434). -/
structure MI where
  w0 : Word
  w1 : Word
  w2 : Word
  w3 : Word
  w4 : Word
  w5 : Word
  w6 : Word
  w7 : Word
  deriving DecidableEq, Repr

/-- A gate latch (R410–R413): program index, latch, whether it is a `LATCH_WAIT`, its wait limit in µs, since when it waits, and how it
completed. -/
inductive GateDone where
  | pending | acquired (broken : Bool) | passed
  deriving DecidableEq, Repr

structure GateItem where
  idx : Nat
  latch : Nat
  wait : Bool
  limit : Nat
  since : Option Nat
  done : GateDone
  deriving DecidableEq, Repr

/-- An occupied or vacant row of the step's row-table copy (R170), its status and its drawer. -/
structure Row where
  vacant : Bool
  aid : Nat
  ticket : Nat
  prefill : Bool
  expl : Bool
  port : Nat
  len : Nat
  kvPos : Nat
  join : Nat
  pinEpoch : Nat
  status : Status
  epoch : Nat
  charged : Bool
  checked : Bool            -- the checks of R177 have been made
  settled : Bool            -- settled as not OK by R177 or DEFERRED (R183)
  drawer : Option Nat
  cnt : Nat × Nat × Nat × Nat   -- SAT_ACT, SAT_ACC, NONFIN, BADCODE of the row's own work (R80)
  deriving DecidableEq, Repr

/-- Drawer paths (R193). -/
inductive Path where
  | local | fetch | visit
  deriving DecidableEq, Repr

/-- A drawer (R184) with its report fields (R452), its pinned version's place, the STAT offsets of its projections and,
for a serve step, the records it came from. -/
structure Drawer where
  aid : Nat
  epoch : Nat
  path : Path
  ovf : Bool
  pres : Bool
  forced : Bool
  last : Option Path
  gdDrop : Bool
  slots : List Nat
  nvec : Nat
  ranks : Nat
  wfmtA : Nat
  wfmtB : Nat
  projs : List Nat
  ofs : List Nat
  owner : Nat
  dead : Bool
  satAct : Nat
  satAcc : Nat
  nonfin : Nat
  badcode : Nat
  gradAcc : Nat             -- SAT_ACC of the drawer's gradient partials and of their reduction
  served : List VisitRec
  srcs : List (Nat × Nat)   -- of a serve drawer: requester and tag of each record
  deriving DecidableEq, Repr

/-- A row vector that passed the tag check (R180, R181): its data, quantized at ingress, and whether it is answered. -/
structure Vec where
  slot : Nat
  off : Nat
  proj : Nat
  q : QVec
  answered : Bool
  deriving DecidableEq, Repr

/-- Kinds of work unit (R209, R245). -/
inductive UnitKind where
  | shrink | expand | fused | gh | dB | dA | dX | copy | opt | quant
  deriving DecidableEq, Repr

inductive UnitState where
  | waiting | running | done
  deriving DecidableEq, Repr

/-- A work unit: macro-instruction, drawer, chunk, pass, first and last drawer position, first and last output, its pin
(R210), its footprint (R206), its state. -/
structure WUnit where
  id : Nat
  mi : Nat
  drw : Nat
  kind : UnitKind
  chunk : Nat
  pass : Nat
  lo : Nat
  hi : Nat
  o0 : Nat
  o1 : Nat
  pin : Nat
  acc : Nat
  buf : Nat
  time : Nat
  st : UnitState
  occ : Nat                 -- which staging of its layer it reads, from 1; 0 for a unit without weights
  xs : List (List Nat)      -- operand rows loaded from descriptors (R488), FP32
  ys : List (List Nat)
  deriving DecidableEq, Repr

/-- Output lanes of a vector that a producer has computed so far: macro-instruction, slot, offset, (first lane, lanes). -/
structure OutAcc where
  mi : Nat
  slot : Nat
  off : Nat
  lanes : List (Nat × List Nat)
  writes : List Nat
  full : Bool               -- every lane is computed
  zero : Bool               -- a delta of +0 without any adapter read (R220)
  sent : Bool               -- its response has left for the egress
  deriving DecidableEq, Repr

/-- A partial of a weight gradient (R243): drawer, projection, whether B, chunk, first output row or column, values. -/
structure GPartial where
  drw : Nat
  proj : Nat
  isB : Bool
  chunk : Nat
  o0 : Nat
  vals : List (List Nat)
  deriving DecidableEq, Repr

/-- A record of one macro-instruction in the report (R450), and whether it has been reached and has completed. -/
structure MacRec where
  status : Option Status
  oobRd : Nat
  oobWr : Nat
  lcount : Nat
  reached : Bool
  done : Bool
  pos : Nat
  since : Option Nat        -- when its units began to wait for their vectors (R213)
  list : List Nat           -- its adapter list, as read when it started (R444)
  deriving DecidableEq, Repr

/-- A list record (R451), the macro-instruction that produced it (8,191 for a GD_DISCARD record), and beside it the counters of R80
that its bytes do not show: `SAT_ACC` and `NONFIN` of the adapter's `QUANT_PUBLISH` or `OPT_STEP`. -/
structure ListRec where
  mi : Nat
  aid : Nat
  status : Status
  kind : Nat
  skip : Bool
  esc : Nat
  epoch : Nat
  cnt : Nat
  satAcc : Nat
  nonfin : Nat
  deriving DecidableEq, Repr

/-- A staging stream (R296): die, drawer, which staging of a layer of the drawer (from 1) and the layer, whether it has begun,
whether its content stands. -/
structure Stream where
  die : Nat
  drw : Nat
  occ : Nat
  layer : Nat
  started : Bool
  done : Bool
  deriving DecidableEq, Repr

/-- Bytes of host memory that a purpose of the step has read (R611); `data` is none while the request is outstanding. -/
structure HostGot where
  tag : Nat
  space : Nat
  addr : Nat
  len : Nat
  data : Option (List Byte)
  deriving DecidableEq, Repr

/-- A page that a `KV_PLACE` holds pinned (R217): macro-instruction, block-table entry, page, page-table entry. -/
structure PagePin where
  mi : Nat
  slot : Nat
  blk : Nat
  page : Nat
  pte : Nat
  deriving DecidableEq, Repr

/-- Where an ordered write of a step went (R133, R219). -/
structure PlaceLog where
  key : Nat
  space : Nat
  addr : Nat
  len : Nat
  page : Nat
  deriving DecidableEq, Repr

/-- STAT counts that a vector of a step has added (R83), which a teardown takes back (R95): its slot, adapter and projection. -/
structure StatLog where
  slot : Nat
  aid : Nat
  proj : Nat
  n : Nat
  sat : Nat
  low : Nat
  deriving DecidableEq, Repr

/-- A ticket (R517, R522–R524). -/
structure Ticket where
  ward : Nat
  list : Option (List Nat)
  sepoch : Nat
  expiry : Nat
  parts : Word
  budget : Nat
  session : Nat
  deriving DecidableEq, Repr

/-- What a step took at its sampling point (R433): the program indices whose handles were stale, the tickets, the partition's common
adapter and quotas, and, until its rows are sorted, the directory and the notice records. -/
structure Sampled where
  stale : List Nat
  tickets : SMap Ticket
  common : Nat
  rowQuota : Nat
  drwQuota : Nat
  dir : List Entry
  notes : SMap NoteRec
  deriving DecidableEq, Repr

/-- A step from its load to its end: the context of R398 and everything its phases, units, report and save need. -/
structure Ctx where
  job : Nat
  role : Role
  sub : Sub
  phase : Phase
  resume : Phase            -- the phase a saved step returns to (R397)
  prog : List MI
  nins : Nat
  refs : List Nat
  gate : List GateItem
  rows : List Row
  drawers : List Drawer
  projs : List Nat
  snap : Nat
  bounds : List Nat
  recs : List MacRec
  lists : List ListRec
  units : List WUnit
  nextUnit : Nat
  vecs : List Vec
  outs : List OutAcc
  parts : List GPartial
  streams : List Stream
  ret : List (Nat × VisitRec)
  sentVisits : List (Nat × Nat)
  host : List HostGot
  pages : List PagePin
  pc : Nat
  tagFault : Nat
  npre : Nat
  cause : Nat
  refused : Option (Status × Nat)
  torn : Bool
  mv : Option (Nat × Nat × Nat)
  eng : DWord
  used : List (Nat × Nat)     -- FETCH references (adapter, epoch)
  pinned : List (Nat × Nat)   -- LOCAL references (adapter, epoch)
  fetchWait : List (Nat × Nat)
  noteWait : List Nat
  noteOut : List NoteRec
  noteDead : List Nat
  gdNew : List (Nat × Nat)
  saveMask : BitVec 128
  visitCap : Nat
  written : Bool
  leaving : Bool
  phaseAt : Nat
  delivered : List (Nat × Nat)   -- VISIT drawers and projections whose returned vectors a producer has delivered
  placed : List PlaceLog    -- placement and scatter writes so far (R133, R219)
  rpt : Option Desc         -- the report descriptor, as checked at load (R454)
  samp : Sampled
  owners : List (Nat × Nat) -- owners of the partition's gradient drawers' adapters, as at step issue (R254)
  stats : List StatLog
  deriving DecidableEq, Repr

/-- A partition page (R636) and the partition controller's own state: jobs, the issued context, the saved context. -/
structure Prt where
  tumOwn : BitVec 128
  lostTum : BitVec 8           -- WRITE_LOST of TUM_OWN words 0–7
  tumNext : Option (BitVec 128)  -- the mask of the last reassignment, while some of it still waits (R41)
  shares : BitVec 16
  rowQuota : BitVec 19
  drwQuota : BitVec 15
  dscQuota : BitVec 19
  visitCap : BitVec 24
  lostVisit : Bool
  vecWait : BitVec 32
  gwMax : BitVec 16
  jobSlice : BitVec 16
  latWait : BitVec 16
  tbHbmRate : BitVec 16
  tbHbmDepth : BitVec 16
  tbHngRate : BitVec 16
  tbHngDepth : BitVec 16
  tbFabRate : BitVec 16
  tbFabDepth : BitVec 16
  cabQuota : BitVec 24
  dirQuota : BitVec 19
  shfShare : List (BitVec 10)
  shfHost : List (BitVec 10)
  lostShf : BitVec 4
  slowSpace : BitVec 3
  slowBase : BitVec 56
  slowSize : DWord
  engCycles : DWord
  winCycles : Word
  saved : Bool
  sseqNext : BitVec 48
  jobRun : BitVec 53
  tbHbmLvl : Int
  tbHngLvl : Int
  tbFabLvl : Int
  effTb : List (Nat × Nat)  -- rate and depth of the three buckets as the last refill took them (R376)
  oobRd : DWord
  oobWr : DWord
  shfHbase : List (BitVec 10)
  bound : List Word
  common : Nat
  jobNext : Nat
  jobs : List Job
  ctx : Option Ctx
  svCtx : Option Ctx
  lastIssue : Option Nat
  lastOpen : Option Nat
  finals : List Ctx         -- steps that wait only for their final report: killed before issue, or torn while saved
  waitSince : Nat
  slowAt : Nat              -- the POOL window an exporter has granted: its offset + 1, or 0 (R321)
  effVisit : Nat            -- VISIT_CAP, GW_MAX and shares as the last step issue took them (R376)
  effGw : Nat
  effShare : List Nat
  deriving DecidableEq, Repr

/-! ### Command link (R457–R480) -/

/-- A command that has taken its queue entry and not been answered: a long command (R472) or a claim. -/
inductive LongKind where
  | upload (aid : Nat) (resv : Nat)
  | allocRange (part ward : Nat) (tag : Nat)
  | rangeMove (range : Nat)
  | powerDown
  | claim (digest : Nat) (f : RclFrame) (c : Crypto) (si ti : Nat)
  deriving DecidableEq, Repr

structure Long where
  id : Nat
  tag : Word
  session : Nat
  vc : Nat
  urgent : Bool
  ward : Nat
  took : Nat                 -- when it took its queue entry
  kind : LongKind
  deriving DecidableEq, Repr

/-- A frame from Bartor to the host: header words and payload (R457); `q` 1 or 2 when its leaving frees a shared or an
urgent queue entry, taken at `took`. -/
structure OutFrame where
  opc : Nat
  vc : Nat
  first : Bool
  last : Bool
  loss : Bool
  tag : Word
  session : Nat
  seg : Nat
  status : Nat
  hint : Nat
  crd : List Nat
  stamp : Nat
  data : List Byte
  q : Nat
  took : Nat
  deriving DecidableEq, Repr

/-- The command link. `held` is how long, in ACLK, each of the last 1,024 commands answered held its queue entry (R474). -/
structure Lnk where
  lstate : BitVec 3
  helloOk : Bool
  rclBad : Word
  noteLost : Word
  qUsed : BitVec 13
  qUrg : BitVec 7
  crdHeld : List Nat
  crdMin : List Bool
  hbPeriod : DWord
  hbSkip : Word
  hbOn : Bool
  loss : Bool
  hostCrd : List Nat
  owed : List Nat
  out : List (List OutFrame)
  notes : List OutFrame
  sent : List OutFrame
  longs : List Long
  nextLong : Nat
  held : List Nat
  waiting : List (Bool × RclFrame)   -- commands that hold an entry while neither core of the pair runs, in the order of R472
  deriving DecidableEq, Repr

/-! ### Hinge ports and fabric (R594–R612) -/

/-- A hinge port. `deltaValid` is the egress signal of R602; `cut` the responses whose beats were cut short, with how many of them had
left (R224). -/
structure Hng where
  lstate : BitVec 3
  laneRep : BitVec 8
  trainAtt : BitVec 8
  hngBad : Word
  lenMism : Word
  hngOrph : Word
  lnkRty : Word
  beatsIn : DWord
  beatsOut : DWord
  crdUsed : SMap Nat
  held : List RowVec
  egress : List Resp
  sent : List Resp
  retrained : Bool
  deltaValid : Bool
  cut : List (Resp × Nat)
  crdLast : Nat              -- the partition whose credits were returned last (R603)
  crdRet : List (Nat × Nat)  -- the credit returns sent: partition and count, 1–64 (R602)
  outHdr : List Word         -- the header words of the response whose beats left last (R605)
  deriving DecidableEq, Repr

structure FabPort where
  lstate : BitVec 3
  lnkRty : Word
  bytesTx : DWord
  bytesRx : DWord
  trainAtt : Nat
  retrained : Bool
  deriving DecidableEq, Repr

/-- What a host access is for: a purpose of a step, the slower tier of a partition, a report. -/
inductive XferFor where
  | step (p sseq tag : Nat)
  | write (id : Nat)
  | slowRead (p aid epoch : Nat)
  | slowWrite (p aid epoch : Nat)
  deriving DecidableEq, Repr

/-- A host access on the fabric (R611); `write` with its data. -/
structure Xfer where
  xid : Nat
  space : Nat
  addr : Nat
  len : Nat
  write : Option (List Byte)
  use : XferFor
  retried : Bool
  t0 : Nat                   -- when it was sent
  got : Option (List Byte)   -- data of a slower-tier read that came in before the rest of its blob
  deriving DecidableEq, Repr

/-- The fabric. `waiting` are host accesses, `frames` RPP frames with their sub-port and peer, that wait until the domain of their sub-port
is awake (R52); `held` RPP messages that arrived at a sub-port whose domain was not (R563). -/
structure Fab where
  live : BitVec 8
  hostTmo : BitVec 20
  ports : List FabPort
  xfers : List Xfer
  nextXid : Nat
  sent : List Xfer
  waiting : List Xfer
  frames : List (Nat × Nat × RppMsg)
  held : List RppMsg
  deriving DecidableEq, Repr

/-- A write on its way to a memory (R416): where, the bytes, which step or service made it. -/
inductive WriteTag where
  | step (p sseq mi : Nat)
  | report (p sseq : Nat)
  | save (p : Nat)
  | commit
  | other
  deriving DecidableEq, Repr

structure PWrite where
  id : Nat
  space : Nat
  addr : Nat
  bytes : List Byte
  tag : WriteTag
  drw : Nat
  key : Nat                 -- program index and position, by which writes of one element are ordered (R133, R219)
  ew : Nat                  -- bits of an element; 0 for Q2T, whose bytes hold five (R137)
  page : Nat                -- the page-table entry written through, plus 1; 0 without pages (R104)
  deriving DecidableEq, Repr

/-! ### Shelf, tumblers, HBM (R639, R643) -/

structure Shf where
  cap : BitVec 10
  halfOk : BitVec 2
  stgBytes : DWord
  deriving DecidableEq, Repr

inductive TumState where
  | off | idle | run | save | restore | fenced
  deriving DecidableEq, Repr

structure Tum where
  st : TumState
  busy : DWord
  units : Word
  ce : Word
  deriving DecidableEq, Repr

structure Hbm where
  st : BitVec 3
  pprRows : BitVec 8
  temp : BitVec 16
  ce : Word
  ue : Word
  rdBytes : DWord
  wrBytes : DWord
  deriving DecidableEq, Repr

/-! ### Cabinet block (R277, R638) -/

structure Cab where
  cacheSize : BitVec 24
  cacheDir : BitVec 19
  exportSize : BitVec 24
  pinLimit : BitVec 24
  pinPeriod : Word
  demoteMark : BitVec 7
  retain : BitVec 5
  useStamp : DWord
  pinShort : Word
  vtFull : Word
  fragMiss : Word
  pinBusy : Bool
  pinAgain : Option Nat      -- when a refresh was due that waits for the one that runs (R290)
  pinAsk : Bool
  pinList : List Nat
  extents : List Extent
  dir : List Entry
  lastEpoch : SMap Nat
  grads : List GradDrawer
  log : List CommitRec
  lseqNext : Nat
  cands : List Candidate
  engine : Option (Candidate × Nat)
  nextResv : Nat
  deriving DecidableEq, Repr

/-! ### Pool service (R305–R349, R641) -/

/-- A session (R337). `used` and `used0` are the shared and the P0 credits that frames sent on it hold, `wait` the frames that wait for one
(R338); `asm` the messages of several frames that are being received: type and tag, the frames so far (R333). -/
structure RppSess where
  inst : Nat
  minor : Nat
  blobMinor : Nat
  pubMinor : Nat
  opening : Bool
  unreach : Bool
  nextTag : Nat
  idle : Nat
  doneTags : List (Nat × RppMsg)
  busyTags : List Nat
  used : Nat
  used0 : Nat
  wait : List RppMsg
  asm : List (Nat × List (List Byte))
  deriving DecidableEq, Repr

/-- What a pool request of this member is for. -/
inductive ReqKind where
  | hello
  | join
  | range (long : Nat)
  | winReq (p : Nat)
  | note (p : Nat) (aids : List Nat)
  | fetch (pairs : List (Nat × Nat))
  | visit (p sseq proj : Nat) (mi : Nat) (drws : List Nat)
  | gd (p sseq mi ship : Nat)
  | gdWrite (p sseq mi ship slot : Nat)
  | probe (grp : Nat)
  | slowRd (p aid epoch : Nat)
  | slowWr (p aid epoch : Nat)
  | moveBegin (range : Nat)
  | moveData (range : Nat)
  | moveCommit (range : Nat)
  | moveAbort (range : Nat)
  | leave
  | viewPull
  | oneWay          -- a notice that waits for its session to open; it expects no reply
  deriving DecidableEq, Repr

structure PReq where
  id : Nat
  tag : Nat
  peer : Nat
  kind : ReqKind
  msg : RppMsg
  resends : Nat
  redirects : Nat
  queued : Bool
  t0 : Nat
  due : Nat                 -- when its running timer expires (R342, R641)
  tFirst : Nat
  got : Nat
  buf : List Byte
  ans : List (Nat × Nat)    -- VISIT records answered: adapter, first position
  deriving DecidableEq, Repr

structure HystEnt where
  part : Nat
  aid : Nat
  last : Path
  stamp : Nat
  deriving DecidableEq, Repr

structure CalGrp where
  latV : Nat
  bwV : Nat
  latF : Nat
  bwF : Nat
  deriving DecidableEq, Repr

structure Snap where
  id : Nat
  stamp : Nat
  grps : List CalGrp
  deriving DecidableEq, Repr

/-- An invalidation batch received, or the frame of one: owner, number, versions, the steps that were issued when it arrived (partition,
sequence number), whether it is the last frame of its batch, and whether it has been reported as fully processed. -/
structure RxBatch where
  owner : Nat
  num : Nat
  pairs : List (Nat × Nat)
  steps : List (Nat × Nat)
  whole : Bool
  told : Bool
  deriving DecidableEq, Repr

inductive MoveSt where
  | begin | freeze | drain | transfer | commit
  deriving DecidableEq, Repr

/-- A range move (R317), at its source (`long` the command) or at its target; `last` the last epochs of the range's freed IDs (R142). -/
structure Move where
  range : Nat
  peer : Nat
  part : Nat
  source : Bool
  st : MoveSt
  long : Option Nat
  cmd : Bool
  got : List (Entry × List (Nat × List Byte))
  last : List (Nat × Nat)
  abort : Option Status
  deriving DecidableEq, Repr

/-- An export window granted to a member (R321). -/
structure ExportWin where
  inst : Nat
  base : Nat
  bytes : Nat
  deriving DecidableEq, Repr

/-- A fill request that the owner is serving (R331): peer, tag, index of the next frame, and what is left: adapter, epoch and the
code of the status that answers it, or 0. -/
structure FetchServe where
  peer : Nat
  tag : Nat
  seg : Nat
  left : List (Nat × Nat × Nat)
  deriving DecidableEq, Repr

/-- An item of the pool pair's work list (R553, R554). -/
inductive Work where
  | msg (m : RppMsg)
  | heartbeat
  | views
  | windows
  | sessions
  | batch
  | acks
  | snapshot
  | probe (grp : Nat)
  | pin
  | demote (part : Nat)
  | moves
  | blobs
  deriving DecidableEq, Repr

structure Pol where
  poolId : Word
  group : BitVec 8
  servePart : BitVec 6
  seedCnt : BitVec 4
  seeds : List Nat
  instId : BitVec 16
  instValid : Bool
  viewNum : Word
  serveCap : Word
  noteCap : Word
  phbPeriod : Word
  peerDead : Word
  lease : Word
  tReq : Word
  tGap : Word
  retry : BitVec 3
  hyst : Word
  amort : BitVec 7
  calPeriod : Word
  probePeriod : Word
  visitWin : Word
  pubMinor : BitVec 8
  gdHold : Word
  rppBad : Word
  snapLast : DWord
  members : List Member
  ranges : SMap RangeEnt
  wards : SMap Nat
  pend : Option ViewPl
  pendAcks : List Nat
  pendAt : Nat                -- the number of the view that `pendAcks` is about
  nextView : List ViewPl
  reclaim : List (Nat × Nat × List Nat)   -- ranges turned FREE, the view, members that have not acknowledged it (R320)
  quarantine : List (Nat × Nat)   -- instance IDs and until when (R310)
  quiet : SMap (Nat × Nat)    -- when silence of a peer lasts `PEER_DEAD`, and `LEASE` (R311, R312)
  sess : List RppSess
  reqs : List PReq
  sent : List (Nat × RppMsg)   -- with the peer: an instance ID, or 65,536 + a fabric address
  notes : SMap NoteRec
  noteStamp : SMap Nat
  hystTab : List HystEnt
  cal : List CalGrp
  snaps : List Snap
  batchNext : Nat
  acks : SMap Nat
  rx : List RxBatch
  moves : List Move
  exports : List ExportWin
  serveQ : List (Nat × Nat × VisitRec)
  heldMsgs : List RppMsg      -- frames that wait for a view of their sender's number (R341)
  nextReq : Nat
  grants : List (Nat × Nat × Nat)   -- range requests that wait for their view: peer, tag, range (R316)
  joins : List (Nat × Nat × Nat)    -- joins that wait for their view: peer, tag, instance ID (R309)
  joinDue : Nat               -- when a failed attempt to join is retried (R557)
  addr : Nat                  -- this device's own fabric address, which its host chip's network gives it
  fetchQ : List FetchServe
  groupAt : SMap Nat          -- when a peer group will have been idle for `PROBE_PERIOD` since its last exchange (R329)
  work : List Work            -- the pool pair's pending items, oldest first (R554)
  deriving DecidableEq, Repr

/-! ### Power and clocks (R558–R575, R630) -/

structure WakeReq where
  dom : Nat
  at_ : Nat
  admitted : Option Nat
  deriving DecidableEq, Repr

structure Pwr where
  cclkMhz : BitVec 16
  opPoint : BitVec 3
  govReason : BitVec 4
  tIn : BitVec 16
  tHot : BitVec 16
  flow : BitVec 16
  pEst : BitVec 16
  pCap : BitVec 16
  thetaA : Word
  tau : Word
  domAwake : BitVec 96
  tripCnt : Word
  pdTarget : BitVec 16
  pdTgtEn : Bool
  pdPart : BitVec 5
  pdStage : BitVec 3
  pdRptH : Word
  pllLock : BitVec 4
  image : List Word
  wakes : List WakeReq
  ramp : List (Nat × Nat)    -- (domain, edge) admitted within RAMP_WIN
  lastUse : SMap Nat         -- the edge at which a switched domain was last in use (R563)
  fenced : BitVec 96
  tm : Word
  miss : List Nat
  rise : Option (Nat × Nat)   -- the point and reason of an upward change that waits for its voltage
  settling : Option Nat
  trip : Bool
  warm : Bool                -- a sensor was within 10 °C of `T_TRIP` since the last period (R569)
  fallback : Bool
  powering : Bool
  pdLong : Option Nat
  pdWaited : Bool
  thermtrip : Bool
  pdLists : List (Nat × ListRec)
  lastP : Nat
  meas : Bool                -- a change of 500 W is being timed (R566)
  capF : Word                -- the cap of the last period, FP32
  pdDue : Nat                -- when the limit of the power-down stage in progress runs out
  deriving DecidableEq, Repr

/-! ### RAS (R576–R593, R631) -/

structure RasRec where
  lseq : Nat
  stamp : Nat
  kind : Nat
  index : Nat
  sev : Nat
  etype : Nat
  part : Nat
  addr : Nat
  deriving DecidableEq, Repr

/-- An array row (R583): unit kind and index, the macro or bank within the unit, the row. -/
structure ArrRow where
  kind : Nat
  n : Nat
  bank : Nat
  row : Nat
  deriving DecidableEq, Repr

/-- A `FAULT` notice that waits for the release of the issue hold (R585): unit kind and index, severity, torn partitions, `LSEQ`. -/
structure HeldFault where
  kind : Nat
  index : Nat
  sev : Nat
  mask : Nat
  lseq : Nat
  deriving DecidableEq, Repr

structure Ras where
  config : BitVec 8
  fenceQ : BitVec 4
  fenceFab : BitVec 8
  fenceShf : BitVec 8
  fencePair : DWord
  lseqLast : DWord
  ceSram : Word
  ceHbm : Word
  ueAll : Word
  linkRetry : Word
  ceThresh : BitVec 8
  faultPend : Bool
  injArm : Bool
  injType : Bool
  injKind : BitVec 8
  injIndex : BitVec 16
  injLost : Bool
  injAddr : Word
  log : SMap RasRec
  repair : List (ArrRow × Bool)   -- the repair list; whether the row has been repaired since
  rowCe : List (ArrRow × Nat)     -- rows that have reported a corrected error since reset, and how many since their last repair
  spares : List (ArrRow × Nat)    -- spare rows used in a macro or bank (row 0)
  poison : List (Nat × Option CabObj)   -- poisoned lines (R582) and what held the line; they end with it
  hold : Bool
  fences : List HeldFault
  unserviceable : Bool
  deriving DecidableEq, Repr

/-! ### Security (R503–R536, R633) -/

structure Session where
  operator : Bool
  ward : Nat
  ticket : Nat
  sepoch : Nat
  upCtr : Nat
  deriving DecidableEq, Repr

structure Sec where
  lcState : BitVec 2
  lcXfers : BitVec 4
  wipeDone : Bool
  svnFw : BitVec 8
  svnCfg : BitVec 8
  sepochLast : BitVec 48
  authFails : Word
  opRoot : Nat
  sessions : SMap Session
  lastSession : Option Nat
  tickets : SMap Ticket
  lastTicket : Nat
  openCtr : List (Nat × Nat)
  xtsGen : Nat
  bootGen : Nat
  coreFault : Bool
  spdmVer : Bool
  spdmAlg : Bool
  deriving DecidableEq, Repr

/-! ### Identity and boot (R538–R557, R629) -/

structure Mgt where
  devId : DWord
  jep : BitVec 11
  aclkCnt : DWord
  coreLive : BitVec 6
  dscRetired : Word
  wjOvf : Word
  bootStage : BitVec 4
  bootSlot : Bool
  bootFallback : Bool
  bootErr : BitVec 8
  bootErrIdx : BitVec 6
  blobFail : BitVec 8
  imgSeq : Word
  readyAt : DWord
  comp : Nat                 -- directory index of the component being read or verified
  reading : Bool
  verifying : Bool
  fwDone : Nat
  applied : Bool
  applyWait : Bool
  hbmTrained : Bool
  xspiOwn : Bool
  commits : List (Nat × Nat)
  blobAid : Nat
  blobWait : Bool
  blobResv : Nat             -- the reservation a boot-image blob is read into
  projTab : List (Nat × Nat × Nat)
  blobRecs : List (Nat × Nat × Nat)
  wardJobs : List (Nat × Nat × Nat)
  dueAt : SMap Nat           -- ACLK count at which the running period of each periodic service ends
  deriving DecidableEq, Repr

/-! ### Side ports (R615–R618) -/

/-- Instructions of the test access port (R618). -/
inductive TapInstr where
  | bypass | idcode | samplePreload | extest
  deriving DecidableEq, Repr

structure Side where
  rstN : Bool
  straps : BitVec 2
  dynAddr : Option Nat
  i3cData : List Word
  ibi : List Nat
  tapIr : TapInstr
  tapDr : Nat
  pinsIn : Nat
  pinsOut : Option Nat
  volts : List Nat
  deriving DecidableEq, Repr

/-- The whole block. -/
structure State where
  pending : List Instr
  mgt : Mgt
  pwr : Pwr
  ras : Ras
  sec : Sec
  lnk : Lnk
  hng : List Hng
  fab : Fab
  prt : List Prt
  cab : Cab
  shf : List Shf
  pol : Pol
  tum : SMap Tum
  hbmStk : List Hbm
  latch : SMap Latch
  latchRet : DWord
  rcRet : Word               -- what the last clearing read of an RC field returned (R12)
  arb : Option (Nat × Nat)   -- when the reservation arbiter last issued a step, and of which partition (R388)
  desc : SMap DescSlot
  allocs : SMap Alloc
  allocNext : Nat
  hbm : List Host.Cell
  shelf : List Host.Cell
  flash : List Host.Cell
  writes : List PWrite
  nextWrite : Nat
  side : Side
  stat : List (Nat × Nat × Nat × Nat × Nat)   -- STAT counts (R83): adapter, projection, n, n_sat, n_low
  freeCtr : Nat
  deriving DecidableEq, Repr

/-- A step that stops the machine. No command of this block stops it: every row of the table has an effect that spec/
gives, so this type has one constructor that no meaning raises. -/
inductive Fault where
  | none_   -- raised by no meaning (safe)
  deriving DecidableEq, Repr

/-- Why a command has no meaning. -/
inductive Refusal where
  | notModelled (mnemonic : String)   -- raised by an arm of exec without a meaning yet (safe: the run stops)
  deriving DecidableEq, Repr

/-- A partition page at reset: image fields read zero before stage CONFIG (R625). -/
def Prt.reset : Prt where
  tumOwn := 0
  lostTum := 0
  tumNext := none
  shares := 0
  rowQuota := 0
  drwQuota := 0
  dscQuota := 0
  visitCap := 0
  lostVisit := false
  vecWait := 10000
  gwMax := 0
  jobSlice := 10
  latWait := 10000
  tbHbmRate := 0
  tbHbmDepth := 0
  tbHngRate := 0
  tbHngDepth := 0
  tbFabRate := 0
  tbFabDepth := 0
  cabQuota := 0
  dirQuota := 0
  shfShare := [0, 0, 0, 0]
  shfHost := [0, 0, 0, 0]
  lostShf := 0
  slowSpace := 0
  slowBase := 0
  slowSize := 0
  engCycles := 0
  winCycles := 0
  saved := false
  sseqNext := 1
  jobRun := 0
  tbHbmLvl := 0
  tbHngLvl := 0
  tbFabLvl := 0
  effTb := [(0, 0), (0, 0), (0, 0)]
  oobRd := 0
  oobWr := 0
  shfHbase := [0, 0, 0, 0]
  bound := List.replicate 16 0
  common := 0
  jobNext := 1
  jobs := []
  ctx := none
  svCtx := none
  lastIssue := none
  lastOpen := none
  finals := []
  waitSince := 0
  slowAt := 0
  effVisit := 0
  effGw := 0
  effShare := [0, 0, 0, 0]

def Lnk.reset : Lnk where
  lstate := 0
  helloOk := false
  rclBad := 0
  noteLost := 0
  qUsed := 0
  qUrg := 0
  crdHeld := [0, 0, 0, 0]
  crdMin := [false, false, false, false]
  hbPeriod := 0
  hbSkip := 0
  hbOn := false
  loss := false
  hostCrd := [0, 0, 0, 0]
  owed := [0, 0, 0, 0]
  out := [[], [], [], []]
  notes := []
  sent := []
  longs := []
  nextLong := 1
  held := []
  waiting := []

def Hng.reset : Hng where
  lstate := 0
  laneRep := 0
  trainAtt := 0
  hngBad := 0
  lenMism := 0
  hngOrph := 0
  lnkRty := 0
  beatsIn := 0
  beatsOut := 0
  crdUsed := []
  held := []
  egress := []
  sent := []
  retrained := false
  deltaValid := false
  cut := []
  crdLast := 31
  crdRet := []
  outHdr := []

def FabPort.reset : FabPort where
  lstate := 0
  lnkRty := 0
  bytesTx := 0
  bytesRx := 0
  trainAtt := 0
  retrained := false

def Fab.reset : Fab where
  live := 0
  hostTmo := 1000
  ports := List.replicate 8 FabPort.reset
  xfers := []
  nextXid := 1
  sent := []
  waiting := []
  frames := []
  held := []

def Shf.reset : Shf where
  cap := 512
  halfOk := 3
  stgBytes := 0

def Tum.reset : Tum where
  st := .off
  busy := 0
  units := 0
  ce := 0

def Hbm.reset : Hbm where
  st := 0
  pprRows := 0
  temp := 0
  ce := 0
  ue := 0
  rdBytes := 0
  wrBytes := 0

def Cab.reset : Cab where
  cacheSize := 0
  cacheDir := 0
  exportSize := 0
  pinLimit := 0
  pinPeriod := 1000
  demoteMark := 90
  retain := 8
  useStamp := 0
  pinShort := 0
  vtFull := 0
  fragMiss := 0
  pinBusy := false
  pinAgain := none
  pinAsk := false
  pinList := []
  extents := []
  dir := []
  lastEpoch := []
  grads := []
  log := []
  lseqNext := 1
  cands := []
  engine := none
  nextResv := 1

def Pol.reset : Pol where
  poolId := 0
  group := 0
  servePart := 0
  seedCnt := 0
  seeds := []
  instId := 0
  instValid := false
  viewNum := 0
  serveCap := 0
  noteCap := 0
  phbPeriod := 2
  peerDead := 20
  lease := 200
  tReq := 2000
  tGap := 500
  retry := 2
  hyst := 0x3E800000
  amort := 4
  calPeriod := 10
  probePeriod := 100
  visitWin := 20
  pubMinor := 0
  gdHold := 2000
  rppBad := 0
  snapLast := 0
  members := []
  ranges := []
  wards := []
  pend := none
  pendAcks := []
  pendAt := 0
  nextView := []
  reclaim := []
  quarantine := []
  quiet := []
  sess := []
  reqs := []
  sent := []
  notes := []
  noteStamp := []
  hystTab := []
  cal := []
  snaps := []
  batchNext := 1
  acks := []
  rx := []
  moves := []
  exports := []
  serveQ := []
  heldMsgs := []
  nextReq := 1
  grants := []
  joins := []
  joinDue := 0
  addr := 0
  fetchQ := []
  groupAt := []
  work := []

def Pwr.reset : Pwr where
  cclkMhz := 1800
  opPoint := 0
  govReason := 0
  tIn := 0
  tHot := 0
  flow := 0
  pEst := 0
  pCap := 0
  thetaA := 0
  tau := 0
  domAwake := 0xF00000000000000000000000
  tripCnt := 0
  pdTarget := 0
  pdTgtEn := false
  pdPart := 0
  pdStage := 0
  pdRptH := 0
  pllLock := 0
  image := List.replicate 26 0
  wakes := []
  ramp := []
  lastUse := []
  fenced := 0
  tm := 0
  miss := [0, 0]
  rise := none
  settling := none
  trip := false
  warm := false
  fallback := false
  powering := false
  pdLong := none
  pdWaited := false
  thermtrip := false
  pdLists := []
  lastP := 0
  meas := false
  capF := 0
  pdDue := 0

def Ras.reset : Ras where
  config := 0
  fenceQ := 0
  fenceFab := 0
  fenceShf := 0
  fencePair := 0
  lseqLast := 0
  ceSram := 0
  ceHbm := 0
  ueAll := 0
  linkRetry := 0
  ceThresh := 2
  faultPend := false
  injArm := false
  injType := false
  injKind := 0
  injIndex := 0
  injLost := false
  injAddr := 0
  log := []
  repair := []
  rowCe := []
  spares := []
  poison := []
  hold := false
  fences := []
  unserviceable := false

def Sec.reset : Sec where
  lcState := 0
  lcXfers := 0
  wipeDone := false
  svnFw := 0
  svnCfg := 0
  sepochLast := 0
  authFails := 0
  opRoot := 0
  sessions := []
  lastSession := none
  tickets := []
  lastTicket := 0
  openCtr := []
  xtsGen := 0
  bootGen := 0
  coreFault := false
  spdmVer := false
  spdmAlg := false

def Mgt.reset : Mgt where
  devId := 0
  jep := 0
  aclkCnt := 0
  coreLive := 0
  dscRetired := 0
  wjOvf := 0
  bootStage := 0
  bootSlot := false
  bootFallback := false
  bootErr := 0
  bootErrIdx := 0
  blobFail := 0
  imgSeq := 0
  readyAt := 0
  comp := 0
  reading := false
  verifying := false
  fwDone := 0
  applied := false
  applyWait := false
  hbmTrained := false
  xspiOwn := false
  commits := []
  blobAid := 0
  blobWait := false
  blobResv := 0
  projTab := []
  blobRecs := []
  wardJobs := []
  dueAt := []

def Side.reset : Side where
  rstN := false
  straps := 0
  dynAddr := none
  i3cData := []
  ibi := []
  tapIr := .bypass
  tapDr := 0
  pinsIn := 0
  pinsOut := none
  volts := [750, 750, 750, 750]

/-- The device at reset: `RST_N` low, every register at its Reset value (spec/21_registers.md), nothing in memory, no
command waiting. -/
def State.reset : State where
  pending := []
  mgt := Mgt.reset
  pwr := Pwr.reset
  ras := Ras.reset
  sec := Sec.reset
  lnk := Lnk.reset
  hng := List.replicate 4 Hng.reset
  fab := Fab.reset
  prt := List.replicate 32 Prt.reset
  cab := Cab.reset
  shf := List.replicate 4 Shf.reset
  pol := Pol.reset
  tum := []
  hbmStk := List.replicate 8 Hbm.reset
  latch := []
  latchRet := 0
  rcRet := 0
  arb := none
  desc := []
  allocs := []
  allocNext := 1
  hbm := []
  shelf := []
  flash := []
  writes := []
  nextWrite := 1
  side := Side.reset
  stat := []
  freeCtr := 0

end Sys2Proof.Machine
end

