-- ==== Sys2Proof/Machine/Bits.lean ====
section
/-! DEFINITION. Bit fields, little-endian bytes and words (R7, R8), and the arithmetic of counters that stop at their
largest value or wrap (R424). -/

namespace Sys2Proof.Machine

open Sys2Proof

/-- Bits [hi:lo] of a number (R8). -/
def bitsN (v hi lo : Nat) : Nat := v / 2 ^ lo % 2 ^ (hi + 1 - lo)

/-- Bits [hi:lo] of a word (R8). -/
def fld (w : Word) (hi lo : Nat) : Nat := bitsN w.toNat hi lo

/-- Bit n of a number. -/
def bitN (v n : Nat) : Bool := v / 2 ^ n % 2 == 1

/-- Bit n of a word. -/
def bit (w : Word) (n : Nat) : Bool := bitN w.toNat n

/-- A number placed at bit `lo`. -/
def at_ (v lo : Nat) : Nat := v <<< lo

/-- 1 for true. -/
def b2n (b : Bool) : Nat := if b then 1 else 0

/-- Replace bits [lo+w-1:lo] of `old` by `v`. -/
def setBits (old v lo w : Nat) : Nat :=
  old - at_ (bitsN old (lo + w - 1) lo) lo + at_ (v % 2 ^ w) lo

/-- Round up to a multiple. -/
def roundUp (n m : Nat) : Nat := (n + m - 1) / m * m

/-- Ceiling of a quotient. -/
def ceilDiv (n m : Nat) : Nat := (n + m - 1) / m

/-- The number that little-endian bytes spell (R7). -/
def leNat : List Byte → Nat
  | [] => 0
  | b :: bs => b.toNat + 256 * leNat bs

/-- The `n` little-endian bytes of a number (R7). -/
def leBytes : Nat → Nat → List Byte
  | 0, _ => []
  | n + 1, v => BitVec.ofNat 8 v :: leBytes n (v / 256)

/-- `n` bytes at offset `off`, as a number; bytes beyond the end read zero. -/
def leAt (bs : List Byte) (off n : Nat) : Nat := leNat ((bs.drop off).take n)

/-- The 32-bit word at byte offset `off`. -/
def wordAt (bs : List Byte) (off : Nat) : Word := BitVec.ofNat 32 (leAt bs off 4)

/-- The words of a byte list. -/
def wordsOf (bs : List Byte) (n : Nat) : List Word := (List.range n).map fun i => wordAt bs (4 * i)

/-- The bytes of a list of words. -/
def bytesOf (ws : List Word) : List Byte := ws.flatMap fun w => leBytes 4 w.toNat

/-- The bytes of a list of 32-bit numbers. -/
def bytes4 (ns : List Nat) : List Byte := ns.flatMap fun n => leBytes 4 n

/-- A counter that stops at its largest value. -/
def satAdd {n : Nat} (x : BitVec n) (i : Nat) : BitVec n :=
  if x.toNat + i < 2 ^ n then BitVec.ofNat n (x.toNat + i) else BitVec.allOnes n

/-- A counter that wraps. -/
def wrapAdd {n : Nat} (x : BitVec n) (i : Nat) : BitVec n := x + BitVec.ofNat n i

/-- A 32-bit number that stops at its largest value. -/
def sat32 (n : Nat) : Nat := min n 0xFFFFFFFF

/-- A list element by index, with a default. -/
def nth {α : Type} (l : List α) (i : Nat) (d : α) : α := l.getD i d

/-- Update one list element by index. -/
def modNth {α : Type} (l : List α) (i : Nat) (f : α → α) : List α :=
  l.mapIdx fun j x => if j = i then f x else x

/-- The first element that satisfies a test, replaced; `none` where there is none. -/
def updFirst {α : Type} (l : List α) (p : α → Bool) (f : α → α) : List α :=
  match l with
  | [] => []
  | x :: xs => if p x then f x :: xs else x :: updFirst xs p f

/-- Sort by a strict order, stable, by insertion. -/
def insSort {α : Type} (lt : α → α → Bool) : List α → List α
  | [] => []
  | x :: xs => ins x (insSort lt xs)
where
  ins (x : α) : List α → List α
    | [] => [x]
    | y :: ys => if lt y x then y :: ins x ys else x :: y :: ys

/-- The least element under a strict order, the first among equals. -/
def least {α : Type} (lt : α → α → Bool) : List α → Option α
  | [] => none
  | x :: xs => some (xs.foldl (fun m y => if lt y m then y else m) x)

/-- Lexicographic order on lists of numbers, for sort keys. -/
def lexLt : List Nat → List Nat → Bool
  | [], _ => false
  | _ :: _, [] => false
  | a :: as, b :: bs => if a < b then true else if a = b then lexLt as bs else false

end Sys2Proof.Machine
end

