-- ==== Sys2Proof/Machine/Maps.lean ====
section
/-! DEFINITION. Sparse tables in canonical form, and memory as a list of (address, byte) cells in canonical form. -/

namespace Sys2Proof.Machine

open Sys2Proof

/-- The value at an index; an index not listed holds the default. -/
def SMap.get {α : Type} (d : α) : SMap α → Nat → α
  | [], _ => d
  | (j, x) :: m, i => if i = j then x else SMap.get d m i

/-- Whether an index is listed. -/
def SMap.has {α : Type} : SMap α → Nat → Bool
  | [], _ => false
  | (j, _) :: m, i => i == j || SMap.has m i

/-- Remove an index. -/
def SMap.erase {α : Type} : SMap α → Nat → SMap α
  | [], _ => []
  | (j, x) :: m, i => if i = j then m else (j, x) :: SMap.erase m i

/-- List an index with a value, in place. -/
def SMap.insert {α : Type} (m : SMap α) (i : Nat) (v : α) : SMap α :=
  match m with
  | [] => [(i, v)]
  | (j, x) :: m' =>
    if i < j then (i, v) :: (j, x) :: m'
    else if i = j then (i, v) :: m'
    else (j, x) :: SMap.insert m' i v

/-- Write a value: the default is not listed. -/
def SMap.set {α : Type} [DecidableEq α] (d : α) (m : SMap α) (i : Nat) (v : α) : SMap α :=
  if v = d then m.erase i else m.insert i v

/-- Update a value. -/
def SMap.upd {α : Type} [DecidableEq α] (d : α) (m : SMap α) (i : Nat) (f : α → α) : SMap α :=
  m.set d i (f (m.get d i))

/-- Indices rise strictly and no entry is the default. -/
def SMap.wf {α : Type} [DecidableEq α] (d : α) : SMap α → Bool
  | [] => true
  | [(_, x)] => decide (x ≠ d)
  | (i, x) :: (j, y) :: m => decide (x ≠ d) && decide (i < j) && SMap.wf d ((j, y) :: m)

/-- The lowest index at or above `i` that is not listed; `fuel` bounds the search. -/
def SMap.freeFrom {α : Type} (m : SMap α) (i : Nat) : Nat → Nat
  | 0 => i
  | fuel + 1 => if m.has i then m.freeFrom (i + 1) fuel else i

/-- A memory: cells in canonical form; an address not listed reads 0, as the wipe of R506 leaves it. -/
abbrev Memory := List Host.Cell

/-- What an address that is not listed reads as (R506). -/
def Memory.blank : Byte := 0

/-- Read one byte. -/
def Memory.read (m : Memory) (a : Nat) : Byte := SMap.get Memory.blank m a

/-- Write one byte; writing the blank byte removes the cell. -/
def Memory.write (m : Memory) (a : Nat) (b : Byte) : Memory := SMap.set Memory.blank m a b

/-- The canonical form of a memory. -/
def Memory.wf (m : Memory) : Bool := SMap.wf Memory.blank m

/-- Read `n` bytes upwards. -/
def Memory.readN (m : Memory) (a n : Nat) : List Byte := (List.range n).map fun i => m.read (a + i)

/-- Write bytes upwards. -/
def Memory.writeN (m : Memory) (a : Nat) : List Byte → Memory
  | [] => m
  | b :: bs => Memory.writeN (m.write a b) (a + 1) bs

end Sys2Proof.Machine
end

