-- ==== Sys2Proof/Machine/Codes.lean ====
section
/-! DEFINITION. The numeric codes of spec/: status codes (R17), RCL opcodes (R458, R465, R475), RPP types (R340), and the
limits of R27. -/

namespace Sys2Proof.Machine

open Sys2Proof

/-- The 8-bit value of a status (R17). -/
def statusCode : Status → Nat
  | .ok => 0x00 | .deferred => 0x01 | .busy => 0x02 | .timeout => 0x03 | .preempted => 0x04
  | .contextTorn => 0x05 | .noCapacity => 0x06 | .descInvalid => 0x10 | .descStale => 0x11
  | .alignFault => 0x12 | .boundsFilled => 0x13 | .tileIllegal => 0x14 | .wardFault => 0x20
  | .ticketInvalid => 0x21 | .authFail => 0x22 | .versionGone => 0x30 | .superseded => 0x31
  | .formatUnsupported => 0x32 | .adapterUnknown => 0x33 | .ownerUnreachable => 0x34
  | .brokenLatch => 0x40 | .latchHeld => 0x41 | .numericGuard => 0x50 | .poolFull => 0x60
  | .idExhausted => 0x61 | .internal => 0x7F

/-- The status of a code; a reserved code is treated as INTERNAL (R18). -/
def statusOf (c : Nat) : Status :=
  if c = 0x00 then .ok else if c = 0x01 then .deferred else if c = 0x02 then .busy
  else if c = 0x03 then .timeout else if c = 0x04 then .preempted else if c = 0x05 then .contextTorn
  else if c = 0x06 then .noCapacity else if c = 0x10 then .descInvalid else if c = 0x11 then .descStale
  else if c = 0x12 then .alignFault else if c = 0x13 then .boundsFilled else if c = 0x14 then .tileIllegal
  else if c = 0x20 then .wardFault else if c = 0x21 then .ticketInvalid else if c = 0x22 then .authFail
  else if c = 0x30 then .versionGone else if c = 0x31 then .superseded else if c = 0x32 then .formatUnsupported
  else if c = 0x33 then .adapterUnknown else if c = 0x34 then .ownerUnreachable
  else if c = 0x40 then .brokenLatch else if c = 0x41 then .latchHeld else if c = 0x50 then .numericGuard
  else if c = 0x60 then .poolFull else if c = 0x61 then .idExhausted else .internal

/-- Ward COMMON (R149). -/
def wardCommon : Nat := 0xFFFFF

/-- The base of the system region (R278). -/
def sysBase : Nat := 0x7F80000000

/-- Bytes of a Cabinet granule (R279). -/
def granule : Nat := 65536

/-- Granules below the system region (R279). -/
def grantable : Nat := 8355840

/-- Serial-number order of epochs and batch numbers (R350): a is older than b. -/
def precedes (a b : Nat) : Bool :=
  let d := (b + 2 ^ 32 - a % 2 ^ 32) % 2 ^ 32
  d != 0 && decide (d < 0x80000000)

/-- The next epoch; epoch 0 is skipped (R350). -/
def nextEpoch (e : Nat) : Nat :=
  let n := (e + 1) % 2 ^ 32
  if n = 0 then 1 else n

end Sys2Proof.Machine
end

