-- ==== Sys2Proof/Machine/Ops.lean ====
section
/-! DEFINITION. The named operations that many meanings share: free values, access to partitions and links, pending
writes and reads of the memories, and descriptor handles. -/

namespace Sys2Proof.Machine

open Sys2Proof

/-- The clock by which stamps and timers count (R422, R457 `STAMP`). -/
def State.now (s : State) : Nat := s.mgt.aclkCnt.toNat

/-- ACLK counts from an event to the expiry of a timer of n µs, or n ms, that it starts: the timer starts at the edge after the event and
expires at the 100 × n-th edge after that (R422). -/
def usTicks (n : Nat) : Nat := 100 * n + 1
def msTicks (n : Nat) : Nat := 100000 * n + 1

/-- Periodic services, by the number under which the end of their running period is kept. -/
def perHeartbeat : Nat := 0
def perDecay : Nat := 1
def perGovernor : Nat := 2
def perPhb : Nat := 3
def perCal : Nat := 4
def perPin : Nat := 5
def perRetrain : Nat := 6
def perVisit : Nat := 7
def perRefill (p : Nat) : Nat := 32 + p
def perSensor (n : Nat) : Nat := 64 + n

/-- When a service's running period ends. -/
def State.dueOf (s : State) (k : Nat) : Nat := SMap.get 0 s.mgt.dueAt k

/-- Whether a service's period has ended. -/
def State.due (s : State) (k : Nat) : Bool := decide (s.dueOf k ≤ s.now)

def State.setDue (s : State) (k t : Nat) : State := { s with mgt := { s.mgt with dueAt := SMap.set 0 s.mgt.dueAt k t } }

/-- A period has been taken, and one of n ACLK edges follows it. -/
def State.spend (s : State) (k n : Nat) : State := s.setDue k (s.dueOf k + n)

/-- Every period of n edges that has ended counts as taken. -/
def State.align (s : State) (k n : Nat) : State := s.setDue k (s.now + n - (s.now - s.dueOf k) % n)

/-- A fresh free number and the state whose counter has moved on. -/
def State.fresh (s : State) : Nat × State := (Config.freeNat s.freeCtr, { s with freeCtr := s.freeCtr + 1 })

/-- A fresh free choice. -/
def State.freshB (s : State) : Bool × State := (Config.freeBool s.freeCtr, { s with freeCtr := s.freeCtr + 1 })

/-- One ACLK edge: the count rises by 1 while `RST_N` is high (R629 `ACLK_CNT`). -/
def State.tick (s : State) : State :=
  if s.side.rstN then { s with mgt := { s.mgt with aclkCnt := s.mgt.aclkCnt + 1 } } else s

/-- No step issues while a fence holds issue (R585, R588), nor on a device that is UNSERVICEABLE (R586). -/
def State.issueHeld (s : State) : Bool := s.ras.hold || s.ras.unserviceable

/-- Partition p's page; a number above 31 names no partition and reads the reset page. -/
def State.getP (s : State) (p : Nat) : Prt := nth s.prt p Prt.reset

/-- Update partition p's page. -/
def State.modP (s : State) (p : Nat) (f : Prt → Prt) : State := { s with prt := modNth s.prt p f }

def State.modLnk (s : State) (f : Lnk → Lnk) : State := { s with lnk := f s.lnk }
def State.modCab (s : State) (f : Cab → Cab) : State := { s with cab := f s.cab }
def State.modPol (s : State) (f : Pol → Pol) : State := { s with pol := f s.pol }
def State.modSec (s : State) (f : Sec → Sec) : State := { s with sec := f s.sec }
def State.modRas (s : State) (f : Ras → Ras) : State := { s with ras := f s.ras }
def State.modPwr (s : State) (f : Pwr → Pwr) : State := { s with pwr := f s.pwr }
def State.modMgt (s : State) (f : Mgt → Mgt) : State := { s with mgt := f s.mgt }
def State.modFab (s : State) (f : Fab → Fab) : State := { s with fab := f s.fab }
def State.modSide (s : State) (f : Side → Side) : State := { s with side := f s.side }
def State.modHng (s : State) (n : Nat) (f : Hng → Hng) : State := { s with hng := modNth s.hng n f }
def State.getHng (s : State) (n : Nat) : Hng := nth s.hng n Hng.reset

/-- Egress beats of a response (R606): one where it carries no data. -/
def Resp.beats (r : Resp) : Nat :=
  if r.zero || r.placed then 1 else ceilDiv (64 + (if r.ofmt = 0 then 2 else 4) * r.data.length) 2048

/-- A port's egress stops, and everything in it is lost; of the response at its head `n` says how many beats had left: with some of them
gone it stays incomplete (R224, R590). `DELTA_VALID` falls (R602). -/
def Hng.cutOff (n : Nat) (h : Hng) : Hng :=
  match h.egress with
  | [] => { h with deltaValid := false }
  | r :: _ =>
    let k := n % r.beats
    { h with
      egress := [], deltaValid := false, beatsOut := wrapAdd h.beatsOut k
      cut := if k = 0 then h.cut else h.cut ++ [({ r with sseq := r.sseq % 256 }, k)] }

/-- A port goes down: held vectors, responses that have not left and credits are gone (R590, R620); how much of the response at the head
of the egress had left is free. -/
def State.portDown (s : State) (q : Nat) (code : BitVec 3) : State :=
  let r := if (s.getHng q).egress.isEmpty then (0, s) else s.fresh
  r.2.modHng q fun h => { h.cutOff r.1 with lstate := code, held := [], crdUsed := [] }

/-- Update the issued context of partition p, if it has one. -/
def State.modCtx (s : State) (p : Nat) (f : Ctx → Ctx) : State :=
  s.modP p fun q => { q with ctx := q.ctx.map f }

/-- The default descriptor slot: tag 1, free (R113). -/
def DescSlot.fresh : DescSlot := { tag := 1, desc := none, dead := false, refs := 0, retired := false }

def State.slot (s : State) (i : Nat) : DescSlot := SMap.get DescSlot.fresh s.desc i

/-- Slot and tag of a handle (R113). -/
def hSlot (h : Word) : Nat := fld h 17 0
def hTag (h : Word) : Nat := fld h 31 18

/-- A handle as checked everywhere (R113, R119): null, malformed, stale, or a live descriptor. -/
inductive Handle where
  | null
  | bad
  | stale
  | live (slot : Nat) (d : Desc)
  deriving DecidableEq, Repr

/-- Look a handle up (R113, R119). -/
def State.handle (s : State) (h : Word) : Handle :=
  if h = 0 then .null
  else if hTag h = 0 then .bad
  else
    let sl := s.slot (hSlot h)
    match sl.desc with
    | some d => if !sl.dead && sl.tag == hTag h then .live (hSlot h) d else .stale
    | none => .stale

/-- The descriptor that a handle named when a step took its reference (R116, R119): the slot's contents stand while the
slot is in use, destroyed or not. -/
def State.heldDesc (s : State) (h : Word) : Option Desc := (s.slot (hSlot h)).desc

/-- Enter a write on its way to a memory (R416). -/
def State.putWrite (s : State) (space addr : Nat) (bytes : List Byte) (tag : WriteTag) (drw : Nat) (key : Nat := 0)
    (ew : Nat := 8) (page : Nat := 0) : State :=
  { s with
    writes := s.writes ++ [{ id := s.nextWrite, space := space, addr := addr, bytes := bytes, tag := tag, drw := drw, key := key,
                             ew := ew, page := page }]
    nextWrite := s.nextWrite + 1 }

/-- The rates and depths of a partition's buckets (R389). -/
def Prt.rates (q : Prt) : List (Nat × Nat) :=
  [(q.tbHbmRate.toNat, q.tbHbmDepth.toNat), (q.tbHngRate.toNat, q.tbHngDepth.toNat), (q.tbFabRate.toNat, q.tbFabDepth.toNat)]

/-- Every bucket takes its configured rate and depth: at stage CONFIG (R376). -/
def State.takeRates (s : State) : State := { s with prt := s.prt.map fun (q : Prt) => { q with effTb := q.rates } }

/-! ### Switched domains (R562–R564, R630) -/

def domHalf (q h : Nat) : Nat := 64 + 2 * q + h
def domCommon (q : Nat) : Nat := 72 + q
def domHbm (k : Nat) : Nat := 76 + k
def domFab (k : Nat) : Nat := 84 + k

/-- The Q-die of a tumbler pair or Shelf half; `none` for the other domains. -/
def domDie (d : Nat) : Option Nat := if d < 64 then some (d / 16) else if d < 72 then some ((d - 64) / 2) else none

/-- The kind order of R564: Q-die commons, Shelf halves, tumbler pairs, the others. -/
def domKind (d : Nat) : Nat := if d < 64 then 2 else if d < 72 then 1 else if d < 76 then 0 else 3

def State.awake (s : State) (d : Nat) : Bool := s.pwr.domAwake.getLsbD d

def State.setAwake (s : State) (d : Nat) (b : Bool) : State :=
  s.modPwr fun w =>
    let m := BitVec.ofNat 96 (2 ^ d)
    { w with
      domAwake := if b then w.domAwake ||| m else w.domAwake &&& ~~~m
      lastUse := SMap.set 0 w.lastUse d (if b then s.now else 0) }

def State.fencedDom (s : State) (d : Nat) : Bool := s.pwr.fenced.getLsbD d

/-- Request wakes (R564 item 1): domains awake, fenced or already requested are left out, Q-die commons that are needed come
along. -/
def State.requestWakes (s : State) (doms : List Nat) : State :=
  let com := doms.filterMap fun d => (domDie d).map domCommon
  let new := (doms ++ com).eraseDups.filter fun d =>
    !s.awake d && !s.fencedDom d && !(s.pwr.wakes.any fun w => w.dom == d)
  let new := insSort (fun (a b : Nat) => lexLt [domKind a, a] [domKind b, b]) new
  s.modPwr fun w => { w with wakes := w.wakes ++ new.map fun d => { dom := d, at_ := s.now, admitted := none } }

/-- The domains of HBM controllers that are asleep; a path to them waits for their wake (R52). -/
def State.wakeHbm (s : State) (ks : List Nat) : State := s.requestWakes (ks.map domHbm)

/-- Whether every HBM controller is awake or fenced. -/
def State.hbmAwake (s : State) : Bool := (List.range 8).all fun k => s.awake (domHbm k) || s.fencedDom (domHbm k)

/-! ### Memory and fabric -/

/-- The stack that holds an HBM address (R608). -/
def stackOf (a : Nat) : Nat := (a / 2 ^ 12 % 8) ^^^ (a / 2 ^ 20 % 8)

def State.modStk (s : State) (k : Nat) (f : Hbm → Hbm) : State := { s with hbmStk := modNth s.hbmStk k f }

/-- HBM is read (R643): the spec does not say how many bytes each stack is read for, so a free number is counted. Controllers that are
asleep are asked to wake (R52); the time until then is not modelled. -/
def State.hbmRead (s : State) : State :=
  (List.range 8).foldl (fun (s : State) k => let r := s.fresh; r.2.modStk k fun h => { h with rdBytes := wrapAdd h.rdBytes r.1 })
    (s.wakeHbm (List.range 8))

/-- HBM is read, and written to in the system region or the Cabinet's areas: free numbers are counted (R643). -/
def State.hbmWork (s : State) : State :=
  (List.range 8).foldl (fun (s : State) k => let r := s.fresh; r.2.modStk k fun h => { h with wrBytes := wrapAdd h.wrBytes r.1 }) s.hbmRead

/-- Land bytes in a device memory: HBM is space 0, SHELF space 1 (R98). Bytes for a controller that is asleep wait for its wake (R52), which
nothing can see, since a read of them waits for the same wake. -/
def State.land (s : State) (space addr : Nat) (bytes : List Byte) : State :=
  if space = 0 then
    let s := s.wakeHbm ((List.range 8).filter fun k => (List.range bytes.length).any fun i => stackOf (addr + i) == k)
    { s with
      hbm := Memory.writeN s.hbm addr bytes
      hbmStk := s.hbmStk.mapIdx fun k (h : Hbm) =>
        { h with wrBytes := wrapAdd h.wrBytes ((List.range bytes.length).filter fun i => stackOf (addr + i) == k).length }
      -- a write of the whole line clears its poison (R582)
      ras := { s.ras with poison := s.ras.poison.filter fun l => !(decide (addr ≤ l.1) && decide (l.1 + 64 ≤ addr + bytes.length)) } }
  else if space = 1 then { s with shelf := Memory.writeN s.shelf addr bytes }
  else s

/-- Bytes of a device memory. -/
def State.peek (s : State) (space addr n : Nat) : List Byte :=
  if space = 0 then Memory.readN s.hbm addr n else Memory.readN s.shelf addr n

/-- Whether any write of a tag class is still on its way. -/
def State.writesOf (s : State) (q : PWrite → Bool) : List PWrite := s.writes.filter q

/-- The k-th live fabric sub-port, counted modulo their number (R612). -/
def State.livePort (s : State) (k : Nat) : Option Nat :=
  let live := (List.range 8).filter fun i => s.fab.live.getLsbD i
  if live.isEmpty then none else live[k % live.length]?

/-- The sub-port that carries a host address (R612). -/
def State.subPort (s : State) (addr : Nat) : Option Nat := s.livePort (addr / 4096 % 8)

/-- Count a transfer of n bytes after its envelope on a sub-port: sent, or received (R611, R635). -/
def State.fabCount (s : State) (port : Option Nat) (sent : Bool) (n : Nat) : State :=
  match port with
  | none => s
  | some i => s.modFab fun b =>
      { b with
        ports := modNth b.ports i fun x =>
          if sent then { x with bytesTx := wrapAdd x.bytesTx (32 + n) } else { x with bytesRx := wrapAdd x.bytesRx (32 + n) } }

/-- A host access leaves on its sub-port; its time-out counts from now on (R611, R612). -/
def State.putXfer (s : State) (x : Xfer) : State :=
  let x := { x with t0 := s.now }
  (s.modFab fun b => { b with xfers := b.xfers.map (fun y => if y.xid = x.xid then x else y), sent := b.sent ++ [x] }).fabCount (s.subPort x.addr) true
    (if x.write.isSome then x.len else 0)

/-- A host access on the fabric (R611): where the domain of its sub-port is asleep it waits for the wake, which it requests (R52). -/
def State.sendXfer (s : State) (space addr len : Nat) (write : Option (List Byte)) (use : XferFor) : State :=
  let x : Xfer := { xid := s.fab.nextXid, space := space, addr := addr, len := len, write := write, use := use, retried := false
                    t0 := s.now, got := none }
  let s := s.modFab fun b => { b with xfers := b.xfers ++ [x], nextXid := b.nextXid + 1 }
  match (s.subPort addr).filter fun k => !s.awake (domFab k) with
  | some k => (s.modFab fun b => { b with waiting := b.waiting ++ [x] }).requestWakes [domFab k]
  | none => s.putXfer x

/-- An RPP frame of `n` bytes after its envelope leaves for a peer on a sub-port, or waits for the wake of the sub-port's domain (R52,
R612). -/
def State.putFrame (s : State) (port : Option Nat) (peer n : Nat) (m : RppMsg) : State :=
  match port.filter fun k => !s.awake (domFab k) with
  | some k => (s.modFab fun b => { b with frames := b.frames ++ [(k, peer, m)] }).requestWakes [domFab k]
  | none => (s.modPol fun q => { q with sent := q.sent ++ [(peer, m)] }).fabCount port true n

/-- What waited for a sub-port goes on once its domain is awake (R52). -/
def State.fabGo (s : State) : State :=
  let xs := s.fab.waiting.filter fun x => ((s.subPort x.addr).all fun k => s.awake (domFab k)) || !(s.fab.xfers.any fun y => y.xid == x.xid)
  let ms := s.fab.frames.filter fun e => s.awake (domFab e.1)
  let s := s.modFab fun b => { b with
    waiting := b.waiting.filter fun x => !(xs.any fun y => y.xid == x.xid), frames := b.frames.filter fun e => !s.awake (domFab e.1) }
  let s := (xs.filter fun x => s.fab.xfers.any fun y => y.xid == x.xid).foldl (fun s x => s.putXfer x) s
  ms.foldl (fun (s : State) e => s.putFrame (some e.1) e.2.1 (32 + fld e.2.2.hdr.w6 16 0) e.2.2) s

/-- Partitions by number. -/
def parts : List Nat := List.range 32

/-- Tumblers of a mask, ascending. -/
def tumsOf (m : BitVec 128) : List Nat := (List.range 128).filter fun i => m.getLsbD i

/-- Candidate dies of a mask: those on which it owns a tumbler (R292). -/
def diesOf (m : BitVec 128) : List Nat := (List.range 4).filter fun q => (tumsOf m).any fun i => i / 32 == q

end Sys2Proof.Machine
end

