-- ==== Sys2Proof/Machine/Latches.lean ====
section
/-! DEFINITION. Latches (R403–R414): the latch word, the six operations, and what the gate, a step's end and a teardown do
to the latches a step holds. -/

namespace Sys2Proof.Machine

open Sys2Proof

/-- A latch that the image does not assign (R404). -/
def Latch.fresh : Latch :=
  { st := .free, brk := false, domain := 0x20, okind := .none, oid := 0, osav := false, osseq := 0, cnt := 0 }

/-- Latch n. -/
def State.latchAt (s : State) (n : Nat) : Latch := SMap.get Latch.fresh s.latch n

/-- Write latch n. -/
def State.setLatch (s : State) (n : Nat) (l : Latch) : State := { s with latch := SMap.set Latch.fresh s.latch n l }

def latchStateCode : LatchState → Nat
  | .free => 0 | .held => 1 | .broken => 2

def ownerKindCode : OwnerKind → Nat
  | .none => 0 | .context => 1 | .core => 2 | .host => 3

/-- The 64-bit latch word (R403) with a status code in `RES`. -/
def Latch.word (l : Latch) (res : Nat) : DWord :=
  BitVec.ofNat 64
    (latchStateCode l.st + at_ (b2n l.brk) 2 + at_ res 8 + at_ l.domain 16 + at_ (ownerKindCode l.okind) 22 + at_ l.oid 24
      + at_ (b2n l.osav) 29 + at_ l.osseq.toNat 32 + at_ l.cnt.toNat 48)

/-- The owner fields an agent writes when it acquires (R403); `none` where the agent holds no latches: the security core
(R404), a core that does not exist, a partition without an issued step. -/
def State.ownerOf (s : State) (ag : Agent) : Option (OwnerKind × Nat × BitVec 16) :=
  match ag with
  | .core c => if c ≤ 5 ∧ c ≠ 4 then some (.core, c, 0) else none
  | .host => some (.host, 0, 0)
  | .context p =>
    match (s.getP p).ctx with
    | some c => some (.context, p, BitVec.ofNat 16 c.sub.sseq)
    | none => none

/-- Whether the latch's `DOMAIN` admits an agent (R403, R404). -/
def Latch.admits (l : Latch) : Agent → Bool
  | .core _ => true
  | .host => true
  | .context p => l.domain == p || l.domain == 0x20

/-- Whether the latch is held by this owner; a latch of a saved step is not held by the issued one (R403). -/
def Latch.heldBy (l : Latch) (o : OwnerKind × Nat × BitVec 16) : Bool :=
  l.st == .held && l.okind == o.1 && l.oid == o.2.1 && l.osseq == o.2.2 && !l.osav

/-- A latch leaves HELD: the owner fields and `BRK` become 0 (R405). -/
def Latch.leave (l : Latch) (st : LatchState) : Latch :=
  { l with st := st, brk := false, okind := .none, oid := 0, osav := false, osseq := 0 }

/-- A latch is acquired (R405). -/
def Latch.take (l : Latch) (o : OwnerKind × Nat × BitVec 16) (brk : Bool) : Latch :=
  { l with st := .held, brk := brk, okind := o.1, oid := o.2.1, osav := false, osseq := o.2.2, cnt := l.cnt + 1 }

/-- The table of R405 on one latch, for an owner the latch admits; `priv`: the agent may BREAK and SET_DOMAIN. -/
def Latch.step (l : Latch) (o : OwnerKind × Nat × BitVec 16) (priv : Bool) (op d : Nat) : Status × Latch :=
  match op with
  | 0 => (.ok, l)
  | 1 =>
    match l.st with
    | .free => (.ok, l.take o false)
    | .broken => (.brokenLatch, l.take o true)
    | .held => (.latchHeld, l)
  | 2 => if l.heldBy o then (.ok, l.leave (if l.brk then .broken else .free)) else (.descInvalid, l)
  | 3 => if l.heldBy o then (.ok, l.leave .free) else (.descInvalid, l)
  | 4 => if priv then (.ok, if l.st = .held then l.leave .broken else l) else (.descInvalid, l)
  | 5 =>
    if priv = false ∨ 0x20 < d then (.descInvalid, l)
    else if l.st = .held then (.latchHeld, l)
    else (.ok, { l with domain := d })
  | _ => (.descInvalid, l)

/-- One latch operation (R405, R406, R408): the status, and the state with the latch word returned. -/
def State.latchOp (s : State) (ag : Agent) (n op d : Nat) : Status × State :=
  let l := s.latchAt n
  match s.ownerOf ag with
  | none => (.descInvalid, { s with latchRet := l.word (statusCode .descInvalid) })
  | some o =>
    if n < 32768 ∧ l.admits ag = true then
      let priv := match ag with | .context _ => false | _ => true
      let r := l.step o priv op d
      (r.1, { (s.setLatch n r.2) with latchRet := r.2.word (statusCode r.1) })
    else (.descInvalid, { s with latchRet := l.word (statusCode .descInvalid) })

def execNop (ag : Agent) (n : Nat) (s : State) : Host.Outcome State Fault Refusal := .next (s.latchOp ag n 0 0).2
def execAcq (ag : Agent) (n : Nat) (s : State) : Host.Outcome State Fault Refusal := .next (s.latchOp ag n 1 0).2
def execRel (ag : Agent) (n : Nat) (s : State) : Host.Outcome State Fault Refusal := .next (s.latchOp ag n 2 0).2
def execRelFix (ag : Agent) (n : Nat) (s : State) : Host.Outcome State Fault Refusal := .next (s.latchOp ag n 3 0).2
def execBreakLatch (ag : Agent) (n : Nat) (s : State) : Host.Outcome State Fault Refusal := .next (s.latchOp ag n 4 0).2
def execSetDomain (ag : Agent) (n d : Nat) (s : State) : Host.Outcome State Fault Refusal := .next (s.latchOp ag n 5 d).2

/-- The latches that satisfy a test, as listed in the table. -/
def State.modLatches (s : State) (f : Latch → Latch) : State :=
  { s with latch := s.latch.foldl (fun m e => SMap.set Latch.fresh m e.1 (f e.2)) [] }

/-- The latches of partition p's issued (`sav` false) or saved step. -/
def Latch.ofStep (l : Latch) (p : Nat) (sav : Bool) : Bool :=
  l.st == .held && l.okind == .context && l.oid == p && l.osav == sav

/-- Teardown: each latch of the context becomes BROKEN (R399 item 6, R414). -/
def State.breakStep (s : State) (p : Nat) (sav : Bool) : State :=
  s.modLatches fun l => if l.ofStep p sav then l.leave .broken else l

/-- Final `STEP_DONE`: each latch still held is released as REL (R414). -/
def State.relStep (s : State) (p : Nat) : State :=
  s.modLatches fun l => if l.ofStep p false then l.leave (if l.brk then .broken else .free) else l

/-- A gate release returns each latch to its state before the gate acquired it (R413). -/
def State.gateRelease (s : State) (p : Nat) : State := s.relStep p

/-- A save completes, or a restore: `OSAV` of every latch of the step (R403). -/
def State.setOsav (s : State) (p : Nat) (sav : Bool) : State :=
  s.modLatches fun l => if l.ofStep p (!sav) then { l with osav := sav } else l

/-- A management core faults: BREAK on every latch it holds (R409). -/
def State.breakCore (s : State) (c : Nat) : State :=
  s.modLatches fun l => if l.st == .held && l.okind == .core && l.oid == c then l.leave .broken else l

end Sys2Proof.Machine
end

