-- ==== Sys2Proof/Machine/Rcl.lean ====
section
/-! DEFINITION. The Ranmen Command Link (R457–R480): header fields, credits, the checks every command passes, the command
queue, responses, notices and what leaves for the host. -/

namespace Sys2Proof.Machine

open Sys2Proof

/-! ### Header fields (R457) -/

def RclFrame.opc (f : RclFrame) : Nat := fld f.w0 7 0
def RclFrame.major (f : RclFrame) : Nat := fld f.w0 11 8
def RclFrame.vc (f : RclFrame) : Nat := fld f.w0 17 16
def RclFrame.first (f : RclFrame) : Bool := bit f.w0 18
def RclFrame.last (f : RclFrame) : Bool := bit f.w0 19
def RclFrame.session (f : RclFrame) : Nat := fld f.w2 15 0
def RclFrame.seg (f : RclFrame) : Nat := fld f.w3 23 0
def RclFrame.len (f : RclFrame) : Nat := fld f.w4 12 0
def RclFrame.crd (f : RclFrame) (n : Nat) : Nat := fld f.w5 (8 * n + 7) (8 * n)

/-- Frames of the message: each carries up to 4,096 payload bytes (R457, R459). -/
def RclFrame.frames (f : RclFrame) : Nat := max 1 (ceilDiv f.data.length 4096)

/-- A reserved header field is non-zero, `LEN` exceeds 4,096 or `STAMP` is non-zero (R460). -/
def RclFrame.badField (f : RclFrame) : Bool :=
  fld f.w0 31 21 != 0 || fld f.w2 31 16 != 0 || fld f.w4 15 13 != 0 || decide (4096 < f.len) || f.w6 != 0 || f.w7 != 0

/-- A 32-bit field of the payload. -/
def RclFrame.word (f : RclFrame) (off : Nat) : Word := wordAt f.data off

/-- A field of the payload as a number. -/
def RclFrame.pl (f : RclFrame) (off n : Nat) : Nat := leAt f.data off n

/-! ### The command table (R465) -/

/-- Authority that a command needs. -/
inductive Auth where
  | none | any | operator
  deriving DecidableEq, Repr

/-- A row of the command table: channel, urgency, authority, served during boot, may span several frames. -/
structure CmdRow where
  vc : Nat
  urgent : Bool
  auth : Auth
  boot : Bool
  multi : Bool
  deriving DecidableEq, Repr

/-- The row of a command code; `none` for a reserved code (R465). `RANGE_MOVE` is urgent with `CANCEL` and `REG_READ`
needs no session for three blocks; the meanings say so. -/
def cmdRow (code : Nat) : Option CmdRow :=
  match code with
  | 0x01 => some ⟨0, true, .none, true, false⟩
  | 0x02 => some ⟨0, false, .none, true, true⟩
  | 0x03 => some ⟨0, false, .none, false, true⟩
  | 0x04 => some ⟨0, false, .any, false, false⟩
  | 0x05 => some ⟨0, true, .operator, false, true⟩
  | 0x08 => some ⟨0, true, .operator, true, false⟩
  | 0x09 => some ⟨0, false, .operator, false, false⟩
  | 0x0A => some ⟨0, false, .operator, false, false⟩
  | 0x0B => some ⟨0, false, .operator, false, false⟩
  | 0x0C => some ⟨0, false, .operator, false, false⟩
  | 0x0D => some ⟨0, false, .operator, false, false⟩
  | 0x10 => some ⟨0, false, .operator, false, false⟩
  | 0x11 => some ⟨0, false, .operator, false, false⟩
  | 0x12 => some ⟨0, false, .operator, false, false⟩
  | 0x13 => some ⟨0, false, .operator, false, false⟩
  | 0x18 => some ⟨0, false, .any, false, false⟩
  | 0x19 => some ⟨0, false, .any, false, false⟩
  | 0x1A => some ⟨0, false, .any, false, false⟩
  | 0x1B => some ⟨1, false, .any, false, true⟩
  | 0x1C => some ⟨0, false, .operator, false, false⟩
  | 0x1D => some ⟨1, false, .operator, false, true⟩
  | 0x20 => some ⟨0, false, .any, false, false⟩
  | 0x21 => some ⟨0, false, .any, false, false⟩
  | 0x22 => some ⟨0, true, .any, false, false⟩
  | 0x23 => some ⟨0, false, .any, false, false⟩
  | 0x24 => some ⟨3, false, .any, false, false⟩
  | 0x25 => some ⟨0, false, .operator, false, false⟩
  | 0x30 => some ⟨0, false, .operator, false, false⟩
  | 0x31 => some ⟨0, false, .operator, false, false⟩
  | 0x32 => some ⟨0, false, .operator, false, false⟩
  | 0x33 => some ⟨0, true, .operator, false, false⟩
  | _ => none

/-! ### Sending (R461–R463, R475–R477) -/

/-- Credits the host must grant before the first frame of a channel (R461). -/
def minCredit (vc : Nat) : Nat := nth [8, 4, 16, 4] vc 0

/-- Whether a frame of a channel may leave now. -/
def Lnk.canSend (l : Lnk) (vc : Nat) : Bool :=
  l.lstate == 2 && nth l.crdMin vc false && decide (0 < nth l.crdHeld vc 0)

/-- A frame leaves: it takes a credit, carries the credits due to the host and its stamp (R457, R462), and the last frame
of a response releases its queue entry (R471). -/
def Lnk.emit (l : Lnk) (now : Nat) (fr : OutFrame) : Lnk :=
  let due := l.owed.map (min 255)
  { l with
    crdHeld := if fr.opc = 0 then l.crdHeld else modNth l.crdHeld fr.vc (· - 1)
    owed := List.zipWith (· - ·) l.owed due
    hostCrd := List.zipWith (· + ·) l.hostCrd due
    qUsed := if fr.q = 1 ∧ fr.last then l.qUsed - 1 else l.qUsed
    qUrg := if fr.q = 2 ∧ fr.last then l.qUrg - 1 else l.qUrg
    held := if (fr.q = 1 ∨ fr.q = 2) ∧ fr.last then (l.held ++ [now - fr.took]).drop (l.held.length - 1023) else l.held
    sent := l.sent ++ [{ fr with crd := due, stamp := now }] }

/-- Send waiting frames of one channel while its credits last. -/
def Lnk.drainVc (now vc : Nat) : Nat → Lnk → Lnk
  | 0, l => l
  | fuel + 1, l =>
    if l.canSend vc then
      if vc = 2 then
        match l.notes with
        | [] => l
        | fr :: rest => Lnk.drainVc now vc fuel (Lnk.emit { l with notes := rest, loss := false } now { fr with loss := l.loss })
      else
        match nth l.out vc [] with
        | [] => l
        | fr :: rest => Lnk.drainVc now vc fuel (Lnk.emit { l with out := modNth l.out vc fun _ => rest } now fr)
    else l

/-- A `CREDIT` frame (R458). -/
def creditFrame : OutFrame :=
  { opc := 0, vc := 0, first := true, last := true, loss := false, tag := 0, session := 0, seg := 0, status := 0,
    hint := 0, crd := [], stamp := 0, data := [], q := 0, took := 0 }

/-- Send what credits allow, in ascending channel; credits still due to the host leave in `CREDIT` frames. -/
def Lnk.drain (now : Nat) (l : Lnk) : Lnk :=
  let l := [0, 1, 2, 3].foldl (fun l vc => Lnk.drainVc now vc ((nth l.out vc []).length + l.notes.length) l) l
  if l.lstate == 2 && l.owed.any (0 < ·) then l.emit now creditFrame else l

def State.drain (s : State) : State := s.modLnk (Lnk.drain s.now)

/-- Cut a payload into frames of at most 4,096 bytes; an empty payload is one frame. -/
def chunks (n : Nat) : Nat → List Byte → List (List Byte)
  | 0, _ => []
  | fuel + 1, bs => if bs.length ≤ n then [bs] else bs.take n :: chunks n fuel (bs.drop n)

/-- The frames of a response message (R457, R459). -/
def respFrames (vc : Nat) (tag : Word) (session status hint q took : Nat) (data : List Byte) : List OutFrame :=
  let cs := chunks 4096 (ceilDiv data.length 4096 + 1) data
  cs.mapIdx fun i d =>
    { opc := 0x40, vc := vc, first := i == 0, last := i + 1 == cs.length, loss := false, tag := tag, session := session,
      seg := i, status := status, hint := hint, crd := [], stamp := 0, data := d, q := q, took := took }

/-- Put a response on its channel and send what may leave; `took` is when its command took its queue entry. -/
def State.respondAt (s : State) (took vc : Nat) (tag : Word) (session : Nat) (st : Status) (hint q : Nat) (data : List Byte) :
    State :=
  State.drain <| s.modLnk fun l =>
    { l with out := modNth l.out vc (· ++ respFrames vc tag session (statusCode st) hint q took data) }

/-- The response to a command that is answered when it arrives. -/
def State.respond (s : State) (vc : Nat) (tag : Word) (session : Nat) (st : Status) (hint q : Nat) (data : List Byte) : State :=
  s.respondAt s.now vc tag session st hint q data

/-- A notice frame (R475). -/
def noticeFrame (vc opc : Nat) (data : List Byte) : OutFrame :=
  { opc := opc, vc := vc, first := true, last := true, loss := false, tag := 0, session := 0xFFFF, seg := 0, status := 0,
    hint := 0, crd := [], stamp := 0, data := data, q := 0, took := 0 }

/-- Drop the oldest notice that is not a `STEP_DONE` (R477). -/
def dropNote : List OutFrame → List OutFrame
  | [] => []
  | f :: fs => if f.opc = 0x60 then f :: dropNote fs else fs

/-- A notice on VC2 waits in the notice buffer of 16,384; the oldest is dropped when it is full (R477). -/
def Lnk.buffer (l : Lnk) (fr : OutFrame) : Lnk :=
  if l.notes.length < 16384 then { l with notes := l.notes ++ [fr] }
  else { l with notes := dropNote l.notes ++ [fr], noteLost := satAdd l.noteLost 1, loss := true }

/-- Send a notice: `FAULT` and `HEARTBEAT` on VC0, the others through the notice buffer (R475). -/
def State.notice (s : State) (opc : Nat) (data : List Byte) : State :=
  State.drain <| s.modLnk fun l =>
    if opc = 0x62 ∨ opc = 0x66 then { l with out := modNth l.out 0 (· ++ [noticeFrame 0 opc data]) }
    else l.buffer (noticeFrame 2 opc data)

/-- `SERVICE_LAG` for a service that starts at this edge and was due at another (R475); where the lag is no whole number of µs, the way it
is rounded is free. -/
def State.lagNotice (s : State) (svc due : Nat) : State :=
  let d := s.now - due
  if d = 0 then s
  else
    let up := s.freshB
    (if d % 100 = 0 then s else up.2).notice 0x65 (bytes4 [svc, sat32 (d / 100 + b2n (d % 100 != 0 && up.1))])

/-! ### Receiving and the checks of R470 -/

/-- The sender of a command as its meaning sees it. -/
structure Caller where
  idx : Nat
  sess : Option Session
  q : Nat
  deriving DecidableEq, Repr

/-- What a meaning answers: at once, or later when it completes (R472). -/
inductive Answer where
  | now (st : Status) (data : List Byte)
  | busy (hint : Nat)
  | later
  deriving DecidableEq, Repr

/-- Credits that a host frame carries for Bartor (R462). -/
def Lnk.granted (l : Lnk) (f : RclFrame) : Lnk :=
  let held := l.crdHeld.mapIdx fun n c => c + f.crd n
  { l with crdHeld := held, crdMin := l.crdMin.mapIdx fun n b => b || decide (minCredit n ≤ nth held n 0) }

/-- The frames of a message are received: they use the host's credits, which are due back at once (R461, R462). A message of more
frames than credits goes on with the credits that its first frames give back. -/
def Lnk.received (l : Lnk) (f : RclFrame) : Lnk :=
  let n := min f.frames (nth l.hostCrd f.vc 0)
  { l.granted f with hostCrd := modNth l.hostCrd f.vc (· - n), owed := modNth l.owed f.vc (· + n) }

/-- As `received`; `none` where the host had no credit. -/
def Lnk.take (l : Lnk) (f : RclFrame) : Option Lnk := if nth l.hostCrd f.vc 0 = 0 then none else some (l.received f)

/-- Whether the boot has reached READY (R546, R552). -/
def State.booted (s : State) : Bool := decide (7 ≤ s.mgt.bootStage.toNat) && decide (s.mgt.bootStage.toNat ≤ 10)

/-- Whether a service that two management cores run still runs (R42, R471): one of them is live, or the boot still is. -/
def State.serviceUp (s : State) (a b : Nat) : Bool :=
  !s.booted || bitN s.mgt.coreLive.toNat a || bitN s.mgt.coreLive.toNat b

/-- A hint that spec/ gives as an estimate or a mean of past times: a free value of 16 bits, at least `lo` (R464, R474). -/
def State.hint (s : State) (lo : Nat) : Nat × State :=
  let r := s.fresh
  (max lo (min 65535 r.1), r.2)

/-- `HINT` of a BUSY response for a full queue (R474): 64 times the mean time in µs from taking an entry to releasing it over the last 1,024
commands answered, rounded up. Before 1,024 have been answered the mean is over those that have (log entry 79). -/
def State.queueHint (s : State) : Nat :=
  let l := s.lnk.held
  max 1 (min 65535 (ceilDiv (64 * l.foldl (· + ·) 0) (100 * l.length)))

/-- Check 2 of R470, with the boot cases of R503, R546 and R549. -/
def State.bootCheck (s : State) (code : Nat) (row : CmdRow) (f : RclFrame) : Option Status :=
  if s.lnk.helloOk = false ∧ code ≠ 0x01 then some .descInvalid
  else if s.mgt.bootStage = 0xF ∨ s.sec.lcState = 3 then
    -- DECOMMISSIONED: HELLO and REG_READ of the MGT block only (R503)
    if code = 0x01 ∨ (code = 0x08 ∧ f.pl 0 4 + 4 * f.pl 4 2 ≤ 0x10000) then none else some .authFail
  else if s.mgt.bootStage = 0xE then
    if code = 0x01 ∨ code = 0x08 then none
    else if code = 0x02 then (if s.mgt.fwDone = 0 then some .internal else some .busy)
    else some .busy
  else if s.booted = false ∧ row.boot = false then some .busy
  else none

/-- The open session that a frame names. -/
def State.sessOf (s : State) (f : RclFrame) : Option Session :=
  (s.sec.sessions.find? fun e => e.1 == f.session).map (·.2)

/-- Check 5 of R470. -/
def authOk (auth : Auth) (f : RclFrame) (se : Option Session) : Bool :=
  match se with
  | some x => match auth with | .operator => x.operator | _ => true
  | none => f.session == 0xFFFF && auth == .none

/-- Enter a command among those that wait for the command pair: an urgent one takes effect before every command that is not (R472). -/
def waitIn (urgent : Bool) (f : RclFrame) (l : List (Bool × RclFrame)) : List (Bool × RclFrame) :=
  if urgent then l.takeWhile (·.1) ++ (true, f) :: l.dropWhile (·.1) else l ++ [(false, f)]

/-- Receive a command of a code and serve it: the frame rules and the checks of R470 in order, then the meaning `body`,
which makes the checks of payload and of its defining rule. A frame whose `OPC` is another code is no command of this row
and changes nothing; on a link that is not active nothing is received. `auth` and `urgent` are the row's, unless the
defining rule sets them. -/
def State.serve (s : State) (code : Nat) (auth : Option Auth) (urgent : Option Bool) (f : RclFrame)
    (body : Caller → State → Answer × State) : State :=
  match cmdRow code with
  | none => s
  | some row =>
    if s.lnk.lstate ≠ 2 ∨ f.opc ≠ code then s
    else
      match s.lnk.take f with
      | none => s.modLnk fun l => { l with rclBad := satAdd l.rclBad 1 }
      | some l =>
        let s := { s with lnk := l }
        let ans (s : State) (st : Status) (h : Nat) := s.respond f.vc f.w1 f.session st h 0 []
        if f.major ≠ 1 then ans s .formatUnsupported 0
        else if f.badField then ans s .descInvalid 0
        else if f.first = false ∨ f.seg ≠ 0 ∨ (f.frames ≠ 1 ∧ row.multi = false) ∨ f.last ≠ (f.frames == 1) then
          ans s .descInvalid 0
        else
          match s.bootCheck code row f with
          | some .busy =>
            if s.mgt.bootStage = 0xE then ans s .busy 0 else let h := s.hint 0; ans h.2 .busy h.1
          | some st => ans s st 0
          | none =>
            if f.vc ≠ row.vc then ans s .descInvalid 0
            else
              let urg := urgent.getD row.urgent
              let q := if row.vc = 3 then 0 else if s.lnk.qUsed.toNat < 4032 then 1
                else if urg ∧ s.lnk.qUrg.toNat < 64 then 2 else 3
              if q = 3 then ans s .busy s.queueHint
              else
                let s := s.modLnk fun l =>
                  { l with qUsed := if q = 1 then l.qUsed + 1 else l.qUsed, qUrg := if q = 2 then l.qUrg + 1 else l.qUrg }
                let se := s.sessOf f
                let fin (s : State) (st : Status) (h : Nat) (d : List Byte) := s.respond f.vc f.w1 f.session st h q d
                -- both cores of the pair have stopped: the command keeps its entry and waits (R42, R471)
                if row.vc ≠ 3 ∧ s.serviceUp 0 1 = false then s.modLnk fun l => { l with waiting := waitIn urg f l.waiting }
                else if authOk (auth.getD row.auth) f se = false then fin s .authFail 0 []
                else
                  match body ⟨f.session, se, q⟩ s with
                  | (.now st d, s) => fin s st 0 d
                  | (.busy h, s) => fin s .busy h []
                  | (.later, s) => s.drain

/-- Keep a long command until it completes (R472). -/
def State.putLong (s : State) (f : RclFrame) (c : Caller) (k : LongKind) : State :=
  s.modLnk fun l =>
    { l with
      longs := l.longs ++ [{ id := l.nextLong, tag := f.w1, session := f.session, vc := f.vc, urgent := c.q == 2,
                             ward := (c.sess.map (·.ward)).getD 0, took := s.now, kind := k }]
      nextLong := l.nextLong + 1 }

/-- Answer a long command and forget it. -/
def State.endLong (s : State) (id : Nat) (st : Status) (data : List Byte) : State :=
  match s.lnk.longs.find? fun x => x.id == id with
  | none => s
  | some x =>
    -- an upload's reservation in the cache region goes with its response (R468)
    let s := match x.kind with
      | .upload _ n => s.modCab fun c => { c with extents := c.extents.filter fun e => decide (e.obj ≠ CabObj.resv n) }
      | _ => s
    (s.modLnk fun l => { l with longs := l.longs.filter fun y => y.id != id }).respondAt x.took x.vc x.tag x.session st 0
      (if x.urgent then 2 else 1) data

/-! ### CREDIT and malformed frames -/

/-- `CREDIT` (R458, R462): the host's grants; frames that waited for them leave. -/
def execCredit (f : RclFrame) (s : State) : Host.Outcome State Fault Refusal :=
  .next <|
    if s.lnk.lstate ≠ 2 ∨ f.opc ≠ 0 then s
    else if f.len ≠ 0 then s.modLnk fun l => { l with rclBad := satAdd l.rclBad 1 }
    else State.drain (s.modLnk fun l => l.granted f)

/-- Frames that R460 has Bartor discard without a response. -/
def RclFrame.silent (f : RclFrame) (k : FrameFault) : Bool :=
  k == .noCredit || f.opc == 0x40 || decide (0x60 ≤ f.opc) || (f.opc == 0 && f.len != 0)

/-- A malformed frame (R460): discarded and counted, or answered with the status of its condition. A header with no fault
and a listed command code, without a fault of segmentation, is no malformed frame and changes nothing here. -/
def malformed (f : RclFrame) (k : FrameFault) (s : State) : State :=
  if s.lnk.lstate ≠ 2 then s
  else if f.silent k || nth s.lnk.hostCrd f.vc 0 == 0 then
    s.modLnk fun l => { l with rclBad := satAdd l.rclBad 1 }
  else
    let s' := s.modLnk fun l => l.received f
    if f.major ≠ 1 then s'.respond f.vc f.w1 f.session .formatUnsupported 0 0 []
    else if f.badField || k == .segmentation || (f.opc != 0 && (cmdRow f.opc).isNone) then
      s'.respond f.vc f.w1 f.session .descInvalid 0 0 []
    else s

def execMalformedFrame (f : RclFrame) (k : FrameFault) (s : State) : Host.Outcome State Fault Refusal :=
  .next (malformed f k s)

/-- `LATCH` (R465, R405): one latch operation for the host; the reply is the latch word with the status in `RES`. -/
def execLatch (f : RclFrame) (s : State) : Host.Outcome State Fault Refusal :=
  .next <| s.serve 0x0A none none f fun _ s =>
    if f.data.length ≠ 8 ∨ fld (f.word 0) 31 15 ≠ 0 ∨ fld (f.word 4) 7 4 ≠ 0 ∨ fld (f.word 4) 31 14 ≠ 0 then
      (.now .descInvalid [], s)
    else
      let r := s.latchOp .host (fld (f.word 0) 14 0) (fld (f.word 4) 3 0) (fld (f.word 4) 13 8)
      (.now r.1 (leBytes 8 r.2.latchRet.toNat), r.2)

/-- `HELLO` (R464): the reply reports versions, identity, life-cycle state and `READY`. -/
def helloReply (s : State) : List Byte :=
  bytes4 [1 + at_ 0 8 + at_ 1 16 + at_ 1 24, 0xA1 + at_ s.sec.lcState.toNat 8] ++ leBytes 8 s.mgt.devId.toNat
    ++ bytes4 [b2n s.booted]

def execHello (f : RclFrame) (s : State) : Host.Outcome State Fault Refusal :=
  .next <| s.serve 0x01 none none f fun _ s =>
    if f.data.length ≠ 4 ∨ fld (f.word 0) 31 16 ≠ 0 then (.now .descInvalid [], s)
    else if fld (f.word 0) 7 0 ≠ 1 then (.now .formatUnsupported [], s)
    else (.now .ok (helloReply s), (if s.lnk.hbOn then s else s.setDue perHeartbeat (s.now + 100000)).modLnk fun l => { l with helloOk := true, hbOn := true })

end Sys2Proof.Machine
end

