-- ==== Sys2Proof/Machine/Cabinet.lean ====
section
/-! DEFINITION. Cabinet space (R278–R283): the three regions, the lowest free range, charges and quotas, and the return
area and save charge of a partition (R292, R375). -/

namespace Sys2Proof.Machine

open Sys2Proof

/-- First granule of the cache region (R280). -/
def Cab.cacheBase (c : Cab) : Nat := grantable - c.cacheSize.toNat

/-- First granule of the export window (R280). -/
def Cab.exportBase (c : Cab) : Nat := c.cacheBase - c.exportSize.toNat

/-- Granules of the notice table, the lowest of the cache region (R322). -/
def State.noteGranules (s : State) : Nat := min s.cab.cacheSize.toNat (ceilDiv (576 * s.pol.noteCap.toNat) granule)

/-- The lowest range of `len` free granules in [lo, hi); `exts` ascending. -/
def lowestFree (len hi : Nat) : Nat → List Extent → Option Nat
  | lo, [] => if lo + len ≤ hi then some lo else none
  | lo, e :: es =>
    if lo + len ≤ hi ∧ lo + len ≤ e.base then some lo else lowestFree len hi (max lo (e.base + e.len)) es

/-- Enter an extent in ascending order. -/
def addExtent (e : Extent) (es : List Extent) : List Extent :=
  match es with
  | [] => [e]
  | x :: xs => if e.base < x.base then e :: x :: xs else x :: addExtent e xs

/-- Release the extents of an object. -/
def Cab.release (c : Cab) (o : CabObj) : Cab := { c with extents := c.extents.filter fun e => decide (e.obj ≠ o) }

/-- The extent of an object. -/
def Cab.extentOf (c : Cab) (o : CabObj) : Option Extent := c.extents.find? fun e => decide (e.obj = o)

/-- The largest `OUT_W` of the projection table (R292). -/
def State.wMax (s : State) : Nat := s.mgt.projTab.foldl (fun m e => max m e.2.1) 0

/-- Bytes of a return area for a `VISIT_CAP` (R292). -/
def State.returnArea (s : State) (visitCap : Nat) : Nat := visitCap * 2 * s.wMax * 4

/-- The save charge in granules for a `VISIT_CAP` and a `GW_MAX` (R375). -/
def State.saveChargeOf (s : State) (visitCap gwMax : Nat) : Nat :=
  ceilDiv (s.returnArea visitCap + 2 ^ 20 * gwMax) granule

/-- The save charge in force (R375, R376). -/
def State.saveCharge (s : State) (p : Nat) : Nat := s.saveChargeOf (s.getP p).effVisit (s.getP p).effGw

/-- Granules charged to partition p, the save charge included (R281, R375). -/
def State.cabUse (s : State) (p : Nat) : Nat :=
  s.cab.extents.foldl (fun n e => if e.part = p ∧ e.obj ≠ .save p then n + e.len else n) (s.saveCharge p)

/-- Partition p's save charge holds Cabinet space (R375): the lowest free range of its size. DESIGN CHOICE (log entry 73): the place, and
that a range that finds no place is charged and not held, spec/ does not state. -/
def State.placeSave (s : State) (p : Nat) : State :=
  let n := s.saveCharge p
  if (s.cab.extentOf (.save p)).any (fun e => e.len == n) then s
  else
    s.modCab fun c =>
      let c := c.release (.save p)
      match lowestFree n c.exportBase 0 c.extents with
      | some b => if n = 0 then c else { c with extents := addExtent ⟨b, n, p, .save p⟩ c.extents }
      | none => c

/-- `VISIT_CAP`, `GW_MAX`, the Shelf shares and with them the save charge take effect (R376). -/
def State.newCharge (s : State) (p : Nat) : State :=
  (s.modP p fun q => { q with effVisit := q.visitCap.toNat, effGw := q.gwMax.toNat, effShare := q.shfShare.map (·.toNat) }).placeSave p

/-- Reserve a range of the charged space for partition p: refused above its quota, or, counted in `FRAG_MISS`, where no
free range is large enough (R280, R281). -/
def State.charge (s : State) (p len : Nat) (o : CabObj) : Option Nat × State :=
  if s.cabUse p + len ≤ (s.getP p).cabQuota.toNat then
    match lowestFree len s.cab.exportBase 0 s.cab.extents with
    | some b => (some b, s.modCab fun c => { c with extents := addExtent ⟨b, len, p, o⟩ c.extents })
    | none => (none, s.modCab fun c => { c with fragMiss := satAdd c.fragMiss 1 })
  else (none, s)

/-- The extents of the cache region, ascending. -/
def Cab.cacheExts (c : Cab) : List Extent := c.extents.filter fun e => e.part == 32

/-- Where a reservation of the cache region would go, with some extents left out. -/
def State.cacheFit (s : State) (len : Nat) (exts : List Extent) : Option Nat :=
  lowestFree len grantable (s.cab.cacheBase + s.noteGranules) (exts.filter fun e => e.part == 32)

/-- The number of owned entries of a home partition (R283). -/
def State.dirUse (s : State) (p : Nat) : Nat := (s.cab.dir.filter fun e => e.owned && e.home == p).length

/-- The number of cached entries (R283). -/
def State.cachedUse (s : State) : Nat := (s.cab.dir.filter fun e => !e.owned).length

/-- The directory entry of an adapter (R283: at most one). -/
def State.entry (s : State) (aid : Nat) : Option Entry := s.cab.dir.find? fun e => e.aid == aid

/-- Update the entry of an adapter. -/
def State.modEntry (s : State) (aid : Nat) (f : Entry → Entry) : State :=
  s.modCab fun c => { c with dir := updFirst c.dir (fun e => e.aid == aid) f }

/-- The lowest free directory index: one of the first n + 1 is free beside n entries. -/
def State.freeDirIdx (s : State) : Option Nat :=
  if s.cab.dir.length < 262144 then (List.range (s.cab.dir.length + 1)).find? fun i => !(s.cab.dir.any fun e => e.idx == i) else none

/-- The HBM byte address of a granule. -/
def gAddr (g : Nat) : Nat := granule * g

end Sys2Proof.Machine
end

