-- ==== Sys2Proof/Machine/Descs.lean ====
section
/-! DEFINITION. Descriptors (R96–R120) and allocations (R107, R108, R467): the fields of an image, the checks of creation
in order, slots, tags and references. -/

namespace Sys2Proof.Machine

open Sys2Proof

/-! ### Fields (R96) -/

def Desc.w (d : Desc) (i : Nat) : Word := nth d.words i 0
def Desc.fmt (d : Desc) : Nat := fld (d.w 0) 3 0
def Desc.rank (d : Desc) : Nat := fld (d.w 0) 6 4
def Desc.aligned (d : Desc) : Bool := bit (d.w 0) 8
def Desc.paged (d : Desc) : Bool := fld (d.w 0) 11 10 == 1
def Desc.space (d : Desc) : Nat := fld (d.w 0) 14 12
def Desc.blkAxis (d : Desc) : Nat := fld (d.w 0) 17 16
def Desc.fill (d : Desc) : Word := d.w 1
/-- `SIZEk`. -/
def Desc.size (d : Desc) (k : Nat) : Nat := if k < 5 then (d.w (2 + k)).toNat else 0
/-- `STRIDEk` for k from 1 to 4. -/
def Desc.stride (d : Desc) (k : Nat) : Nat :=
  if k = 0 ∨ 4 < k then 0 else (d.w (6 + 2 * k)).toNat + 2 ^ 32 * fld (d.w (7 + 2 * k)) 15 0
def Desc.base (d : Desc) : Nat := (d.w 16).toNat + 2 ^ 32 * fld (d.w 17) 23 0
def Desc.scaleH (d : Desc) : Word := d.w 18
def Desc.pscaleH (d : Desc) : Word := d.w 19
def Desc.escH (d : Desc) : Word := d.w 20
def Desc.pgLog2 (d : Desc) : Nat := fld (d.w 21) 4 0

/-- Row length in bytes (R103). -/
def rowLen (fmt n : Nat) : Nat :=
  match fmt with
  | 0 => n * 4
  | 0xC => n * 4
  | 1 => n * 2
  | 0xD => n * 2
  | 4 => n * 3 / 4
  | 5 => n * 3 / 4
  | 6 => n / 2
  | 7 => n / 2
  | 8 => n / 32 * 7
  | _ => n

/-- Dimensions laid out by strides: 1 to `RANK` − 1, for a PAGED descriptor 1 to `RANK` − 2 (R103, R105). -/
def Desc.strided (d : Desc) : List (Nat × Nat) :=
  (List.range (if d.paged then d.rank - 1 else d.rank)).filterMap fun k => if k = 0 then none else some (d.size k, d.stride k)

/-- A tensor with a zero size is empty (R97). -/
def Desc.empty (d : Desc) : Bool := (List.range d.rank).any fun k => d.size k == 0

/-- Bytes from the base to the last byte of a block of rows (R103). -/
def Desc.extent (d : Desc) : Nat :=
  (d.strided.foldl (fun n e => n + (e.1 - 1) * e.2) 0) + rowLen d.fmt (d.size 0)

/-- The bytes that must lie in one allocation: the footprint, or the page table (R103, R107). -/
def Desc.footprint (d : Desc) : Nat :=
  if d.paged then 8 * d.size (d.rank - 1) else if d.empty then 0 else d.extent

/-! ### Overlap (R104) -/

/-- Whether rows at distance `t` plus some choice of coordinate differences lie closer than `len`; `nz` when a difference
so far is not zero. -/
def overlapFrom (len : Nat) : List (Nat × Nat) → Int → Bool → Bool
  | [], t, nz => nz && decide (t.natAbs < len)
  | (n, st) :: rest, t, nz =>
    if st = 0 then overlapFrom len rest t nz
    else
      let r : Int := ((len + rest.foldl (fun a e => a + (e.1 - 1) * e.2) 0 : Nat) : Int)
      let lo : Int := max (-((n : Int) - 1)) ((-r - t) / (st : Int))
      let hi : Int := min ((n : Int) - 1) ((r - t) / (st : Int) + 1)
      (List.range (hi - lo + 1).toNat).any fun i =>
        let dlt : Int := lo + (i : Int)
        overlapFrom len rest (t + dlt * (st : Int)) (nz || decide (dlt ≠ 0))

/-- The `OVERLAP` flag (R104). -/
def Desc.overlaps (d : Desc) : Bool :=
  d.strided.any (fun e => decide (1 < e.1) && e.2 == 0) ||
    (!d.empty && overlapFrom (rowLen d.fmt (d.size 0)) (insSort (fun a b => decide (b.2 < a.2)) d.strided) 0 false)

/-- The `MISALIGNED` flag (R110). -/
def Desc.misaligns (d : Desc) : Bool :=
  !d.aligned && ((!d.paged && d.base % 64 != 0) || d.strided.any fun e => decide (1 < e.1) && e.2 % 64 != 0)

/-! ### Checks of creation (R109) -/

/-- Check 1: reserved fields and codes (R97, R98, R113). -/
def Desc.check1 (d : Desc) : Bool :=
  let w0 := d.w 0
  !bit w0 7 && !bit w0 9 && !bit w0 15 && fld w0 31 18 == 0 && d.w 7 == 0
  && (List.range 4).all (fun k => fld (d.w (9 + 2 * k)) 31 16 == 0)
  && fld (d.w 17) 31 24 == 0 && fld (d.w 21) 31 5 == 0 && d.w 22 == 0 && d.w 23 == 0
  && decide (d.fmt < 14) && decide (1 ≤ d.rank) && decide (d.rank ≤ 5) && decide (fld w0 11 10 < 2)
  && decide (d.space < 4) && decide (d.blkAxis < 3)
  && (List.range 5).all (fun k => decide (k < d.rank) || (d.size k == 0 && d.stride k == 0))
  && (d.space != 0 || decide (d.base < 2 ^ 39)) && (d.space != 1 || decide (d.base < 2 ^ 31))
  && (d.paged || d.pgLog2 == 0)
  && [d.scaleH, d.pscaleH, d.escH].all fun h => h == 0 || hTag h != 0

/-- An FP32 pattern is finite. -/
def finite32 (w : Word) : Bool := fld w 30 23 != 255

/-- `FILL` is legal for the format (R114). -/
def Desc.fillOk (d : Desc) : Bool :=
  match d.fmt with
  | 0xC => true
  | 0xD => fld d.fill 31 16 == 0
  | 0x9 => fld d.fill 31 8 == 0 && d.fill != 0xFF
  | 0xA => fld d.fill 31 8 == 0 && d.fill != 0xFF
  | _ => finite32 d.fill

/-- Check 2: format combination (R99), `FILL` (R114), paged constraints (R105). -/
def Desc.check2 (d : Desc) : Bool :=
  let sc := d.scaleH != 0
  let ps := d.pscaleH != 0
  let es := d.escH != 0
  let combo := match d.fmt with
    | 0 => d.blkAxis == 0 && !sc && !ps && !es
    | 1 => d.blkAxis == 0 && !sc && !ps && !es
    | 0xC => d.blkAxis == 0 && !sc && !ps && !es
    | 0xD => d.blkAxis == 0 && !sc && !ps && !es
    | 0xA => d.blkAxis == 0 && !sc && !ps && !es && d.rank == 1
    | 0x9 => d.blkAxis == 0 && !sc && !ps && !es && d.rank == 1 && d.aligned
    | 2 => (d.blkAxis == 1 || (d.blkAxis == 2 && decide (2 ≤ d.rank))) && sc && !ps && !es
    | 3 => (d.blkAxis == 1 || (d.blkAxis == 2 && decide (2 ≤ d.rank))) && sc && !ps && !es
    | 4 => d.blkAxis == 1 && sc && !ps && !es
    | 5 => d.blkAxis == 1 && sc && !ps && !es
    | 6 => d.blkAxis == 1 && sc && !ps && !es
    | 7 => d.blkAxis == 1 && sc && ps && d.aligned && d.rank == 2
    | 8 => d.blkAxis == 1 && sc && ps && d.aligned && d.rank == 2
    | 0xB => d.blkAxis == 1 && !sc && !ps && !es && d.aligned && d.rank == 1
    | _ => false
  combo && d.fillOk
  && (d.blkAxis == 0 || d.size (d.blkAxis - 1) % 32 == 0) && (!d.aligned || d.size 0 % 64 == 0)
  && (!d.paged || (decide (2 ≤ d.rank) && d.stride (d.rank - 1) == 0 && (d.space == 0 || d.space == 2)
        && decide (12 ≤ d.pgLog2) && decide (d.pgLog2 ≤ 21) && decide (d.extent ≤ 2 ^ d.pgLog2)))

/-- Check 4: the auxiliary descriptors (R100, R101, R102). -/
def State.check4 (s : State) (d : Desc) : Bool :=
  let aux (h : Word) (q : Desc → Bool) : Bool :=
    match s.handle h with
    | .null => true
    | .live _ a => a.part == d.part && !a.paged && a.rank == 1 && q a
    | _ => false
  let blocks := (List.range d.rank).foldl (fun n k => n * d.size k) 1 / 32
  aux d.scaleH (fun a => a.space == d.space && a.fmt == (if d.fmt = 7 ∨ d.fmt = 8 then 0x9 else 0xA) && decide (blocks ≤ a.size 0))
  && aux d.pscaleH (fun a => a.fmt == 1 && decide (ceilDiv (d.size 1) 256 ≤ a.size 0))
  && aux d.escH (fun a => a.fmt == 0xB)

/-- The address ranges granted to a partition in a space (R107): allocations, Shelf host areas (R646), a POOL slower-tier
window; a HOST window grants nothing beyond the host-memory allocation that it lies in (R299). -/
def State.grants (s : State) (p space : Nat) : List (Nat × Nat) :=
  let pg := s.getP p
  (s.allocs.filterMap fun e => if e.2.part = p ∧ e.2.space = space ∧ e.2.freed = false then some (e.2.base, e.2.size) else none)
  ++ (if space = 1 then
        (List.range 4).map fun q => (2 ^ 29 * q + 2 ^ 20 * (nth pg.shfHbase q 0).toNat, 2 ^ 20 * (nth pg.shfHost q 0).toNat)
      else [])
  ++ (if pg.slowSpace = 3 ∧ space = 3 then [(pg.slowBase.toNat, pg.slowSize.toNat)] else [])

/-- Whether a byte range lies wholly inside one grant; an empty range needs its address inside one (R107). -/
def State.inGrant (s : State) (p space addr len : Nat) : Bool :=
  (s.grants p space).any fun g => decide (g.1 ≤ addr) && decide (addr + len ≤ g.1 + g.2) && decide (addr < g.1 + g.2)

/-- Slots counted against the descriptor quota: in use, destroyed or not (R116). -/
def State.dscUse (s : State) (p : Nat) : Nat :=
  (s.desc.filter fun e => match e.2.desc with | some d => d.part == p | none => false).length

/-- The free slot with the lowest tag, then the lowest number (R115); a slot that is not listed is free with tag 1. -/
def State.freeSlot (s : State) : Option (Nat × Nat) :=
  let i := SMap.freeFrom s.desc 0 s.desc.length
  if i < 262144 then some (i, 1)
  else
    (least (fun a b => lexLt [a.2, a.1] [b.2, b.1])
      (s.desc.filterMap fun e => if e.2.desc.isNone ∧ e.2.retired = false then some (e.1, e.2.tag) else none))

def State.setSlot (s : State) (i : Nat) (v : DescSlot) : State := { s with desc := SMap.set DescSlot.fresh s.desc i v }

/-- Take or drop one reference on the slot of a handle (R116). -/
def State.addRef (s : State) (i : Nat) : State := s.setSlot i { s.slot i with refs := (s.slot i).refs + 1 }

/-- The slot of a destroyed descriptor without references becomes free (R115). -/
def DescSlot.settle (v : DescSlot) : DescSlot := if v.dead ∧ v.refs = 0 then { v with desc := none, dead := false } else v

/-- The auxiliary slots of a descriptor. -/
def Desc.aux (d : Desc) : List Nat := ([d.scaleH, d.pscaleH, d.escH].filter (· != 0)).map hSlot

/-- Drop one reference; when the slot becomes free its auxiliary references go too (R102). An auxiliary descriptor has
none of its own (R99). -/
def State.dropRef (s : State) (i : Nat) : State :=
  let v := s.slot i
  let v' := DescSlot.settle { v with refs := v.refs - 1 }
  let s := s.setSlot i v'
  match v.desc, v'.desc with
  | some d, none =>
    d.aux.foldl (fun s j => s.setSlot j (DescSlot.settle { s.slot j with refs := (s.slot j).refs - 1 })) s
  | _, _ => s

/-- Whether a descriptor lies in an address range of a space: wholly; on the Shelf, where the top of a host area can be
released, with any byte (R108, R376). -/
def Desc.liesIn (d : Desc) (p space base size : Nat) : Bool :=
  d.part == p && d.space == space && decide (d.base < base + size)
  && (if space = 1 then decide (base < d.base + max 1 d.footprint)
      else decide (base ≤ d.base) && decide (d.base + d.footprint ≤ base + size))

/-- Freed allocations whose descriptors are all released give their memory back (R108). -/
def State.sweepAllocs (s : State) : State :=
  s.allocs.foldl (fun s e =>
    if e.2.freed ∧ (s.desc.any fun x => match x.2.desc with
        | some d => x.2.dead && d.liesIn e.2.part e.2.space e.2.base e.2.size | none => false) = false then
      { (s.modCab fun c => c.release (.alloc e.1)) with allocs := SMap.erase s.allocs e.1 }
    else s) s

/-- Destroy the descriptor of a slot: its tag rises, or the slot is retired (R115, R117). -/
def State.destroySlot (s : State) (i : Nat) : State :=
  let v := s.slot i
  let last := v.tag = 0x3FFF
  let s := s.setSlot i { v with dead := true, refs := v.refs + 1, tag := if last then v.tag else v.tag + 1, retired := v.retired || decide last }
  let s := if last then s.modMgt fun m => { m with dscRetired := m.dscRetired + 1 } else s
  (s.dropRef i).sweepAllocs

/-- Destroy every live descriptor in a range that is being released (R108). -/
def State.destroyIn (s : State) (p space base size : Nat) : State :=
  s.desc.foldl (fun s e => match e.2.desc with
    | some d => if e.2.dead = false ∧ d.liesIn p space base size = true then s.destroySlot e.1 else s
    | none => s) s

/-- The checks of R109 in order on an image for a partition: the handle, or the status of the first that fails. -/
def State.createDesc (s : State) (p : Nat) (img : List Word) : Except Status (Word × Desc) × State :=
  let d0 : Desc := { part := p, words := img, overlap := false, misaligned := false }
  let aux := [d0.scaleH, d0.pscaleH, d0.escH]
  if d0.check1 = false then (.error .descInvalid, s)
  else if d0.check2 = false then (.error .descInvalid, s)
  else if aux.any (fun h => s.handle h == .stale) then (.error .descStale, s)
  else if s.check4 d0 = false then (.error .descInvalid, s)
  else if d0.aligned ∧ (d0.base % 64 ≠ 0 ∨ ((List.range d0.rank).any fun k => d0.stride k % 64 != 0) = true) then
    (.error .alignFault, s)
  else if s.inGrant p d0.space d0.base d0.footprint = false then (.error .descInvalid, s)
  else
    match s.freeSlot with
    | none => (.error .noCapacity, s)
    | some (i, tag) =>
      if (s.getP p).dscQuota.toNat ≤ s.dscUse p then (.error .noCapacity, s)
      else
        let d := { d0 with overlap := d0.overlaps, misaligned := d0.misaligns }
        let s := s.setSlot i { tag := tag, desc := some d, dead := false, refs := 0, retired := false }
        (.ok (BitVec.ofNat 32 (2 ^ 18 * tag + i), d), d.aux.foldl (fun s j => s.addRef j) s)

/-- `DESC_CREATE` (R96, R109). -/
def execDescCreate (f : RclFrame) (s : State) : Host.Outcome State Fault Refusal :=
  .next <| s.serve 0x10 none none f fun _ s =>
    if f.data.length ≠ 128 ∨ fld (f.word 0) 31 5 ≠ 0 ∨ ((f.data.drop 4).take 28).any (· != 0) = true then
      (.now .descInvalid [], s)
    else
      match s.createDesc (fld (f.word 0) 4 0) (wordsOf (f.data.drop 32) 24) with
      | (.ok (h, d), s) => (.now .ok (bytes4 [h.toNat, b2n d.overlap + at_ (b2n d.misaligned) 1]), s)
      | (.error st, s) => (.now st [], s)

/-- `DESC_DESTROY` (R115): OK for a live handle; DESC_STALE for a stale one (R119); otherwise DESC_INVALID (R113). -/
def execDescDestroy (f : RclFrame) (s : State) : Host.Outcome State Fault Refusal :=
  .next <| s.serve 0x11 none none f fun _ s =>
    if f.data.length ≠ 4 then (.now .descInvalid [], s)
    else
      match s.handle (f.word 0) with
      | .live i _ => (.now .ok [], s.destroySlot i)
      | .stale => (.now .descStale [], s)
      | _ => (.now .descInvalid [], s)

/-- `ALLOC` (R467). -/
def execAlloc (f : RclFrame) (s : State) : Host.Outcome State Fault Refusal :=
  .next <| s.serve 0x12 none none f fun _ s =>
    let p := fld (f.word 0) 4 0
    let space := fld (f.word 0) 10 8
    let size := f.pl 8 8
    let base := f.pl 16 8
    if f.data.length ≠ 24 ∨ fld (f.word 0) 7 5 ≠ 0 ∨ fld (f.word 0) 31 11 ≠ 0 ∨ f.word 4 ≠ 0 then (.now .descInvalid [], s)
    else if (space ≠ 0 ∧ space ≠ 2) ∨ size = 0 ∨ size % granule ≠ 0 ∨ base % granule ≠ 0 then (.now .descInvalid [], s)
    else
      let grant (s : State) (b : Nat) : Answer × State :=
        (.now .ok (leBytes 8 s.allocNext ++ leBytes 8 b),
          { s with
            allocs := SMap.insert s.allocs s.allocNext { part := p, space := space, base := b, size := size, freed := false }
            allocNext := s.allocNext + 1 })
      if space = 0 then
        if base ≠ 0 then (.now .descInvalid [], s)
        else
          match s.charge p (size / granule) (.alloc s.allocNext) with
          | (some g, s) => grant s (gAddr g)
          | (none, s) => (.now .noCapacity [], s)
      else if 2 ^ 56 < base + size ∨ (s.allocs.any fun e => e.2.space == 2 && e.2.part != p
          && decide (base < e.2.base + e.2.size) && decide (e.2.base < base + size)) = true then (.now .descInvalid [], s)
      else grant s base

/-- `ALLOC_FREE` (R108): destroys the descriptors in it; the memory stays reserved while references hold it. -/
def execAllocFree (f : RclFrame) (s : State) : Host.Outcome State Fault Refusal :=
  .next <| s.serve 0x13 none none f fun _ s =>
    match s.allocs.find? fun e => e.1 == f.pl 0 4 with
    | some (i, a) =>
      if f.data.length ≠ 4 ∨ a.freed = true then (.now .descInvalid [], s)
      else
        let s := s.destroyIn a.part a.space a.base a.size
        (.now .ok [], State.sweepAllocs { s with allocs := SMap.insert s.allocs i { a with freed := true } })
    | none => (.now .descInvalid [], s)

end Sys2Proof.Machine
end

