-- ==== Sys2Proof/Machine/RppBytes.lean ====
section
/-! DEFINITION. The RPP payloads that spec/ lays out in bytes: the notice record (R322), the VISIT stream (R333) and the four notices of
R363, all little-endian (R7); and how a payload of more than 65,536 bytes is cut into frames (R333, R339). -/

namespace Sys2Proof.Machine

open Sys2Proof

/-- Cut a list into pieces of at most n. -/
def pieces {α : Type} (n : Nat) : Nat → List α → List (List α)
  | 0, _ => []
  | fuel + 1, l => if l.length ≤ n then [l] else l.take n :: pieces n fuel (l.drop n)

/-! ### The notice record (R322) -/

/-- `PSET`: bit p mod 8 of byte p / 8 for each projection p of the set. -/
def psetBytes (projs : List Nat) : List Byte :=
  (List.range 512).map fun j => BitVec.ofNat 8 (leastBits ((List.range 8).map fun i => projs.contains (8 * j + i)))
where
  /-- The number whose bits, from bit 0 up, are the listed ones. -/
  leastBits : List Bool → Nat
    | [] => 0
    | b :: bs => b2n b + 2 * leastBits bs

/-- A notice record as its 576 bytes. -/
def NoteRec.bytes (r : NoteRec) : List Byte :=
  bytes4 [r.aid + at_ (b2n r.valid) 24 + at_ (b2n r.learn) 25, r.epoch, r.ward + at_ r.bminor 20, r.blen,
      r.rank + at_ r.wfmtA 16 + at_ r.wfmtB 20, r.projs.length, r.lbytes, r.gbytes]
    ++ List.replicate 32 0 ++ psetBytes r.projs

/-! ### The VISIT stream (R333) -/

/-- Elements of `w` bits each, the first in the lowest bits. -/
def packBits (w : Nat) (els : List Nat) : List Byte :=
  leBytes (ceilDiv (w * els.length) 8) (els.foldr (fun e a => e % 2 ^ w + 2 ^ w * a) 0)

/-- `n` elements of `w` bits from bytes. -/
def unpackBits (w n : Nat) (bs : List Byte) : List Nat := (List.range n).map fun i => leNat bs / 2 ^ (w * i) % 2 ^ w

/-- Bytes of a vector of `n` elements in a record: elements, E8M0 scales, padding to 64. -/
def visitVec (fmt n : Nat) : Nat := roundUp (rowLen fmt n + (if fmt ≤ 1 then 0 else n / 32)) 64

/-- A vector as its bytes. -/
def QVec.bytes (v : QVec) : List Byte :=
  let bs := packBits (rowLen v.fmt 32 / 4) v.els ++ v.scl.map (BitVec.ofNat 8)
  bs ++ List.replicate (roundUp bs.length 64 - bs.length) 0

/-- A vector of `n` elements from its bytes. -/
def vecOf (fmt n : Nat) (bs : List Byte) : QVec :=
  { fmt := fmt, els := unpackBits (rowLen fmt 32 / 4) n bs
    scl := if fmt ≤ 1 then [] else (List.range (n / 32)).map fun i => (bs.getD (rowLen fmt n + i) 0).toNat }

/-- The 32-byte header of a VISIT record. -/
def VisitRec.header (r : VisitRec) : List Byte :=
  bytes4 [r.aid, r.epoch, r.proj + at_ r.afmt 12 + at_ r.hfmt 16 + at_ r.ofmt 18 + at_ (b2n r.honly) 19, r.vecs.length, r.first, 0]
    ++ leBytes 8 (r.sseq + at_ r.part 48)

/-- A header read back: the record without its vectors, and how many follow. -/
def recOf (bs : List Byte) : VisitRec × Nat :=
  let w (k : Nat) : Nat := leAt bs (4 * k) 4
  ({ aid := bitsN (w 0) 23 0, epoch := w 1, proj := bitsN (w 2) 11 0, afmt := bitsN (w 2) 15 12, hfmt := bitsN (w 2) 17 16
     ofmt := bitsN (w 2) 18 18, honly := bitN (w 2) 19, first := w 4, sseq := leAt bs 0x18 6, part := bitsN (leAt bs 0x18 8) 52 48
     vecs := [] }, bitsN (w 3) 15 0)

/-- The payloads of the frames of an exchange: a frame ends where fewer than 32 bytes remain for the next header; vectors span
frames. -/
def visitFrames (recs : List VisitRec) : List (List Byte) :=
  let st := recs.foldl (fun (st : List (List Byte) × List Byte) r =>
    let st := if 65536 < st.2.length + 32 then (st.1 ++ [st.2], []) else st
    let all := st.2 ++ r.header ++ r.vecs.flatMap QVec.bytes
    let cs := pieces 65536 (all.length / 65536 + 1) all
    (st.1 ++ cs.dropLast, cs.getLastD [])) ([], [])
  st.1 ++ [st.2]

/-- The next n bytes of a stream of frames; `fuel` bounds the frames they span. -/
def takeBytes : Nat → Nat → List (List Byte) → List Byte × List (List Byte)
  | 0, _, fs => ([], fs)
  | _ + 1, _, [] => ([], [])
  | fuel + 1, n, f :: fs =>
    if n ≤ f.length then (f.take n, f.drop n :: fs) else let r := takeBytes fuel (n - f.length) fs; (f ++ r.1, r.2)

/-- The frame that holds the next header. -/
def atHeader : List (List Byte) → List (List Byte)
  | [] => []
  | f :: fs => if f.length < 32 then fs else f :: fs

/-- The records of a stream of frames, `none` where its last record is not whole; `form` gives the format and the width of a record's
vectors. -/
def visitRead (form : VisitRec → Nat × Nat) : Nat → List (List Byte) → Option (List VisitRec)
  | 0, _ => Option.none
  | fuel + 1, fs =>
    match atHeader fs with
    | [] => some []
    | fs =>
      let h := takeBytes 1 32 fs
      let r := recOf h.1
      let n := visitVec (form r.1).1 (form r.1).2
      let v := takeBytes (fs.length + 1) (n * r.2) h.2
      if v.1.length < n * r.2 then Option.none
      else
        (visitRead form fuel v.2).map fun l =>
          { r.1 with vecs := (List.range r.2).map fun i => vecOf (form r.1).1 (form r.1).2 ((v.1.drop (n * i)).take n) } :: l

/-! ### The notices of R363 -/

/-- Payload of `INVALIDATE`, `EVICT_NOTICE` and `RETIRE_ACK`: the batch number, then the pairs. -/
def batchBytes (n : Nat) (l : List (Nat × Nat)) : List Byte := bytes4 [n, 0] ++ l.flatMap fun x => bytes4 [x.1, x.2]

/-- The bytes of a payload that spec/ lays out; `none` for the others. -/
def RppPl.bytes : RppPl → Option (List Byte)
  | .none => some []
  | .notes l => some (l.flatMap NoteRec.bytes)
  | .batch n l => some (batchBytes n l)
  | .data _ bs _ => some bs
  | .visit l => some (visitFrames l).flatten
  | .part bs => some bs
  | _ => Option.none

/-- `LEN` of a payload: the count of its bytes, or, where spec/ does not lay them out, a free value (log entry 35). -/
def RppPl.len (pl : RppPl) : Nat :=
  match pl with
  | .notes l => 576 * l.length
  | .batch _ l => 8 + 8 * l.length
  | _ => match pl.bytes with
    | some bs => bs.length
    | Option.none => Config.rppLen pl

end Sys2Proof.Machine
end

