-- ==== Sys2Proof/Machine/Reset.lean ====
section
/-! DEFINITION. What a reset leaves (R597, R480, R506, R580): everything at its reset value but the fuses, the RAS log, the
repair list and the fences. -/

namespace Sys2Proof.Machine

open Sys2Proof

/-- The RAS block over a reset: the log, the repair list and the fences stay (R580, R597, R644). -/
def Ras.kept (r : Ras) : Ras :=
  { Ras.reset with
    fenceQ := r.fenceQ, fenceFab := r.fenceFab, fenceShf := r.fenceShf, fencePair := r.fencePair,
    lseqLast := r.lseqLast, log := r.log, repair := r.repair, spares := r.spares, config := 0 }

/-- The fuses over a reset (R597): life-cycle state, transfers, minimums and root digest; the storage keys' generation
counts on (R507). -/
def Sec.kept (c : Sec) : Sec :=
  { Sec.reset with
    lcState := c.lcState, lcXfers := c.lcXfers, svnFw := c.svnFw, svnCfg := c.svnCfg, opRoot := c.opRoot,
    xtsGen := c.xtsGen, bootGen := c.bootGen }

/-! ### Configuration (R586) -/

/-- Fenced pairs, halves and Q-dies; units on a fenced Q-die are left out. -/
def Ras.loosePairs (r : Ras) : Nat := ((List.range 64).filter fun i => r.fencePair.getLsbD i && !r.fenceQ.getLsbD (i / 16)).length
def Ras.looseHalves (r : Ras) : Nat := ((List.range 8).filter fun i => r.fenceShf.getLsbD i && !r.fenceQ.getLsbD (i / 2)).length
def Ras.fencedDies (r : Ras) : Nat := ((List.range 4).filter fun i => r.fenceQ.getLsbD i).length

/-- The first declared configuration that covers every fenced unit; 0xFF where none does. -/
def Ras.configCode (r : Ras) : Nat :=
  if r.loosePairs = 0 ∧ r.looseHalves = 0 ∧ r.fencedDies = 0 then 0
  else if r.looseHalves = 0 ∧ r.fencedDies = 0 ∧ r.loosePairs ≤ 8 then r.loosePairs
  else if r.loosePairs = 0 ∧ r.fencedDies = 0 then 8 + r.looseHalves
  else if r.loosePairs = 0 ∧ r.looseHalves = 0 ∧ r.fencedDies = 1 then 0xD
  else 0xFF

/-! ### Reset and boot -/

/-- The hinge ports stop at a reset: what had left of each response at the head of an egress is free (R224). -/
def State.stopPorts (s : State) : State := [0, 1, 2, 3].foldl (fun (s : State) q => s.portDown q 0) s

/-- A sudden reset: queues, responses, notices and credits are discarded (R480), every table and register returns to its
reset value, writes on their way are lost (R231). The frames already sent stay on record. -/
def State.deviceReset (s0 : State) : State :=
  let s := s0.stopPorts
  { State.reset with
    pending := s.pending
    freeCtr := s.freeCtr
    flash := s.flash
    mgt := { Mgt.reset with devId := s.mgt.devId, jep := s.mgt.jep }
    sec := s.sec.kept
    ras := s.ras.kept
    pwr := { Pwr.reset with thermtrip := s.pwr.thermtrip }
    lnk := { Lnk.reset with sent := s.lnk.sent }
    hng := s.hng.map fun h => { Hng.reset with sent := h.sent, cut := h.cut, crdRet := h.crdRet }
    fab := { Fab.reset with sent := s.fab.sent }
    pol := { Pol.reset with sent := s.pol.sent, addr := s.pol.addr }
    side := { Side.reset with rstN := s.side.rstN, straps := s.side.straps, pinsIn := s.side.pinsIn } }

/-- Boot starts from ROM (R546): the fuses are sensed and new storage and exchange keys are drawn (R507, R529). -/
def State.startBoot (s : State) : State :=
  { s with
    mgt := { s.mgt with bootStage := 0, coreLive := 0x10, xspiOwn := true }
    sec := { s.sec with xtsGen := s.sec.xtsGen + 1, bootGen := s.sec.bootGen + 1 }
    pwr := { s.pwr with pllLock := 0xF } }

/-- The switched domains of the fenced units: pairs, Shelf halves, Q-die commons, sub-ports (R585, R630). -/
def Ras.fencedDoms (r : Ras) : BitVec 96 :=
  BitVec.ofNat 96 (r.fencePair.toNat + at_ r.fenceShf.toNat 64 + at_ r.fenceQ.toNat 72 + at_ r.fenceFab.toNat 84)

/-- The kept fences take effect as the boot finds them at ROM (R552, R584): tumblers, Shelf dies, links and configuration. -/
def State.applyFences (s : State) : State :=
  let r := s.ras
  { s with
    tum := ((List.range 128).filter fun t => r.fencePair.getLsbD (t / 2)).map fun t => (t, { Tum.reset with st := .fenced })
    shf := s.shf.mapIdx fun q (x : Shf) =>
      let a := r.fenceShf.getLsbD (2 * q)
      let b := r.fenceShf.getLsbD (2 * q + 1)
      { x with
        cap := if r.fenceQ.getLsbD q then 0 else if a || b then 256 else 512
        halfOk := BitVec.ofNat 2 (b2n (!a) + 2 * b2n (!b)) }
    hng := s.hng.mapIdx fun q (h : Hng) => if r.fenceQ.getLsbD q then { h with lstate := 4 } else h
    fab := { s.fab with ports := s.fab.ports.mapIdx fun n (x : FabPort) => if r.fenceFab.getLsbD n then { x with lstate := 4 } else x }
    pwr := { s.pwr with fenced := r.fencedDoms }
    ras := { r with config := BitVec.ofNat 8 r.configCode, unserviceable := r.configCode == 0xFF } }

end Sys2Proof.Machine
end

