-- ==== Sys2Proof/Machine/Security.lean ====
section
/-! DEFINITION. Sessions, tickets, wards, the life cycle and SPDM (R503–R537). What a signature, a decapsulation or a tag
gives is an operand of the command. -/

namespace Sys2Proof.Machine

open Sys2Proof

def State.authFail (s : State) : State := s.modSec fun c => { c with authFails := satAdd c.authFails 1 }

/-- The next index after `last`, wrapping from `hi` to `lo`, that is not in use (R513, R523); `fuel` bounds the search. -/
def nextFree (used : Nat → Bool) (lo hi : Nat) : Nat → Nat → Option Nat
  | 0, _ => none
  | fuel + 1, i =>
    let i := if hi < i then lo else i
    if used i then nextFree used lo hi fuel (i + 1) else some i

/-- End a session: its slot, its ticket and its name go (R520). -/
def State.endSession (s : State) (i : Nat) : State :=
  match s.sec.sessions.find? fun e => e.1 == i with
  | none => s
  | some (_, x) =>
    s.modSec fun c => { c with sessions := SMap.erase c.sessions i, tickets := SMap.erase c.tickets x.ticket }

/-- Whether a majority of the listed seeds is in contact (R306): members of the view with which a session is open, not marked
unreachable, this device counted. -/
def State.majority (s : State) : Bool :=
  let n := s.pol.seedCnt.toNat
  let up := (s.pol.seeds.take n).filter fun a =>
    s.pol.members.any fun m => m.addr == a &&
      (m.inst == s.pol.instId.toNat || s.pol.sess.any fun x => x.inst == m.inst && !x.opening && !x.unreach)
  decide (n < 2 * up.length)

/-- The registrar as this member sees it (R306): the seed of lowest instance ID of the view that it has not marked unreachable; itself
only while it is in contact with a majority. What another seed can reach it does not know (log entry 36). -/
def State.registrar (s : State) : Option Nat :=
  (least (· < ·) ((s.pol.members.filter fun m => (s.pol.seeds.take s.pol.seedCnt.toNat).contains m.addr &&
    (if m.inst = s.pol.instId.toNat then s.majority else !(s.pol.sess.any fun x => x.inst == m.inst && x.unreach))).map (·.inst)))

/-- This device is the seed of lowest instance ID that it can see, and has lost contact with a majority: it issues no views (R306), and what
only the registrar serves times out (R518, R320). -/
def State.lostSeat (s : State) : Bool :=
  s.pol.instValid && !s.majority && least (· < ·) ((s.pol.members.filter fun m => (s.pol.seeds.take s.pol.seedCnt.toNat).contains m.addr &&
    !(s.pol.sess.any fun x => x.inst == m.inst && x.unreach)).map (·.inst)) == some s.pol.instId.toNat

/-- A device whose `SEEDS` lists only itself (R306). -/
def State.poolOfOne (s : State) : Bool := s.pol.seeds.take s.pol.seedCnt.toNat == [s.pol.addr]

def State.isRegistrar (s : State) : Bool :=
  s.pol.instValid && s.registrar == some s.pol.instId.toNat

/-- The ward a digest is bound to in the installed view (R517). -/
def State.wardOf (s : State) (digest : Nat) : Option Nat :=
  (s.pol.wards.find? fun e => e.2 == digest).map (·.1)

/-! ### SESSION_OPEN (R514–R518) -/

/-- Fields of the payload. -/
structure OpenPl where
  kind : Nat
  claim : Bool
  listMode : Bool
  deleg : Bool
  ward : Nat
  ctr : Nat
  life : Nat
  parts : Word
  budget : Nat
  list : List Nat
  deriving DecidableEq, Repr

def openPl (f : RclFrame) : OpenPl :=
  let nl := fld (f.word 0x20) 8 0
  { kind := fld (f.word 0) 1 0, claim := bit (f.word 0) 2, listMode := bit (f.word 0) 3, deleg := bit (f.word 0) 4
    ward := fld (f.word 4) 19 0, ctr := f.pl 8 8, life := f.pl 0x10 4, parts := f.word 0x14
    budget := f.pl 0x18 6, list := (List.range nl).map fun i => f.pl (0x1168 + 4 * i) 4 }

def ascending : List Nat → Bool
  | a :: b :: l => decide (a < b) && ascending (b :: l)
  | _ => true

/-- Check 1 of R515: reserved fields, codes, lengths, and the limits of R514. -/
def openCheck1 (f : RclFrame) : Bool :=
  let p := openPl f
  let nl := fld (f.word 0x20) 8 0
  (p.kind == 1 || p.kind == 2) && fld (f.word 0) 31 5 == 0 && fld (f.word 4) 31 20 == 0
  && fld (f.word 0x1C) 31 16 == 0 && fld (f.word 0x20) 31 9 == 0 && f.word 0x24 == 0
  && (p.kind == 2 || !p.claim) && (p.kind == 1 || !p.deleg)
  && (if p.claim then p.ward == 0 else if p.kind = 1 then p.ward == wardCommon else p.ward != 0 && p.ward != wardCommon)
  && p.life != 0 && p.parts != 0 && p.budget != 0
  && decide (nl ≤ 256) && (p.listMode || nl == 0)
  && f.data.length == 0x2408 + 4 * nl + (if p.deleg then 1024 else 0)
  && p.list.all (fun a => decide (a < 2 ^ 24)) && ascending p.list

/-- Create session and ticket for an accepted open (R513, R522, R523) and give the reply (R516). -/
def State.openSession (s : State) (f : RclFrame) (c : Crypto) (ward si ti : Nat) : List Byte × State :=
  let p := openPl f
  let ep := s.sec.sepochLast + 1
  let se : Session := { operator := p.kind == 1, ward := ward, ticket := ti, sepoch := ep.toNat, upCtr := 0 }
  let tk : Ticket := { ward := ward, list := if p.listMode then some p.list else none, sepoch := ep.toNat,
                       expiry := s.now + msTicks p.life, parts := p.parts, budget := p.budget, session := si }
  (bytes4 [si + at_ ti 16, ward] ++ leBytes 8 ep.toNat ++ c.confirm,
    s.modSec fun x =>
      { x with
        sepochLast := ep, sessions := SMap.insert x.sessions si se, lastSession := some si,
        tickets := SMap.insert x.tickets ti tk, lastTicket := ti })

/-- The session and ticket indices that claims in progress have reserved (R515 check 7). -/
def State.claimIdx (s : State) : List (Nat × Nat) :=
  s.lnk.longs.filterMap fun l => match l.kind with | .claim _ _ _ si ti => some (si, ti) | _ => none

/-- The session and ticket indices that check 7 reserves (R513, R515, R523). -/
def State.openIdx (s : State) : Option (Nat × Nat) :=
  let held := s.claimIdx
  if 16384 ≤ s.sec.sessions.length + held.length then none
  else
    let si := nextFree (fun i => SMap.has s.sec.sessions i || held.any fun x => x.1 == i) 0 0x3FFF 16384
      (match s.sec.lastSession with | none => 0 | some i => i + 1)
    let ti := nextFree (fun i => SMap.has s.sec.tickets i || held.any fun x => x.2 == i) 1 0xFFFF 65535 (s.sec.lastTicket + 1)
    match si, ti with
    | some a, some b => some (a, b)
    | _, _ => none

/-- The lowest tenant ward that no binding, of the view or of views to come, holds (R518). -/
def State.freeWard (s : State) : Option Nat :=
  let taken := s.pol.wards.map (·.1) ++ s.pol.nextView.flatMap (fun v => v.wards.map (·.1))
    ++ (match s.pol.pend with | some v => v.wards.map (·.1) | none => [])
  let rec go : Nat → Nat → Option Nat
    | 0, _ => none
    | fuel + 1, w => if 0xFFFFE < w then none else if taken.contains w then go fuel (w + 1) else some w
  if 65536 ≤ taken.length then none else go (taken.length + 1) 1

/-- An open is accepted: the highest open counter of its key is recorded (R515 check 5). -/
def State.noteCtr (s : State) (digest ctr : Nat) : State :=
  s.modSec fun x => { x with openCtr := (digest, ctr) :: x.openCtr.filter fun e => e.1 != digest }

/-- Bind a claimed ward in the next view (R518): at once in a pool of one, else when the view is acknowledged. -/
def State.bindWard (s : State) (w digest : Nat) : State :=
  s.modPol fun q => { q with nextView := q.nextView ++ [{ num := 0, full := false, add := [], del := [], ranges := [], wards := [(w, digest)] }] }

/-- Whether a view to come binds a digest; a second claim of the digest waits for that binding (R518). -/
def State.wardWaits (s : State) (digest : Nat) : Bool :=
  (s.pol.nextView ++ s.pol.pend.toList).any fun v => v.wards.any fun w => w.2 == digest

/-- Whether an OPERATOR's keys lead to the configuration root (R515 check 3): in DEPLOYED without a delegate, their digest is the fused
one of the operator root; else the operand says so. -/
def State.rootOk (s : State) (p : OpenPl) (c : Crypto) : Bool :=
  if s.sec.lcState = 2 ∧ p.deleg = false then c.digest == s.sec.opRoot else c.rootOk

/-- `SESSION_OPEN`: the checks of R515 in order. -/
def openBody (f : RclFrame) (c : Crypto) (cl : Caller) (s : State) : Answer × State :=
  let p := openPl f
  let lc := s.sec.lcState.toNat
  if openCheck1 f = false then (.now .descInvalid [], s)
  else if p.kind = 2 ∧ lc ≠ 2 ∨ lc = 3 then (.now .authFail [], s)
  else if s.sec.coreFault then (.now .internal [], s)
  else if c.sigOk = false ∨ (p.kind = 1 ∧ s.rootOk p c = false) then (.now .authFail [], s.authFail)
  else if p.kind = 2 ∧ p.claim = false ∧ s.wardOf c.digest ≠ some p.ward then (.now .authFail [], s.authFail)
  else if s.sec.openCtr.any (fun e => e.1 == c.digest && decide (p.ctr ≤ e.2)) then (.now .authFail [], s.authFail)
  else if c.kemOk = false then (.now .authFail [], s.authFail)
  else
    match s.openIdx with
    | none => (.now .noCapacity [], s)
    | some (si, ti) =>
      let fin (s : State) (w : Nat) : Answer × State :=
        let r := (s.noteCtr c.digest p.ctr).openSession f c w si ti
        (.now .ok r.1, r.2)
      if p.claim = false then fin s p.ward
      else if s.lostSeat then (.now .timeout [], s)
      else
        match s.wardOf c.digest with
        | some w => if s.isRegistrar then fin s w else (.now .descInvalid [], s)
        | none =>
          if s.isRegistrar = false then (.now .descInvalid [], s)
          else
            match s.freeWard with
            | none => (.now .noCapacity [], s)
            | some w =>
              if s.poolOfOne ∧ s.pol.members.length ≤ 1 then
                fin (s.modPol fun q => { q with viewNum := q.viewNum + 1, wards := SMap.insert q.wards w c.digest }) w
              else
                let s := s.noteCtr c.digest p.ctr
                (.later, (if s.wardWaits c.digest then s else s.bindWard w c.digest).putLong f cl (.claim c.digest f c si ti))

def execSessionOpen (f : RclFrame) (c : Crypto) (s : State) : Host.Outcome State Fault Refusal :=
  .next (s.serve 0x03 none none f (openBody f c))

/-- Claims that wait for their view are answered once their digest is bound (R518). -/
def State.settleClaims (s : State) : State :=
  s.lnk.longs.foldl (fun s l => match l.kind with
    | .claim dg f c si ti =>
      match s.wardOf dg with
      | some w => let r := s.openSession f c w si ti; r.2.endLong l.id .ok r.1
      | none => s
    | _ => s) s

/-- The security core faults during claims (R534): they are answered INTERNAL, and what no view has yet taken up is not bound. -/
def State.failClaims (s : State) : State :=
  s.lnk.longs.foldl (fun (s : State) l => match l.kind with
    | .claim dg _ _ _ _ =>
      (s.modPol fun q =>
        { q with nextView := q.nextView.map fun v => { v with wards := v.wards.filter fun w => w.2 != dg } }).endLong l.id .internal []
    | _ => s) s

/-- `SESSION_CLOSE` (R520, R521): an index without an open session is DESC_INVALID from every session; a TENANT closes only
itself. -/
def execSessionClose (f : RclFrame) (s : State) : Host.Outcome State Fault Refusal :=
  .next <| s.serve 0x04 none none f fun cl s =>
    let i := fld (f.word 0) 15 0
    if f.data.length ≠ 4 ∨ fld (f.word 0) 31 16 ≠ 0 then (.now .descInvalid [], s)
    else if s.sec.coreFault then (.now .internal [], s)
    else if SMap.has s.sec.sessions i = false then (.now .descInvalid [], s)
    else if i ≠ cl.idx ∧ (cl.sess.map (·.operator)) ≠ some true then (.now .wardFault [], s)
    else (.now .ok [], s.endSession i)

/-- `TICKET_EXPIRY` (R520, R524): the ticket's lifetime has run out; its session ends. -/
def execTicketExpiry (t : Nat) (s : State) : Host.Outcome State Fault Refusal :=
  .next <|
    match s.sec.tickets.find? fun e => e.1 == t with
    | some (_, k) => if k.expiry ≤ s.now then s.endSession k.session else s
    | none => s

/-! ### Life cycle (R503–R507) -/

/-- The transitions of R504. -/
def lcStep (a b : Nat) : Bool := (a == 0 && b == 1) || (a == 1 && b == 2) || (a == 2 && b == 1) || (decide (a < 3) && b == 3)

/-- Whether a transition counts in `LC_XFERS` (R504). -/
def lcCounts (a b : Nat) : Bool := (a == 1 && b == 2) || (a == 2 && b == 1)

/-- `LIFECYCLE` (R505): fuses, answer, every session closed, then the wipe and a reset. The RAS log, the repair list and
the fences are cleared (R580). -/
def execLifecycle (f : RclFrame) (c : Crypto) (s : State) : Host.Outcome State Fault Refusal :=
  let tgt := fld (f.word 0) 1 0
  let cur := s.sec.lcState.toNat
  let root := f.pl 0x18 48
  let ok (s : State) : Option Status :=
    if f.data.length ≠ 0x12E8 ∨ fld (f.word 0) 31 2 ≠ 0 ∨ f.word 4 ≠ 0 ∨ fld (f.word 0x10) 31 4 ≠ 0 ∨ f.word 0x14 ≠ 0
        ∨ (tgt ≠ 2 ∧ root ≠ 0) ∨ lcStep cur tgt = false ∨ f.pl 8 8 ≠ s.mgt.devId.toNat then some .descInvalid
    else if s.sec.coreFault then some .internal
    else if fld (f.word 0x10) 3 0 ≠ s.sec.lcXfers.toNat ∨ (lcCounts cur tgt = true ∧ s.sec.lcXfers.toNat = 15) then
      some .noCapacity
    else if c.sigOk = false then some .authFail
    else none
  let answered := s.serve 0x05 none none f fun _ s =>
    match ok s with
    | some .authFail => (.now .authFail [], s.authFail)
    | some st => (.now st [], s)
    | none =>
      (.now .ok [], s.modSec fun x =>
        { x with
          lcState := BitVec.ofNat 2 tgt
          lcXfers := if lcCounts cur tgt then x.lcXfers + 1 else x.lcXfers
          opRoot := if tgt = 2 then root else if tgt = 3 then x.opRoot else 0
          sessions := [], tickets := [] })
  .next <|
    if answered.sec.lcState = s.sec.lcState then answered
    else
      let r := answered.deviceReset.startBoot
      { r with ras := Ras.reset }

/-! ### SPDM (R510) -/

/-- SPDM request codes; PRESUMED from DMTF SPDM 1.3, which R510 names. -/
def spdmCodes : List (Nat × Nat) :=
  [(0x84, 0x04), (0xE1, 0x61), (0xE3, 0x63), (0x81, 0x01), (0x82, 0x02), (0x83, 0x03), (0xE0, 0x60)]

/-- The response to one SPDM request: version 0x13 (0x10 for `GET_VERSION`), response code, then a body that spec/ does
not lay out. An unsupported request gives the `UnsupportedRequest` error (code 0x7F, error 0x07). Requests out of order
(algorithms not negotiated) give the `UnexpectedRequest` error (0x04). -/
def spdmAnswer (s : State) (req : Nat) : List Byte × State :=
  let err (e : Nat) : List Byte := [0x13, 0x7F, BitVec.ofNat 8 e, 0]
  match spdmCodes.find? fun e => e.1 == req with
  | none => (err 0x07, s)
  | some (_, rsp) =>
    let body := Config.spdmBody req s.freeCtr
    let s := s.fresh.2
    let ok (v : Nat) : List Byte := [BitVec.ofNat 8 v, BitVec.ofNat 8 rsp, 0, 0] ++ body
    if req = 0x84 then (ok 0x10, s.modSec fun c => { c with spdmVer := true, spdmAlg := false })
    else if s.sec.spdmVer = false then (err 0x04, s)
    else if req = 0xE1 then (ok 0x13, s)
    else if req = 0xE3 then (ok 0x13, s.modSec fun c => { c with spdmAlg := true })
    else if s.sec.spdmAlg = false then (err 0x04, s)
    else (ok 0x13, s)

/-- Serve an `SPDM` command whose request code passes a test; another code is no command of the row. -/
def State.spdm (s : State) (f : RclFrame) (q : Nat → Bool) : State :=
  if q (f.pl 1 1) then
    s.serve 0x02 none none f fun _ s =>
      if s.sec.coreFault then (.now .internal [], s)
      else if f.data.length < 4 then (.now .descInvalid [], s)
      else let r := spdmAnswer s (f.pl 1 1); (.now .ok r.1, r.2)
  else s

def execSpdm (f : RclFrame) (s : State) : Host.Outcome State Fault Refusal := .next (s.spdm f fun _ => true)
def execGetVersion (f : RclFrame) (s : State) : Host.Outcome State Fault Refusal := .next (s.spdm f (· == 0x84))
def execGetCapabilities (f : RclFrame) (s : State) : Host.Outcome State Fault Refusal := .next (s.spdm f (· == 0xE1))
def execNegotiateAlgorithms (f : RclFrame) (s : State) : Host.Outcome State Fault Refusal := .next (s.spdm f (· == 0xE3))
def execGetDigests (f : RclFrame) (s : State) : Host.Outcome State Fault Refusal := .next (s.spdm f (· == 0x81))
def execGetCertificate (f : RclFrame) (s : State) : Host.Outcome State Fault Refusal := .next (s.spdm f (· == 0x82))
def execChallenge (f : RclFrame) (s : State) : Host.Outcome State Fault Refusal := .next (s.spdm f (· == 0x83))
def execGetMeasurements (f : RclFrame) (s : State) : Host.Outcome State Fault Refusal := .next (s.spdm f (· == 0xE0))

end Sys2Proof.Machine
end

