-- ==== Sys2Proof/Machine/PoolBase.lean ====
section
/-! DEFINITION. The pool's shared operations (R305–R349): who owns a range, sessions, sending messages and requests. A peer is
named by its instance ID, or by 65,536 + its fabric address before it is known by one. -/

namespace Sys2Proof.Machine

open Sys2Proof

/-! ### Header fields (R339) -/

def RppMsg.major (m : RppMsg) : Nat := fld m.hdr.w0 7 0
def RppMsg.type (m : RppMsg) : Nat := fld m.hdr.w0 23 16
def RppMsg.vc (m : RppMsg) : Nat := fld m.hdr.w0 25 24
def RppMsg.last (m : RppMsg) : Bool := bit m.hdr.w0 26
def RppMsg.unj (m : RppMsg) : Bool := bit m.hdr.w0 27
def RppMsg.unjd (m : RppMsg) : Bool := bit m.hdr.w0 28
def RppMsg.src (m : RppMsg) : Nat := fld m.hdr.w1 15 0
def RppMsg.dst (m : RppMsg) : Nat := fld m.hdr.w1 31 16
def RppMsg.tag (m : RppMsg) : Nat := m.hdr.w2.toNat
def RppMsg.view (m : RppMsg) : Nat := m.hdr.w3.toNat
def RppMsg.aid (m : RppMsg) : Nat := fld m.hdr.w4 23 0
def RppMsg.status (m : RppMsg) : Status := statusOf (fld m.hdr.w4 31 24)
def RppMsg.epoch (m : RppMsg) : Nat := m.hdr.w5.toNat
def RppMsg.len (m : RppMsg) : Nat := fld m.hdr.w6 16 0
def RppMsg.seg (m : RppMsg) : Nat := m.hdr.w7.toNat

/-- The channel of a type (R338); `REDIRECT` (0x0A) travels on any. -/
def rppVc (ty : Nat) : Nat :=
  if ty ≤ 0x0E ∨ ty = 0x30 ∨ ty = 0x32 ∨ ty = 0x33 then 0
  else if ty = 0x13 ∨ ty = 0x14 ∨ ty = 0x15 ∨ ty = 0x18 ∨ ty = 0x1D ∨ ty = 0x1E ∨ ty = 0x31 then 2
  else if 0x20 ≤ ty then 3
  else 1

/-- Types that are not reserved (R340). -/
def rppType (ty : Nat) : Bool :=
  (decide (1 ≤ ty ∧ ty ≤ 0x0E)) || decide (0x10 ≤ ty ∧ ty ≤ 0x23) || decide (0x30 ≤ ty ∧ ty ≤ 0x33)

/-- The header is one that R339 has the receiver discard; the channel of a `REDIRECT` is judged by the message it answers. Another major
version is none of R339's grounds: `HELLO` and `JOIN_REQ` answer it (R309, R346). -/
def RppMsg.bad (m : RppMsg) : Bool :=
  fld m.hdr.w0 31 29 != 0 || fld m.hdr.w6 31 17 != 0 || decide (65536 < m.len) || !rppType m.type
  || (m.type != 0x0A && m.vc != rppVc m.type)
  || ((m.unj || m.unjd) && !(m.type == 1 || m.type == 2 || m.type == 3 || m.type == 4 || m.type == 0x0A))
  || (m.unj && m.src != 0) || (m.unjd && m.dst != 0)

/-! ### Ownership (R314, R315) -/

def freeRange : RangeEnt := { state := .free, inst := 0 }

/-- The range entry of an adapter in the installed view. -/
def State.rangeOf (s : State) (aid : Nat) : RangeEnt := SMap.get freeRange s.pol.ranges (aid / 256)

def State.me (s : State) : Nat := s.pol.instId.toNat

/-- The owner of an adapter's range; `none` where it is FREE or LOST. -/
def State.ownerOfAid (s : State) (aid : Nat) : Option Nat :=
  match (s.rangeOf aid).state with
  | .held => some (s.rangeOf aid).inst
  | .moving => some (s.rangeOf aid).inst
  | _ => none

/-- Whether this member owns an adapter's range. -/
def State.mine (s : State) (aid : Nat) : Bool := s.pol.instValid && s.ownerOfAid aid == some s.me

def State.member (s : State) (inst : Nat) : Option Member := s.pol.members.find? fun m => m.inst == inst

/-- The other members of the installed view, ascending. -/
def State.others (s : State) : List Nat :=
  insSort (fun a b => decide (a < b)) ((s.pol.members.map (·.inst)).filter (· != s.me))

def Pol.session (q : Pol) (peer : Nat) : Option RppSess := q.sess.find? fun x => x.inst == peer

def Pol.modSess (q : Pol) (peer : Nat) (f : RppSess → RppSess) : Pol :=
  { q with sess := updFirst q.sess (fun x => x.inst == peer) f }

/-- Whether a peer is marked unreachable (R311). -/
def State.unreach (s : State) (peer : Nat) : Bool := (s.pol.session peer).any (·.unreach)

/-- The highest blob minor version this stepping supports (R347). -/
def blobMinorMax : Nat := 0

/-! ### Sending -/

/-- A message to a peer: header as R339, in the sender's view. `tag` is the request's. `LEN` is that of the whole payload; a message of
several frames takes each frame's in `RppMsg.frames`. -/
def State.rppMsg (s : State) (peer ty tag : Nat) (st : Status) (aid ep : Nat) (pl : RppPl) : RppMsg :=
  let unj := !s.pol.instValid
  let unjd := decide (65536 ≤ peer)
  { hdr :=
      { w0 := BitVec.ofNat 32 (1 + at_ (((s.pol.session peer).map (·.minor)).getD 0) 8 + at_ ty 16 + at_ (rppVc ty) 24
          + at_ 1 26 + at_ (b2n unj) 27 + at_ (b2n (unjd && (ty == 2 || ty == 4 || ty == 0x0A))) 28)
        w1 := BitVec.ofNat 32 ((if unj then 0 else s.me) + at_ (if unjd then 0 else peer) 16)
        w2 := BitVec.ofNat 32 tag
        w3 := s.pol.viewNum
        w4 := BitVec.ofNat 32 (aid + at_ (statusCode st) 24)
        w5 := BitVec.ofNat 32 ep
        w6 := BitVec.ofNat 32 (pl.len % 65537)
        w7 := 0 }
    pl := pl }

/-- What `HELLO` carries (R346, R531). -/
def State.helloPl (s : State) : RppPl :=
  .hello 1 0 blobMinorMax s.pol.pubMinor.toNat s.pol.poolId.toNat s.mgt.devId.toNat s.pol.addr s.pol.group.toNat
    (s.pol.servePart.toNat < 32) true

/-- A message as frames with the given payloads and lengths: `LAST` on the last, `SEG` from 0 (R339). -/
def RppMsg.cuts (m : RppMsg) (l : List (Nat × RppPl)) : List RppMsg :=
  l.mapIdx fun i x =>
    { hdr := { m.hdr with
        w0 := BitVec.ofNat 32 (setBits m.hdr.w0.toNat (b2n (i + 1 == l.length)) 26 1), w6 := BitVec.ofNat 32 x.1, w7 := BitVec.ofNat 32 i }
      pl := x.2 }

/-- Bulk payloads whose bytes spec/ does not lay out. -/
def RppPl.bulk : RppPl → Bool
  | .gdData .. => true
  | .moveBegin .. => true
  | .moveData .. => true
  | _ => false

/-- The frames of a message: payloads of at most 65,536 bytes (R333, R339). Of a bulk payload without a layout the content travels with
the last frame (log entry 35). -/
def RppMsg.frames (m : RppMsg) : List RppMsg :=
  match m.pl with
  | .data off bs ok => m.cuts ((pieces 65536 (bs.length / 65536 + 1) bs).mapIdx fun i d => (d.length, .data (off + 65536 * i) d ok))
  | .notes l => m.cuts ((pieces 113 (l.length / 113 + 1) l).map fun c => (576 * c.length, .notes c))
  | .batch n l => m.cuts ((pieces 8191 (l.length / 8191 + 1) l).map fun c => (8 + 8 * c.length, .batch n c))
  | .visit l =>
    match visitFrames l with
    | [_] => [m]
    | fs => m.cuts (fs.map fun b => (b.length, .part b))
  | pl =>
    if pl.bulk then
      let k := (pl.len - 1) / 65536
      m.cuts (List.replicate k (65536, .cont) ++ [(pl.len - 65536 * k, pl)])
    else [m]

/-- The sub-port of the session that a frame belongs to (R612). -/
def State.rppPort (s : State) (m : RppMsg) : Option Nat := s.livePort (m.src ^^^ m.dst)

/-- A frame of a channel may leave now (R338): a shared credit is free, or for P0 one of its reserve, and no earlier frame of the channel
waits. DESIGN CHOICE (log entry 75): P0 takes a shared credit first. -/
def RppSess.canSend (x : RppSess) (vc : Nat) : Bool :=
  !(x.wait.any fun m => m.vc == vc) && (decide (x.used < 64) || (vc == 0 && decide (x.used0 < 8)))

/-- A frame takes its credit. -/
def RppSess.take (x : RppSess) : RppSess := if x.used < 64 then { x with used := x.used + 1 } else { x with used0 := x.used0 + 1 }

/-- Types whose frames are exchanges of data with a peer group (R329). -/
def rppExchange (ty : Nat) : Bool := decide (0x12 ≤ ty ∧ ty ≤ 0x15) || ty == 0x1A || ty == 0x1B

/-- An exchange with a member of a peer group has just taken place (R329). -/
def State.touchGroup (s : State) (peer ty : Nat) : State :=
  match (s.member peer).filter fun _ => rppExchange ty with
  | some m => s.modPol fun q => { q with groupAt := SMap.set 0 q.groupAt m.group (s.now + msTicks q.probePeriod.toNat) }
  | none => s

/-- A frame leaves for a peer, on an open session once it has a credit (R338). -/
def State.sendFrame (s : State) (peer : Nat) (m : RppMsg) : State :=
  let go (s : State) : State := (s.touchGroup peer m.type).putFrame (s.rppPort m) peer (32 + m.len) m
  match (s.pol.session peer).filter (!·.opening) with
  | none => go s
  | some x =>
    if x.canSend m.vc then go (s.modPol fun q => q.modSess peer (·.take))
    else s.modPol fun q => q.modSess peer fun x => { x with wait := x.wait ++ [m] }

/-- Frames leave for a peer. -/
def State.sendFrames (s : State) (peer : Nat) (l : List RppMsg) : State := l.foldl (fun (s : State) m => s.sendFrame peer m) s

/-- The peer has taken frames: credits come back, how many spec/ does not say when, so the numbers are free; frames that waited for
them leave (R338). -/
def State.creditsBack (s : State) (peer : Nat) : State :=
  match s.pol.session peer with
  | none => s
  | some x =>
    if x.used + x.used0 = 0 then s
    else
      let a := s.fresh
      let b := a.2.fresh
      let s := b.2.modPol fun q => q.modSess peer fun y =>
        { y with used := y.used - a.1 % (y.used + 1), used0 := y.used0 - b.1 % (y.used0 + 1), wait := [] }
      s.sendFrames peer x.wait

/-- Open a session with a peer by `HELLO` (R337); the session idle longest without a request outstanding is closed when
8,192 are held, and none is opened where every session has one. -/
def State.openSess (s : State) (peer : Nat) : State :=
  let busy (x : RppSess) : Bool := s.pol.reqs.any fun r => r.peer == x.inst
  let sess? : Option (List RppSess) :=
    if s.pol.sess.length < 8192 then some s.pol.sess
    else
      match least (fun (a b : RppSess) => decide (a.idle < b.idle)) (s.pol.sess.filter fun x => !busy x) with
      | some x => some (s.pol.sess.filter fun y => y.inst != x.inst)
      | none => none
  match sess? with
  | none => s
  | some l =>
    if s.sec.coreFault then s  -- new RPP sessions fail (R533)
    else
      let msg := s.rppMsg peer 1 1 .ok 0 0 s.helloPl
      (s.modPol fun q =>
        { q with
          sess := l ++ [{ inst := peer, minor := 0, blobMinor := 0, pubMinor := 0, opening := true, unreach := false,
                          nextTag := 2, idle := s.now, doneTags := [], busyTags := [], used := 0, used0 := 0, wait := [], asm := [] }]
          reqs := q.reqs ++ [{ id := q.nextReq, tag := 1, peer := peer, kind := .hello, msg := msg, resends := 0,
                               redirects := 0, queued := false, t0 := s.now, due := s.now + usTicks s.pol.tReq.toNat, tFirst := 0, got := 0, buf := [], ans := [] }]
          nextReq := q.nextReq + 1 }).sendFrames peer [msg]

/-- Send one queued request on its open session, with the session's next tag. -/
def State.launch (s : State) (id : Nat) : State :=
  match s.pol.reqs.find? fun r => r.id == id with
  | none => s
  | some r =>
    match s.pol.session r.peer with
    | some x =>
      if x.opening then s
      else
        let one := r.kind == .oneWay
        let hdr := { r.msg.hdr with
          w0 := BitVec.ofNat 32 (setBits r.msg.hdr.w0.toNat x.minor 8 8)
          w2 := if one then r.msg.hdr.w2 else BitVec.ofNat 32 x.nextTag }
        let msg := { r.msg with hdr := hdr }
        (s.modPol fun q =>
          { (q.modSess r.peer fun y => { y with nextTag := if one then y.nextTag else (y.nextTag + 1) % 2 ^ 32, idle := s.now }) with
            reqs := if one then q.reqs.filter fun y => y.id != id
              else updFirst q.reqs (fun y => y.id == id) fun y => { y with tag := x.nextTag, msg := msg, queued := false, t0 := s.now } }).sendFrames
          r.peer msg.frames
    | none => s

/-- Queue a message for a peer and send it when its session is open (R337). -/
def State.queueRpp (s : State) (peer : Nat) (kind : ReqKind) (msg : RppMsg) : State :=
  let s := if (s.pol.session peer).isSome then s else s.openSess peer
  let id := s.pol.nextReq
  let s := s.modPol fun q =>
    { q with
      reqs := q.reqs ++ [{ id := id, tag := 0, peer := peer, kind := kind, msg := msg, resends := 0, redirects := 0, queued := true,
                           t0 := s.now, due := s.now + usTicks s.pol.tReq.toNat, tFirst := 0, got := 0, buf := [], ans := [] }]
      nextReq := q.nextReq + 1 }
  s.launch id

/-- A request of this member (R337, R342): it waits while its session opens; its timer runs from now. -/
def State.request (s : State) (peer : Nat) (kind : ReqKind) (ty aid ep : Nat) (pl : RppPl) : State :=
  s.queueRpp peer kind (s.rppMsg peer ty 0 .ok aid ep pl)

/-- Whether a session with a peer is open. -/
def State.sessOpen (s : State) (peer : Nat) : Bool := (s.pol.session peer).any (!·.opening)

/-- Put a message on a session that is open, or that its answer opens. -/
def State.pushRpp (s : State) (peer : Nat) (m : RppMsg) : State := s.sendFrames peer m.frames

/-- Send a message that is no request of this member: a reply or a notice; without an open session it waits for one. -/
def State.sendRpp (s : State) (peer ty tag : Nat) (st : Status) (aid ep : Nat) (pl : RppPl) : State :=
  let msg := s.rppMsg peer ty tag st aid ep pl
  if ty = 2 ∨ ty = 4 ∨ ty = 0x0A ∨ s.sessOpen peer = true then s.pushRpp peer msg else s.queueRpp peer .oneWay msg

/-- A shipment that has not been granted its slot rests while its step is saving or saved (R271). -/
def State.resting (s : State) (k : ReqKind) : Bool :=
  match k with
  | .gd p sseq _ _ =>
    (s.getP p).svCtx.any (fun c => c.sub.sseq == sseq) ||
      (s.getP p).ctx.any fun c => c.sub.sseq == sseq && (c.phase == .saving || (s.getP p).saved)
  | _ => false

/-- Queued requests go on: their session opens, or a place for one has become free (R337). -/
def State.flushQueued (s : State) : State :=
  (s.pol.reqs.filter fun r => r.queued && !s.resting r.kind).foldl (fun (s : State) r =>
    if (s.pol.session r.peer).isSome then s.launch r.id else (s.openSess r.peer).launch r.id) s

/-- A frame's place in its message: whether it is the last, and its index (R339). -/
def RppMsg.framed (m : RppMsg) (last : Bool) (seg : Nat) : RppMsg :=
  { m with hdr := { m.hdr with w0 := BitVec.ofNat 32 (setBits m.hdr.w0.toNat (b2n last) 26 1), w7 := BitVec.ofNat 32 seg } }

/-- Reply to a message. -/
def State.reply (s : State) (m : RppMsg) (peer ty : Nat) (st : Status) (pl : RppPl) : State :=
  s.sendRpp peer ty m.tag st m.aid m.epoch pl

/-- A `PUB_NOTICE` to a member: its record joins a message to that member that has not been sent yet, whether it waits for the session or
for a credit (R363). -/
def State.pubTo (s : State) (peer : Nat) (n : NoteRec) : State :=
  let add (m : RppMsg) : RppMsg :=
    match m.pl with
    | .notes l => { hdr := { m.hdr with w6 := BitVec.ofNat 32 ((576 * (l.length + 1)) % 65537) }, pl := .notes (l ++ [n]) }
    | _ => m
  let room (m : RppMsg) : Bool := m.type == 0x20 && match m.pl with | .notes l => decide (l.length < 113) | _ => false
  if s.pol.reqs.any (fun r => r.peer == peer && r.queued && r.msg.type == 0x20) then
    s.modPol fun q => { q with reqs := updFirst q.reqs (fun r => r.peer == peer && r.queued && r.msg.type == 0x20) fun r => { r with msg := add r.msg } }
  else if (s.pol.session peer).any (fun x => (x.wait.getLast?).any room) then
    s.modPol fun q => q.modSess peer fun x => { x with wait := x.wait.dropLast ++ (x.wait.getLast?.map add).toList }
  else s.sendRpp peer 0x20 0 .ok 0 0 (.notes [n])

def State.dropReq (s : State) (id : Nat) : State := s.modPol fun q => { q with reqs := q.reqs.filter fun r => r.id != id }

def State.modReq (s : State) (id : Nat) (f : PReq → PReq) : State :=
  s.modPol fun q => { q with reqs := updFirst q.reqs (fun r => r.id == id) f }

/-- The request that a reply from a peer answers. -/
def State.reqOf (s : State) (peer tag : Nat) : Option PReq := s.pol.reqs.find? fun r => r.peer == peer && r.tag == tag && !r.queued

/-- The registrar as a peer (R306). -/
def State.registrarPeer (s : State) : Option Nat := s.registrar

/-! ### Receiving -/

/-- The peer that sent a message: an unjoined sender, and one that answers an unjoined receiver's `HELLO`, is known by the
fabric address its payload gives. -/
def RppMsg.peer (m : RppMsg) : Nat :=
  if m.unj || (m.unjd && m.type == 2) then
    match m.pl with
    | .hello _ _ _ _ _ _ addr _ _ _ => 65536 + addr
    | .join _ _ _ _ _ addr _ _ _ => 65536 + addr
    | _ => m.src
  else m.src

/-- The frame checks (R339, R341, R531): the header, an open session, the receiver's own name. -/
def State.rppOk (s : State) (m : RppMsg) : Bool :=
  let ty := m.type
  let open_ := ty == 1 || ty == 3 || ty == 2 || ty == 4 || ty == 0x0A || (s.pol.session m.peer).any (fun x => !x.opening)
  let forMe := m.unjd == !s.pol.instValid && (m.unjd || ty == 1 || m.dst == s.me)
  !m.bad && open_ && (forMe || ty == 3 || ty == 4)

/-- A frame came from a peer: a sign of life (R311), and its group's latest exchange (R329). -/
def State.heard (s : State) (peer ty : Nat) : State :=
  (s.modPol fun q =>
    { (q.modSess peer fun x => { x with unreach := false, idle := s.now }) with
      quiet := SMap.set (0, 0) q.quiet peer (s.now + msTicks q.peerDead.toNat, s.now + msTicks q.lease.toNat) }).touchGroup peer ty

/-- Whom a member asks for a view that it does not have: the registrar, or the sender of the frame that shows it where the registrar is
itself or unknown (R307). -/
def State.pullFrom (s : State) (peer : Nat) : Nat :=
  match s.registrar with
  | some r => if r = s.me then peer else r
  | none => peer

/-- Pull the newer view, once at a time. -/
def State.pullView (s : State) (peer : Nat) : State :=
  if s.pol.reqs.any fun x => x.kind == .viewPull then s
  else s.request (s.pullFrom peer) .viewPull 8 0 0 (.num s.pol.viewNum.toNat)

/-- A frame of a later view waits until that view is installed (R341). `VIEW` itself brings it; `HELLO` and `HELLO_ACK` of the peer that is
asked for the view open the session over which it comes. -/
def State.waitsView (s : State) (m : RppMsg) : Bool :=
  decide (s.pol.viewNum.toNat < m.view) && s.pol.instValid && m.type != 6
    && !((m.type == 1 || m.type == 2) && s.pullFrom m.peer == m.peer)

/-- How many messages have been sent to a peer, wait for a sub-port's domain, and wait for a credit. -/
def State.outMarks (s : State) (peer : Nat) : Nat × Nat × Nat :=
  (s.pol.sent.length, s.fab.frames.length, ((s.pol.session peer).map (·.wait.length)).getD 0)

/-- The frames to a peer since then. -/
def State.outSince (s : State) (peer : Nat) (n : Nat × Nat × Nat) : List RppMsg :=
  ((s.pol.sent.drop n.1).filter fun e => e.1 == peer).map (·.2)
    ++ ((s.fab.frames.drop n.2.1).filter fun e => e.2.1 == peer).map (·.2.2)
    ++ (((s.pol.session peer).map (·.wait)).getD []).drop n.2.2

/-- The replies kept for resends: those of the newest 4,096 tags (R342). -/
def keepTags (l : List (Nat × RppMsg)) : List (Nat × RppMsg) :=
  let tags := (l.map (·.1)).eraseDups
  let old := tags.take (tags.length - 4096)
  l.filter fun e => !old.contains e.1

/-- Serve a request once: a resend of one in progress is a no-op, a resend of a completed one is answered again (R342).
The request is complete when `body` has answered it. -/
def State.serveReq (s : State) (m : RppMsg) (peer : Nat) (body : State → State) : State :=
  match s.pol.session peer with
  | none => body s
  | some x =>
    if x.busyTags.contains m.tag then s
    else
      let done := x.doneTags.filter fun e => e.1 == m.tag
      if done.isEmpty = false then s.sendFrames peer (done.map (·.2))
      else
        let n := s.outMarks peer
        let s := body s
        let out := (s.outSince peer n).filter fun e => e.tag == m.tag
        let ans := out.filter fun e => e.type != 0x0A
        s.modPol fun q => q.modSess peer fun y =>
          if out.isEmpty then { y with busyTags := y.busyTags ++ [m.tag] }
          else if ans.isEmpty || y.doneTags.any (fun e => e.1 == m.tag) then y
          else { y with doneTags := keepTags (y.doneTags ++ ans.map fun e => (m.tag, e)) }

/-- Answer one part of a request that was in progress; its frames go on where the earlier ones stopped, and `LAST` is set when nothing of
the request is left. -/
def State.finishReq (s : State) (peer tag : Nat) (ty : Nat) (st : Status) (aid ep : Nat) (pl : RppPl) : State :=
  let msg := s.rppMsg peer ty tag st aid ep pl
  match s.pol.session peer with
  | none => s
  | some y =>
    let left := y.busyTags.erase tag
    let fs := msg.frames
    let n := (y.doneTags.filter fun e => e.1 == tag).length
    let fs := fs.mapIdx fun j f => f.framed (j + 1 == fs.length && !left.contains tag) (n + j)
    (s.modPol fun q => q.modSess peer fun y =>
      { y with busyTags := left, doneTags := keepTags (y.doneTags ++ fs.map fun f => (tag, f)) }).sendFrames peer fs

/-- A message on a channel: a `REDIRECT` travels on that of the message it answers (R338). -/
def RppMsg.onVc (m : RppMsg) (vc : Nat) : RppMsg := { m with hdr := { m.hdr with w0 := BitVec.ofNat 32 (setBits m.hdr.w0.toNat vc 24 2) } }

/-- A request for an adapter whose range is not held here is answered `REDIRECT` with this member's view number (R341). -/
def State.redirect (s : State) (m : RppMsg) (peer : Nat) : State :=
  let r := s.rppMsg peer 0x0A m.tag .ok m.aid m.epoch (.num s.pol.viewNum.toNat)
  s.pushRpp peer (r.onVc m.vc)

end Sys2Proof.Machine
end

