-- ==== Sys2Proof/Machine/Fp.lean ====
section
/-! DEFINITION. Number formats and roundings (R53–R58, R77–R81, R86–R88): exact values, round to nearest even, FP32 and BF16
arithmetic with subnormals flushed (pins) or honoured (`OPT_STEP`), the activation quantizer, stochastic rounding. -/

namespace Sys2Proof.Machine

open Sys2Proof

/-- Numeric counters (R80), with `OOB_RD` of R66. -/
structure Cnt where
  satAct : Nat
  satAcc : Nat
  nonfin : Nat
  badcode : Nat
  oobRd : Nat
  satQ : Nat
  deriving DecidableEq, Repr

def Cnt.zero : Cnt := ⟨0, 0, 0, 0, 0, 0⟩

def Cnt.plus (a b : Cnt) : Cnt :=
  ⟨a.satAct + b.satAct, a.satAcc + b.satAcc, a.nonfin + b.nonfin, a.badcode + b.badcode, a.oobRd + b.oobRd, a.satQ + b.satQ⟩

def Cnt.nf (n : Nat) : Cnt := { Cnt.zero with nonfin := n }
def Cnt.acc (n : Nat) : Cnt := { Cnt.zero with satAcc := n }
def Cnt.bad (n : Nat) : Cnt := { Cnt.zero with badcode := n }

/-- 2 to a non-negative part of an exponent. -/
def p2 (i : Int) : Nat := 2 ^ i.toNat

/-- A signed dyadic value: (−1)^neg × m × 2^e. -/
structure Dy where
  neg : Bool
  m : Nat
  e : Int
  deriving DecidableEq, Repr

def Dy.zero : Dy := ⟨false, 0, 0⟩

/-- The exact product. -/
def Dy.mul (a b : Dy) : Dy := ⟨a.neg != b.neg, a.m * b.m, a.e + b.e⟩

def Dy.int (a : Dy) : Int := if a.neg then -(a.m : Int) else a.m

/-- The exact sum; an exact zero is +0 unless both terms are negative (R95). -/
def Dy.add (a b : Dy) : Dy :=
  let e := min a.e b.e
  let s : Int := a.int * (p2 (a.e - e) : Int) + b.int * (p2 (b.e - e) : Int)
  if s = 0 then ⟨a.neg && b.neg, 0, e⟩ else ⟨decide (s < 0), s.natAbs, e⟩

/-- floor(log2(num/den)) for positive num and den. -/
def log2Q (num den : Nat) : Int :=
  let l : Int := (Nat.log2 num : Int) - (Nat.log2 den : Int)
  if num * p2 (-l) < den * p2 l then l - 1 else l

/-- Round num/den × 2^e to nearest even with `prec` significant bits and no quantum below 2^qmin: (m, q) is m × 2^q. -/
def roundMag (prec : Nat) (qmin : Option Int) (num den : Nat) (e : Int) : Nat × Int :=
  if num = 0 then (0, qmin.getD 0)
  else
    let q0 : Int := log2Q num den + e - ((prec : Int) - 1)
    let q := match qmin with | some x => max q0 x | none => q0
    let sh := e - q
    let n := num * p2 sh
    let d := den * p2 (-sh)
    let f := n / d
    let r := n % d
    (if d < 2 * r ∨ (2 * r = d ∧ f % 2 = 1) then f + 1 else f, q)

/-! ### FP32 and BF16 patterns -/

/-- A binary format with an 8-bit exponent and `mb` mantissa bits: pattern of (−1)^neg × m × 2^q with subnormals; an
overflow gives `none`. -/
def encIeee (mb : Nat) (neg : Bool) (m : Nat) (q : Int) : Option Nat :=
  let sgn := if neg then 2 ^ (mb + 8) else 0
  if m = 0 then some sgn
  else
    let (m, q) := if m = 2 ^ (mb + 1) then (2 ^ mb, q + 1) else (m, q)
    if m < 2 ^ mb then some (sgn + m)
    else
      let x := q + mb + 127
      if 255 ≤ x then none else some (sgn + x.toNat * 2 ^ mb + (m - 2 ^ mb))

/-- The largest finite pattern. -/
def maxIeee (mb : Nat) (neg : Bool) : Nat := (if neg then 2 ^ (mb + 8) else 0) + 254 * 2 ^ mb + (2 ^ mb - 1)

/-- Rounding in pins and conversions (R77, R78): precision first with an unbounded exponent; a result below 2⁻¹²⁶ is zero
of its sign, an overflow the largest finite value, counted. -/
def rneFlush (mb : Nat) (neg : Bool) (num den : Nat) (e : Int) : Nat × Nat :=
  let sgn := if neg then 2 ^ (mb + 8) else 0
  if num = 0 then (sgn, 0)
  else
    let (m, q) := roundMag (mb + 1) none num den e
    if log2Q m 1 + q < -126 then (sgn, 0)
    else
      match encIeee mb neg m q with
      | some w => (w, 0)
      | none => (maxIeee mb neg, 1)

def rne32 (neg : Bool) (num den : Nat) (e : Int) : Nat × Nat := rneFlush 23 neg num den e
def Dy.rne32 (d : Dy) : Nat × Nat := Sys2Proof.Machine.rne32 d.neg d.m 1 d.e

def sign32 (w : Nat) : Bool := bitN w 31
def expo32 (w : Nat) : Nat := bitsN w 30 23
def mant32 (w : Nat) : Nat := bitsN w 22 0
def mag32 (w : Nat) : Nat := w % 2 ^ 31

/-- A finite FP32 pattern as an exact value, subnormals honoured. -/
def dyIeee (w : Nat) : Dy :=
  if expo32 w = 0 then ⟨sign32 w, mant32 w, -149⟩ else ⟨sign32 w, 2 ^ 23 + mant32 w, (expo32 w : Int) - 150⟩

/-- A finite FP32 pattern as pins read it: subnormals are zero of their sign (R77). -/
def dy32 (w : Nat) : Dy := if expo32 w = 0 then ⟨sign32 w, 0, 0⟩ else dyIeee w

/-- Any FP32 input read (R77, R78): NaN is +0, an infinity the largest finite, each counted; a subnormal is zero. -/
def in32 (w : Nat) : Nat × Nat :=
  if expo32 w = 255 then (if mant32 w ≠ 0 then 0 else maxIeee 23 (sign32 w), 1)
  else if expo32 w = 0 then (if sign32 w then 2 ^ 31 else 0, 0)
  else (w, 0)

/-- A BF16 pattern widened to FP32. -/
def wide (h : Nat) : Nat := 65536 * h

/-- Any BF16 input read, widened; an infinity becomes the largest finite BF16 (R78). -/
def inBf (h : Nat) : Nat × Nat :=
  let w := wide h
  if expo32 w = 255 then (if mant32 w ≠ 0 then 0 else wide (maxIeee 7 (sign32 w)), 1) else in32 w

/-- An FP32 result written to BF16 (R78). -/
def toBf (w : Nat) : Nat × Nat := let d := dy32 w; rneFlush 7 d.neg d.m 1 d.e

def add32 (a b : Nat) : Nat × Nat := ((dy32 a).add (dy32 b)).rne32
def mul32 (a b : Nat) : Nat × Nat := ((dy32 a).mul (dy32 b)).rne32
def sub32 (a b : Nat) : Nat × Nat := let y := dy32 b; ((dy32 a).add { y with neg := !y.neg }).rne32

/-- A quotient rounded once; `none` where the divisor is zero (R77, R89). -/
def div32 (a b : Nat) : Option (Nat × Nat) :=
  let x := dy32 a
  let y := dy32 b
  if y.m = 0 then none else some (rne32 (x.neg != y.neg) x.m y.m (x.e - y.e))

/-- Less than on finite patterns by value. -/
def lt32 (a b : Nat) : Bool :=
  let x := dy32 a
  let y := dy32 b
  let e := min x.e y.e
  decide (x.int * (p2 (x.e - e) : Int) < y.int * (p2 (y.e - e) : Int))

/-! ### IEEE arithmetic of `OPT_STEP` (R77): subnormals, infinities and NaN -/

def nan32 : Nat := 0x7FC00000
def inf32 (neg : Bool) : Nat := (if neg then 2 ^ 31 else 0) + 0x7F800000
def isNan (w : Nat) : Bool := expo32 w == 255 && mant32 w != 0
def isInf (w : Nat) : Bool := expo32 w == 255 && mant32 w == 0

def rneIeee (neg : Bool) (num den : Nat) (e : Int) : Nat :=
  let (m, q) := roundMag 24 (some (-149)) num den e
  (encIeee 23 neg m q).getD (inf32 neg)

def oAdd (a b : Nat) : Nat :=
  if isNan a || isNan b then nan32
  else if isInf a then (if isInf b && sign32 a != sign32 b then nan32 else a)
  else if isInf b then b
  else let d := (dyIeee a).add (dyIeee b); rneIeee d.neg d.m 1 d.e

def oNeg (a : Nat) : Nat := if sign32 a then a - 2 ^ 31 else a + 2 ^ 31
def oSub (a b : Nat) : Nat := oAdd a (oNeg b)

def oMul (a b : Nat) : Nat :=
  let sg := sign32 a != sign32 b
  if isNan a || isNan b then nan32
  else if isInf a || isInf b then (if mag32 a = 0 ∨ mag32 b = 0 then nan32 else inf32 sg)
  else let d := (dyIeee a).mul (dyIeee b); rneIeee d.neg d.m 1 d.e

def oDiv (a b : Nat) : Nat :=
  let sg := sign32 a != sign32 b
  if isNan a || isNan b then nan32
  else if isInf a then (if isInf b then nan32 else inf32 sg)
  else if isInf b then (if sg then 2 ^ 31 else 0)
  else if mag32 b = 0 then (if mag32 a = 0 then nan32 else inf32 sg)
  else
    let x := dyIeee a
    let y := dyIeee b
    rneIeee sg x.m y.m (x.e - y.e)

/-- The largest r ≤ hi with r × r ≤ n, from a bit downwards. -/
def isqrtFrom (n : Nat) : Nat → Nat → Nat
  | 0, r => r
  | k + 1, r => let t := r + 2 ^ k; isqrtFrom n k (if t * t ≤ n then t else r)

/-- The correctly rounded square root: 26 bits of root and a sticky bit decide the rounding. -/
def oSqrt (a : Nat) : Nat :=
  if isNan a then nan32
  else if mag32 a = 0 then a
  else if sign32 a then nan32
  else if isInf a then a
  else
    let d := dyIeee a
    -- scale to an even exponent with at least 54 significant bits
    let sh : Nat := if (d.e - 56) % 2 = 0 then 56 else 57
    let n := d.m * 2 ^ sh
    let r := isqrtFrom n 42 0
    let num := if r * r = n then 2 * r else 2 * r + 1
    rneIeee false num 1 ((d.e - sh) / 2 - 1)

/-- A result of `OPT_STEP` as written (R78): NaN is +0 and an infinity the largest finite, counted in `NONFIN`. -/
def oOut (w : Nat) : Nat × Nat :=
  if isNan w then (0, 1) else if isInf w then (maxIeee 23 (sign32 w), 1) else (w, 0)

/-! ### Element formats (R55) -/

/-- Exponent bits, mantissa bits, bias, largest finite magnitude code, emax of R81. -/
structure EFmt where
  eb : Nat
  mb : Nat
  bias : Nat
  top : Nat
  emax : Int
  deriving DecidableEq, Repr

def efmt (fmt : Nat) : EFmt :=
  match fmt with
  | 2 => ⟨4, 3, 7, 0x7E, 8⟩
  | 3 => ⟨5, 2, 15, 0x7B, 15⟩
  | 4 => ⟨2, 3, 1, 0x1F, 2⟩
  | 5 => ⟨3, 2, 3, 0x1F, 4⟩
  | _ => ⟨2, 1, 1, 0x07, 2⟩

/-- Magnitude code to value. -/
def EFmt.dy (f : EFmt) (neg : Bool) (c : Nat) : Dy :=
  let x := c / 2 ^ f.mb
  let m := c % 2 ^ f.mb
  if x = 0 then ⟨neg, m, 1 - (f.bias : Int) - f.mb⟩ else ⟨neg, 2 ^ f.mb + m, (x : Int) - f.bias - f.mb⟩

/-- An element code as read (R55, R78): the value and the replacements counted. -/
def elem (fmt c : Nat) : Dy × Nat :=
  let f := efmt fmt
  let neg := bitN c (f.eb + f.mb)
  let mag := c % 2 ^ (f.eb + f.mb)
  if fmt = 2 ∧ mag = 0x7F then (Dy.zero, 1)
  else if fmt = 3 ∧ mag = 0x7C then (f.dy neg 0x7B, 1)
  else if fmt = 3 ∧ 0x7C < mag then (Dy.zero, 1)
  else (f.dy neg mag, 0)

/-- The magnitude code of m × 2^q, which the grid holds. -/
def EFmt.code (f : EFmt) (m : Nat) (q : Int) : Nat :=
  if m = 0 then 0
  else
    let (m, q) := if m = 2 ^ (f.mb + 1) then (2 ^ f.mb, q + 1) else (m, q)
    if m < 2 ^ f.mb then m else (q + f.mb + f.bias).toNat * 2 ^ f.mb + (m - 2 ^ f.mb)

/-- Round a value to an element, nearest even, saturated (R81 step 5): code and whether it saturated. -/
def toElem (fmt : Nat) (neg : Bool) (num den : Nat) (e : Int) : Nat × Bool :=
  let f := efmt fmt
  let (m, q) := roundMag (f.mb + 1) (some (1 - (f.bias : Int) - f.mb)) num den e
  let c := f.code m q
  let s := if neg then 2 ^ (f.eb + f.mb) else 0
  if f.top < c then (s + f.top, true) else (s + c, false)

/-! ### Scales (R56, R57, R58) -/

/-- An E8M0 scale; `none` for code 0xFF. -/
def e8m0 (c : Nat) : Option Dy := if c = 0xFF then none else some ⟨false, 1, (c : Int) - 127⟩

/-- A UE5M3 scale code other than 0xFF. -/
def ue5m3 (c : Nat) : Dy :=
  if c / 8 = 0 then ⟨false, c % 8, -17⟩ else ⟨false, 8 + c % 8, (c / 8 : Nat) - 18⟩

/-- A panel scale as read (R58): `none` where the whole panel reads as zero. The spec does not say whether 0x8000 (−0) is
negative; the model reads it as zero and counts nothing (log entry 70). -/
def panel (h : Nat) : Option Dy :=
  let w := wide h
  if expo32 w = 255 ∨ (sign32 w = true ∧ mag32 w ≠ 0) then none else some (dy32 (mag32 w))

/-- The smallest UE5M3 scale code not below a non-negative FP32 value, at most 0xFE (R89, R93). -/
def scaleAbove (t : Nat) : Nat :=
  let d := dy32 t
  ((List.range 255).find? fun c =>
    let u := ue5m3 c
    let e := min u.e d.e
    decide (d.m * p2 (d.e - e) ≤ u.m * p2 (u.e - e))).getD 0xFE

/-- The UE5M3 scale code nearest to a non-negative FP32 value, ties to the even code, at most 0xFE (R90). -/
def scaleNear (t : Nat) : Nat :=
  let d := dy32 t
  if d.m = 0 then 0
  else
    let (m, q) := roundMag 4 (some (-17)) d.m 1 d.e
    let (m, q) := if m = 16 then (8, q + 1) else (m, q)
    min 0xFE (if m < 8 then m else (q + 18).toNat * 8 + (m - 8))

/-! ### Activation quantizer (R81) -/

/-- Counts of one quantization for the STAT unit (R83): elements, saturated, non-zero inputs quantized to zero. -/
structure QCnt where
  n : Nat
  sat : Nat
  low : Nat
  deriving DecidableEq, Repr

/-- Quantize one block of FP32 patterns (inputs already replaced and flushed) with offset k. -/
def quantBlock (fmt : Nat) (k : Int) (xs : List Nat) : List Nat × Nat × QCnt :=
  let amax := xs.foldl (fun a x => max a (mag32 x)) 0
  if amax = 0 then (xs.map fun _ => 0, 0, ⟨xs.length, 0, 0⟩)
  else
    let x : Int := max (-127) (min 127 ((expo32 amax : Int) - 127 - (efmt fmt).emax + k))
    let rs := xs.map fun w => let d := dy32 w; (d, toElem fmt d.neg d.m 1 (d.e - x))
    let half := 2 ^ ((efmt fmt).eb + (efmt fmt).mb)
    (rs.map (·.2.1), (x + 127).toNat,
      ⟨xs.length, (rs.filter fun r => r.2.2).length, (rs.filter fun r => r.1.m != 0 && r.2.1 % half == 0).length⟩)

/-- Cut a list into blocks of 32. -/
def blocks32 {α : Type} : Nat → List α → List (List α)
  | 0, _ => []
  | n + 1, l => l.take 32 :: blocks32 n (l.drop 32)

/-- Quantize a vector of FP32 patterns; `fmt` 1 runs no quantizer and rounds to BF16 (R202). -/
def quantVec (fmt : Nat) (k : Int) (xs : List Nat) : QVec × Cnt × QCnt :=
  if fmt = 1 then
    let rs := xs.map toBf
    (⟨1, rs.map (·.1), []⟩, Cnt.acc (rs.foldl (fun n r => n + r.2) 0), ⟨0, 0, 0⟩)
  else
    let bs := (blocks32 (ceilDiv xs.length 32) xs).map (quantBlock fmt k)
    let q : QCnt := bs.foldl (fun a b => ⟨a.n + b.2.2.n, a.sat + b.2.2.sat, a.low + b.2.2.low⟩) ⟨0, 0, 0⟩
    (⟨fmt, bs.flatMap (·.1), bs.map (·.2.1)⟩, { Cnt.zero with satAct := q.sat }, q)

/-- The exact value of element i of a quantized vector, its block scale included; FP32 elements for `fmt` 0. -/
def QVec.val (v : QVec) (i : Nat) : Dy :=
  if v.fmt = 0 then dy32 (nth v.els i 0)
  else if v.fmt = 1 then dy32 (wide (nth v.els i 0))
  else
    match e8m0 (nth v.scl (i / 32) 0) with
    | some s => ((elem v.fmt (nth v.els i 0)).1).mul s
    | none => Dy.zero

/-- A STAT offset as its three bits and back (R155). -/
def offCode (k : Int) : Nat := (k % 8).toNat
def offVal (c : Nat) : Int := if c % 8 < 4 then (c % 8 : Nat) else ((c % 8 : Nat) : Int) - 8

/-- `stat_commit` of R83. -/
def statCommit (k : Int) (n sat low : Nat) : Int :=
  if n < 1024 * sat ∧ k < 3 then k + 1
  else if sat = 0 ∧ n < low * 16 ∧ -3 < k then k - 1
  else k

/-! ### Stochastic rounding (R87, R88) -/

def hi32 (a b : Nat) : Nat := a * b / 2 ^ 32
def lo32 (a b : Nat) : Nat := a * b % 2 ^ 32

/-- Philox-4×32: rounds left, key, counter words. -/
def philox : Nat → Nat → Nat → Nat → Nat → Nat → Nat → Nat × Nat × Nat × Nat
  | 0, _, _, a, b, c, d => (a, b, c, d)
  | n + 1, k0, k1, a, b, c, d =>
    philox n ((k0 + 0x9E3779B9) % 2 ^ 32) ((k1 + 0xBB67AE85) % 2 ^ 32)
      (Nat.xor (Nat.xor (hi32 0xCD9E8D57 c) b) k0) (lo32 0xCD9E8D57 c)
      (Nat.xor (Nat.xor (hi32 0xD2511F53 a) d) k1) (lo32 0xD2511F53 a)

/-- The 16-bit random value of an element (R88). -/
def rand16 (aid epoch pnl idx stream : Nat) : Nat :=
  let r := philox 10 aid epoch pnl (idx / 8) stream 0
  let w := nth [r.1, r.2.1, r.2.2.1, r.2.2.2] (idx % 8 / 2) 0
  if idx % 2 = 0 then w % 65536 else w / 65536

/-- The magnitude code (or count of quanta) that R87 writes: m × 2^q is the value in the grid's own quantum, floor and
fraction; `r` the random value. -/
def srMag (prec : Nat) (qmin : Int) (num den : Nat) (e : Int) (r : Nat) : Nat × Int :=
  if num = 0 then (0, qmin)
  else
    let q : Int := max (log2Q num den + e - ((prec : Int) - 1)) qmin
    let sh := e - q
    let n := num * p2 sh
    let d := den * p2 (-sh)
    let lo := n / d
    let f := 65536 * (n % d) / d
    (if 65536 ≤ f + r then lo + 1 else lo, q)

/-- Round stochastically to an element format: code and whether it saturated. -/
def srElem (fmt : Nat) (x : Dy) (r : Nat) : Nat × Bool :=
  let f := efmt fmt
  let s := if x.neg then 2 ^ (f.eb + f.mb) else 0
  let t := f.dy false f.top
  let e := min t.e x.e
  if t.m * p2 (t.e - e) < x.m * p2 (x.e - e) then (s + f.top, true)
  else
    let (m, q) := srMag (f.mb + 1) (1 - (f.bias : Int) - f.mb) x.m 1 x.e r
    (s + f.code m q, false)

/-- Round a finite FP32 pattern stochastically to BF16, subnormals honoured (R264). A magnitude above the largest finite BF16
becomes that value, and the saturation is counted (R87, R78 `SAT_ACC`). -/
def srBf (w r : Nat) : Nat × Nat :=
  let d := dyIeee w
  if wide (maxIeee 7 false) < mag32 w then (maxIeee 7 d.neg, 1)
  else
    let (m, q) := srMag 8 (-133) d.m 1 d.e r
    ((encIeee 7 d.neg m q).getD (maxIeee 7 d.neg), 0)

end Sys2Proof.Machine
end

