-- ==== Sys2Proof/Machine/Blob.lean ====
section
/-! DEFINITION. Adapter blobs (R158–R160): header, matrix records, the matrices and their elements (R59–R66), and the products
that pins compute with them (R71–R74, R242, R243). A blob is read through a function from byte offset to byte. -/

namespace Sys2Proof.Machine

open Sys2Proof

/-- How the bytes of a blob are read. -/
abbrev Reader := Nat → Byte

/-- A blob that lies in HBM. -/
def State.reader (s : State) (base : Nat) : Reader := fun i => Memory.read s.hbm (base + i)

/-- A blob held as bytes. -/
def listReader (bs : List Byte) : Reader := fun i => bs.getD i 0

/-- A little-endian number of n bytes. -/
def Reader.num (rd : Reader) (off n : Nat) : Nat := leNat ((List.range n).map fun i => rd (off + i))

/-! ### Header (R158) -/

structure BlobHdr where
  magic : Nat
  major : Nat
  minor : Nat
  aid : Nat
  ward : Nat
  epoch : Nat
  rank : Nat
  alpha : Nat
  tau : Nat
  wfmtA : Nat
  wfmtB : Nat
  learn : Bool
  mom : Bool
  nproj : Nat
  blen : Nat
  opt : OptRec
  resv : Bool     -- a reserved field is not zero
  deriving DecidableEq, Repr

/-- The optimizer record at an offset (R161). -/
def Reader.opt (rd : Reader) (o : Nat) : OptRec :=
  { kind := rd.num o 4 % 16, t := rd.num (o + 8) 8, lr := rd.num (o + 0x10) 4, beta1 := rd.num (o + 0x14) 4,
    beta2 := rd.num (o + 0x18) 4, eps := rd.num (o + 0x1C) 4, wd := rd.num (o + 0x20) 4 }

def Reader.hdr (rd : Reader) : BlobHdr :=
  let w (o : Nat) := rd.num o 4
  { magic := w 0, major := w 4 % 256, minor := w 4 / 256 % 256, aid := w 8 % 2 ^ 24, ward := w 0xC % 2 ^ 20,
    epoch := w 0x10, rank := w 0x14 % 2 ^ 11, alpha := w 0x18, tau := w 0x1C, wfmtA := w 0x20 % 16,
    wfmtB := w 0x20 / 16 % 16, learn := bitN (w 0x20) 8, mom := bitN (w 0x20) 9, nproj := w 0x24 % 2 ^ 13,
    blen := rd.num 0x28 8, opt := rd.opt 0x40
    resv := w 4 / 65536 != 0 || w 8 / 2 ^ 24 != 0 || w 0xC / 2 ^ 20 != 0 || w 0x14 / 2 ^ 11 != 0 || w 0x20 / 1024 != 0
      || w 0x24 / 2 ^ 13 != 0 || rd.num 0x30 16 != 0 || w 0x40 / 16 != 0 || w 0x44 != 0 || rd.num 0x64 28 != 0 }

/-- A matrix record. -/
structure MRec where
  proj : Nat
  isB : Bool
  nesc : Nat
  panel0 : Nat
  val : Nat
  scl : Nat
  psc : Nat
  esc : Nat
  mst : Nat
  mom : Nat
  resv : Bool
  deriving DecidableEq, Repr

def Reader.mrec (rd : Reader) (i : Nat) : MRec :=
  let o := 0x80 + 64 * i
  let w := rd.num o 4
  { proj := w % 4096, isB := bitN w 12, nesc := w / 65536, panel0 := rd.num (o + 4) 4, val := rd.num (o + 8) 8,
    scl := rd.num (o + 0x10) 8, psc := rd.num (o + 0x18) 8, esc := rd.num (o + 0x20) 8, mst := rd.num (o + 0x28) 8,
    mom := rd.num (o + 0x30) 8, resv := bitsN w 15 13 != 0 || rd.num (o + 0x38) 8 != 0 }

def isCelat (fmt : Nat) : Bool := fmt == 7 || fmt == 8
def isMx8 (fmt : Nat) : Bool := fmt == 2 || fmt == 3

/-- Stored rank (R144). -/
def storedRank (rank : Nat) : Nat := 64 * ceilDiv rank 64

/-- Row stride of a values array (R159). -/
def valStride (fmt cols : Nat) : Nat := roundUp (rowLen fmt cols) 64

/-- A matrix of a blob: format, shape and the offsets of its arrays. -/
structure WMat where
  fmt : Nat
  rows : Nat
  cols : Nat
  val : Nat
  scl : Nat
  psc : Nat
  esc : Nat
  nesc : Nat
  hasEsc : Bool     -- there is an escape side array, be it empty (R66 case 1)
  deriving DecidableEq, Repr

/-- Rows and columns of a matrix of a projection (R144): `ps` is the projection's (`IN_W`, `OUT_W`). -/
def shapeOf (rank : Nat) (isB : Bool) (ps : Nat × Nat) : Nat × Nat :=
  if isB then (ps.2, storedRank rank) else (storedRank rank, ps.1)

def mkMat (h : BlobHdr) (r : MRec) (ps : Nat × Nat) : WMat :=
  let sh := shapeOf h.rank r.isB ps
  { fmt := if r.isB then h.wfmtB else h.wfmtA, rows := sh.1, cols := sh.2, val := r.val, scl := r.scl, psc := r.psc,
    esc := r.esc, nesc := r.nesc, hasEsc := r.nesc != 0 }

def WMat.nblk (w : WMat) : Nat := w.rows * (w.cols / 32)
def WMat.panels (w : WMat) : Nat := ceilDiv w.rows 256

/-! ### Elements -/

/-- The five digits of a Q2T byte (R60), as element values. -/
def q2tDigit (b i : Nat) : Dy :=
  let d := b / 3 ^ i % 3
  if d = 1 then Dy.zero else ⟨d == 0, 1, 0⟩

/-- One weight block: its 32 elements, its block scale and what reading it counts. -/
structure WBlk where
  els : List Dy
  scl : Dy
  cnt : Cnt
  deriving DecidableEq, Repr

def one : Dy := ⟨false, 1, 0⟩
def zero32 : List Dy := List.replicate 32 Dy.zero

/-- Block b of row r of a matrix (R59–R66, R78). -/
def WMat.blk (w : WMat) (rd : Reader) (r b : Nat) : WBlk :=
  let o := w.val + r * valStride w.fmt w.cols + b * (rowLen w.fmt 32)
  let byte (i : Nat) : Nat := (rd (o + i)).toNat
  let sc := (rd (w.scl + r * (w.cols / 32) + b)).toNat
  if w.fmt = 1 then
    let xs := (List.range 32).map fun i => inBf (byte (2 * i) + 256 * byte (2 * i + 1))
    ⟨xs.map fun x => dy32 x.1, one, Cnt.nf (xs.foldl (fun n x => n + x.2) 0)⟩
  else if isCelat w.fmt then
    if sc = 0xFF then
      let idx := rd.num o 4
      let se := byte 4
      if w.hasEsc = false then ⟨zero32, Dy.zero, Cnt.bad 1⟩
      else if se = 0xFF then ⟨zero32, Dy.zero, Cnt.bad 1⟩
      else if w.nesc ≤ idx then ⟨zero32, one, { Cnt.zero with oobRd := 32 }⟩
      else
        let xs := (List.range 32).map fun i => elem 2 (rd (w.esc + 32 * idx + i)).toNat
        ⟨xs.map (·.1), ue5m3 se, Cnt.nf (xs.foldl (fun n x => n + x.2) 0)⟩
    else if w.fmt = 7 then
      ⟨(List.range 32).map fun i => (elem 6 (byte (i / 2) / 16 ^ (i % 2) % 16)).1, ue5m3 sc, Cnt.zero⟩
    else
      let bad := ((List.range 7).filter fun j => decide (0xF3 ≤ byte j)).length
      ⟨(List.range 32).map fun i => if 0xF3 ≤ byte (i / 5) then Dy.zero else q2tDigit (byte (i / 5)) (i % 5), ue5m3 sc,
        Cnt.bad bad⟩
  else
    match e8m0 sc with
    | none => ⟨zero32, Dy.zero, Cnt.nf 1⟩
    | some d =>
      let xs := (List.range 32).map fun i => elem w.fmt (byte i)
      ⟨xs.map (·.1), d, Cnt.nf (xs.foldl (fun n x => n + x.2) 0)⟩

/-- The panel scale of row r; `none` where the panel reads as zero (R58); 1 for other formats. -/
def WMat.pscale (w : WMat) (rd : Reader) (r : Nat) : Option Dy :=
  if isCelat w.fmt then panel (rd.num (w.psc + 2 * (r / 256)) 2) else some one

/-- What reading rows lo ≤ r < hi counts, once: the panels that start there and every block that is read. -/
def WMat.counts (w : WMat) (rd : Reader) (lo hi : Nat) : Cnt :=
  (List.range (hi - lo)).foldl (fun c i =>
    let r := lo + i
    match w.pscale rd r with
    | none => if r % 256 = 0 then c.plus (Cnt.nf 1) else c
    | some _ => (List.range (w.cols / 32)).foldl (fun c b => c.plus (w.blk rd r b).cnt) c) Cnt.zero

/-! ### Forward product (R71–R74) -/

/-- Sum 2^k patterns by the fixed tree of R73. -/
def treeSum : Nat → List Nat → Nat × Nat
  | 0, l => (nth l 0 0, 0)
  | k + 1, l =>
    let a := treeSum k (l.take (2 ^ k))
    let b := treeSum k (l.drop (2 ^ k))
    let r := add32 a.1 b.1
    (r.1, a.2 + b.2 + r.2)

/-- The group sums of terms, in order, added to an accumulator that starts at +0 (R73, R243); `scale` multiplies each
group's sum before it is added (R242 step 3). -/
def groupAcc (terms : List (List (Nat × Nat))) (scale : Nat → Nat → Nat × Nat) : Nat × Nat :=
  (terms.foldl (fun (st : Nat × Nat × Nat) g =>
    let t := treeSum 5 (g.map (·.1))
    let sc := scale st.2.2 t.1
    let a := add32 st.1 sc.1
    (a.1, st.2.1 + g.foldl (fun n x => n + x.2) 0 + t.2 + sc.2 + a.2, st.2.2 + 1)) (0, 0, 0)) |> fun r => (r.1, r.2.1)

/-- Output o over matrix w and a quantized vector, before alpha: the pattern and `SAT_ACC`. -/
def WMat.out (w : WMat) (rd : Reader) (o : Nat) (x : QVec) : Nat × Nat :=
  let nb := w.cols / 32
  if w.fmt = 1 then
    groupAcc ((List.range nb).map fun b =>
      let k := w.blk rd o b
      (List.range 32).map fun i => ((nth k.els i Dy.zero).mul (x.val (32 * b + i))).rne32) fun _ t => (t, 0)
  else
    match w.pscale rd o with
    | none => (0, 0)
    | some p =>
      let acc := (List.range nb).foldl (fun (a : Nat × Nat) b =>
        let k := w.blk rd o b
        let s := (List.range 32).foldl (fun s i =>
          Dy.add s ((nth k.els i Dy.zero).mul ((elem x.fmt (nth x.els (32 * b + i) 0)).1))) Dy.zero
        let xs := (e8m0 (nth x.scl b 0)).getD Dy.zero
        -- a block whose scale is zero contributes +0 (R95)
        let v := if k.scl.m = 0 then (0, 0) else ((s.mul k.scl).mul xs).rne32
        let r := add32 a.1 v.1
        (r.1, a.2 + v.2 + r.2)) (0, 0)
      if isCelat w.fmt then
        -- a panel scale of zero makes every output +0 (R95)
        let r := if p.m = 0 then (0, 0) else (Dy.mul (dy32 acc.1) p).rne32
        (r.1, acc.2 + r.2)
      else acc

/-- An element with its block scale, 0 where its panel reads as zero. -/
def WMat.elemAt (w : WMat) (rd : Reader) (r c : Nat) : Dy :=
  match w.pscale rd r with
  | none => Dy.zero
  | some _ => let k := w.blk rd r (c / 32); (nth k.els (c % 32) Dy.zero).mul k.scl

/-- The decoded element of R63, as an FP32 pattern. -/
def WMat.decode (w : WMat) (rd : Reader) (r c : Nat) : Nat × Nat :=
  match w.pscale rd r with
  | none => (0, 0)
  | some p => ((w.elemAt rd r c).mul p).rne32

/-- Block b of row r of a Q2T A matrix converted to MXFP8 E4M3 DIM0 with k = 0 (R238, R125): the block, the `SAT_ACC` of its
decode and the `SAT_ACT` of its quantization (R78). -/
def WMat.convBlk (w : WMat) (rd : Reader) (r b : Nat) : QVec × Cnt :=
  let xs := (List.range 32).map fun i => w.decode rd r (32 * b + i)
  let q := quantBlock 2 0 (xs.map (·.1))
  (⟨2, q.1, [q.2.1]⟩, { Cnt.acc (xs.foldl (fun n x => n + x.2) 0) with satAct := q.2.2.sat })

/-- The value of element (r, c) of the converted matrix, its scale included. -/
def WMat.converted (w : WMat) (rd : Reader) (r c : Nat) : Dy := (w.convBlk rd r (c / 32)).1.val (c % 32)

/-- What converting a whole Q2T matrix counts (R78, R238). -/
def WMat.convCnt (w : WMat) (rd : Reader) : Cnt :=
  (List.range w.rows).foldl (fun c r =>
    (List.range (w.cols / 32)).foldl (fun c b => c.plus (w.convBlk rd r b).2) c) Cnt.zero

/-- The transposed product of R242: output column c over all rows, for gradient-side vector g. -/
def WMat.outT (w : WMat) (rd : Reader) (c : Nat) (g : QVec) : Nat × Nat :=
  let conv := w.fmt == 8
  groupAcc ((List.range (ceilDiv w.rows 32)).map fun k =>
    (List.range 32).map fun i =>
      let j := 32 * k + i
      if w.rows ≤ j then (0, 0)
      else ((g.val j).mul (if conv then w.converted rd j c else w.elemAt rd j c)).rne32) fun k t =>
    if w.fmt = 7 then
      match w.pscale rd (32 * k) with
      | none => (0, 0)
      | some p => if p.m = 0 then (0, 0) else (Dy.mul (dy32 t) p).rne32
    else (t, 0)

/-- One element of a weight-gradient partial (R243): `a` and `b` the two operands' values at the chunk's positions. -/
def gradElem (a b : List Dy) : Nat × Nat :=
  let n := a.length
  groupAcc ((List.range (ceilDiv n 32)).map fun k =>
    (List.range 32).map fun i =>
      if n ≤ 32 * k + i then (0, 0) else ((nth a (32 * k + i) Dy.zero).mul (nth b (32 * k + i) Dy.zero)).rne32) fun _ t => (t, 0)

end Sys2Proof.Machine
end

