-- ==== Sys2Proof/Machine/Publish.lean ====
section
/-! DEFINITION. Publish quantization (R86–R94), the layout of a blob the device writes (R158–R160, R268), and the optimizer's
element arithmetic (R263, R264). -/

namespace Sys2Proof.Machine

open Sys2Proof

/-! ### Quantizing one block -/

/-- A block under quantization: its FP32 inputs, its scale code, element codes, decoded values, whether it is an escape
(with its index), what `SAT_Q` counted, and the FP32 results that overflowed (R78 `SAT_ACC`). -/
structure PBlk where
  xs : List Nat
  scl : Nat
  codes : List Nat
  q : List Nat
  esc : Option Nat
  sat : Nat
  ovf : Nat
  deriving DecidableEq, Repr

def amax32 (xs : List Nat) : Nat := xs.foldl (fun a x => max a (mag32 x)) 0

/-- The sum of the second parts of pairs: counts beside values. -/
def sumSnd {α : Type} (l : List (α × Nat)) : Nat := l.foldl (fun n e => n + e.2) 0

/-- A scale t = a / b for a block's amplitude: the code that `f` takes for it, 0x00 for a divisor of zero (R89), and what
overflowed. -/
def scaleFor (a b : Nat) (f : Nat → Nat) : Nat × Nat :=
  if a = 0 then (0, 0)
  else match div32 a b with
    | some t => (f t.1, t.2)
    | none => (0, 0)

/-- The quantized block of 32 inputs under a divisor: `z` is the code of a zero element, written for all where the divisor is
zero (R89); `round` rounds one quotient by its index; `val` gives a code's value. -/
def fillBlk (xs : List Nat) (scl p ovf z : Nat) (round : Nat → Nat → Nat × Bool) (val : Nat → Dy) : PBlk :=
  let s := ((dy32 p).mul (ue5m3 scl)).rne32
  let rs := xs.mapIdx fun i x =>
    match div32 x s.1 with
    | none => ((z, false), 0)
    | some y => (round i y.1, y.2)
  let qs := rs.map fun r => (((val r.1.1).mul (ue5m3 scl)).mul (dy32 p)).rne32
  { xs := xs, scl := scl, codes := rs.map (·.1.1), q := qs.map (·.1), esc := none, sat := (rs.filter (·.1.2)).length
    ovf := ovf + s.2 + sumSnd rs + sumSnd qs }

/-- A Q4 block (R89); `base` the index of its first element in the panel. -/
def q4Block (aid ep pnl base p : Nat) (xs : List Nat) : PBlk :=
  let six := mul32 p 0x40C00000
  let sc := scaleFor (amax32 xs) six.1 scaleAbove
  fillBlk xs sc.1 p (six.2 + sc.2) 0 (fun i y => srElem 6 (dy32 y) (rand16 aid ep pnl (base + i) 0)) fun c => (elem 6 c).1

/-- Mean of |x| over a block (R90), and the additions that overflowed. -/
def meanAbs (xs : List Nat) : Nat × Nat :=
  let t := xs.foldl (fun (a : Nat × Nat) x => let r := add32 a.1 (mag32 x); (r.1, a.2 + r.2)) (0, 0)
  (((div32 t.1 0x42000000).map (·.1)).getD 0, t.2)

/-- A Q2T block (R90): digits 0, 1, 2 as codes. -/
def q2tBlock (aid ep pnl base p : Nat) (xs : List Nat) : PBlk :=
  let mb := meanAbs xs
  let sc := scaleFor mb.1 p scaleNear
  let round (i y : Nat) : Nat × Bool :=
    let big := lt32 0x3F800000 (mag32 y)
    let d := dy32 (if big then 0x3F800000 else mag32 y)
    let f := 65536 * d.m * p2 d.e / p2 (-d.e)
    let up := decide (65536 ≤ f + rand16 aid ep pnl (base + i) 0)
    (if up then (if sign32 y then 0 else 2) else 1, big)
  fillBlk xs sc.1 p (mb.2 + sc.2) 1 round fun c => if c = 1 then Dy.zero else ⟨c == 0, 1, 0⟩

/-- A block escaped as record `idx` (R93): `scl` becomes s_e, codes the E4M3 elements. The spec does not say whether the `SAT_Q`
of the elements that an escape replaces still counts; the model keeps it (log entry 70). -/
def escBlock (aid ep p idx : Nat) (b : PBlk) : PBlk :=
  let d := mul32 0x43E00000 p
  let sc := scaleFor (amax32 b.xs) d.1 scaleAbove
  let n := fillBlk b.xs sc.1 p (d.2 + sc.2) 0 (fun i y => srElem 2 (dy32 y) (rand16 aid ep idx i 1)) fun c => (elem 2 c).1
  { n with esc := some idx, sat := b.sat + n.sat, ovf := b.ovf + n.ovf }

/-! ### The error check (R92, R93). A value and the results that overflowed on the way to it go together. -/

/-- Add the square of an FP32 value to a running sum. -/
def addSq (x : Nat) (acc : Nat × Nat) : Nat × Nat :=
  let m := mul32 x x
  let a := add32 acc.1 m.1
  (a.1, acc.2 + m.2 + a.2)

def sqErr (q x : Nat) (acc : Nat × Nat) : Nat × Nat := let d := sub32 q x; addSq d.1 (acc.1, acc.2 + d.2)

def PBlk.err (b : PBlk) (acc : Nat × Nat) : Nat × Nat := (b.q.zip b.xs).foldl (fun a e => sqErr e.1 e.2 a) acc

/-- The panel passes: E ≤ τ² × N (R92). The spec gives the right side no rounding; the model rounds τ² and then its product with N
to FP32, each to nearest even with the flush of R77 (log entry 70). -/
def panelPass (tau : Nat) (bs : List PBlk) : Bool × Nat :=
  let e := bs.foldl (fun a b => b.err a) (0, 0)
  let n := bs.foldl (fun a b => b.xs.foldl (fun a x => addSq x a) a) (0, 0)
  let t := mul32 tau tau
  let r := mul32 t.1 n.1
  (!lt32 r.1 e.1, e.2 + n.2 + t.2 + r.2)

/-- A panel as far as its quantization has gone: whether it passes, its panel scale (BF16 bits), its blocks, the next escape
index, and the overflows of its sums. -/
structure PPanel where
  ok : Bool
  scale : Nat
  blks : List PBlk
  idx : Nat
  ovf : Nat
  deriving DecidableEq, Repr

/-- Escape blocks in order until the panel passes; `order` the block indices, `left` the budget. A panel that still fails
then is NUMERIC_GUARD (R94). -/
def escapeUntil (aid ep p tau : Nat) : List Nat → Nat → PPanel → PPanel
  | order, left, x =>
    let t := panelPass tau x.blks
    let x := { x with ok := t.1, ovf := x.ovf + t.2 }
    if t.1 then x
    else
      match order, left with
      | j :: rest, n + 1 =>
        escapeUntil aid ep p tau rest n { x with blks := modNth x.blks j (escBlock aid ep p x.idx), idx := x.idx + 1 }
      | _, _ => x

/-- The block indices in descending order of error, ties to the lower index (R93), and the overflows of the errors. -/
def errOrder (bs : List PBlk) : List Nat × Nat :=
  let es := bs.mapIdx fun i b => (i, b.err (0, 0))
  ((insSort (fun (a b : Nat × Nat × Nat) => lt32 b.2.1 a.2.1 || (!lt32 a.2.1 b.2.1 && decide (a.1 < b.1))) es).map (·.1),
    es.foldl (fun n e => n + e.2.2) 0)

/-- A panel (R89–R94), its escapes numbered from `idx` and at most `left` of them. -/
def quantPanel (fmt aid ep pnl tau idx left : Nat) (xs : List (List Nat)) : PPanel :=
  let am := xs.foldl (fun a b => max a (amax32 b)) 0
  if lt32 am 0x03800000 then
    -- below 2^-120 (R91)
    { ok := true, scale := 0, idx := idx, ovf := 0
      blks := xs.map fun b => { xs := b, scl := 0, codes := b.map fun _ => if fmt = 8 then 1 else 0, q := b.map fun _ => 0,
                                esc := none, sat := 0, ovf := 0 } }
  else
    let top := if fmt = 8 then xs.foldl (fun a b => max a (meanAbs b).1) 0
      else ((div32 am 0x40C00000).map (·.1)).getD 0
    let pb := toBf top
    let p := wide pb.1
    let bs := xs.mapIdx fun i b => if fmt = 8 then q2tBlock aid ep pnl (32 * i) p b else q4Block aid ep pnl (32 * i) p b
    let o := errOrder bs
    escapeUntil aid ep p tau o.1 left { ok := false, scale := pb.1, blks := bs, idx := idx, ovf := pb.2 + o.2 }

/-! ### A matrix and a blob -/

/-- The arrays of a published matrix. -/
structure PMat where
  rec_ : MRec
  vals : List Byte
  scls : List Byte
  pscs : List Byte
  escs : List Byte
  deriving DecidableEq, Repr

/-- Pad to a multiple of 64 bytes. -/
def pad64 (bs : List Byte) : List Byte := bs ++ List.replicate (roundUp bs.length 64 - bs.length) 0

/-- The value bytes of one block (R59, R60, R64). -/
def PBlk.bytes (fmt : Nat) (b : PBlk) : List Byte :=
  match b.esc with
  | some i => leBytes 4 i ++ leBytes 1 b.scl ++ List.replicate (if fmt = 7 then 11 else 2) 0
  | none =>
    if fmt = 7 then (List.range 16).map fun k => BitVec.ofNat 8 (nth b.codes (2 * k) 0 + 16 * nth b.codes (2 * k + 1) 0)
    else (List.range 7).map fun k => BitVec.ofNat 8 ((List.range 5).foldl (fun n i => n + 3 ^ i * nth b.codes (5 * k + i) 1) 0)

/-- Rows of a flat row-major array. -/
def rowsOf {α : Type} (cols : Nat) : Nat → List α → List (List α)
  | 0, _ => []
  | n + 1, l => l.take cols :: rowsOf cols n (l.drop cols)

/-- What a panel's quantization counts (R78, R80). -/
def PPanel.cnt (x : PPanel) : Cnt :=
  { Cnt.zero with satQ := x.blks.foldl (fun n b => n + b.sat) 0, satAcc := x.blks.foldl (fun n b => n + b.ovf) x.ovf }

/-- Quantize one matrix from its master array: the panel scales and blocks, `ESC` and the counters so far; no arrays under
NUMERIC_GUARD. -/
def quantMatrix (fmt aid ep panel0 cols tau : Nat) (rows : List (List Nat)) : Option (List Nat × List (List PBlk)) × Nat × Cnt :=
  let budget := rows.length * (cols / 32) / 64
  let np := ceilDiv rows.length 256
  (List.range np).foldl (fun (st : Option (List Nat × List (List PBlk)) × Nat × Cnt) k =>
    match st.1 with
    | none => st
    | some (ps, bs) =>
      let ins := ((rows.drop (256 * k)).take 256).map fun r => r.map in32
      let xs := ins.flatMap fun r => blocks32 (cols / 32) (r.map (·.1))
      let r := quantPanel fmt aid ep (panel0 + k) tau st.2.1 (budget - st.2.1) xs
      (if r.ok then some (ps ++ [r.scale], bs ++ [r.blks]) else none, r.idx,
        (st.2.2.plus r.cnt).plus (Cnt.nf (ins.foldl (fun n l => n + sumSnd l) 0)))) (some ([], []), 0, Cnt.zero)

/-- The escape records of a matrix in the order of their indices. -/
def escRecs (bs : List (List PBlk)) : List Byte :=
  (insSort (fun (a b : Nat × List Byte) => decide (a.1 < b.1))
    (bs.flatten.filterMap fun b => b.esc.map fun i => (i, b.codes.map (BitVec.ofNat 8)))).flatMap (·.2)

/-- The arrays of a quantized matrix (R159). -/
def packMat (fmt proj panel0 cols nrows : Nat) (isB : Bool) (ps : List Nat) (bs : List (List PBlk)) : PMat :=
  let nb := cols / 32
  let rows := rowsOf nb nrows bs.flatten
  let escs := escRecs bs
  { rec_ := { proj := proj, isB := isB, nesc := escs.length / 32, panel0 := panel0, val := 0, scl := 0, psc := 0, esc := 0,
              mst := 0, mom := 0, resv := false }
    vals := rows.flatMap fun r => pad64 (r.flatMap (PBlk.bytes fmt))
    scls := pad64 (bs.flatten.map fun b => if b.esc.isSome then 0xFF else BitVec.ofNat 8 b.scl)
    pscs := (List.range (64 * ceilDiv ps.length 64)).flatMap fun i => leBytes 2 (nth ps i 0)
    escs := pad64 escs }

/-- The bytes of a matrix record. -/
def MRec.bytes (r : MRec) : List Byte :=
  leBytes 4 (r.proj + at_ (b2n r.isB) 12 + at_ r.nesc 16) ++ leBytes 4 r.panel0 ++ leBytes 8 r.val ++ leBytes 8 r.scl
    ++ leBytes 8 r.psc ++ leBytes 8 r.esc ++ leBytes 8 r.mst ++ leBytes 8 r.mom ++ List.replicate 8 0

/-- The header of a published blob (R158). -/
def pubHdr (e : Entry) (alpha tau ep minor blen : Nat) : List Byte :=
  leBytes 4 0x54424C42 ++ leBytes 4 (1 + 256 * minor) ++ leBytes 4 e.aid ++ leBytes 4 e.ward ++ leBytes 4 ep ++ leBytes 4 e.rank
    ++ leBytes 4 alpha ++ leBytes 4 tau ++ leBytes 4 (e.wfmtA + 16 * e.wfmtB) ++ leBytes 4 e.projs.length ++ leBytes 8 blen
    ++ List.replicate 80 0

/-- Place the arrays after the records, each matrix's values, scales, panel scales and escapes in turn. -/
def placeMats (ms : List PMat) : List MRec × List Byte :=
  let start := 0x80 + 64 * ms.length
  ms.foldl (fun (st : List MRec × List Byte) m =>
    let o := start + st.2.length
    let r := { m.rec_ with
      val := o, scl := o + m.vals.length, psc := o + m.vals.length + m.scls.length
      esc := if m.escs.isEmpty then 0 else o + m.vals.length + m.scls.length + m.pscs.length }
    (st.1 ++ [r], st.2 ++ m.vals ++ m.scls ++ m.pscs ++ m.escs)) ([], [])

/-- The lanes of an array that lie beyond the nominal rank (R145). -/
def padLane (rank cols : Nat) (isB : Bool) (i : Nat) : Bool := decide (rank ≤ (if isB then i % cols else i / cols))

/-- A master area with +0 in every padded lane of the master copy and of the moments, as `QUANT_PUBLISH` writes them (R145). -/
def Master.padded (m : Master) (rank : Nat) (shapes : List (Nat × Nat)) : Master :=
  { m with
    mats := m.mats.mapIdx fun i x =>
      let isB := i % 2 == 1
      let cols := (shapeOf rank isB (nth shapes (i / 2) (64, 64))).2
      let z (l : List Nat) : List Nat := l.mapIdx fun k w => if padLane rank cols isB k then 0 else w
      ⟨z x.w, z x.m, z x.v⟩ }

/-- The published blob of an adapter from its master arrays (R268), or NUMERIC_GUARD; with `ESC` and the counters. `shapes` the
(`IN_W`, `OUT_W`) of its projections. -/
def publishBlob (e : Entry) (m : Master) (shapes : List (Nat × Nat)) (alpha tau tauHdr ep minor : Nat) :
    Option (List Byte) × Nat × Cnt :=
  let idx := (List.range (2 * e.projs.length))
  let m := m.padded e.rank shapes
  let r := idx.foldl (fun (st : Option (List PMat) × Nat × Cnt × Nat) i =>
    match st.1 with
    | none => st
    | some ms =>
      let isB := i % 2 == 1
      let fmt := if isB then e.wfmtB else e.wfmtA
      let sh := shapeOf e.rank isB (nth shapes (i / 2) (64, 64))
      let rows := rowsOf sh.2 sh.1 (nth m.mats i ⟨[], [], []⟩).w
      let tq := if tau = 0 then (if fmt = 8 then 0x3F400000 else 0x3E800000) else tau
      let q := quantMatrix fmt e.aid ep st.2.2.2 sh.2 tq rows
      match q.1 with
      | none => (none, st.2.1 + q.2.1, st.2.2.1.plus q.2.2, 0)
      | some (ps, bs) =>
        (some (ms ++ [packMat fmt (nth e.projs (i / 2) 0) st.2.2.2 sh.2 sh.1 isB ps bs]), st.2.1 + q.2.1, st.2.2.1.plus q.2.2,
          st.2.2.2 + ceilDiv sh.1 256)) (some [], 0, Cnt.zero, 0)
  match r.1 with
  | none => (none, min r.2.1 65535, r.2.2.1)
  | some ms =>
    let pl := placeMats ms
    let body := pl.1.flatMap MRec.bytes ++ pl.2
    (some (pubHdr e alpha tauHdr ep minor (0x80 + body.length) ++ body), min r.2.1 65535, r.2.2.1)

/-- The bytes a published blob takes at most, its escape budgets full (the reservation of R268 step 1). -/
def pubSize (e : Entry) (shapes : List (Nat × Nat)) : Nat :=
  (List.range (2 * e.projs.length)).foldl (fun n i =>
    let isB := i % 2 == 1
    let fmt := if isB then e.wfmtB else e.wfmtA
    let sh := shapeOf e.rank isB (nth shapes (i / 2) (64, 64))
    let nblk := sh.1 * (sh.2 / 32)
    n + 64 + sh.1 * valStride fmt sh.2 + roundUp nblk 64 + 128 * ceilDiv (ceilDiv sh.1 256) 64 + 32 * (nblk / 64) / 64 * 64 + 64) 0x80

/-! ### `OPT_STEP` (R263, R264) -/

/-- beta^t by square and multiply from the most significant set bit of t. -/
def powSq (beta : Nat) : Nat → Nat → Nat → Nat
  | 0, _, acc => acc
  | k + 1, t, acc =>
    let sq := oMul acc acc
    powSq beta k t (if bitN t k then oMul sq beta else sq)

def powT (beta t : Nat) : Nat := powSq beta (Nat.log2 t + 1) t 0x3F800000

/-- The updated element: w, first and second moment in FP32, before narrowing (R263). -/
def optElem (o : OptRec) (w m v g : Nat) : Nat × Nat × Nat :=
  if o.kind = 1 then
    let t := o.t + 1
    let c1 := oSub 0x3F800000 o.beta1
    let c2 := oSub 0x3F800000 o.beta2
    let bc1 := oSub 0x3F800000 (powT o.beta1 t)
    let bc2 := oSub 0x3F800000 (powT o.beta2 t)
    let m2 := oAdd (oMul o.beta1 m) (oMul c1 g)
    let v2 := oAdd (oMul o.beta2 v) (oMul c2 (oMul g g))
    let u := oDiv (oDiv m2 bc1) (oAdd (oSqrt (oDiv v2 bc2)) o.eps)
    (oSub w (oMul o.lr (oAdd u (oMul o.wd w))), m2, v2)
  else
    let m2 := oAdd (oMul o.beta1 m) g
    (oSub w (oMul o.lr (oAdd m2 (oMul o.wd w))), m2, 0)

/-- One element as written (R264, R78): BF16 moments by stochastic rounding on streams 2 and 3; the counted replacements
(`NONFIN`) and moments beyond BF16 (`SAT_ACC`, R87). -/
def optWrite (o : OptRec) (aid ep pnl idx w m v g : Nat) : Nat × Nat × Nat × Cnt :=
  let r := optElem o w (wide m) (wide v) g
  let w2 := oOut r.1
  let m2 := oOut r.2.1
  let v2 := oOut r.2.2
  let mb := srBf m2.1 (rand16 aid ep pnl idx 2)
  let vb := if o.kind = 1 then srBf v2.1 (rand16 aid ep pnl idx 3) else (0, 0)
  (w2.1, mb.1, vb.1, { Cnt.nf (w2.2 + m2.2 + (if o.kind = 1 then v2.2 else 0)) with satAcc := mb.2 + vb.2 })

/-- The gradient of a round for one element: contributions in key order added, then scaled (R261). -/
def roundElem (cs : List Nat) (gscale : Nat) : Nat :=
  match cs with
  | [] => 0
  | c :: rest => oMul (rest.foldl oAdd c) gscale

end Sys2Proof.Machine
end

