-- ==== Sys2Proof/Machine/RasLog.lean ====
section
/-! DEFINITION. The RAS log and the `FAULT` notice (R578–R580). -/

namespace Sys2Proof.Machine

open Sys2Proof

/-- Write a log record with the next `LSEQ` into the ring of 1,024 (R580). -/
def State.rasLog (s : State) (kind index sev etype part addr : Nat) : State :=
  let n := s.ras.lseqLast.toNat + 1
  s.modRas fun r =>
    { r with
      lseqLast := BitVec.ofNat 64 n
      log := SMap.insert r.log (n % 1024)
        { lseq := n, stamp := s.now, kind := kind, index := index, sev := sev, etype := etype, part := part, addr := addr } }

/-- A `FAULT` notice with the mask of partitions whose contexts were torn (R475, R578), sent by a management core; with it
`FAULT_PEND` is set (R592) and the board gets an in-band interrupt (R616). -/
def State.faultSend (s : State) (h : HeldFault) : State :=
  let s := if s.ras.faultPend then s
    else (s.modRas fun r => { r with faultPend := true }).modSide fun d => { d with ibi := d.ibi ++ [1] }
  if s.mgt.coreLive &&& 0x2F = 0 then s
  else s.notice 0x62 (bytes4 [h.kind + at_ h.index 8 + at_ h.sev 24, h.mask] ++ leBytes 8 h.lseq)

/-- The notice of the newest log record. -/
def State.faultNote (s : State) (kind index sev mask : Nat) : State :=
  s.faultSend { kind := kind, index := index, sev := sev, mask := mask, lseq := s.ras.lseqLast.toNat }

/-- Log an error; one of severity CONTAINED or above also sends the notice (R578). -/
def State.rasError (s : State) (kind index sev etype part addr mask : Nat) : State :=
  let s := s.rasLog kind index sev etype part addr
  if 1 ≤ sev then s.faultNote kind index sev mask else s

/-- A boot-image blob was skipped (R557): unit and severity, which spec/ does not state, are free. -/
def State.logSkip (s : State) : State :=
  let a := s.fresh
  let b := a.2.fresh
  b.2.rasError (1 + a.1 % 11) 0 (b.1 % 6) 0x0C 0 0 0

/-- A slower-tier access failed (R303): no hardware is fenced; the unit, which spec/ does not state, is free. -/
def State.logSlow (s : State) : State :=
  let a := s.fresh
  a.2.rasError (1 + a.1 % 11) 0 1 0x0A 0 0 0

end Sys2Proof.Machine
end

