-- ==== Sys2Proof/Machine/Versions.lean ====
section
/-! DEFINITION. Directory entries, version tables, the cache region, the slower tier, and the commit engine (R154–R166,
R276–R304, R350–R372). -/

namespace Sys2Proof.Machine

open Sys2Proof

/-! ### Projections and layer bytes (R143, R294) -/

/-- (`IN_W`, `OUT_W`) of a projection. -/
def State.shape (s : State) (p : Nat) : Nat × Nat := let e := nth s.mgt.projTab p (64, 64, 0); (e.1, e.2.1)
def State.layer (s : State) (p : Nat) : Nat := (nth s.mgt.projTab p (64, 64, 0)).2.2

/-- Bytes of the published arrays of one matrix (R294). -/
def arrayBytes (fmt rows cols nesc : Nat) : Nat :=
  rows * valStride fmt cols + (if fmt = 1 then 0 else roundUp (rows * (cols / 32)) 64)
    + (if isCelat fmt then 128 * ceilDiv (ceilDiv rows 256) 64 else 0) + 32 * nesc

/-- The layers of a projection set. -/
def State.layersOf (s : State) (projs : List Nat) : List Nat := (projs.map s.layer).eraseDups

/-- Layer bytes of one layer for a version's blob. -/
def State.layerBytes (s : State) (rank wa wb : Nat) (projs : List Nat) (nesc : Nat → Nat) (l : Nat) : Nat :=
  (projs.mapIdx fun i p => (i, p)).foldl (fun n ip =>
    if s.layer ip.2 = l then
      let a := shapeOf rank false (s.shape ip.2)
      let b := shapeOf rank true (s.shape ip.2)
      n + arrayBytes wa a.1 a.2 (nesc (2 * ip.1)) + arrayBytes wb b.1 b.2 (nesc (2 * ip.1 + 1))
    else n) 0

def maxOf (l : List Nat) : Nat := l.foldl max 0

/-- The largest layer bytes of a version whose blob lies at a granule (R294). -/
def State.maxLayer (s : State) (e : Entry) (loc : Nat) : Nat :=
  let rd := s.reader (gAddr loc)
  maxOf ((s.layersOf e.projs).map fun l => s.layerBytes e.rank e.wfmtA e.wfmtB e.projs (fun i => (rd.mrec i).nesc) l)

/-- The largest FP32 gradient bytes of one layer (R294). -/
def State.gradLayer (s : State) (rank : Nat) (projs : List Nat) : Nat :=
  maxOf ((s.layersOf projs).map fun l => projs.foldl (fun n p =>
    if s.layer p = l then
      let a := shapeOf rank false (s.shape p)
      let b := shapeOf rank true (s.shape p)
      n + 4 * (a.1 * a.2 + b.1 * b.2)
    else n) 0)

/-! ### Entries and slots -/

def VSlot.live (v : VSlot) : Bool := v.vstate != .free

def Entry.slot (e : Entry) (ep : Nat) : Option VSlot := e.vtab.find? fun v => v.epoch == ep && v.live

def Entry.modSlot (e : Entry) (ep : Nat) (f : VSlot → VSlot) : Entry :=
  { e with vtab := updFirst e.vtab (fun v => v.epoch == ep && v.live) f }

def Entry.dropSlot (e : Entry) (ep : Nat) : Entry := { e with vtab := e.vtab.filter fun v => v.epoch != ep }

def State.modSlot (s : State) (aid ep : Nat) (f : VSlot → VSlot) : State := s.modEntry aid fun e => e.modSlot ep f

def Entry.nver (e : Entry) : Nat :=
  (e.vtab.filter fun v => v.vstate == .current || v.vstate == .retained || v.vstate == .filling || v.vstate == .valid).length

def vstateCode : VState → Nat
  | .free => 0 | .current => 1 | .retained => 2 | .retiring => 3 | .filling => 4 | .valid => 5

def entryCode : EntryState → Nat
  | .free => 0 | .empty => 1 | .ready => 2 | .retiring => 3

/-- A version-table slot as bytes (R352). -/
def VSlot.bytes (v : VSlot) : List Byte :=
  leBytes 4 v.epoch
    ++ leBytes 4 (vstateCode v.vstate + at_ (b2n v.slow) 3 + at_ (b2n v.inval) 4 + at_ v.bminor 5 + at_ (v.refs % 2 ^ 19) 13)
    ++ leBytes 4 v.rbatch ++ leBytes 4 v.loc

/-- A version table of 512 bytes (R352). -/
def Entry.vtabBytes (e : Entry) : List Byte :=
  let bs := (e.vtab.take 32).flatMap VSlot.bytes
  bs ++ List.replicate (512 - bs.length) 0

/-- A directory entry as bytes (R154); fixed addresses of R278. -/
def State.entryBytes (s : State) (e : Entry) : List Byte :=
  let blob := match e.slot e.curEpoch with
    | some v => if v.slow then 0 else gAddr v.loc
    | none => 0
  let mst := match s.cab.extentOf (.master e.aid) with
    | some x => gAddr x.base
    | none => 0
  bytes4 [e.aid + at_ (entryCode e.state) 24,
      e.ward + at_ (b2n (e.ward == wardCommon)) 20 + at_ (b2n e.learn) 21 + at_ (b2n e.owned) 22 + at_ (b2n e.pinned) 23
        + at_ e.wfmtA 24 + at_ e.wfmtB 28,
      e.owner + at_ e.rank 16, e.curEpoch, e.alphaR, e.tau, e.projs.length + at_ e.nver 13, 0]
    ++ leBytes 8 blob ++ leBytes 8 (if e.owned && e.learn then mst else 0)
    ++ leBytes 8 (sysBase + 0x9000000 + 4096 * e.idx) ++ leBytes 8 (sysBase + 0x1000000 + 512 * e.idx)

/-- A fresh entry. -/
def Entry.fresh (idx aid ward owner home cur : Nat) (owned : Bool) : Entry :=
  { idx := idx, aid := aid, state := .empty, ward := ward, learn := false, owned := owned, pinned := false, wfmtA := 0,
    wfmtB := 0, owner := owner, rank := 0, curEpoch := cur, alpha := 0, alphaR := 0, tau := 0, home := home, projs := [],
    statoff := [], vtab := [], master := none, contribs := [], round := none, target := 0, dirty := false, badMaster := false,
    frozen := false, unknown := false, pinEpoch := 0, keysNow := [], keysPrev := [], freePending := false }

def freshSlot (ep : Nat) (st : VState) (loc blen minor : Nat) : VSlot :=
  { epoch := ep, vstate := st, slow := false, inval := false, bminor := minor, refs := 0, rbatch := 0, loc := loc, blen := blen,
    stamp := 0, damaged := false, slowLoc := none, got := 0, lmax := 0 }

/-- The owner's notice record of an entry (R322, R324). -/
def State.recordOf (s : State) (e : Entry) : NoteRec :=
  let base : NoteRec := { aid := e.aid, valid := false, learn := false, epoch := 0, ward := e.ward, bminor := 0, blen := 0,
                          rank := 0, wfmtA := 0, wfmtB := 0, lbytes := 0, gbytes := 0, projs := [] }
  match e.state, e.slot e.curEpoch with
  | .ready, some v =>
    { base with
      valid := true, learn := e.learn, epoch := e.curEpoch, bminor := v.bminor, blen := ceilDiv v.blen 64, rank := e.rank,
      wfmtA := e.wfmtA, wfmtB := e.wfmtB, lbytes := ceilDiv (s.maxLayer e v.loc) 64,
      gbytes := ceilDiv (s.gradLayer e.rank e.projs) 64, projs := e.projs }
  | _, _ => base

/-! ### Invalidation batches (R364–R366) -/

/-- Batches of an owner up to which all are fully processed (R365): the highest such number, or 0. A batch of several frames is, once its
last frame is; one that has been reported as processed stays so. -/
def State.processed (s : State) (owner : Nat) : Nat :=
  let open_ (x : Nat × Nat) : Bool :=
    (s.getP x.1).ctx.any (fun c => c.sub.sseq == x.2 && !c.torn) || (s.getP x.1).svCtx.any fun c => c.sub.sseq == x.2
  let done (b : RxBatch) : Bool :=
    b.told || !b.steps.any open_ && b.pairs.all fun p => match s.entry p.1 with
      | some e => !(e.owned == false && (e.slot p.2).any fun v => v.vstate == .filling)
      | none => true
  let rec go : Nat → List RxBatch → Nat
    | n, [] => n
    | n, b :: bs => if done b then go (if b.whole then b.num else n) bs else n
  go 0 (s.pol.rx.filter fun b => b.owner == owner)

/-- Send `VERSION_RETIRED` for freed slots, 1 to 510 records a notice (R366, R475). -/
def State.sendRetired (s : State) (l : List (Nat × Nat)) : State :=
  if l.isEmpty then s
  else (pieces 510 (l.length / 510 + 1) l).foldl (fun (s : State) c =>
    if c.isEmpty then s else s.notice 0x64 (bytes4 [c.length, 0] ++ c.flatMap fun e => bytes4 [e.1, e.2])) s

/-- Whether every other member has acknowledged a slot's batch (R366). -/
def State.acked (s : State) (v : VSlot) : Bool :=
  s.others.all fun i =>
    v.rbatch != 0 && (SMap.has s.pol.acks i) && !precedes (SMap.get 0 s.pol.acks i) v.rbatch

/-- An owned entry is removed: its master area and contribution slots are released and its last epoch is kept (R142, R281). DESIGN CHOICE
(log entry 72): the STAT counts of the ID stay and go to the next adapter on it; R83 does not say. -/
def State.freeEntry (s : State) (e : Entry) : State :=
  s.modCab fun c =>
    { c with
      dir := c.dir.filter fun x => x.aid != e.aid
      lastEpoch := SMap.set 0 c.lastEpoch e.aid e.curEpoch
      extents := c.extents.filter fun x => match x.obj with
        | .master a => a != e.aid
        | .contrib a _ => a != e.aid
        | _ => true }

/-- Free every RETIRING slot whose conditions are met (R366), with its charge, and entries left without slots (R142). -/
def State.reclaim (s : State) : State :=
  let gone := s.cab.dir.flatMap fun e =>
    if e.owned then (e.vtab.filter fun v => v.vstate == .retiring && v.refs == 0 && s.acked v).map fun v => (e.aid, v.epoch)
    else []
  let s := gone.foldl (fun s g =>
    (s.modEntry g.1 fun e => e.dropSlot g.2).modCab fun c => c.release (.blob g.1 g.2)) s
  let s := s.sendRetired gone
  s.cab.dir.foldl (fun s e => if e.owned && e.state == .retiring && e.vtab.isEmpty then s.freeEntry e else s) s

/-! ### The cache region (R284–R288) -/

/-- Remove a cached blob and its extent; an entry without blobs goes too (R286). -/
def State.dropCached (s : State) (aid ep : Nat) : State :=
  let s := (s.modEntry aid fun e => e.dropSlot ep).modCab fun c => c.release (.cached aid ep)
  s.modCab fun c => { c with dir := c.dir.filter fun e => e.owned || !e.vtab.isEmpty }

/-- Evict a cached blob, with its notice to the owner (R287, R365). -/
def State.evict (s : State) (aid ep : Nat) : State :=
  let s := s.dropCached aid ep
  match s.ownerOfAid aid with
  | some o => if o = s.me ∨ s.pol.instValid = false then s else s.sendRpp o 0x22 0 .ok 0 0 (.batch (s.processed o) [(aid, ep)])
  | none => s

/-- A cached blob that may be evicted (R286). -/
def Entry.evictable (e : Entry) (v : VSlot) : Bool :=
  !e.owned && v.refs == 0 && v.vstate == .valid && (!e.pinned || v.epoch != e.pinEpoch)

/-- Order of eviction (R287): lowest stamp, lower adapter ID, older epoch. -/
def evictLt (a b : Nat × VSlot) : Bool :=
  if a.2.stamp ≠ b.2.stamp then decide (a.2.stamp < b.2.stamp)
  else if a.1 ≠ b.1 then decide (a.1 < b.1)
  else precedes a.2.epoch b.2.epoch

def State.evictList (s : State) : List (Nat × VSlot) :=
  insSort evictLt (s.cab.dir.flatMap fun e => (e.vtab.filter e.evictable).map fun v => (e.aid, v))

/-- How many blobs of a list must go before `len` granules fit; `exts` the extents of the cache region that stay. -/
def State.roomAfter (s : State) (len : Nat) : List Extent → List (Nat × VSlot) → Option (List (Nat × Nat))
  | exts, l =>
    if (s.cacheFit len exts).isSome then some []
    else
      match l with
      | [] => none
      | x :: rest =>
        (s.roomAfter len (exts.filter fun e => decide (e.obj ≠ .cached x.1 x.2.epoch)) rest).map fun r => (x.1, x.2.epoch) :: r
  termination_by structural _ l => l

/-- Reserve a range of the cache region, evicting as R287 states; nothing is evicted where it cannot be placed. -/
def State.cacheReserve (s : State) (len : Nat) (o : CabObj) : Option (Nat × State) :=
  match s.roomAfter len s.cab.extents s.evictList with
  | none => none
  | some gone =>
    let s := gone.foldl (fun s g => s.evict g.1 g.2) s
    (s.cacheFit len s.cab.extents).map fun b =>
      (b, s.modCab fun c => { c with extents := addExtent ⟨b, len, 32, o⟩ c.extents })

/-- Evict blobs that an invalidation marked and that have no reference (R365). -/
def State.evictInval (s : State) : State :=
  (s.cab.dir.flatMap fun e => if e.owned then [] else
    (e.vtab.filter fun v => v.inval && v.refs == 0 && v.vstate == .valid).map fun v => (e.aid, v.epoch)).foldl
    (fun s g => s.evict g.1 g.2) s

/-- The cached entry whose blobs all go when `CACHE_DIR` is full (R283). -/
def State.dirVictim (s : State) : Option Entry :=
  let ok := s.cab.dir.filter fun e => !e.owned && e.vtab.all e.evictable
  let first := insSort evictLt (ok.flatMap fun e => e.vtab.map fun v => (e.aid, v))
  first.head?.bind fun x => ok.find? fun e => e.aid == x.1

/-- Make room for one more blob in a cached entry (R353) and, for a new one, for the entry (R283); `none` where it cannot. -/
def State.cacheEntry (s : State) (aid owner : Nat) (r : NoteRec) : Option State :=
  match s.entry aid with
  | some e =>
    if e.owned then none
    else if e.vtab.length < 16 then some s
    else
      match (insSort evictLt ((e.vtab.filter e.evictable).map fun v => (e.aid, v))).head? with
      | some x => some (s.evict x.1 x.2.epoch)
      | none => none
  | none =>
    let s? := if s.cachedUse < s.cab.cacheDir.toNat then some s
      else match s.dirVictim with
        | some v => some (v.vtab.foldl (fun s x => s.evict v.aid x.epoch) s)
        | none => none
    match s? with
    | none => none
    | some s =>
      match s.freeDirIdx with
      | none => none
      | some i =>
        let e := Entry.fresh i aid r.ward owner 0 r.epoch false
        some (s.modCab fun c =>
          { c with dir := c.dir ++ [{ e with state := .ready, learn := r.learn, wfmtA := r.wfmtA, wfmtB := r.wfmtB, rank := r.rank,
                                             projs := r.projs, statoff := r.projs.map fun _ => 0 }] })

/-- Begin a fill: entry, space and a FILLING slot (R285); `blen` in bytes. -/
def State.beginFill (s : State) (aid ep owner blen : Nat) (r : NoteRec) : Option State :=
  match s.cacheEntry aid owner r with
  | none => none
  | some s1 =>
    match s1.cacheReserve (ceilDiv blen granule) (.cached aid ep) with
    | none => none
    | some (b, s2) =>
      -- an eviction can have removed the entry; its record then makes it anew
      match s2.cacheEntry aid owner r with
      | none => none
      | some s3 => some (s3.modEntry aid fun e => { e with vtab := e.vtab ++ [freshSlot ep .filling b blen r.bminor] })

/-- A fill ends without its blob: space and, if empty, entry go (R285). -/
def State.failFill (s : State) (aid ep : Nat) : State :=
  match s.entry aid with
  | some e => if (e.slot ep).any (fun v => v.vstate == .filling) && !e.owned then s.dropCached aid ep else s
  | none => s

/-! ### References (R286, R356) -/

def State.takeRef (s : State) (aid ep : Nat) : State :=
  s.modSlot aid ep fun v => { v with refs := v.refs + 1 }

def State.freeRef (s : State) (aid ep : Nat) : State :=
  s.modSlot aid ep fun v => { v with refs := v.refs - 1 }

/-! ### Slower tier (R299–R303) -/

/-- Ranges of a partition's slower-tier window in use, in granules. -/
def State.slowUse (s : State) (p : Nat) : List Extent :=
  (s.cab.dir.flatMap fun e => if e.owned && e.home == p then e.vtab.filterMap fun v =>
      v.slowLoc.map fun o => (⟨o, ceilDiv (v.blen + 64) granule, p, .blob e.aid v.epoch⟩ : Extent) else []).foldl
    (fun l x => addExtent x l) []

/-- A partition's window exists: a POOL window once it is granted (R321), a HOST window while it lies inside a host-memory
window granted to the partition (R299). -/
def State.slowReady (s : State) (p : Nat) : Bool :=
  let pg := s.getP p
  if pg.slowSpace = 3 then pg.slowAt != 0 else s.inGrant p 2 pg.slowBase.toNat pg.slowSize.toNat

/-- A window range for a sealed blob: its 64-byte header and ciphertext; none where the window is absent or full (R300). -/
def State.slowFit (s : State) (p blen : Nat) : Option Nat :=
  if s.slowReady p = false then none
  else lowestFree (ceilDiv (blen + 64) granule) ((s.getP p).slowSize.toNat / granule) 0 (s.slowUse p)

/-- Blobs whose copy to the slower tier is on its way. -/
def State.demoting (s : State) (aid ep : Nat) : Bool :=
  (s.pol.reqs.any fun r => match r.kind with | .slowWr _ a e => a == aid && e == ep | _ => false)
    || (s.fab.xfers.any fun x => match x.use with | .slowWrite _ a e => a == aid && e == ep | _ => false)

/-- Reads from the slower tier on their way (R302). -/
def State.promoting (s : State) (aid ep : Nat) : Bool :=
  (s.pol.reqs.any fun r => match r.kind with | .slowRd _ a e => a == aid && e == ep | _ => false)
    || (s.fab.xfers.any fun x => match x.use with | .slowRead _ a e => a == aid && e == ep | _ => false)

/-- Host accesses to the slower tier leave on the fabric, at most 4,096 bytes each (R611). -/
def State.hostXfer (s : State) (addr len : Nat) (write : Option (List Byte)) (use : XferFor) : State :=
  (List.range (ceilDiv len 4096)).foldl (fun (s : State) k =>
    let n := min 4096 (len - 4096 * k)
    s.sendXfer 2 (addr + 4096 * k) n (write.map fun bs => (bs.drop (4096 * k)).take n) use) s

/-- The exporter of a POOL window (R98) and the offset that it granted (R321). -/
def Prt.slowPeer (q : Prt) : Nat := q.slowBase.toNat / 2 ^ 40
def Prt.slowOff (q : Prt) : Nat := q.slowAt - 1

/-- A demoted blob's copy is in the slower tier: its Cabinet charge goes (R300). -/
def State.demoted (s : State) (aid ep : Nat) : State :=
  match s.entry aid with
  | some e =>
    match e.slot ep with
    | some v =>
      if v.slowLoc.isSome ∧ v.slow = false ∧ v.refs = 0 ∧ e.curEpoch ≠ ep then
        (s.modSlot aid ep fun x => { x with slow := true, loc := v.slowLoc.getD 0, lmax := s.maxLayer e v.loc }).modCab fun c => c.release (.blob aid ep)
      else s
    | none => s
  | none => s

/-- Demote one blob: write its sealed copy, or only release it where a copy stands (R302). -/
def State.demoteOne (s : State) (p : Nat) (e : Entry) (v : VSlot) : State :=
  if v.slowLoc.isSome then s.demoted e.aid v.epoch
  else
    match s.slowFit p v.blen with
    | none => s
    | some o =>
      let wc := s.fresh
      let pg := wc.2.getP p
      let bs := Config.sealed p e.aid v.epoch (granule * o) wc.1 (Memory.readN s.hbm (gAddr v.loc) v.blen)
      let s := wc.2.modSlot e.aid v.epoch fun v => { v with slowLoc := some o }
      if pg.slowSpace = 2 then
        s.hostXfer (pg.slowBase.toNat + granule * o) (v.blen + 64) (some bs) (.slowWrite p e.aid v.epoch)
      else s.request pg.slowPeer (.slowWr p e.aid v.epoch) 0x1E e.aid v.epoch (.data (pg.slowOff + granule * o) bs true)

/-- Blobs of partition p that can be demoted, oldest epoch first (R300). -/
def State.demotable (s : State) (p : Nat) : List (Entry × VSlot) :=
  insSort (fun a b => precedes a.2.epoch b.2.epoch || (a.2.epoch == b.2.epoch && decide (a.1.aid < b.1.aid)))
    (s.cab.dir.flatMap fun e => if e.owned && e.home == p then (e.vtab.filter fun v =>
        (v.vstate == .retained || v.vstate == .retiring) && v.refs == 0 && !v.slow && !s.demoting e.aid v.epoch
          && (v.slowLoc.isSome || (s.slowFit p v.blen).isSome)).map fun v => (e, v) else [])

/-- Granules of partition p whose release is on its way. -/
def State.leavingUse (s : State) (p : Nat) : Nat :=
  s.cab.extents.foldl (fun n x => match x.obj with
    | .blob a e => if x.part == p && s.demoting a e then n + x.len else n
    | _ => n) 0

/-- Demote until use is at or below the mark or nothing can be demoted (R300). -/
def State.demote (p : Nat) : Nat → State → State
  | 0, s => s
  | fuel + 1, s =>
    if (s.getP p).cabQuota.toNat * s.cab.demoteMark.toNat < 100 * (s.cabUse p - s.leavingUse p) then
      match s.demotable p with
      | [] => s
      | (e, v) :: _ => State.demote p fuel (s.demoteOne p e v)
    else s

/-- Begin to promote a demoted version (R302): charge its home, read it back; false where the quota does not hold it. -/
def State.promote (s : State) (aid ep : Nat) : Bool × State :=
  match s.entry aid with
  | none => (false, s)
  | some e =>
    match e.slot ep with
    | none => (false, s)
    | some v =>
      if v.slow = false ∨ s.promoting aid ep = true then (true, s)
      else
        match s.charge e.home (ceilDiv v.blen granule) (.blob aid ep) with
        | (none, s) => (false, s)
        | (some _, s) =>
          let pg := s.getP e.home
          let o := granule * v.slowLoc.getD 0
          let s := s.takeRef aid ep
          (true,
            if pg.slowSpace = 2 then s.hostXfer (pg.slowBase.toNat + o) (v.blen + 64) none (.slowRead e.home aid ep)
            else s.request pg.slowPeer (.slowRd e.home aid ep) 0x1C aid ep (.window (pg.slowOff + o) (v.blen + 64)))

/-- A promotion ends: with the blob's bytes, which land in the reserved range, or without. -/
def State.promoted (s : State) (aid ep : Nat) (bytes : Option (List Byte)) : State :=
  let s := s.freeRef aid ep
  match bytes, s.cab.extentOf (.blob aid ep) with
  | some bs, some x => (s.land 0 (gAddr x.base) bs).modSlot aid ep fun v => { v with slow := false, loc := x.base }
  | _, _ => s.logSlow.modCab fun c => c.release (.blob aid ep)

/-! ### The commit engine (R358–R363) -/

/-- A commit record as bytes (R362). -/
def CommitRec.bytes (r : CommitRec) : List Byte :=
  bytes4 [r.aid + at_ r.kind 24, r.epoch, r.prev, r.publisher + at_ r.part 16] ++ leBytes 8 r.blob ++ leBytes 8 r.blen
    ++ leBytes 8 r.lseq ++ leBytes 8 r.sseq ++ leBytes 16 r.esc

/-- `LOG_READ` (R362, R465). -/
def execLogRead (f : RclFrame) (s : State) : Host.Outcome State Fault Refusal :=
  .next <| s.serve 0x0B none none f fun _ s =>
    let n := fld (f.word 8) 6 0
    if f.data.length ≠ 12 ∨ fld (f.word 8) 31 7 ≠ 0 ∨ n = 0 ∨ 64 < n then (.now .descInvalid [], s)
    else (.now .ok (((s.cab.log.filter fun r => decide (f.pl 0 8 ≤ r.lseq)).take n).flatMap CommitRec.bytes), s)

/-- The slots of an entry beyond the retention window become RETIRING (R361, R354). -/
def retireOld (retain : Nat) : Nat → Entry → Entry
  | 0, e => e
  | fuel + 1, e =>
    let kept := e.vtab.filter fun v => v.vstate == .current || v.vstate == .retained
    if kept.length ≤ retain then e
    else
      match least (fun (a b : VSlot) => precedes a.epoch b.epoch) (e.vtab.filter fun v => v.vstate == .retained) with
      | some v => retireOld retain fuel (e.modSlot v.epoch fun x => { x with vstate := .retiring })
      | none => e

/-- Every slot of a freed adapter becomes RETIRING, and the entry (R142, R364); partitions lose it as common adapter (R166). -/
def State.freeAdapter (s : State) (aid : Nat) : State :=
  let s := s.modEntry aid fun e =>
    { e with state := .retiring, freePending := false, vtab := e.vtab.map fun v => { v with vstate := .retiring }, contribs := [] }
  -- contribution slots are released (R275)
  let s := s.modCab fun c => { c with extents := c.extents.filter fun x => match x.obj with | .contrib a _ => a != aid | _ => true }
  let s := { s with prt := s.prt.map fun (q : Prt) => if q.common = aid then { q with common := 0 } else q }
  s.reclaim

/-- The checks of R359; the target epoch is next_epoch of `CUR_EPOCH` for an UPLOAD. -/
def State.commitCheck (s : State) (c : Candidate) : Option Status × State :=
  match s.entry c.aid with
  | none => (some .adapterUnknown, s)
  | some e =>
    if e.owned = false ∨ (e.state ≠ .empty ∧ e.state ≠ .ready) then (some .adapterUnknown, s)
    else if e.frozen then (some .noCapacity, s)
    else if c.kind = 2 ∧ c.target ≠ nextEpoch e.curEpoch then (some .superseded, s)
    else if 32 ≤ e.vtab.length then (some .noCapacity, s.modCab fun c => { c with vtFull := satAdd c.vtFull 1 })
    else (none, s)

/-- The list record of the step whose `QUANT_PUBLISH` waits for a candidate gets its status (R268, R451). -/
def State.publishDone (s : State) (c : Candidate) (st : Status) (ep : Nat) : State :=
  let upd (x : Ctx) : Ctx :=
    if x.sub.sseq = c.sseq then
      { x with lists := updFirst x.lists (fun r => r.aid == c.aid && r.kind == 2 && r.status == .deferred)
                 fun r => { r with status := st, epoch := ep } }
    else x
  s.modP c.part fun q => { q with ctx := q.ctx.map upd, svCtx := q.svCtx.map upd, finals := q.finals.map upd }

/-- A candidate ends without a commit: its blob is released, its source answered (R359). -/
def State.commitFail (s : State) (c : Candidate) (st : Status) : State :=
  let s := s.modCab fun b => { (b.release (.resv c.resv)) with cands := b.cands.filter fun x => x.resv != c.resv }
  match c.up with
  | some id => s.endLong id st []
  | none =>
    if c.boot then s
    else (s.publishDone c st c.target).modEntry c.aid fun e => if st = .superseded then { e with dirty := false } else e

/-- Answer of a committed upload (R465). -/
def upReply (aid ep esc : Nat) : List Byte := bytes4 [aid, ep, esc]

/-- The atomic update of the commit point (R361): log, slots, epoch, notices (R363, R475). -/
def State.commit (s : State) (c : Candidate) (ep : Nat) : State :=
  match s.entry c.aid, s.cab.extentOf (.resv c.resv) with
  | some e, some x =>
    let minor := s.pol.pubMinor.toNat
    let rec_ : CommitRec := { aid := c.aid, kind := c.kind, epoch := ep, prev := e.curEpoch, publisher := s.me, part := c.part,
                              blob := gAddr x.base, blen := c.blen, lseq := s.cab.lseqNext, sseq := c.sseq, esc := c.esc }
    -- `EPOCH` of the header is written by the owner at commit (R158)
    let s := s.land 0 (gAddr x.base + 0x10) (leBytes 4 ep)
    let s := s.modEntry c.aid fun e =>
      let old := e.vtab.map fun v => if v.vstate = .current then { v with vstate := .retained } else v
      let e := { e with vtab := old ++ [freshSlot ep .current x.base c.blen minor], curEpoch := ep, state := .ready, dirty := false,
                        tau := if c.kind = 1 then c.tau else e.tau }
      retireOld s.cab.retain.toNat 32 e
    let s := s.modCab fun b =>
      { b with
        log := (b.log ++ [rec_]).drop (b.log.length + 1 - 258048), lseqNext := b.lseqNext + 1
        extents := b.extents.map fun y => if y.obj = .resv c.resv then { y with obj := .blob c.aid ep } else y }
    let s := s.notice 0x61 rec_.bytes
    let s := match s.entry c.aid with
      | some e => s.others.foldl (fun (s : State) i => s.pubTo i (s.recordOf e)) s
      | none => s
    let s := match c.up with
      | some id => s.endLong id .ok (upReply c.aid ep c.esc)
      | none => if c.boot then s else s.publishDone c .ok ep
    let s := match s.entry c.aid with
      | some e => if e.freePending then s.freeAdapter c.aid else s
      | none => s
    s.reclaim
  | _, _ => s

/-- Whether the session of an upload is still open; `true` for other candidates (R534). -/
def State.upSession (s : State) (c : Candidate) : Bool :=
  match c.up with
  | some id =>
    match s.lnk.longs.find? fun l => l.id == id with
    | some l => SMap.has s.sec.sessions l.session
    | none => false
  | none => true

/-- The order of candidates that reach the engine at one time (R358, R360): ascending adapter ID; for one adapter the higher target epoch
first, then UPLOAD before QUANT_PUBLISH. -/
def State.candLt (s : State) (a b : Candidate) : Bool :=
  let key (c : Candidate) : Nat := if c.kind = 1 then nextEpoch (((s.entry c.aid).map (·.curEpoch)).getD 0) else c.target
  if a.aid ≠ b.aid then decide (a.aid < b.aid)
  else if key a ≠ key b then precedes (key b) (key a)
  else decide (a.kind < b.kind)

/-- A candidate reaches the engine: behind all that came earlier, in the order of R358 and R360 among those of its own time. -/
def State.candidate (s : State) (c : Candidate) : State :=
  let c := { c with since := s.now }
  let early := s.cab.cands.filter fun x => x.since != s.now
  let now := s.cab.cands.filter fun x => x.since == s.now
  s.modCab fun b => { b with cands := early ++ insSort s.candLt (now ++ [c]) }

end Sys2Proof.Machine
end

