-- ==== Sys2Proof/Machine/Adapters.lean ====
section
/-! DEFINITION. Adapter commands (R138–R166): free, query, upload, common adapter, and the pinned set (R289–R291). -/

namespace Sys2Proof.Machine

open Sys2Proof

/-! ### Authority over adapters (R521) -/

/-- What a session may do with an adapter ID: the entry, or the status that refuses. -/
def State.adapterFor (s : State) (cl : Caller) (aid : Nat) : Except Status Entry :=
  match s.entry aid, cl.sess with
  | some e, some x => if x.operator ∨ e.ward = x.ward then .ok e else .error .wardFault
  | none, some x => if x.operator then .error .adapterUnknown else .error .wardFault
  | _, none => .error .authFail

/-- `ADAPTER_FREE` (R142, R157, R319). -/
def execAdapterFree (f : RclFrame) (s : State) : Host.Outcome State Fault Refusal :=
  .next <| s.serve 0x19 none none f fun cl s =>
    let aid := fld (f.word 0) 23 0
    if f.data.length ≠ 4 ∨ fld (f.word 0) 31 24 ≠ 0 then (.now .descInvalid [], s)
    else if aid = 0 then (.now .adapterUnknown [], s)
    else
      match s.adapterFor cl aid with
      | .error st => (.now st [], s)
      | .ok e =>
        if e.owned = false ∨ e.state = .retiring then (.now .adapterUnknown [], s)
        else if e.frozen then (.now .noCapacity [], s)
        else if s.cab.engine.any (fun c => c.1.aid == aid) then (.now .ok [], s.modEntry aid fun e => { e with freePending := true })
        else (.now .ok [], s.freeAdapter aid)

/-- `ADAPTER_QUERY` (R154, R156, R521). -/
def execAdapterQuery (f : RclFrame) (s : State) : Host.Outcome State Fault Refusal :=
  .next <| s.serve 0x1A none none f fun cl s =>
    let aid := fld (f.word 0) 23 0
    if f.data.length ≠ 4 ∨ fld (f.word 0) 31 24 ≠ 0 then (.now .descInvalid [], s)
    else if aid = 0 then (.now .adapterUnknown [], s)
    else
      match s.adapterFor cl aid with
      | .error st => (.now st [], s)
      | .ok e => (.now .ok (s.entryBytes e ++ e.vtabBytes), s)

/-! ### The common adapter (R150) -/

/-- What the device knows of a common adapter: its ward, whether it is READY and learnable. -/
def State.commonInfo (s : State) (aid : Nat) : Option (Nat × Bool × Bool) :=
  match s.entry aid with
  | some e => some (e.ward, e.state == .ready && !e.unknown, e.learn)
  | none =>
    match s.pol.notes.find? fun n => n.1 == aid with
    | some n => some (n.2.ward, n.2.valid, n.2.learn)
    | none => none

/-- `COMMON_SET` with `CLEAR` as given; a frame with the other value is no command of the row. -/
def State.commonSet (s : State) (f : RclFrame) (clear : Bool) : State :=
  if bit (f.word 0) 8 ≠ clear then s
  else
    s.serve 0x1C none none f fun _ s =>
      let p := fld (f.word 0) 4 0
      let aid := fld (f.word 4) 23 0
      if f.data.length ≠ 8 ∨ fld (f.word 0) 7 5 ≠ 0 ∨ fld (f.word 0) 31 9 ≠ 0 ∨ fld (f.word 4) 31 24 ≠ 0
          ∨ (clear = true ∧ aid ≠ 0) then (.now .descInvalid [], s)
      else if clear then (.now .ok [], s.modP p fun q => { q with common := 0 })
      else if aid = 0 then (.now .adapterUnknown [], s)
      else
        match s.commonInfo aid with
        | none => (.now .adapterUnknown [], s)
        | some (w, ready, learn) =>
          if ready = false then (.now .adapterUnknown [], s)
          else if w ≠ wardCommon then (.now .wardFault [], s)
          else if learn then (.now .formatUnsupported [], s)
          else (.now .ok [], s.modP p fun q => { q with common := aid })

def execCommonSet (f : RclFrame) (s : State) : Host.Outcome State Fault Refusal := .next (s.commonSet f false)
def execCommonSetClear (f : RclFrame) (s : State) : Host.Outcome State Fault Refusal := .next (s.commonSet f true)

/-! ### Fills and the pinned set (R285, R289–R291, R331) -/

/-- Send one `FETCH_REQ` to each owner, ascending, listing its pairs by adapter ID (R331); the pairs of a range without an
owner are given back. -/
def State.fetchFor (s : State) (l : List (Nat × Nat)) : List (Nat × Nat) × State :=
  let l := insSort (fun (a b : Nat × Nat) => decide (a.1 < b.1)) l
  let owners := insSort (fun (a b : Nat) => decide (a < b)) (l.filterMap fun x => s.ownerOfAid x.1).eraseDups
  (l.filter fun x => (s.ownerOfAid x.1).isNone,
    owners.foldl (fun (s : State) o =>
      let mine := l.filter fun x => s.ownerOfAid x.1 == some o
      s.request o (.fetch mine) 0x12 0 0 (.pairs mine)) s)

/-- The notice record by which a version of a remote adapter can be filled: the record, superseded by the cached entry's
current version (R323). -/
def State.fillRec (s : State) (aid : Nat) : Option NoteRec := (s.pol.notes.find? fun n => n.1 == aid).map (·.2)

/-- The IDs a refresh is about: the designated common adapters at the head (R291), then the operator's list in its order,
each ID once and none that this device owns (R289). -/
def State.pinIds (s : State) : List Nat × List Nat :=
  let own (a : Nat) : Bool := (s.entry a).any (·.owned) || s.mine a
  let heads := ((s.prt.filterMap fun q => if q.common = 0 then none else some q.common).filter fun a => !own a).eraseDups
  (heads, (s.cab.pinList.filter fun a => !own a && !heads.contains a).eraseDups)

/-- What a refresh chooses: the IDs with their records, the granules counted, the IDs without room, whether it stopped. -/
structure PinPlan where
  take : List (Nat × NoteRec)
  used : Nat
  short : Nat
  stopped : Bool

/-- Choose one ID (R289): a version the cache cannot read is left; `counted` is false for the common adapters (R291). -/
def State.pinPick (s : State) (counted : Bool) (r : PinPlan) (aid : Nat) : PinPlan :=
  if r.stopped ∧ counted then { r with short := r.short + 1 }
  else
    match s.fillRec aid with
    | none => r
    | some n =>
      let g := ceilDiv (n.blen * 64) granule
      if blobMinorMax < n.bminor then r
      else if counted ∧ min s.cab.pinLimit.toNat s.cab.cacheSize.toNat < r.used + g then { r with short := r.short + 1, stopped := true }
      else { r with take := r.take ++ [(aid, n)], used := r.used + (if counted then g else 0) }

/-- Mark an entry as pinned at a version. -/
def State.pinAt (s : State) (aid ep : Nat) : State := s.modEntry aid fun e => { e with pinned := true, pinEpoch := ep }

/-- Whether this cache holds a version's blob, or is filling it. -/
def State.holds (s : State) (aid ep : Nat) : Bool := (s.entry aid).any fun e => (e.slot ep).isSome

/-- Choose the pinned set and fill it (R289–R291). The marks of the IDs not chosen are cleared and those of the versions
already held set before any fill starts, so that no fill of the refresh evicts a version it pins. -/
def State.pinFill (s : State) : State :=
  let ids := s.pinIds
  let plan := ids.2.foldl (s.pinPick true) (ids.1.foldl (s.pinPick false) ⟨[], 0, 0, false⟩)
  let held := plan.take.filter fun x => s.holds x.1 x.2.epoch
  let todo := plan.take.filter fun x => !s.holds x.1 x.2.epoch
  let s0 := s.modCab fun c => { c with dir := c.dir.map fun e => { e with pinned := e.pinned && held.any fun x => x.1 == e.aid } }
  let s1 := held.foldl (fun (s : State) x => s.pinAt x.1 x.2.epoch) s0
  let r := todo.foldl (fun (r : State × List (Nat × Nat) × Nat) x =>
    match r.1.beginFill x.1 x.2.epoch ((r.1.ownerOfAid x.1).getD 0) (x.2.blen * 64) x.2 with
    | none => (r.1, r.2.1, r.2.2 + 1)
    | some s2 => (s2.pinAt x.1 x.2.epoch, r.2.1 ++ [(x.1, x.2.epoch)], r.2.2)) (s1, [], plan.short)
  ((r.1.fetchFor r.2.1).2).modCab fun c => { c with pinShort := BitVec.ofNat 32 (sat32 r.2.2), pinBusy := !r.2.1.isEmpty, pinAsk := false }

/-- Whether a question of the refresh about IDs without a notice record is unanswered. -/
def State.pinAsking (s : State) : Bool :=
  s.pol.reqs.any fun q => match q.kind with | .note p _ => p == 32 | _ => false

/-- One refresh of the pinned set: the owners of the IDs without a notice record are asked for it first (R323). -/
def State.pinRefresh (s : State) : State :=
  let ids := s.pinIds
  let asks := ((ids.1 ++ ids.2).filter fun a => (s.fillRec a).isNone).filterMap fun a => (s.ownerOfAid a).map fun o => (o, a)
  if asks.isEmpty ∧ s.pinAsking = false then s.pinFill
  else
    let s := (asks.map (·.1)).eraseDups.foldl (fun (s : State) o =>
      let l := (asks.filter fun x => x.1 == o).map (·.2)
      s.request o (.note 32 l) 0x10 0 0 (.aids l)) s
    s.modCab fun c => { c with pinBusy := true, pinAsk := true }

/-- A refresh starts, or waits for the one that runs (R290). -/
def State.pinStart (s : State) : State :=
  if s.cab.pinBusy then s.modCab fun c => { c with pinAgain := some (c.pinAgain.getD s.now) }
  else s.pinRefresh

/-- A refresh ends when its fills have ended; a later one then starts at once, with `SERVICE_LAG` (R290, R475). -/
def State.pinSettle (s : State) : State :=
  let s := if s.cab.pinBusy ∧ s.cab.pinAsk ∧ s.pinAsking = false then s.pinFill else s
  let filling : Bool := s.cab.dir.any fun e => e.pinned && (e.slot e.pinEpoch).any fun v => v.vstate == .filling
  if s.cab.pinAsk = false ∧ filling = false ∧ (s.cab.pinBusy ∨ s.cab.pinAgain.isSome) then
    let s := s.modCab fun c => { c with pinBusy := false }
    match s.cab.pinAgain with
    | some t => State.pinRefresh ((s.lagNotice 1 t).modCab fun c => { c with pinAgain := none })
    | none => s
  else s

/-- `PIN_LIST` (R289, R465): the operator's list; the next refresh uses it. -/
def execPinList (f : RclFrame) (s : State) : Host.Outcome State Fault Refusal :=
  .next <| s.serve 0x1D none none f fun _ s =>
    let n := f.data.length / 4
    let l := (List.range n).map fun i => f.pl (4 * i) 4
    if f.data.length % 4 ≠ 0 ∨ 262144 < n ∨ l.any (fun a => decide (2 ^ 24 ≤ a)) = true then (.now .descInvalid [], s)
    else (.now .ok [], s.modCab fun c => { c with pinList := l })

/-! ### Upload (R162, R163) -/

/-- A finite FP32 pattern. -/
def fin32 (w : Nat) : Bool := expo32 w != 255

/-- The admitted combinations of R147. -/
def fmtCombo (a b : Nat) (learn : Bool) : Bool :=
  ((a == 7 || a == 8) && b == 7) || (isMx8 a && isMx8 b && !learn) || (a == 1 && b == 1 && !learn)

/-- The limits of `TAU` (R158). -/
def tauOk (t : Nat) : Bool := t == 0 || (fin32 t && !sign32 t && !lt32 t 0x37800000 && !lt32 0x3F800000 t)

/-- A value in [0, 1). -/
def unit32 (w : Nat) : Bool := fin32 w && (!sign32 w || mag32 w == 0) && lt32 w 0x3F800000
def nonneg32 (w : Nat) : Bool := fin32 w && (!sign32 w || mag32 w == 0)

/-- The limits of the optimizer record (R161). -/
def OptRec.ok (o : OptRec) : Bool :=
  (o.kind == 1 || o.kind == 2) && nonneg32 o.lr && unit32 o.beta1 && unit32 o.beta2 && nonneg32 o.wd
  && (if o.kind = 1 then fin32 o.eps && !sign32 o.eps && mag32 o.eps != 0 else o.beta2 == 0 && o.eps == 0)

/-- Bytes of the moment arrays of a matrix (R159, R164). -/
def momBytes (kind n : Nat) : Nat := n * 2 * (if kind = 1 then 2 else 1)

/-- The (offset, length) arrays that a matrix record names, by the header's flags (R159); `none` where an offset that must
be 0 is not, or the other way round. -/
def MRec.arrays (r : MRec) (h : BlobHdr) (ps : Nat × Nat) : Option (List (Nat × Nat)) :=
  let m := mkMat h r ps
  let n := m.rows * m.cols
  if h.learn then
    if r.val ≠ 0 ∨ r.scl ≠ 0 ∨ r.psc ≠ 0 ∨ r.esc ≠ 0 ∨ r.nesc ≠ 0 ∨ (h.mom = false ∧ r.mom ≠ 0) then none
    else some ((r.mst, 4 * n) :: if h.mom then [(r.mom, momBytes h.opt.kind n)] else [])
  else
    let celat := isCelat m.fmt
    if r.mst ≠ 0 ∨ r.mom ≠ 0 ∨ (m.fmt = 1 ∧ r.scl ≠ 0) ∨ (celat = false ∧ (r.psc ≠ 0 ∨ r.nesc ≠ 0)) ∨ (r.nesc = 0 ∧ r.esc ≠ 0) then none
    else some ((r.val, m.rows * valStride m.fmt m.cols)
      :: (if m.fmt = 1 then [] else [(r.scl, roundUp m.nblk 64)])
      ++ (if celat then [(r.psc, 128 * ceilDiv m.panels 64)] else [])
      ++ (if r.nesc = 0 then [] else [(r.esc, 32 * r.nesc)]))

/-- Sorted ranges do not overlap and lie below `hi`. -/
def disjointFrom (hi : Nat) : Nat → List (Nat × Nat) → Bool
  | _, [] => true
  | lo, (o, n) :: rest => decide (lo ≤ o) && o % 64 == 0 && decide (o + n ≤ hi) && disjointFrom hi (o + n) rest

/-- Check 3 of R162 on the records: order, `PANEL0`, offsets. -/
def recordsOk (h : BlobHdr) (rd : Reader) (projTab : List (Nat × Nat × Nat)) : Bool :=
  let n := h.nproj
  let recs := (List.range (2 * n)).map rd.mrec
  let projs := (List.range n).map fun i => (rd.mrec (2 * i)).proj
  let ps (p : Nat) : Nat × Nat := let e := nth projTab p (64, 64, 0); (e.1, e.2.1)
  let arrs := recs.map fun r => r.arrays h (ps r.proj)
  ascending projs && projs.all (fun p => decide (p < projTab.length))
  && (List.range n).all (fun i =>
      let a := rd.mrec (2 * i)
      let b := rd.mrec (2 * i + 1)
      !a.resv && !b.resv && !a.isB && b.isB && b.proj == a.proj)
  && (recs.foldl (fun (st : Nat × Bool) r => (st.1 + (mkMat h r (ps r.proj)).panels, st.2 && r.panel0 == st.1 % 2 ^ 32)) (0, true)).2
  && arrs.all (·.isSome)
  && disjointFrom h.blen (0x80 + 128 * n) (insSort (fun (a b : Nat × Nat) => decide (a.1 < b.1)) (arrs.flatMap (·.getD [])))

/-- Check 3 of R162. -/
def uploadCheck3 (h : BlobHdr) (rd : Reader) (len : Nat) (projTab : List (Nat × Nat × Nat)) : Bool :=
  !h.resv && h.epoch == 0 && h.rank % 16 == 0 && decide (16 ≤ h.rank) && decide (h.rank ≤ 1024)
  && fin32 h.alpha && !sign32 h.alpha && mag32 h.alpha != 0 && tauOk h.tau && fmtCombo h.wfmtA h.wfmtB h.learn
  && (h.learn || !h.mom) && (if h.learn then h.opt.ok else rd.num 0x40 64 == 0)
  && decide (1 ≤ h.nproj) && decide (h.nproj ≤ 4096) && h.blen == len && h.blen % 64 == 0 && recordsOk h rd projTab

/-- Check 7 of R162 for one matrix. -/
def uploadCheck7 (h : BlobHdr) (rd : Reader) (r : MRec) (ps : Nat × Nat) : Bool :=
  let m := mkMat h r ps
  let n := m.rows * m.cols
  if h.learn then
    (List.range n).all (fun i =>
      let w := rd.num (r.mst + 4 * i) 4
      fin32 w && (!padLane h.rank m.cols r.isB i || mag32 w == 0))
    && (!h.mom || (List.range (momBytes h.opt.kind n / 2)).all fun i =>
      let w := wide (rd.num (r.mom + 2 * i) 2)
      fin32 w && (!padLane h.rank m.cols r.isB (i % n) || mag32 w == 0))
  else
    (List.range n).all (fun i => !padLane h.rank m.cols r.isB i || mag32 (m.decode rd (i / m.cols) (i % m.cols)).1 == 0)
    && (!isCelat m.fmt || (
      (List.range m.panels).all (fun k => (panel (rd.num (m.psc + 2 * k) 2)).isSome)
      && (List.range m.nblk).all fun b =>
        let o := m.val + b / (m.cols / 32) * valStride m.fmt m.cols + b % (m.cols / 32) * rowLen m.fmt 32
        if rd (m.scl + b) = 0xFF then decide (rd.num o 4 < m.nesc)
        else m.fmt != 8 || (List.range 7).all fun j => decide ((rd (o + j)).toNat < 0xF3)))

/-- The master area of a `LEARN` blob (R163, R164). -/
def Reader.master (rd : Reader) (h : BlobHdr) (projTab : List (Nat × Nat × Nat)) : Master :=
  { opt := { h.opt with t := if h.mom then h.opt.t else 0 }
    mats := (List.range (2 * h.nproj)).map fun i =>
      let r := rd.mrec i
      let e := nth projTab r.proj (64, 64, 0)
      let sh := shapeOf h.rank r.isB (e.1, e.2.1)
      let n := sh.1 * sh.2
      let mo (k : Nat) : List Nat := (List.range n).map fun j => if h.mom then rd.num (r.mom + 2 * (k * n + j)) 2 else 0
      { w := (List.range n).map fun j => rd.num (r.mst + 4 * j) 4, m := mo 0, v := if h.opt.kind = 1 then mo 1 else [] } }

/-- Bytes of a master area (R164). -/
def State.masterBytes (s : State) (rank kind : Nat) (projs : List Nat) : Nat :=
  projs.foldl (fun n p =>
    let a := shapeOf rank false (s.shape p)
    let b := shapeOf rank true (s.shape p)
    let k := a.1 * a.2 + b.1 * b.2
    n + 4 * k + momBytes kind k) 64

/-- An FP32 pattern of a natural number. -/
def natF (n : Nat) : Nat := (rne32 false n 1 0).1

/-- The fields that the first upload fixes (R146, R155). -/
def Entry.shaped (e : Entry) (h : BlobHdr) (projs : List Nat) : Entry :=
  { e with
    learn := h.learn, wfmtA := h.wfmtA, wfmtB := h.wfmtB, rank := h.rank, alpha := h.alpha
    alphaR := ((div32 h.alpha (natF h.rank)).map (·.1)).getD 0, projs := projs, statoff := projs.map fun _ => 0 }

/-- Whether a blob has the shape of an entry (check 6 of R162). -/
def Entry.sameShape (e : Entry) (h : BlobHdr) (projs : List Nat) : Bool :=
  e.rank == h.rank && e.alpha == h.alpha && e.wfmtA == h.wfmtA && e.wfmtB == h.wfmtB && e.learn == h.learn && e.projs == projs

/-- A state with the fragmentation misses that a refused charge counted (R280). -/
def State.fragFrom (s t : State) : State := { s with cab := { s.cab with fragMiss := t.cab.fragMiss } }

/-- Whether an adapter's shape is already fixed (R146): it is READY, or an upload that fixed it has been accepted and awaits its
commit or left its master area. DESIGN CHOICE (log 74): check 6 of R162 speaks of READY entries only. -/
def State.shapeFixed (s : State) (e : Entry) : Bool :=
  e.state == .ready || e.master.isSome || s.cab.cands.any (fun c => c.aid == e.aid) || s.cab.engine.any (fun c => c.1.aid == e.aid)

/-- Charge an adapter's master area (R164), keeping one that fits; where there is no room, false and only the count of
R280 changes. -/
def State.chargeMaster (s : State) (e : Entry) (len : Nat) : Bool × State :=
  match s.cab.extentOf (.master e.aid) with
  | some x =>
    if x.len = len then (true, s)
    else
      let r := (s.modCab fun c => c.release (.master e.aid)).charge e.home len (.master e.aid)
      if r.1.isSome then (true, r.2) else (false, s.fragFrom r.2)
  | none => let r := s.charge e.home len (.master e.aid); (r.1.isSome, r.2)

/-- A candidate whose blob has been charged as reservation n. -/
def State.newCand (s : State) (e : Entry) (kind n base blen esc tau : Nat) (up : Option Nat) (boot : Bool) : State :=
  (s.modCab fun c => { c with nextResv := n + 1 }).candidate
    { aid := e.aid, kind := kind, target := nextEpoch e.curEpoch, part := e.home, sseq := 0, base := base, blen := blen, esc := esc,
      tau := tau, resv := n, up := up, boot := boot, sat := 0, since := 0 }

/-- Checks 2 to 9 of R162 on a decrypted blob and what follows them (R163): a candidate handed to the commit engine, or
the status. `tenant` says that a TENANT session sent it. DESIGN CHOICE (log 70): R53 gives DESC_INVALID for a reserved format
code in any field and check 3 of R162 gives FORMAT_UNSUPPORTED for the codes of a blob header; the model answers check 3's. -/
def State.takeBlob (s : State) (bs : List Byte) (ward : Nat) (tenant : Bool) (up : Option Nat) (boot : Bool) : Option Status × State :=
  let rd := listReader bs
  let h := rd.hdr
  let projs := (List.range h.nproj).map fun i => (rd.mrec (2 * i)).proj
  let recs := (List.range (2 * h.nproj)).map rd.mrec
  if bs.length < 0x80 ∨ h.magic ≠ 0x54424C42 ∨ h.major ≠ 1 ∨ blobMinorMax < h.minor then (some .formatUnsupported, s)
  else if uploadCheck3 h rd bs.length s.mgt.projTab = false then (some .formatUnsupported, s)
  else
    match s.entry h.aid with
    | none => (some (if tenant then .wardFault else .adapterUnknown), s)
    | some e =>
      if tenant ∧ e.ward ≠ ward then (some .wardFault, s)
      else if e.owned = false ∨ (e.state ≠ .empty ∧ e.state ≠ .ready) then (some .adapterUnknown, s)
      else if h.ward ≠ e.ward ∨ h.ward ≠ ward then (some .wardFault, s)
      else if s.shapeFixed e = true ∧ e.sameShape h projs = false then (some .formatUnsupported, s)
      else if recs.any (fun r => !uploadCheck7 h rd r (s.shape r.proj)) then (some .formatUnsupported, s)
      else if recs.any (fun r => decide ((mkMat h r (s.shape r.proj)).nblk / 64 < r.nesc)) then (some .numericGuard, s)
      else if e.frozen then (some .noCapacity, s)
      else
        let n := s.cab.nextResv
        let e1 := if s.shapeFixed e then e else e.shaped h projs
        if h.learn = false then
          match s.charge e.home (ceilDiv bs.length granule) (.resv n) with
          | (none, s) => (some .noCapacity, s)
          | (some g, s) =>
            let s := (s.modEntry e.aid fun _ => e1).land 0 (gAddr g) bs
            let esc := recs.foldl (fun k r => k + r.nesc) 0
            (none, s.newCand e1 1 n g bs.length (min esc 65535) h.tau up boot)
        else
          let shapes := projs.map s.shape
          match s.chargeMaster e (ceilDiv (s.masterBytes h.rank h.opt.kind projs) granule) with
          | (false, s1) => (some .noCapacity, s1)
          | (true, s1) =>
            match s1.charge e.home (ceilDiv (pubSize e1 shapes) granule) (.resv n) with
            | (none, s2) => (some .noCapacity, s.fragFrom s2)
            | (some g, s2) =>
              let m := (rd.master h s.mgt.projTab).padded h.rank shapes
              let ep := nextEpoch e.curEpoch
              let s3 := s2.modEntry e.aid fun _ => { e1 with master := some m, badMaster := false, dirty := true, target := ep }
              match publishBlob e1 m shapes h.alpha h.tau h.tau ep s.pol.pubMinor.toNat with
              | (none, _, _) => (some .numericGuard, s3.modCab fun c => c.release (.resv n))
              | (some pb, esc, _) => (none, (s3.land 0 (gAddr g) pb).newCand e1 1 n g pb.length esc h.tau up boot)

/-- Check 1 of R162 on the envelope (R527, R528). -/
def uploadCheck1 (f : RclFrame) (pl : Plain) (x : Session) (devId : Nat) : Bool :=
  f.pl 0 4 == 0x55424C45 && f.pl 7 1 == 0 && f.pl 0x24 4 == 0 && f.pl 0x2E 2 == 0 && f.pl 0x38 8 == 0
  && f.pl 0x10 8 + 80 == f.data.length && pl.tagOk && f.pl 0x28 6 == x.sepoch && f.pl 0x30 8 == devId
  && decide (x.upCtr < f.pl 8 8) && pl.blob.length == f.pl 0x10 8 && (listReader pl.blob).num 8 3 == f.pl 4 3

/-- `ADAPTER_UPLOAD` (R162, R163, R468). -/
def execAdapterUpload (f : RclFrame) (pl : Plain) (s : State) : Host.Outcome State Fault Refusal :=
  .next <| s.serve 0x1B none none f fun cl s =>
    let ups := (s.lnk.longs.filter fun l => match l.kind with | .upload .. => true | _ => false).length
    match cl.sess with
    | none => (.now .authFail [], s)
    | some x =>
      if f.data.length < 80 then (.now .descInvalid [], s)
      else if s.sec.lcState ≠ 2 then (.now .authFail [], s)   -- uploads are refused outside DEPLOYED (R503, log entry 77)
      else if s.pwr.powering then (.now .noCapacity [], s)   -- R572
      else if 16 ≤ ups then (.busy 0, s)
      else if s.sec.coreFault then (.now .internal [], s)
      else
        let n := s.cab.nextResv
        match s.cacheReserve (ceilDiv (f.pl 0x10 8) granule) (.resv n) with
        | none => (.now .noCapacity [], s)
        | some (_, s1) =>
          let s1 := s1.modCab fun c => { c with nextResv := n + 1 }
          let drop (s : State) : State := s.modCab fun c => c.release (.resv n)
          if uploadCheck1 f pl x s.mgt.devId.toNat = false then (.now .authFail [], drop s1.authFail)
          else if f.pl 4 3 = 0 then (.now .adapterUnknown [], drop s1)
          else
            let s2 := s1.modSec fun c =>
              { c with sessions := SMap.insert c.sessions cl.idx { x with upCtr := f.pl 8 8 } }
            let id := s2.lnk.nextLong
            let s2 := s2.putLong f cl (.upload (f.pl 4 3) n)
            match s2.takeBlob pl.blob (if x.operator then wardCommon else x.ward) (!x.operator) (some id) false with
            | (none, s3) => (.later, s3)
            | (some st, s3) => (.later, s3.endLong id st [])

end Sys2Proof.Machine
end

