-- ==== Sys2Proof/Machine/Operands.lean ====
section
/-! DEFINITION. Operand forms of the macro-instructions (R434–R437): the fields of the eight words, which fields and operand
slots each opcode uses, and the codes that are admitted. -/

namespace Sys2Proof.Machine

open Sys2Proof

def MI.op (m : MI) : Nat := fld m.w0 7 0
def MI.proj (m : MI) : Nat := fld m.w0 19 8
def MI.fmta (m : MI) : Nat := fld m.w0 23 20
def MI.fmtg (m : MI) : Nat := fld m.w0 27 24
def MI.hfmt (m : MI) : Nat := fld m.w0 29 28
def MI.ofmt (m : MI) : Nat := fld m.w0 30 30
def MI.src (m : MI) : Nat := fld m.w0 31 31
def MI.tr (m : MI) : Nat := fld m.w1 9 0
def MI.tOut (m : MI) : Nat := fld m.w1 17 10
def MI.tOut2 (m : MI) : Nat := fld m.w1 25 18
def MI.dxdst (m : MI) : Nat := fld m.w1 27 26
def MI.flag (m : MI) : Bool := bit m.w1 28
def MI.bsrc (m : MI) : Nat := fld m.w1 30 29
def MI.op0 (m : MI) : Word := m.w2
def MI.op1 (m : MI) : Word := m.w3
def MI.op2 (m : MI) : Word := m.w4
def MI.ih (m : MI) : Word := m.w5
def MI.iform (m : MI) : Nat := fld m.w6 1 0
def MI.islot (m : MI) : Nat := fld m.w6 3 2
def MI.idim (m : MI) : Nat := fld m.w6 6 4
def MI.g0 (m : MI) : Nat := fld m.w6 15 8
def MI.g1 (m : MI) : Nat := fld m.w6 23 16
def MI.bval (m : MI) : Word := m.w7

/-- What an opcode uses (R436, R201, R237): coded fields, operand slots holding handles, slots holding plain values, `FLAG`,
a bound, and indirection (0 none, 1 optional, 2 required). -/
structure Uses where
  proj : Bool
  fmta : Bool
  fmtg : Bool
  hfmt : Bool
  ofmt : Bool
  src : Bool
  tr : Bool
  tOut : Bool
  tOut2 : Bool
  dx : Bool
  flag : Bool
  h0 : Bool
  h1 : Bool
  h2 : Bool
  v0 : Bool
  v1 : Bool
  bound : Bool
  ind : Nat
  deriving DecidableEq, Repr

def noUse : Uses := ⟨false, false, false, false, false, false, false, false, false, false, false, false, false, false, false, false, false, 0⟩

/-- The row of R436 for a macro-instruction; `none` for a reserved opcode. -/
def MI.uses (m : MI) : Option Uses :=
  let u := noUse
  let desc := m.src == 1
  match m.op with
  | 0x01 => some { u with h0 := true, bound := true }
  | 0x02 => some u
  | 0x10 => some { u with proj := true, fmta := true, src := true, tr := true, tOut := true, h0 := desc, h1 := true }
  | 0x11 => some { u with proj := true, hfmt := true, ofmt := true, tr := true, tOut := true, h1 := true }
  | 0x12 => some { u with proj := true, fmta := true, hfmt := true, ofmt := true, src := true, tr := true, tOut2 := true, h0 := desc }
  | 0x13 => some { u with proj := true, h0 := true }
  | 0x14 => some { u with proj := true, h0 := true, h1 := true }
  | 0x15 => some { u with proj := true, h0 := true, ind := 2 }
  | 0x20 => some { u with proj := true, fmtg := true, hfmt := true, src := true, tr := true, tOut := true, h0 := desc, h1 := true, h2 := true }
  | 0x21 => some { u with proj := true, fmta := true, fmtg := true, ofmt := true, dx := true, tr := true, tOut := true, tOut2 := true,
                          h0 := true, h1 := m.dxdst == 2, h2 := true }
  | 0x22 => some u
  | 0x23 => some { u with flag := true }
  | 0x24 => some { u with flag := true, h0 := m.flag, bound := m.flag }
  | 0x30 => some { u with h0 := true, v1 := true, bound := true }
  | 0x31 => some { u with h0 := true, bound := true }
  | 0x38 => some { u with flag := true, h0 := m.flag, bound := m.flag }
  | 0x40 => some { u with v0 := true, v1 := true }
  | 0x41 => some { u with v0 := true, flag := true }
  | 0x42 => some { u with v0 := true, v1 := true }
  | 0x43 => some u
  | 0x48 => some { u with h0 := true, h1 := true, flag := true, bound := true, ind := 1 }
  | 0x4F => some u
  | _ => none

/-- Fields within the codes of R435 to R437, unused fields zero, and the plain values of the latch slots and `GSCALE`. -/
def MI.fieldsOk (m : MI) : Bool :=
  match m.uses with
  | none => false
  | some u =>
    (u.proj || m.proj == 0) && (u.fmta || m.fmta == 0) && (u.fmtg || m.fmtg == 0) && (u.hfmt || m.hfmt == 0)
    && (u.ofmt || m.ofmt == 0) && (u.src || m.src == 0) && (u.tr || m.tr == 0) && (u.tOut || m.tOut == 0) && (u.tOut2 || m.tOut2 == 0)
    && (u.dx || m.dxdst == 0) && (u.flag || !m.flag)
    && (u.h0 || u.v0 || m.op0 == 0) && (u.h1 || u.v1 || m.op1 == 0) && (u.h2 || m.op2 == 0)
    && (!u.fmta || (decide (1 ≤ m.fmta) && decide (m.fmta ≤ (if m.op = 0x21 then 3 else 6))))
    && (!u.fmtg || (decide (1 ≤ m.fmtg) && decide (m.fmtg ≤ 3))) && m.hfmt != 3
    && decide (m.tr ≤ 512) && decide (m.tOut ≤ 128) && decide (m.tOut2 ≤ 128) && m.dxdst != 3 && !bit m.w1 31
    && (if u.bound then (m.bsrc != 0 || m.bval == 0) && (m.bsrc != 2 || decide (m.bval.toNat < 16)) else m.bsrc == 0 && m.bval == 0)
    && !bit m.w6 7 && fld m.w6 31 24 == 0
    && (match m.iform with
        | 0 => m.w6 == 0 && m.ih == 0 && u.ind != 2
        | 1 => u.ind != 0 && m.idim == 0 && decide (1 ≤ m.g0 ∧ m.g0 ≤ 128) && decide (1 ≤ m.g1 ∧ m.g1 ≤ 128)
        | 2 => u.ind != 0 && decide (m.idim ≤ 4) && m.g0 == 0 && m.g1 == 0
        | _ => false)
    && (m.iform == 0 || decide (m.islot ≤ (if u.ind = 2 then 0 else 1)))
    && (match m.op with
        | 0x40 => decide (m.op0.toNat < 32768) && decide (m.op1.toNat < 65536)
        | 0x41 => decide (m.op0.toNat < 32768)
        | 0x42 => decide (m.op0.toNat < 32768) && decide (m.op1.toNat < 65536)
        | 0x30 => fld m.op1 30 23 != 255
        | _ => true)

/-- The handles that a macro-instruction names, in slot order, then its list or index, then a MEM bound (R438). -/
def MI.handles (m : MI) : List Word :=
  match m.uses with
  | none => []
  | some u =>
    (if u.h0 then [m.op0] else []) ++ (if u.h1 then [m.op1] else []) ++ (if u.h2 then [m.op2] else [])
    ++ (if m.iform ≠ 0 then [m.ih] else []) ++ (if u.bound ∧ m.bsrc = 3 then [m.bval] else [])

def MI.isGate (m : MI) : Bool := m.op == 0x40 || m.op == 0x42
def MI.isFwd (m : MI) : Bool := m.op == 0x10 || m.op == 0x11 || m.op == 0x12
def MI.isGrad (m : MI) : Bool := m.op == 0x20 || m.op == 0x21
def MI.isPlace (m : MI) : Bool := m.op == 0x13 || m.op == 0x14 || m.op == 0x15
def MI.isReduce (m : MI) : Bool := m.op == 0x22 || m.op == 0x23
/-- Learner-only macro-instructions (R233). -/
def MI.isLearner (m : MI) : Bool := decide (0x20 ≤ m.op ∧ m.op ≤ 0x24) || m.op == 0x30 || m.op == 0x31
/-- The six of R431. -/
def MI.isSerial (m : MI) : Bool := m.isReduce || m.op == 0x24 || m.op == 0x30 || m.op == 0x31 || m.op == 0x38
/-- Whether it consumes its projection's vectors from the hinge (R204, R235). -/
def MI.consumes (m : MI) : Bool := (m.op == 0x10 || m.op == 0x12 || m.op == 0x20) && m.src == 0

def miOf (ws : List Word) : MI :=
  ⟨nth ws 0 0, nth ws 1 0, nth ws 2 0, nth ws 3 0, nth ws 4 0, nth ws 5 0, nth ws 6 0, nth ws 7 0⟩

end Sys2Proof.Machine
end

