-- ==== Sys2Proof/Machine/Jobs.lean ====
section
/-! DEFINITION. Jobs (R378–R385, R391): the job table of a partition, the choice of the running job, pre-emption requests,
submission (R427, R428), and the ward job table. -/

namespace Sys2Proof.Machine

open Sys2Proof

/-! ### Tumblers of a partition -/

def State.modTum (s : State) (t : Nat) (f : Tum → Tum) : State := { s with tum := SMap.upd Tum.reset s.tum t f }

def State.tumOf (s : State) (t : Nat) : Tum := SMap.get Tum.reset s.tum t

/-- Every tumbler of partition p that is not fenced takes a state (R643 `STATE`). -/
def State.setTums (s : State) (p : Nat) (st : TumState) : State :=
  (tumsOf (s.getP p).tumOwn).foldl (fun (s : State) t => s.modTum t fun x => if x.st = .fenced then x else { x with st := st }) s

/-- A reassignment of partition p's tumblers takes effect tumbler by tumbler: one that p gains once no other partition holds it, one that
p loses once p has no running job (R41). -/
def State.settleTum (s : State) (p : Nat) : State :=
  let q := s.getP p
  match q.tumNext with
  | none => s
  | some m =>
    let others : BitVec 128 := (parts.filter fun i => i != p).foldl (fun a i => a ||| (s.getP i).tumOwn) 0
    let keep := if q.jobs.any fun j => j.st == .running then q.tumOwn else q.tumOwn &&& m
    let own := keep ||| (m &&& ~~~others)
    s.modP p fun q => { q with tumOwn := own, tumNext := if own = m then none else some m }

/-- Partition p has no running job, or a reassignment has been accepted: what can take effect does, first what p loses, then what other
partitions gain by it. -/
def State.takeTum (s : State) (p : Nat) : State := parts.foldl (fun s i => s.settleTum i) (s.settleTum p)

/-! ### The job table -/

/-- A job ID (R379): partition in [4:0], job number in [52:5]. -/
def jobId (p num : Nat) : Nat := p + 32 * num

def Prt.job (q : Prt) (num : Nat) : Option Job := q.jobs.find? fun j => j.num == num

/-- The job that an ID names; `none` for a reserved bit or an unknown number. -/
def State.jobOf (s : State) (id : Nat) : Option (Nat × Job) :=
  if 2 ^ 53 ≤ id then none else ((s.getP (id % 32)).job (id / 32)).map fun j => (id % 32, j)

def State.modJob (s : State) (p num : Nat) (f : Job → Job) : State :=
  s.modP p fun q => { q with jobs := updFirst q.jobs (fun j => j.num == num) f }

/-- The running job. -/
def Prt.running (q : Prt) : Option Job := q.jobs.find? fun j => j.st == .running

/-- Whether a step of the job is issued, saved, or waits for its final report. -/
def Prt.busyWith (q : Prt) (num : Nat) : Bool :=
  q.ctx.any (fun c => c.job == num) || q.svCtx.any (fun c => c.job == num) || q.finals.any fun c => c.job == num

def jobCode : JobState → Nat
  | .queued => 0 | .running => 1 | .preempted => 2 | .ended => 3

/-- Count a job opened or ended for its ward (R391). -/
def State.wardJob (s : State) (ward : Nat) (opened : Bool) : State :=
  s.modMgt fun m =>
    if m.wardJobs.any (fun e => e.1 == ward) then
      { m with
        wardJobs := updFirst m.wardJobs (fun e => e.1 == ward) fun e =>
          if opened then (e.1, sat32 (e.2.1 + 1), e.2.2) else (e.1, e.2.1, sat32 (e.2.2 + 1)) }
    else if opened = false then m
    else if m.wardJobs.length < 4096 then { m with wardJobs := m.wardJobs ++ [(ward, 1, 0)] }
    else { m with wjOvf := satAdd m.wjOvf 1 }

/-- A job is ended; it is kept for `JOB_QUERY` until its ID is 64 jobs old (R380). -/
def State.endJob (s : State) (p num : Nat) : State :=
  match (s.getP p).job num with
  | some j =>
    if j.st = .ended then s
    else
      let s' := ((s.modJob p num fun j => { j with st := .ended, closed := true, queue := [] }).modP p fun q =>
        { q with jobRun := if q.jobRun.toNat = jobId p num then 0 else q.jobRun }).wardJob j.ward false
      if j.st = .running then s'.takeTum p else s'
  | none => s

/-- A closed job without steps ends (R384). -/
def State.settleClose (s : State) (p num : Nat) : State :=
  match (s.getP p).job num with
  | some j => if j.closed ∧ j.queue.isEmpty ∧ (s.getP p).busyWith num = false then s.endJob p num else s
  | none => s

/-! ### The running job (R385, R392) -/

/-- The order of R385: priority, PREEMPTED before QUEUED, lower number. -/
def jobLt (a b : Job) : Bool :=
  if a.prio ≠ b.prio then decide (b.prio < a.prio)
  else if a.st ≠ b.st then a.st == .preempted
  else decide (a.num < b.num)

def Prt.waitingJobs (q : Prt) : List Job := q.jobs.filter fun j => j.st == .queued || j.st == .preempted

/-- A saved step of the running job starts its restore once no other step is in the way (R397). -/
def State.startRestore (s : State) (p : Nat) : State :=
  s.modP p fun q =>
    match q.running, q.ctx, q.svCtx with
    | some j, none, some c =>
      if c.job = j.num then { q with ctx := some { c with phase := .restore }, svCtx := none, waitSince := s.now } else q
    | _, _, _ => q

/-- A job becomes RUNNING. -/
def State.runJob (s : State) (p num : Nat) : State :=
  ((s.modJob p num fun j => { j with st := .running, since := s.now }).modP p fun q =>
    { q with jobRun := BitVec.ofNat 53 (jobId p num) }).startRestore p

/-- Choose the running job when the partition has none (R385). -/
def State.chooseJob (s : State) (p : Nat) : State :=
  let q := s.getP p
  match q.running, least jobLt q.waitingJobs with
  | none, some j => s.runJob p j.num
  | some _, _ => s.startRestore p
  | none, none => s.modP p fun q => { q with jobRun := 0 }

/-- The running job stops running. -/
def State.stopRunning (s : State) (p num : Nat) (st : JobState) : State :=
  ((s.modJob p num fun j => { j with st := st }).modP p fun q => { q with jobRun := 0 }).takeTum p

/-- A step that has passed its sampling point (R433). -/
def Phase.issued : Phase → Bool
  | .load => false
  | .gate => false
  | .sample => false
  | _ => true   -- from the sampling point on (R433)

/-- Drop the references of a step's descriptors (R116). -/
def State.dropRefs (s : State) (l : List Nat) : State := State.sweepAllocs (l.foldl (fun s i => s.dropRef i) s)

/-- A step at its load or gate goes back to the head of its queue (R413). -/
def State.unissue (s : State) (p : Nat) : State :=
  match (s.getP p).ctx with
  | some c => ((s.gateRelease p).dropRefs c.refs).modP p fun q => { q with ctx := none }
  | none => s

/-- A pre-emption request against the running job, when a waiting job has a higher priority (R392). -/
def State.preempt (s : State) (p : Nat) : State :=
  let q := s.getP p
  match q.running, least jobLt q.waitingJobs with
  | some r, some w =>
    if w.prio ≤ r.prio then s
    else
      -- a running job without an issued step gives way at once; one that has only just been chosen, by a `JOB_OPEN` of the same time, has
      -- not run: the two are one pre-emption (R401)
      let yield : State := (s.stopRunning p r.num (if r.since = s.now ∧ r.last = 0 then .queued else .preempted)).chooseJob p
      match q.ctx with
      | none => yield
      | some c =>
        if c.job ≠ r.num then yield
        else if c.phase.issued = false then ((s.unissue p).stopRunning p r.num .preempted).chooseJob p
        else if q.saved ∨ c.phase = .ending ∨ c.phase = .saving then s
        else (s.modCtx p fun c => { c with phase := .saving, resume := c.phase }).setTums p .save
  | _, _ => s

/-! ### Commands -/

/-- Whether a session may act for an account ward (R521). -/
def Caller.mayActFor (cl : Caller) (ward : Nat) : Bool :=
  match cl.sess with
  | some x => x.operator || x.ward == ward
  | none => false

/-- `JOB_OPEN` (R378, R379): the new job is QUEUED, runs if the partition has none running, and may pre-empt. -/
def execJobOpen (f : RclFrame) (s : State) : Host.Outcome State Fault Refusal :=
  .next <| s.serve 0x20 none none f fun cl s =>
    let p := fld (f.word 0) 4 0
    let role := fld (f.word 0) 11 8
    let prio := fld (f.word 0) 15 12
    let ward := fld (f.word 4) 19 0
    if f.data.length ≠ 8 ∨ fld (f.word 0) 7 5 ≠ 0 ∨ fld (f.word 0) 31 16 ≠ 0 ∨ 1 < role ∨ 3 < prio ∨ fld (f.word 4) 31 20 ≠ 0 then
      (.now .descInvalid [], s)
    else
      let q := s.getP p
      if s.pwr.powering ∨ s.pol.servePart.toNat = p ∨ q.tumOwn = 0 then (.now .noCapacity [], s)
      else if cl.mayActFor ward = false then (.now .wardFault [], s)
      else if 64 ≤ (q.jobs.filter fun j => j.st != .ended).length then (.now .noCapacity [], s)
      else
        let n := q.jobNext
        let j : Job := { num := n, learner := role == 1, prio := prio, ward := ward, st := .queued, closed := false, queue := [],
                         last := 0, since := 0 }
        let s := (s.modP p fun q =>
          { q with
            jobs := (q.jobs.filter fun x => !(x.st == .ended && decide (x.num + 64 ≤ n))) ++ [j]
            jobNext := n + 1, lastOpen := some s.now }).wardJob ward true
        (.now .ok (leBytes 8 (jobId p n)), (s.preempt p).chooseJob p)

/-- The job of a command and the check of its ward (R428 checks 2 and 3, R521). -/
def State.jobFor (s : State) (cl : Caller) (id : Nat) : Except Status (Nat × Job) :=
  match s.jobOf id with
  | none => .error .descInvalid
  | some (p, j) => if cl.mayActFor j.ward then .ok (p, j) else .error .wardFault

/-- `JOB_CLOSE` (R384). -/
def execJobClose (f : RclFrame) (s : State) : Host.Outcome State Fault Refusal :=
  .next <| s.serve 0x21 none none f fun cl s =>
    if f.data.length ≠ 8 then (.now .descInvalid [], s)
    else
      match s.jobFor cl (f.pl 0 8) with
      | .error st => (.now st [], s)
      | .ok (p, j) =>
        if j.st = .ended then (.now .descInvalid [], s)
        else (.now .ok [], (((s.modJob p j.num fun j => { j with closed := true }).settleClose p j.num)).chooseJob p)

/-- `JOB_QUERY` (R380, R465). -/
def execJobQuery (f : RclFrame) (s : State) : Host.Outcome State Fault Refusal :=
  .next <| s.serve 0x23 none none f fun cl s =>
    if f.data.length ≠ 8 then (.now .descInvalid [], s)
    else
      match s.jobFor cl (f.pl 0 8) with
      | .error st => (.now st [], s)
      | .ok (p, j) =>
        let q := s.getP p
        let npre := match q.ctx with
          | some c => if c.job = j.num then c.npre else 0
          | none => 0
        (.now .ok (leBytes 8 (jobCode j.st + at_ j.queue.length 8 + at_ (min npre 255) 13) ++ leBytes 8 j.last), s)

/-- `STEP_SUBMIT` (R427, R428, R381). -/
def execStepSubmit (f : RclFrame) (s : State) : Host.Outcome State Fault Refusal :=
  .next <| s.serve 0x24 none none f fun cl s =>
    if f.data.length ≠ 32 ∨ f.pl 0x18 8 ≠ 0 then (.now .descInvalid [], s)
    else if s.pwr.powering then (.now .noCapacity [], s)   -- R572
    else
      match s.jobFor cl (f.pl 0 8) with
      | .error .descInvalid => (.now .descInvalid [], s)
      | .error st => if (s.jobOf (f.pl 0 8)).any (fun x => x.2.closed) then (.now .descInvalid [], s) else (.now st [], s)
      | .ok (p, j) =>
        if j.st = .ended ∨ j.closed = true then (.now .descInvalid [], s)
        else if 16 ≤ j.queue.length then (let h := s.hint 0; (.busy h.1, h.2))
        else
          let n := (s.getP p).sseqNext.toNat
          let sub : Sub := { sseq := n, progH := f.word 8, rptH := f.word 0xC, ofsH := f.word 0x10, htag := f.word 0x14 }
          (.now .ok (leBytes 8 n),
            (s.modJob p j.num fun j => { j with queue := j.queue ++ [sub], last := n }).modP p fun q => { q with sseqNext := q.sseqNext + 1 })

/-- `WARD_JOBS` (R391, R465). -/
def execWardJobs (f : RclFrame) (s : State) : Host.Outcome State Fault Refusal :=
  .next <| s.serve 0x0D none none f fun _ s =>
    if f.data.length ≠ 4 ∨ fld (f.word 0) 31 12 ≠ 0 then (.now .descInvalid [], s)
    else (.now .ok (((s.mgt.wardJobs.drop (fld (f.word 0) 11 0)).take 256).flatMap fun e => bytes4 [e.1, e.2.1, e.2.2, 0]), s)

/-- Every `WIN_CYCLES` is halved (R387). -/
def State.halveUse (s : State) : State := { s with prt := s.prt.map fun q => { q with winCycles := q.winCycles >>> 1 } }

/-- `WIN_CYCLES_DECAY` (R387): 100,000 ACLK have passed. -/
def execWinCyclesDecay (s : State) : Host.Outcome State Fault Refusal :=
  .next (if s.due perDecay then (s.spend perDecay 100000).halveUse else s)

end Sys2Proof.Machine
end

