-- ==== Sys2Proof/Machine/Tensor.lean ====
section
/-! DEFINITION. How a step reads and writes tensors (R97–R107, R121–R134): addresses, bounds, pages, host transfers, decoded
elements. Host memory lies outside the block: a step asks for its bytes by fabric transfers and waits for them (R611). -/

namespace Sys2Proof.Machine

open Sys2Proof

/-- A byte range of a space (R98). -/
structure Rng where
  space : Nat
  addr : Nat
  len : Nat
  deriving DecidableEq, Repr

/-- A range cut into pieces of at most 4,096 bytes, as host accesses carry them (R611). -/
def Rng.cut (r : Rng) : List Rng :=
  (List.range (ceilDiv r.len 4096)).map fun k => ⟨r.space, r.addr + 4096 * k, min 4096 (r.len - 4096 * k)⟩

/-- How a step sees memory: space and address to byte. -/
abbrev View := Nat → Nat → Byte

/-- The issued context of a partition, or the serve step. -/
def State.ctxOf (s : State) (p : Nat) : Option Ctx := (s.getP p).ctx

/-- Host bytes that a purpose of the step has asked for. -/
def Ctx.gotAt (c : Ctx) (tag : Nat) (r : Rng) : Option HostGot :=
  c.host.find? fun g => g.tag == tag && g.space == r.space && g.addr == r.addr && g.len == r.len

/-- The view of a step for a purpose: HBM and the Shelf as they stand, other spaces by the bytes that have arrived. -/
def State.view (s : State) (c : Ctx) (tag : Nat) : View := fun space a =>
  if space = 0 then Memory.read s.hbm a
  else if space = 1 then Memory.read s.shelf a
  else
    match c.host.find? fun g => g.tag == tag && g.space == space && decide (g.addr ≤ a) && decide (a < g.addr + g.len) && g.data.isSome with
    | some g => ((g.data.getD []).getD (a - g.addr) 0)
    | none => 0

/-- A little-endian number through a view. -/
def View.num (v : View) (space a n : Nat) : Nat := leNat ((List.range n).map fun i => v space (a + i))

/-- Ask for the bytes of ranges; true when all can be read: host bytes once they have come (R611), HBM once its controllers are awake
(R52). -/
def State.want (s : State) (p tag : Nat) (rs : List Rng) : Bool × State :=
  match s.ctxOf p with
  | none => (true, s)
  | some c =>
    let asleep := (rs.any fun r => r.space == 0 && decide (0 < r.len)) && !s.hbmAwake
    let s := if asleep then s.wakeHbm (List.range 8) else s
    let outs := (rs.filter fun r => decide (2 ≤ r.space) && decide (0 < r.len)).flatMap Rng.cut
    let new := (outs.filter fun r => (c.gotAt tag r).isNone).eraseDups
    let s := new.foldl (fun (s : State) r =>
      (s.modCtx p fun c => { c with host := c.host ++ [{ tag := tag, space := r.space, addr := r.addr, len := r.len, data := none }] }).sendXfer
        r.space r.addr r.len none (.step p c.sub.sseq tag)) s
    (!asleep && outs.all fun r => (c.gotAt tag r).any fun g => g.data.isSome, s)

/-! ### Addresses -/

/-- The address of the row at upper coordinates `cs` (dimensions 1 to `RANK` − 1); `none` out of bounds (R121, R106). `v`
reads page-table entries. -/
def State.rowAddr (s : State) (v : View) (d : Desc) (cs : List Nat) : Option Nat :=
  let n := d.rank - 1
  let ok := (List.range n).all fun k => decide (nth cs k 0 < d.size (k + 1))
  if ok = false then none
  else
    let off (m : Nat) : Nat := (List.range m).foldl (fun a k => a + nth cs k 0 * d.stride (k + 1)) 0
    if d.paged then
      let e := v.num d.space (d.base + 8 * nth cs (n - 1) 0) 8
      let pg := e % 2 ^ 56
      if bitN e 63 ∧ bitsN e 62 56 = 0 ∧ s.inGrant d.part d.space pg d.extent = true then some (pg + off (n - 1)) else none
    else some (d.base + off n)

/-- The page-table entry read for upper coordinates, as a range. -/
def Desc.pteRng (d : Desc) (cs : List Nat) : List Rng :=
  if d.paged then [⟨d.space, d.base + 8 * nth cs (d.rank - 2) 0, 8⟩] else []

/-- A row of a UINT32 or UINT16 tensor, as the ranges its reading needs. -/
def State.rowRng (s : State) (v : View) (d : Desc) (cs : List Nat) (lo n : Nat) : List Rng :=
  match s.rowAddr v d cs with
  | some a => let b := rowLen d.fmt 32; [⟨d.space, a + lo * b / 32, n * b / 32⟩]
  | none => []

/-- One element of a UINT32 tensor of rank 1 or 2; out of bounds gives `FILL` and counts (R121). -/
def State.u32 (s : State) (v : View) (d : Desc) (c0 : Nat) (cs : List Nat) : Nat × Nat :=
  if c0 < d.size 0 then
    match s.rowAddr v d cs with
    | some a => (v.num d.space (a + 4 * c0) 4, 0)
    | none => (d.fill.toNat, 1)
  else (d.fill.toNat, 1)

/-- A DENSE UINT32 descriptor of a rank. -/
def Desc.isU32 (d : Desc) (rank : Nat) : Bool := d.fmt == 0xC && !d.paged && d.rank == rank

/-! ### Elements (R63, R77, R78, R121) -/

/-- The linear block number of the block that holds an element (R100). -/
def Desc.blockNo (d : Desc) (coords : List Nat) : Nat :=
  let n (k : Nat) : Nat := if d.blkAxis = k + 1 then d.size k / 32 else d.size k
  let c (k : Nat) : Nat := if d.blkAxis = k + 1 then nth coords k 0 / 32 else nth coords k 0
  (List.range d.rank).foldr (fun k acc => c k + n k * acc) 0

/-- The auxiliary descriptor of a live owner (R102). -/
def State.auxDesc (s : State) (h : Word) : Option Desc := if h = 0 then none else s.heldDesc h

/-- An element as read: its decoded value as an FP32 pattern, or a raw integer, and what it counts. -/
structure ElRd where
  val : Nat
  cnt : Cnt
  deriving DecidableEq, Repr

/-- Decode an element of a float format (R63–R66): `cs` all coordinates. Out of bounds gives `FILL`. -/
def State.elRead (s : State) (v : View) (d : Desc) (cs : List Nat) : ElRd :=
  let c0 := nth cs 0 0
  -- `FILL` of a float format is an FP32 input of a conversion: a subnormal reads as zero (R77, R114)
  let fill := if d.fmt = 0xC ∨ d.fmt = 0xD ∨ d.fmt = 0x9 ∨ d.fmt = 0xA then d.fill.toNat else (in32 d.fill.toNat).1
  let oob : ElRd := ⟨fill, { Cnt.zero with oobRd := 1 }⟩
  if d.size 0 ≤ c0 then oob
  else
    match s.rowAddr v d (cs.drop 1) with
    | none => oob
    | some a =>
      let aux (h : Word) (i n : Nat) : Nat :=
        match s.auxDesc h with
        | some x => v.num x.space (x.base + i * n) n
        | none => 0
      let mx (code : Nat) : ElRd :=
        match e8m0 (aux d.scaleH (d.blockNo cs) 1) with
        | none => ⟨0, Cnt.nf (if (nth cs (d.blkAxis - 1) 0) % 32 = 0 then 1 else 0)⟩
        | some sc => let e := elem d.fmt code; let r := (e.1.mul sc).rne32; ⟨r.1, { (Cnt.nf e.2) with satAcc := r.2 }⟩
      match d.fmt with
      | 0x0 => let r := in32 (v.num d.space (a + 4 * c0) 4); ⟨r.1, Cnt.nf r.2⟩
      | 0x1 => let r := inBf (v.num d.space (a + 2 * c0) 2); ⟨r.1, Cnt.nf r.2⟩
      | 0xC => ⟨v.num d.space (a + 4 * c0) 4, Cnt.zero⟩
      | 0xD => ⟨v.num d.space (a + 2 * c0) 2, Cnt.zero⟩
      | 0x2 => mx (v d.space (a + c0)).toNat
      | 0x3 => mx (v d.space (a + c0)).toNat
      | 0x4 => mx (v.num d.space (a + 3 * (c0 / 4)) 3 / 64 ^ (c0 % 4) % 64)
      | 0x5 => mx (v.num d.space (a + 3 * (c0 / 4)) 3 / 64 ^ (c0 % 4) % 64)
      | 0x6 => mx ((v d.space (a + c0 / 2)).toNat / 16 ^ (c0 % 2) % 16)
      | _ =>
        if isCelat d.fmt then
          -- Celat, DIM0, rank 2: the block through the weight reader, with descriptor arrays (R59–R66)
          let r := nth cs 1 0
          let nb := d.size 0 / 32
          let esc := s.auxDesc d.escH
          let w : WMat := { fmt := d.fmt, rows := d.size 1, cols := 32, val := 0, scl := 2 ^ 40, psc := 2 ^ 41, esc := 2 ^ 42,
                            nesc := match esc with | some x => x.size 0 / 32 | none => 0
                            hasEsc := esc.isSome }
          let blk := c0 / 32
          let rd : Reader := fun i =>
            if i < 2 ^ 40 then v d.space (a + blk * rowLen d.fmt 32 + i)
            else if i < 2 ^ 41 then BitVec.ofNat 8 (aux d.scaleH (r * nb + blk) 1)
            else if i < 2 ^ 42 then 0
            else match esc with | some x => v x.space (x.base + (i - 2 ^ 42)) | none => 0
          let k := w.blk rd 0 0
          let first := c0 % 32 = 0
          match panel (aux d.pscaleH (r / 256) 2) with
          | none => ⟨0, Cnt.nf (if c0 = 0 ∧ r % 256 = 0 then 1 else 0)⟩
          | some ps =>
            -- an escape record beyond the side array reads its FILL (R66 case 3)
            let e : Dy := if k.cnt.oobRd ≠ 0 then (match esc with | some x => dy32 (in32 x.fill.toNat).1 | none => Dy.zero)
              else (nth k.els (c0 % 32) Dy.zero).mul k.scl
            let q := (e.mul ps).rne32
            ⟨q.1, (if first then k.cnt else Cnt.zero).plus (Cnt.acc q.2)⟩
        else ⟨(v d.space (a + c0)).toNat, Cnt.zero⟩

/-- The ranges that reading elements lo ≤ c0 < lo + n of a row needs from memory outside the device: the row and its scale
arrays. -/
def State.elRngs (s : State) (v : View) (d : Desc) (lo n : Nat) (cs : List Nat) : List Rng :=
  match s.rowAddr v d cs with
  | none => d.pteRng cs
  | some a =>
    let n := min n (d.size 0 - lo)
    let b0 := lo / 32 * 32
    let row : Rng := ⟨d.space, a + rowLen d.fmt b0, rowLen d.fmt (roundUp (lo + n - b0) 32)⟩
    let scl : List Rng := match s.auxDesc d.scaleH with
      | some x => (List.range (ceilDiv (lo + n - b0) 32)).map fun i => ⟨x.space, x.base + d.blockNo ((b0 + 32 * i) :: cs), 1⟩
      | none => []
    let psc : List Rng := match s.auxDesc d.pscaleH with
      | some x => [⟨x.space, x.base + 2 * (nth cs 0 0 / 256), 2⟩]
      | none => []
    let esc : List Rng := match s.auxDesc d.escH with
      | some x => [⟨x.space, x.base, x.size 0⟩]
      | none => []
    d.pteRng cs ++ [row] ++ scl ++ psc ++ esc

/-! ### Writes (R416) -/

/-- Bits of an element of a format; 0 for Q2T, whose bytes hold five elements (R53, R60). -/
def elBits (fmt : Nat) : Nat := if fmt = 8 then 0 else rowLen fmt 32 * 8 / 32

/-- A write of the step leaves for a memory: HBM and Shelf writes wait for their acknowledgement, writes to other spaces
leave through the fabric port as well. -/
def State.stepWrite (s : State) (space addr : Nat) (bytes : List Byte) (tag : WriteTag) (drw : Nat) (key : Nat := 0)
    (ew : Nat := 8) (page : Nat := 0) : State :=
  if bytes.isEmpty then s
  else if space < 2 then s.putWrite space addr bytes tag drw key ew page
  else
    (Rng.cut ⟨space, addr, bytes.length⟩).foldl (fun (s : State) r =>
      let bs := (bytes.drop (r.addr - addr)).take r.len
      let id := s.nextWrite
      (s.putWrite space r.addr bs tag drw key ew page).sendXfer space r.addr r.len (some bs) (.write id)) s

/-- The bytes of an FP32 result in `OFMT` (R198): pattern to BF16 or FP32. -/
def outBytes (ofmt : Nat) (w : Nat) : List Byte := if ofmt = 0 then leBytes 2 w else leBytes 4 w

/-- Two byte strings mixed element by element: bit e of `free` chooses element e, of `ew` bits, from `new` or from `old`; an
`ew` of 0 stands for Q2T, five digits a byte (R60, R137). -/
def mixEls (ew free : Nat) (old new : List Byte) : List Byte :=
  if ew = 0 then
    (old.zip new).mapIdx fun k x =>
      let o := x.1.toNat
      let n := x.2.toNat
      BitVec.ofNat 8 (if 0xF3 ≤ o ∨ 0xF3 ≤ n then (if bitN free (5 * k) then n else o)
        else (List.range 5).foldl (fun v i => v + 3 ^ i * ((if bitN free (5 * k + i) then n else o) / 3 ^ i % 3)) 0)
  else
    let o := leNat old
    let n := leNat new
    leBytes new.length ((List.range (ceilDiv (8 * new.length) ew)).foldl (fun v e =>
      v + at_ (bitsN (if bitN free e then n else o) (ew * e + ew - 1) (ew * e)) (ew * e)) 0)

end Sys2Proof.Machine
end

