-- ==== Sys2Proof/Machine/Load.lean ====
section
/-! DEFINITION. The first phases of a step (R432): load, gate, and the sampling point with the row table and the row checks
(R427–R446, R410–R413, R170–R178, R355, R524, R525). -/

namespace Sys2Proof.Machine

open Sys2Proof

/-- What a phase leaves: the step stays in it, goes on, or is refused with a status against a program index. -/
inductive Go where
  | stay (s : State)
  | next (s : State)
  | refuse (st : Status) (idx : Nat) (s : State)

/-- `FAIL_IDX` when no macro-instruction is at fault (R448). -/
def noIdx : Nat := 0x1FFF

/-! ### Phase 2: load -/

/-- A handle of a step (R430): its slot and descriptor. -/
def State.stepHandle (s : State) (p : Nat) (h : Word) : Except Status (Nat × Desc) :=
  match s.handle h with
  | .live i d => if d.part = p then .ok (i, d) else .error .descInvalid
  | .stale => .error .descStale
  | _ => .error .descInvalid

/-- The descriptor of a handle that was checked at load. -/
def State.dOf (s : State) (h : Word) : Option Desc := if h = 0 then none else s.heldDesc h

/-- The form of the program descriptor (R429). -/
def progForm (d : Desc) : Bool := d.isU32 2 && d.size 0 == 8 && (d.space == 0 || d.space == 2)

/-- The form of the report descriptor (R454). -/
def rptForm (d : Desc) : Bool := d.isU32 1 && (d.space == 0 || d.space == 2) && decide (16 ≤ d.size 0) && !d.overlap

/-- The program so far, read row by row up to the first `END` (R429): the rows, or the range still to come. -/
def readProg (v : View) (have_ : Rng → Bool) (d : Desc) : Nat → Nat → Sum (Option (List MI)) Rng
  | 0, _ => .inl none
  | fuel + 1, i =>
    if min (d.size 1) 4096 ≤ i then .inl none
    else
      let r : Rng := ⟨d.space, d.base + i * d.stride 1, 32⟩
      if have_ r = false then .inr r
      else
        let m := miOf ((List.range 8).map fun k => BitVec.ofNat 32 (v.num r.space (r.addr + 4 * k) 4))
        if m.op = 0x4F then .inl (some [m])
        else
          match readProg v have_ d fuel (i + 1) with
          | .inl (some l) => .inl (some (m :: l))
          | .inl none => .inl none
          | .inr r => .inr r

def isMx (f : Nat) : Bool := decide (2 ≤ f ∧ f ≤ 6)

/-- The pairs of R125; `t` with transposition. -/
def copyPair (a b : Desc) (t : Bool) : Bool :=
  let plain := a.fmt == b.fmt && a.blkAxis == 0 && b.blkAxis == 0 && (a.fmt == 0 || a.fmt == 1 || a.fmt == 0xC || a.fmt == 0xD)
  let swap := isMx8 a.fmt && a.fmt == b.fmt && ((a.blkAxis == 1 && b.blkAxis == 2) || (a.blkAxis == 2 && b.blkAxis == 1))
  let block := (isMx a.fmt || isCelat a.fmt) && a.blkAxis == 1
  let deco := block && b.fmt == 0 && b.blkAxis == 0
  let req := (((isMx a.fmt || isCelat a.fmt)) || a.fmt == 0 || a.fmt == 1) && isMx8 b.fmt && b.blkAxis == 1
  if t then decide (2 ≤ a.rank) && (plain || swap || deco || req)
  else (a.fmt == b.fmt && a.blkAxis == b.blkAxis) || deco || (req && (a.blkAxis == 0 || a.blkAxis == 1))

/-- The list or index descriptor of an indirect operand on a target (R128–R130). -/
def indirectOk (m : MI) (tgt list : Desc) : Bool :=
  if m.iform = 1 then list.isU32 2 && list.size 0 == tgt.rank
  else
    !list.paged && list.rank == 1 && (list.fmt == 0xC || list.fmt == 0xD) && decide (m.idim < tgt.rank) && tgt.blkAxis != m.idim + 1

/-- A matrix operand is an adapter's: its block-scale, panel-scale and escape arrays must be of the aligned class too, and an E8M0
array named itself is a block-scale array (R63, R111). -/
def State.classOk (s : State) (d : Desc) : Bool :=
  let al (h : Word) : Bool := h == 0 || (s.heldDesc h).all (·.aligned)
  (d.fmt != 0xA || d.aligned) && (!isCelat d.fmt || (al d.scaleH && al d.pscaleH && al d.escH))

/-- The checks of one macro-instruction at load that look at its descriptors (R438, R442, R444). -/
def State.descsOk (s : State) (m : MI) : Bool :=
  let d0 := s.dOf m.op0
  let d1 := s.dOf m.op1
  (m.bsrc != 3 || (s.dOf m.bval).any fun d => d.isU32 1)
  && (match m.op with
      | 0x48 =>
        match d0, d1 with
        | some a, some b =>
          copyPair a b m.flag && !b.overlap && s.classOk a && s.classOk b
          && (m.iform == 0 || (match s.dOf m.ih with
              | some l => indirectOk m (if m.islot = 0 then a else b) l
              | none => false))
        | _, _ => false
      | 0x24 => !m.flag || d0.any fun d => d.isU32 1
      | 0x30 => d0.any fun d => d.isU32 1
      | 0x31 => d0.any fun d => d.isU32 1
      | 0x38 => !m.flag || d0.any fun d => d.isU32 1
      | _ => true)

/-- Whether macro-instruction i keeps the rules of R430, R410, R412 and R441 on the whole program. -/
def placeOk (prog : List MI) (learner : Bool) (i : Nat) : Bool :=
  let at' (k : Nat) : MI := nth prog k (miOf [])
  let m := at' i
  let before := prog.take i
  let rowsSeen := before.any fun x => x.op == 1
  let latch (k : MI) : Nat := k.op0.toNat
  (rowsSeen || m.isGate || m.op == 1) && (!m.isGate || !rowsSeen) && (m.op != 1 || !rowsSeen)
  && ((m.op == 2) == (decide (0 < i) && (at' (i - 1)).op == 1))
  && (!m.isPlace || (decide (0 < i) && ((at' (i - 1)).op == 0x11 || (at' (i - 1)).op == 0x12) && (at' (i - 1)).proj == m.proj))
  && (!m.consumes || !before.any fun x => x.consumes && x.proj == m.proj)
  && (!m.isLearner || learner)
  && (!m.isGrad || !before.any MI.isReduce)
  && (!(m.isReduce && prog.any MI.isGrad) || !before.any MI.isReduce)
  && (m.op != 0x38 || !before.any fun x => x.op == 0x38)
  && (!m.isGate || !before.any fun x => x.isGate && latch x == latch m)
  && (m.op != 0x41 || (before.any (fun x => x.isGate && latch x == latch m) && !before.any fun x => x.op == 0x41 && latch x == latch m))
  && (m.op != 0x4F || !prog.any MI.isGrad || before.any MI.isReduce)

/-- The first offending macro-instruction of a program and its status (R430). -/
def State.progFault (s : State) (p : Nat) (learner : Bool) (prog : List MI) : Option (Status × Nat) :=
  (List.range prog.length).findSome? fun i =>
    let m := nth prog i (miOf [])
    if m.fieldsOk = false ∨ placeOk prog learner i = false then some (.descInvalid, i)
    else
      match m.handles.findSome? fun h => match s.stepHandle p h with | .error st => some st | .ok _ => none with
      | some st => some (st, i)
      | none =>
        if s.descsOk m = false then some (.descInvalid, i)
        else if m.isGate ∧ (s.latchAt m.op0.toNat).admits (.context p) = false then some (.descInvalid, i)
        else none

/-- The projection list of a program. -/
def projList (prog : List MI) : List Nat :=
  insSort (fun a b => decide (a < b)) ((prog.filter fun m => m.isFwd || m.isGrad).map MI.proj).eraseDups

/-- A fresh context for a submitted step. -/
def freshCtx (job : Nat) (role : Role) (sub : Sub) (phase : Phase) : Ctx :=
  { job := job, role := role, sub := sub, phase := phase, resume := phase, prog := [], nins := 0, refs := [], gate := [], rows := [],
    drawers := [], projs := [], snap := 0, bounds := [], recs := [], lists := [], units := [], nextUnit := 0, vecs := [], outs := [],
    parts := [], streams := [], ret := [], sentVisits := [], host := [], pages := [], pc := 0, tagFault := 0, npre := 0, cause := 0,
    refused := none, torn := false, mv := none, eng := 0, used := [], pinned := [], fetchWait := [], noteWait := [], noteOut := [],
    noteDead := [], gdNew := [], saveMask := 0, visitCap := 0, written := false, leaving := false,
    phaseAt := 0, delivered := [], placed := [], rpt := none, owners := [], stats := []
    samp := { stale := [], tickets := [], common := 0, rowQuota := 0, drwQuota := 0, dir := [], notes := [] } }

def freshRec : MacRec := { status := none, oobRd := 0, oobWr := 0, lcount := 0, reached := false, done := false, pos := 0, since := none, list := [] }

def tagProg : Nat := 8192
def tagRows : Nat := 8193
def tagOfs : Nat := 8194
def tagBound : Nat := 8195
/-- The lists that phase 6 looks at (R152), by program index. -/
def tagList (i : Nat) : Nat := 8196 + i

/-- Out-of-bounds reads and writes of macro-instruction i: its record and the partition's totals (R123). -/
def State.addRec (s : State) (p i : Nat) (rd wr : Nat) : State :=
  if rd = 0 ∧ wr = 0 then s
  else
    (s.modCtx p fun c =>
      { c with recs := modNth c.recs i fun r => { r with oobRd := sat32 (r.oobRd + rd), oobWr := sat32 (r.oobWr + wr) } }).modP p fun q =>
        { q with oobRd := wrapAdd q.oobRd rd, oobWr := wrapAdd q.oobWr wr }

/-- Take the references of a step on the slots of its handles (R116). -/
def State.takeRefs (s : State) (p : Nat) (hs : List Word) : State :=
  let l := (hs.filterMap fun h => match s.stepHandle p h with | .ok (i, _) => some i | .error _ => none).eraseDups
  (l.foldl (fun (s : State) i => s.addRef i) s).modCtx p fun c => { c with refs := c.refs ++ l }

/-- Phase 2 (R432): the handles of the submission record, the program, its checks. -/
def State.phaseLoad (s : State) (p : Nat) (c : Ctx) : Go :=
  let h (w : Word) := s.stepHandle p w
  let own (x : Except Status (Nat × Desc)) (ok : Desc → Bool) : Option Status :=
    match x with
    | .error st => some st
    | .ok (_, d) => if ok d then none else some .descInvalid
  -- once taken, references stand, destroyed or not
  let judge (e : Word × (Desc → Bool)) : Option Status :=
    if c.refs.contains (hSlot e.1) && (s.heldDesc e.1).any e.2 then none else own (h e.1) e.2
  let others := (c.sub.rptH, rptForm) :: (if c.sub.ofsH = 0 then [] else [(c.sub.ofsH, fun d => d.isU32 2 && c.role == .learner)])
  -- with a program to copy, a bad report or offset handle refuses once the program's length is known (R455)
  let bad := others.findSome? judge
  match judge (c.sub.progH, progForm) with
  | some st => .refuse st noIdx s
  | none =>
    let s := if c.refs.isEmpty then s.takeRefs p (c.sub.progH :: (others.filter fun e => (judge e).isNone).map (·.1)) else s
    match s.ctxOf p, s.dOf c.sub.progH with
    | some c, some d =>
      if d.space = 0 ∧ s.hbmAwake = false then .stay (s.wakeHbm (List.range 8)) else
      let have_ (r : Rng) : Bool := decide (r.space < 2) || (c.gotAt tagProg r).any fun g => g.data.isSome
      match readProg (s.view c tagProg) have_ d 4097 0 with
      | .inr r => .stay (s.want p tagProg [r]).2
      | .inl none => .refuse (bad.getD .descInvalid) noIdx s
      | .inl (some prog) =>
        let s := s.modCtx p fun c => { c with prog := prog, nins := prog.length, recs := prog.map fun _ => freshRec }
        match bad.map (fun st => (st, noIdx)) <|> s.progFault p (c.role == .learner) prog with
        | some (st, i) => .refuse st i s
        | none =>
          let projs := projList prog
          let s := s.modCtx p fun c => { c with rpt := s.dOf c.sub.rptH }
          let ofsOk := match s.dOf c.sub.ofsH with
            | some d => d.size 0 == 1 + ceilDiv projs.length 4
            | none => true
          if ofsOk = false then .refuse .descInvalid noIdx s
          else
            let s := s.takeRefs p (prog.flatMap MI.handles)
            let gate := insSort (fun (a b : GateItem) => decide (a.latch < b.latch)) ((prog.mapIdx fun i m => (i, m)).filterMap fun e =>
              if e.2.isGate then
                let lim := e.2.op1.toNat
                some { idx := e.1, latch := e.2.op0.toNat, wait := e.2.op == 0x42
                       limit := if lim = 0 then (s.getP p).latWait.toNat else lim, since := none, done := .pending }
              else none)
            .next (s.modCtx p fun c => { c with projs := projs, gate := gate, phase := .gate, phaseAt := s.now }).hbmRead
    | _, _ => .stay s

/-! ### Phase 3: gate (R410–R413) -/

/-- One gate macro-instruction tries its latch (R411, R412): it waits, completes, or is not admitted to the latch any more. -/
def State.gateTry (s : State) (p : Nat) (g : GateItem) : Except Status (Option GateDone) × State :=
  let l := s.latchAt g.latch
  if l.st = .held then (.ok none, s)
  else if g.wait ∧ l.st = .free then (.ok (some .passed), s)
  else
    match s.latchOp (.context p) g.latch 1 0 with
    | (.ok, s) => (.ok (some (.acquired false)), s)
    | (.brokenLatch, s) => (.ok (some (.acquired true)), s)
    | (st, s) => (.error st, s)

/-- Take the gate's latches in ascending number as far as they go; `only` limits it to one kind of macro-instruction. A latch whose
`DOMAIN` a SET_DOMAIN has taken from the partition since the load refuses the step (R410, R412). -/
def State.gateRun (s : State) (p : Nat) (only : Option Bool) : List GateItem → Go
  | [] => .next s
  | g :: gs =>
    if g.done ≠ .pending then s.gateRun p only gs
    else if only.any (fun w => w != g.wait) then .stay s
    else
      match s.gateTry p g with
      | (.error st, s) => .refuse st g.idx s
      | (.ok none, s) =>
        .stay (s.modCtx p fun c =>
          { c with gate := updFirst c.gate (fun x => x.idx == g.idx) fun x => { x with since := some (x.since.getD s.now) } })
      | (.ok (some d), s) =>
        let s := s.modCtx p fun c =>
          { c with
            gate := updFirst c.gate (fun x => x.idx == g.idx) fun x => { x with done := d }
            recs := modNth c.recs g.idx fun r =>
              { r with reached := true, done := true, status := some (if d = .acquired true then .brokenLatch else .ok) } }
        s.gateRun p only gs

def State.phaseGate (s : State) (p : Nat) (c : Ctx) (only : Option Bool) : Go :=
  match s.gateRun p only c.gate with
  | .next s => .next (s.modCtx p fun c => { c with phase := .sample })
  | g => g

/-! ### Phase 4: the sampling point -/

/-- A bound (R438): the value, or none for BSRC NONE; `v` reads MEM bounds. The second result counts a MEM read out of bounds. -/
def State.bound (s : State) (p : Nat) (v : View) (m : MI) : Option Nat × Nat :=
  match m.bsrc with
  | 0 => (none, 0)
  | 1 => (some m.bval.toNat, 0)
  | 2 => (some (nth (s.getP p).bound m.bval.toNat 0).toNat, 0)
  | _ => match s.dOf m.bval with
    | some d => let r := s.u32 v d 0 []; (some r.1, r.2)
    | none => (some 0, 0)

/-- Index of the `ROWS` macro-instruction. -/
def rowsIdx (prog : List MI) : Nat := (prog.findIdx? fun m => m.op == 1).getD 0

/-- A row-table entry as read (R170): its eight words. -/
structure RowWords where
  w : List Nat
  deriving DecidableEq, Repr

/-- The row of an entry, or `none` when it is malformed (R171). -/
def rowOf (learner : Bool) (sseq : Nat) (w : List Nat) : Option Row :=
  let g (i : Nat) : Nat := nth w i 0
  let aid := g 0 % 2 ^ 24
  let len := g 2 % 2 ^ 14
  let prefill := bitN (g 1) 16
  let expl := bitN (g 1) 17
  let join := g 4 + 2 ^ 32 * (g 5 % 65536)
  let resv := g 0 / 2 ^ 24 ≠ 0 ∨ g 1 / 2 ^ 20 ≠ 0 ∨ g 2 / 2 ^ 14 ≠ 0 ∨ g 5 / 65536 ≠ 0 ∨ g 7 ≠ 0
  let zero := w.all (· == 0)
  let row : Row := { vacant := zero, aid := aid, ticket := g 1 % 65536, prefill := prefill, expl := expl, port := g 1 / 2 ^ 18 % 4,
                     len := len, kvPos := g 3, join := join, pinEpoch := g 6, status := .ok, epoch := 0, charged := false, checked := false,
                     settled := false, drawer := none, cnt := (0, 0, 0, 0) }
  if zero then some row
  else if resv ∨ len = 0 ∨ 8192 < len ∨ (prefill = false ∧ 1 < len) ∨ (expl = true ∧ learner = false)
      ∨ (expl = false ∧ g 6 ≠ 0) ∨ sseq < join then none
  else some row

/-- Ticket validity of a row (R524): the ticket table of the sampling point (R177), the budget as the rows before have left it. -/
def State.ticketOk (s : State) (p : Nat) (c : Ctx) (r : Row) : Bool :=
  match c.samp.tickets.find? fun e => e.1 == r.ticket with
  | some (_, k) =>
    let left := match s.sec.tickets.find? fun e => e.1 == r.ticket with | some (_, x) => x.budget | none => k.budget
    decide (c.phaseAt < k.expiry) && bit k.parts p && (r.aid == 0 || decide (r.len ≤ left))
  | none => false

/-- Change a ticket's budget. -/
def State.modBudget (s : State) (t : Nat) (f : Nat → Nat) : State :=
  s.modSec fun c => { c with tickets := c.tickets.map fun e => if e.1 = t then (e.1, { e.2 with budget := f e.2.budget }) else e }

/-- The ticket checks of all rows in ascending slot, each charged at once (R524). -/
def State.ticketRows (s : State) (p : Nat) (c : Ctx) (rows : List Row) : List Row × State :=
  rows.foldl (fun (st : List Row × State) r =>
    if r.vacant then (st.1 ++ [r], st.2)
    else if st.2.ticketOk p c r = false then (st.1 ++ [{ r with status := .ticketInvalid }], st.2)
    else if r.aid = 0 then (st.1 ++ [r], st.2)
    else (st.1 ++ [{ r with charged := true }], st.2.modBudget r.ticket (· - r.len))) ([], s)

/-- What this member knows of an adapter for the checks of a row (R324, R525). -/
inductive Known where
  | entry (e : Entry)
  | note (n : NoteRec)
  | none_         -- WARD_FAULT: no ward is known
  | passed        -- taken as passing every check (R324)

/-- The directory and notice records are those of the sampling point; only notice replies are taken as they arrive (R433). -/
def State.known (s : State) (c : Ctx) (aid : Nat) : Known :=
  match c.samp.dir.find? fun e => e.aid == aid with
  | some e => .entry e
  | none =>
    match c.samp.notes.find? fun n => n.1 == aid with
    | some n => .note n.2
    | none =>
      match c.noteOut.find? fun n => n.aid == aid with
      | some n => .note n
      | none =>
        if c.noteDead.contains aid then .passed
        else match (s.rangeOf aid).state with
          | .lost => .passed
          | _ => .none_

/-- The ward check (R525, R151), on the tickets and the common adapter of the sampling point (R153, R177). -/
def Ctx.wardOk (c : Ctx) (r : Row) (ward : Nat) : Bool :=
  match c.samp.tickets.find? fun e => e.1 == r.ticket with
  | some (_, k) =>
    (ward == k.ward && ward != 0 && (match k.list with | some l => l.contains r.aid | none => true))
      || (c.samp.common == r.aid && ward == wardCommon)
  | none => false

/-- The effective epoch of a row (R355); `none` is VERSION_GONE. -/
def effEpoch (r : Row) (k : Known) : Option Nat :=
  match k with
  | .entry e =>
    if e.owned then
      if r.expl then
        if (e.slot r.pinEpoch).any (fun v => (v.vstate == .current || v.vstate == .retained) && !v.damaged) then some r.pinEpoch else none
      else if (e.slot e.curEpoch).any (·.damaged) then none else some e.curEpoch
    else
      let ep := if r.expl then r.pinEpoch else e.curEpoch
      match e.slot ep with
      | some v => if v.inval then none else some ep
      | none =>
        if r.expl = false then some ep
        else if ep = e.curEpoch ∨ (precedes ep e.curEpoch = true ∧ (e.curEpoch + 2 ^ 32 - ep) % 2 ^ 32 < 16) then some ep else none
  | .note n =>
    if r.expl then
      if r.pinEpoch = n.epoch ∨ (precedes r.pinEpoch n.epoch = true ∧ (n.epoch + 2 ^ 32 - r.pinEpoch) % 2 ^ 32 < 16) then some r.pinEpoch
      else none
    else some n.epoch
  | _ => some r.pinEpoch

/-- The ward, adapter-known and version checks of one row (R20, R177), made once. -/
def State.checkRow (s : State) (c : Ctx) (r0 : Row) : Row :=
  let r := { r0 with checked := true }
  if r0.checked ∨ r0.vacant ∨ r0.status ≠ .ok ∨ r0.aid = 0 then r
  else
    let k := s.known c r.aid
    let go (ward : Nat) (ready : Bool) : Row :=
      if c.wardOk r ward = false then { r with status := .wardFault }
      else if ready = false then { r with status := .adapterUnknown }
      else match effEpoch r k with
        | some ep => { r with epoch := ep }
        | none => { r with status := .versionGone }
    match k with
    | .none_ => { r with status := .wardFault }
    | .passed => { r with epoch := r.pinEpoch }
    | .entry e => go e.ward (e.state == .ready && !e.unknown)
    | .note n => go n.ward n.valid

/-- One epoch to a drawer (R356): a row whose epoch differs from that of the lowest row of its adapter. -/
def oneEpoch (rows : List Row) : List Row :=
  rows.map fun r =>
    if r.vacant ∨ r.status ≠ .ok ∨ r.aid = 0 then r
    else match rows.find? fun x => !x.vacant && x.status == .ok && x.aid == r.aid with
      | some x => if x.epoch = r.epoch then r else { r with status := .versionGone }
      | none => r

/-- The remote adapters of a step's rows for which a notice is needed (R324). -/
def State.needNote (s : State) (c : Ctx) : List Nat :=
  ((c.rows.filter fun r => !r.checked && !r.vacant && r.status == .ok && r.aid != 0).map (·.aid)).eraseDups.filter fun a =>
    !(c.samp.dir.any fun e => e.aid == a) && !(c.samp.notes.any fun n => n.1 == a) && !(c.noteOut.any fun n => n.aid == a)
      && !c.noteDead.contains a && s.mine a == false && (s.ownerOfAid a).isSome && s.pol.instValid

/-- The offsets that `OFS_H` gives, row by row: adapter and code of each entry of the projection list (R445, R446). -/
def State.ofsRows (s : State) (v : View) (d : Desc) (npj : Nat) : List (Nat × Nat × List Nat) :=
  (List.range (d.size 1)).map fun j =>
    let w (i : Nat) : Nat := (s.u32 v d i [j]).1
    (j, w 0, (List.range npj).map fun i => w (1 + i / 4) / 256 ^ (i % 4) % 256)

/-- A row of `OFS_H` that refuses the step: a reserved bit, or the offset code 0b100 (R446). -/
def ofsBad (v : View) (s : State) (d : Desc) (npj : Nat) : Bool :=
  (List.range (d.size 1)).any fun j =>
    let w (i : Nat) : Nat := (s.u32 v d i [j]).1
    decide (2 ^ 24 ≤ w 0) || (List.range (4 * ceilDiv npj 4)).any fun i =>
      let b := w (1 + i / 4) / 256 ^ (i % 4) % 256
      decide (8 ≤ b) || b == 4 || (decide (npj ≤ i) && b != 0)

/-- The row table's descriptor, which R172 and R119 judge at issue (R174 case 1). -/
def State.rowsDesc (s : State) (c : Ctx) : Except Status Desc :=
  let i := rowsIdx c.prog
  if c.samp.stale.contains i then .error .descStale
  else
    match s.dOf (nth c.prog i (miOf [])).op0 with
    | some d => if d.isU32 2 = false ∨ d.size 0 ≠ 8 then .error .descInvalid else .ok d
    | none => .error .descInvalid

/-- Remove the step from its job's queue: it is issued, or refused before (R433). -/
def State.popSub (s : State) (p : Nat) (c : Ctx) : State :=
  s.modJob p c.job fun j => { j with queue := j.queue.filter fun x => x.sseq != c.sub.sseq }

/-- The macro-instructions that name a stale handle (R119). -/
def State.staleMIs (s : State) (p : Nat) (prog : List MI) : List Nat :=
  (List.range prog.length).filter fun i =>
    (nth prog i (miOf [])).handles.any fun h => match s.stepHandle p h with | .error .descStale => true | _ => false

/-- The owner of an adapter in the installed view, this device where it is its own. -/
def State.ownerAt (s : State) (aid : Nat) : Option Nat := if s.mine aid then some s.me else s.ownerOfAid aid

/-- The sampling point (R433): from here on the step counts as issued. What later phases take "at step issue" is taken now. -/
def State.phaseSample (s : State) (p : Nat) (c : Ctx) : Go :=
  if s.issueHeld then .stay s
  else
    let q := s.getP p
    let samp : Sampled :=
      { stale := s.staleMIs p c.prog, tickets := s.sec.tickets, common := q.common, rowQuota := q.rowQuota.toNat
        drwQuota := q.drwQuota.toNat, dir := s.cab.dir, notes := s.pol.notes }
    let owners := ((s.cab.grads.filter fun g => g.part == p).map (·.aid)).eraseDups.filterMap fun a => (s.ownerAt a).map fun o => (a, o)
    let bounds := c.prog.map fun m => if m.bsrc = 3 then 0 else match s.bound p (s.view c tagBound) m with | (some b, _) => b + 1 | (none, _) => 0
    .next (((((s.popSub p c).modP p fun q => { q with lastIssue := some s.now }).newCharge p).modCab
        fun b => { b with useStamp := wrapAdd b.useStamp 1 }).modCtx p fun c =>
      { c with
        samp := samp, owners := owners, snap := ((s.pol.snaps.getLast?).map (·.id)).getD 0, bounds := bounds
        visitCap := if q.tumOwn = 0 then 0 else q.visitCap.toNat, phase := .table, phaseAt := s.now })

/-- References on the versions that rows pin (R355, R356); SORT takes a drawer's own and drops these. -/
def State.pinRows (s : State) (p : Nat) : State :=
  match s.ctxOf p with
  | none => s
  | some c =>
    let l := ((c.rows.filter fun r => !r.vacant && r.status == .ok && r.aid != 0).map fun r => (r.aid, r.epoch)).eraseDups.filter fun g =>
      ((s.entry g.1).bind fun e => e.slot g.2).isSome
    (l.foldl (fun s g => s.takeRef g.1 g.2) s).modCtx p fun c => { c with pinned := l }

/-- Phase 4 goes on: bounds in memory, the row table and its refusals (R174), the offsets, the tickets, and the checks of the rows whose
adapters are known (R177). What was read out of bounds is counted, also where the step is refused (R123). -/
def State.phaseTable (s : State) (p : Nat) (c : Ctx) : Go :=
  let ri := rowsIdx c.prog
  let mems := (c.prog.filter fun m => m.bsrc == 3).filterMap fun m => (s.dOf m.bval).map fun d => (⟨d.space, d.base, 4⟩ : Rng)
  match s.rowsDesc c with
  | .error st => .refuse st ri s
  | .ok d =>
    match s.want p tagBound mems with
    | (false, s) => .stay s
    | (true, s) =>
      let vb := s.view c tagBound
      let bnd (i : Nat) : Option Nat × Nat := s.bound p vb (nth c.prog i (miOf []))
      let at0 := nth c.bounds ri 0
      let n := if (nth c.prog ri (miOf [])).bsrc = 3 then (bnd ri).1.getD (d.size 1) else if at0 = 0 then d.size 1 else at0 - 1
      let counted (s : State) (tab : Nat) : State :=
        (List.range c.prog.length).foldl (fun (s : State) i => s.addRec p i ((bnd i).2 + if i = ri then tab else 0) 0) s
      if c.samp.rowQuota < n ∨ 262144 < n then .refuse .noCapacity ri (counted s 0)
      else
        let ofs := match s.dOf c.sub.ofsH with
          | some o => (List.range (o.size 1)).flatMap fun j => s.rowRng (s.view c tagOfs) o [j] 0 (o.size 0)
          | none => []
        match s.want p tagRows ((List.range (min n (d.size 1))).flatMap fun i => [⟨d.space, d.base + i * d.stride 1, 32⟩]) with
        | (false, s) => .stay s
        | (true, s) =>
          match s.want p tagOfs ofs with
          | (false, s) => .stay s
          | (true, s) =>
            let vr := s.view c tagRows
            let words (i : Nat) : List Nat := (List.range 8).map fun k => (s.u32 vr d k [i]).1
            let ents := (List.range n).map fun i => rowOf (c.role == .learner) c.sub.sseq (words i)
            let tab := (List.range n).foldl (fun k i => if d.size 1 ≤ i then k + 8 else k) 0
            let ofsFail := match s.dOf c.sub.ofsH with
              | some o => ofsBad (s.view c tagOfs) s o c.projs.length
              | none => false
            let s := counted s.hbmRead tab
            if ents.any (·.isNone) then .refuse .descInvalid ri s
            else
              let rs := ents.filterMap id
              if 1048576 < rs.foldl (fun k r => k + r.len) 0 then .refuse .noCapacity ri s
              else if rs.any (fun r => !r.vacant && s.ras.fenceQ.getLsbD r.port) then .refuse .noCapacity ri s   -- R587
              else if ofsFail then .refuse .descInvalid noIdx s
              else
                let t := s.ticketRows p c rs
                let s := t.2.modCtx p fun c =>
                  { c with
                    rows := t.1, phase := .notice, phaseAt := s.now
                    bounds := c.bounds.mapIdx fun i b =>
                      if (nth c.prog i (miOf [])).bsrc = 3 then match bnd i with | (some b, _) => b + 1 | (none, _) => 0 else b
                    recs := modNth c.recs ri fun r => { r with reached := true, done := true } }
                .next ((s.modCtx p fun c =>
                  let need := s.needNote c
                  { c with rows := c.rows.map fun r => if need.contains r.aid then r else s.checkRow c r }).pinRows p)

/-- The notice wait (R324), then the remaining checks of the rows. -/
def State.phaseNotice (s : State) (p : Nat) (c : Ctx) : Go :=
  if c.noteWait.isEmpty = false then .stay s
  else
    let need := s.needNote c
    if need.isEmpty = false then
      let owners := insSort (fun (a b : Nat) => decide (a < b)) (need.filterMap s.ownerOfAid).eraseDups
      .stay (owners.foldl (fun (s : State) o =>
        let l := insSort (fun (a b : Nat) => decide (a < b)) (need.filter fun a => s.ownerOfAid a == some o)
        s.request o (.note p l) 0x10 0 0 (.aids l)) (s.modCtx p fun c => { c with noteWait := need }))
    else .next (s.modCtx p fun c => { c with rows := oneEpoch (c.rows.map (s.checkRow c)), phase := .sort })

end Sys2Proof.Machine
end

