-- ==== Sys2Proof/Machine/Sort.lean ====
section
/-! DEFINITION. `SORT` (R184–R193): paths and the cost rule (R325–R327), staging demand (R294, R295), admission in three phases,
gradient-drawer reservation (R249), pins and fills (R355, R356, R331). -/

namespace Sys2Proof.Machine

open Sys2Proof

/-! ### What is known of a drawer's version -/

/-- The path and its report fields, as chosen for an adapter before admission. -/
structure PathInfo where
  aid : Nat
  epoch : Nat
  path : Path
  ovf : Bool
  pres : Bool
  forced : Bool
  last : Option Path
  dead : Bool
  ruled : Bool
  deriving DecidableEq, Repr

/-- Shape of an adapter as the member knows it: rank, formats, projections. -/
structure Shape where
  rank : Nat
  wa : Nat
  wb : Nat
  projs : List Nat
  deriving DecidableEq, Repr

def State.shapeOfAid (s : State) (aid : Nat) : Shape :=
  match s.entry aid with
  | some e => ⟨e.rank, e.wfmtA, e.wfmtB, e.projs⟩
  | none =>
    match s.pol.notes.find? fun n => n.1 == aid with
    | some n => ⟨n.2.rank, n.2.wfmtA, n.2.wfmtB, n.2.projs⟩
    | none => ⟨16, 0, 0, []⟩

/-- `BLOB_LEN` of a version. -/
def State.blobLen (s : State) (aid ep : Nat) : Nat :=
  match (s.entry aid).bind fun e => e.slot ep with
  | some v => v.blen
  | none => match s.pol.notes.find? fun n => n.1 == aid with
    | some n => n.2.blen * 64
    | none => 0

def State.bminorOf (s : State) (aid ep : Nat) : Nat :=
  match (s.entry aid).bind fun e => e.slot ep with
  | some v => v.bminor
  | none => match s.pol.notes.find? fun n => n.1 == aid with
    | some n => n.2.bminor
    | none => 0

/-- A version is FILLING or VALID in the cache (R325 present). -/
def State.present (s : State) (aid ep : Nat) : Bool :=
  match s.entry aid with
  | some e => !e.owned && (e.slot ep).any fun v => v.vstate == .filling || v.vstate == .valid
  | none => false

/-! ### The cost rule (R325) -/

/-- Cost per element of a format, in thirty-seconds of a byte (R206). -/
def cost32 (fmt : Nat) : Nat :=
  match fmt with
  | 1 => 64
  | 4 => 25
  | 5 => 25
  | 6 => 17
  | _ => 33

/-- An `HFMT` code as a format code (R199). -/
def hfmtOf (c : Nat) : Nat := if c = 2 then 1 else c + 2

/-- FP32 of n thirty-seconds. -/
def f32nd (n : Nat) : Nat := (rne32 false n 1 (-5)).1

def fadd (a b : Nat) : Nat := (add32 a b).1
def fmul (a b : Nat) : Nat := (mul32 a b).1
def fdiv (a b : Nat) : Nat := ((div32 a b).map (·.1)).getD (maxIeee 23 false)

/-- The forward macro-instructions whose projection lies in a set. -/
def fwdIn (prog : List MI) (projs : List Nat) : List MI := prog.filter fun m => m.isFwd && projs.contains m.proj

/-- `b_row` (R325): over the projections in ascending order; `c_a` from the macro-instruction that takes the activations,
`c_o` from the producer's `OFMT`. -/
def State.bRow (s : State) (prog : List MI) (projs : List Nat) : Nat :=
  let ms := fwdIn prog projs
  (insSort (fun a b => decide (a < b)) (ms.map MI.proj).eraseDups).foldl (fun acc p =>
    let mine := ms.filter fun m => m.proj == p
    let ca := match mine.find? fun m => m.op != 0x11 with
      | some m => cost32 m.fmta
      | none => match mine.head? with | some m => cost32 (hfmtOf m.hfmt) | none => 33
    let co := match mine.find? fun m => m.op != 0x10 with
      | some m => if m.ofmt = 0 then 2 else 4
      | none => 2
    let sh := s.shape p
    fadd acc (fadd (fmul (natF sh.1) (f32nd ca)) (fmul (natF sh.2) (natF co)))) 0

/-- The path the rule gives. -/
def costRule (n m brow blob : Nat) (pres : Bool) (g : CalGrp) (hyst amort : Nat) (last : Option Path) : Path :=
  let cv := fadd (fmul m g.latV) (fdiv (fmul n brow) g.bwV)
  let cf := if pres then 0 else fadd g.latF (fdiv blob (fmul g.bwF amort))
  let h1 := fadd 0x3F800000 hyst
  match last with
  | some .visit => if lt32 (fmul cf h1) cv then .fetch else .visit
  | some .fetch => if lt32 (fmul cv h1) cf then .visit else .fetch
  | _ => if lt32 cv cf then .visit else .fetch

/-- The path of an adapter's drawer (R188, R326): `n` its vectors. -/
def State.pathOf (s : State) (p : Nat) (c : Ctx) (aid ep n : Nat) : PathInfo :=
  let base : PathInfo := { aid := aid, epoch := ep, path := .local, ovf := false, pres := false, forced := false, last := none,
                           dead := false, ruled := false }
  if s.mine aid ∨ (s.entry aid).any (·.owned) = true then base
  else
    let pres := s.present aid ep
    let lost := (s.rangeOf aid).state == .lost
    let serves := match s.ownerOfAid aid with
      | some o => (s.member o).any (·.serves)
      | none => false
    let newer := decide (blobMinorMax < s.bminorOf aid ep)
    let lrn := c.role == .learner
    let last := (s.pol.hystTab.find? fun h => h.part == p && h.aid == aid).map (·.last)
    let b := { base with pres := pres, last := last }
    let dead : PathInfo := { b with path := .fetch, forced := true, pres := false, dead := true }
    if newer ∧ (lrn = true ∨ serves = false) then dead
    else if c.noteDead.contains aid ∨ (lost = true ∧ pres = false) then dead
    else if lrn then { b with path := .fetch, forced := true }
    else if newer then { b with path := .visit, forced := true }
    else if lost then { b with path := .fetch, forced := true }
    else if serves = false then { b with path := .fetch, forced := true }
    else
      let sh := s.shapeOfAid aid
      let grp := match (s.ownerOfAid aid).bind s.member with
        | some m => m.group
        | none => 0
      let g := match s.pol.snaps.find? fun x => x.id == c.snap with
        | some x => nth x.grps grp ⟨0, 0, 0, 0⟩
        | none => ⟨0, 0, 0, 0⟩
      { b with
        path := costRule (natF n) (natF (fwdIn c.prog sh.projs).length) (s.bRow c.prog sh.projs) (natF (s.blobLen aid ep)) pres g
          s.pol.hyst.toNat (natF s.pol.amort.toNat) last
        ruled := true }

/-- Enter a rule's choice in the hysteresis table (R327). -/
def State.hystPut (s : State) (p aid : Nat) (path : Path) : State :=
  s.modPol fun q =>
    let e : HystEnt := { part := p, aid := aid, last := path, stamp := s.cab.useStamp.toNat }
    if q.hystTab.any (fun h => h.part == p && h.aid == aid) then
      { q with hystTab := updFirst q.hystTab (fun h => h.part == p && h.aid == aid) fun _ => e }
    else if q.hystTab.length < 65536 then { q with hystTab := q.hystTab ++ [e] }
    else
      match least (fun (a b : HystEnt) => lexLt [a.stamp, a.part, a.aid] [b.stamp, b.part, b.aid]) q.hystTab with
      | some v => { q with hystTab := updFirst q.hystTab (fun h => h.part == v.part && h.aid == v.aid) fun _ => e }
      | none => q

/-! ### Staging (R294, R295) -/

/-- Layer bytes of the largest layer of a version. -/
def State.largestLayer (s : State) (aid ep : Nat) : Nat :=
  match s.entry aid with
  | some e =>
    match e.slot ep with
    | some v =>
      if v.slow then v.lmax
      else if v.vstate = .filling then (match s.pol.notes.find? fun n => n.1 == aid with | some n => n.2.lbytes * 64 | none => 0)
      else s.maxLayer e v.loc
    | none => match s.pol.notes.find? fun n => n.1 == aid with | some n => n.2.lbytes * 64 | none => 0
  | none => match s.pol.notes.find? fun n => n.1 == aid with | some n => n.2.lbytes * 64 | none => 0

/-- Largest FP32 gradient bytes of one layer of an adapter: from `GBYTES` of its notice record where no blob of the version is here. -/
def State.gradBytes (s : State) (aid ep : Nat) : Nat :=
  let here := (s.entry aid).any fun e => e.owned || (e.slot ep).any fun v => v.vstate == .valid
  match s.pol.notes.find? fun n => n.1 == aid with
  | some n => if here then (let sh := s.shapeOfAid aid; s.gradLayer sh.rank sh.projs) else n.2.gbytes * 64
  | none => let sh := s.shapeOfAid aid; s.gradLayer sh.rank sh.projs

/-- The gradient window of a step over the versions it reduces. -/
def State.window (s : State) (prog : List MI) (l : List (Nat × Nat)) : Nat :=
  if prog.any MI.isReduce then 2 * maxOf (l.map fun x => s.gradBytes x.1 x.2) else 0

/-- The staging area of partition p on die q, in bytes (R292). -/
def State.stageArea (s : State) (p q : Nat) : Nat :=
  let pg := s.getP p
  let c := (diesOf pg.tumOwn).head?
  2 ^ 20 * ((nth pg.effShare q 0) - (nth pg.shfHost q 0).toNat) - (if c = some q then s.returnArea pg.effVisit else 0)

/-- Make the reservations of R295 items 2 and 3 for a set of drawers, the references of blobs already present first: the fills begun and the
state with them. Where one does not fit, nothing is reserved, and what `FRAG_MISS` counted stays (R280). -/
def State.reserveStage (s : State) (p : Nat) (prog : List MI) (ds : List PathInfo) : Option (List (Nat × Nat)) × State :=
  let here := ds.filter fun d => !d.dead && d.path != .visit
  let demand := here.foldl (fun n d => n + 2 * s.largestLayer d.aid d.epoch) 0
  let win := s.window prog (here.map fun d => (d.aid, d.epoch))
  let dies := diesOf (s.getP p).tumOwn
  let fits := dies.all fun q => decide (demand + (if dies.head? = some q then win else 0) ≤ s.stageArea p q)
  if fits = false ∧ here ≠ [] then (none, s)
  else
    let touch (s : State) (d : PathInfo) : State :=
      (s.takeRef d.aid d.epoch).modSlot d.aid d.epoch fun v => { v with stamp := s.cab.useStamp.toNat }
    let s1 := here.foldl (fun s d => if d.path = .local ∨ s.present d.aid d.epoch = true then touch s d else s) s
    let r := here.foldl (fun (st : Option (List (Nat × Nat)) × State) d =>
      match st with
      | (none, s) => (none, s)
      | (some fl, s) =>
        if d.path = .local then
          match s.promote d.aid d.epoch with
          | (true, s) => (some fl, s)
          | (false, s) => (none, s)
        else if s.present d.aid d.epoch then (some fl, s)
        else
          match s.fillRec d.aid with
          | none => (none, s)
          | some n =>
            match s.beginFill d.aid d.epoch ((s.ownerOfAid d.aid).getD 0) (s.blobLen d.aid d.epoch) n with
            | none => (none, s)
            | some s => (some (fl ++ [(d.aid, d.epoch)]), touch s d)) (some [], s1)
    if r.1.isSome then r else (none, s.modCab fun c => { c with fragMiss := r.2.cab.fragMiss })

/-! ### Admission (R188–R191) -/

/-- The rows under admission, with the paths of their adapters. -/
structure Adm where
  rows : List Row
  paths : List PathInfo
  deriving DecidableEq, Repr

def Row.live (r : Row) : Bool := !r.vacant && r.status == .ok && r.aid != 0

def Adm.aids (a : Adm) : List Nat := insSort (fun x y => decide (x < y)) ((a.rows.filter Row.live).map (·.aid)).eraseDups

def Adm.info (a : Adm) (aid : Nat) : Option PathInfo := a.paths.find? fun i => i.aid == aid

/-- The paths of the drawers that still have rows, ascending. -/
def Adm.drawers (a : Adm) : List PathInfo := a.aids.filterMap a.info

def Adm.vecs (a : Adm) (aid : Nat) : Nat := a.rows.foldl (fun n r => if r.live && r.aid == aid then n + r.len else n) 0

/-- Defer the first row of the deferral order among the rows of some adapters (R189); `none` where there is none. -/
def Adm.deferFirst (a : Adm) (pick : Nat → Bool) : Option Adm :=
  let c := (a.rows.mapIdx fun i r => (i, r)).filter fun x => x.2.live && pick x.2.aid
  (least (fun (x y : Nat × Row) => decide (y.2.join < x.2.join) || (x.2.join == y.2.join && decide (y.1 < x.1))) c).map fun x =>
    { a with rows := modNth a.rows x.1 fun r => { r with status := .deferred } }

def Adm.phase1 (quota : Nat) : Nat → Adm → Adm
  | 0, a => a
  | n + 1, a =>
    if quota < a.aids.length then match a.deferFirst fun _ => true with | some b => Adm.phase1 quota n b | none => a
    else a

/-- Phase 2: the state with the reservations made, once they fit. -/
def Adm.phase2 (s : State) (p : Nat) (prog : List MI) (generator : Bool) : Nat → Adm → Adm × State × List (Nat × Nat)
  | 0, a => (a, s, [])
  | n + 1, a =>
    match s.reserveStage p prog a.drawers with
    | (some fl, s') => (a, s', fl)
    | (none, s) =>
      let fetch := a.drawers.filter fun d => d.path == .fetch && !d.dead
      let pick := if generator then least (fun (x y : PathInfo) =>
        decide (a.vecs x.aid < a.vecs y.aid) || (a.vecs x.aid == a.vecs y.aid && decide (y.aid < x.aid))) fetch else none
      match pick with
      | some d =>
        Adm.phase2 s p prog generator n
          { a with paths := updFirst a.paths (fun i => i.aid == d.aid) fun i => { i with path := .visit, ovf := true } }
      | none =>
        match a.deferFirst fun aid => (a.info aid).any fun i => i.path != .visit && !i.dead with
        | some b => Adm.phase2 s p prog generator n b
        | none => (a, s, [])

def Adm.phase3 (cap : Nat) : Nat → Adm → Adm
  | 0, a => a
  | n + 1, a =>
    let vis := a.drawers.filter fun d => d.path == .visit
    if cap < vis.foldl (fun k d => k + a.vecs d.aid) 0 then
      match a.deferFirst fun aid => (a.info aid).any fun i => i.path == .visit with
      | some b => Adm.phase3 cap n b
      | none => a
    else a

/-- Bytes of a gradient drawer (R248). -/
def State.gradSize (s : State) (sh : Shape) : Nat :=
  sh.projs.foldl (fun n p =>
    let a := shapeOf sh.rank false (s.shape p)
    let b := shapeOf sh.rank true (s.shape p)
    n + 4 * (a.1 * a.2 + b.1 * b.2)) 0

/-- Make sure that every drawer has a gradient drawer (R249, R250). -/
def reserveGrads (p : Nat) (a : Adm) (s : State) : Adm × State × List (Nat × Nat) :=
  a.drawers.foldl (fun (st : Adm × State × List (Nat × Nat)) d =>
    let (a, s, new) := st
    let sh := s.shapeOfAid d.aid
    let n := ceilDiv (s.gradSize sh) granule
    let put (s : State) : State := s.modCab fun c =>
      { c with
        grads := c.grads ++ [{ part := p, aid := d.aid, base := d.epoch, celat := (isCelat sh.wa && isCelat sh.wb) || sh.projs.isEmpty
                               filled := false, homeWrite := false, data := [] }] }
    if (s.cab.grads.any fun g => g.part == p && g.aid == d.aid && g.base == d.epoch) = true then st
    else
      let drop : Adm := { a with rows := a.rows.map fun r => if r.live && r.aid == d.aid then { r with status := .deferred } else r }
      if 16384 ≤ (s.cab.grads.filter fun g => g.part == p).length then (drop, s, new)
      else if n = 0 then (a, put s, new ++ [(d.aid, d.epoch)])   -- an adapter whose shape is not known
      else
        match s.charge p n (.grad p d.aid d.epoch) with
        | (none, s) => (drop, s, new)
        | (some _, s) => (a, put s, new ++ [(d.aid, d.epoch)])) (a, s, [])

/-- Refund the charges of DEFERRED rows (R524). -/
def State.refund (s : State) (rows : List Row) : State :=
  rows.foldl (fun s r => if r.charged && r.status == .deferred then s.modBudget r.ticket (· + r.len) else s) s

/-- Slots of a drawer in drawer order (R185). -/
def drawerSlots (rows : List Row) (aid : Nat) : List Nat :=
  let mine := (rows.mapIdx fun i r => (i, r)).filter fun x => x.2.live && x.2.aid == aid
  (mine.filter fun x => x.2.len == 1).map (·.1) ++ (mine.filter fun x => x.2.len != 1).map (·.1)

/-- The offsets of a drawer: explicit from `OFS_H` (R446), else frozen at the sampling point (R84, R433). -/
def State.drawerOfs (s : State) (c : Ctx) (aid : Nat) (projs : List Nat) : List Nat :=
  let frozen := match c.samp.dir.find? fun e => e.aid == aid with
    | some e => (List.range projs.length).map fun i => nth e.statoff i 0
    | none => projs.map fun _ => 0
  match s.dOf c.sub.ofsH with
  | none => frozen
  | some d =>
    match (s.ofsRows (s.view c tagOfs) d c.projs.length).find? fun r => r.2.1 == aid with
    | none => frozen
    | some r => projs.mapIdx fun i p => match c.projs.findIdx? (· == p) with
      | some k => nth r.2.2 k 0
      | none => nth frozen i 0

def State.mkDrawer (s : State) (c : Ctx) (a : Adm) (d : PathInfo) : Drawer :=
  let sh := s.shapeOfAid d.aid
  { aid := d.aid, epoch := d.epoch, path := d.path, ovf := d.ovf, pres := d.pres, forced := d.forced, last := d.last, gdDrop := false,
    slots := drawerSlots a.rows d.aid, nvec := a.vecs d.aid, ranks := sh.rank, wfmtA := sh.wa, wfmtB := sh.wb,
    projs := sh.projs, ofs := s.drawerOfs c d.aid sh.projs, owner := (s.ownerOfAid d.aid).getD s.me, dead := d.dead, satAct := 0,
    satAcc := 0, nonfin := 0, badcode := 0, gradAcc := 0, served := [], srcs := [] }

/-- Phase 5 (R432): `SORT`. -/
def State.phaseSort (s : State) (p : Nat) (c : Ctx) : Go :=
  let si := rowsIdx c.prog + 1
  let a0 : Adm := { rows := c.rows, paths := [] }
  let paths := a0.aids.map fun aid =>
    let ep := match c.rows.find? fun r => r.live && r.aid == aid with | some r => r.epoch | none => 0
    s.pathOf p c aid ep (a0.vecs aid)
  let s := paths.foldl (fun s d => if d.ruled then s.hystPut p d.aid d.path else s) s
  let a1 := Adm.phase1 c.samp.drwQuota c.rows.length { a0 with paths := paths }
  let r2 := Adm.phase2 s p c.prog (c.role == .generator) (c.rows.length + paths.length + 1) a1
  let a3 := Adm.phase3 c.visitCap c.rows.length r2.1
  let g := if c.prog.any MI.isReduce then reserveGrads p a3 r2.2.1 else (a3, r2.2.1, [])
  let a := g.1
  let s := g.2.1.refund a.rows
  let ds := a.drawers
  -- references of drawers that admission removed go again
  let gone := r2.1.drawers.filter fun d => !d.dead && d.path != .visit && !(ds.any fun x => x.aid == d.aid)
  let s := gone.foldl (fun s d => s.freeRef d.aid d.epoch) s
  let fl := r2.2.2.filter fun x => ds.any fun d => d.aid == x.1
  let idle := r2.2.2.filter fun x => !(ds.any fun d => d.aid == x.1)
  let s := idle.foldl (fun s x => s.failFill x.1 x.2) s
  -- the references of the sampling point go: a drawer holds its own, a VISIT drawer and a removed one none (R356)
  let s := State.reclaim (State.evictInval (c.pinned.foldl (fun s g => s.freeRef g.1 g.2) s))
  let here := ds.filter fun d => !d.dead && d.path != .visit
  let drs : List Drawer := ds.map fun d => s.mkDrawer c a d
  let rows : List Row := a.rows.map fun (r : Row) =>
    if r.live then { r with drawer := drs.findIdx? fun d => d.aid == r.aid } else { r with settled := !r.vacant && r.status != .ok }
  let rows := rows.map fun (r : Row) => match r.drawer with
    | some i => if (nth (drs.map (·.dead)) i false) then { r with status := .ownerUnreachable } else r
    | none => r
  let s := s.modPol fun q => { q with noteStamp := ds.foldl (fun m d =>
    if q.notes.any (fun n => n.1 == d.aid) then SMap.set 0 m d.aid s.cab.useStamp.toNat else m) q.noteStamp }
  let s := s.modCtx p fun c =>
    { c with
      rows := rows, drawers := drs, phase := .check, gdNew := g.2.2, samp := { c.samp with dir := [], notes := [] }
      owners := c.owners ++ (drs.filterMap fun d => (s.ownerAt d.aid).map fun o => (d.aid, o)).filter fun e => !(c.owners.any fun x => x.1 == e.1)
      pinned := (here.filter fun d => d.path == .local).map fun d => (d.aid, d.epoch)
      used := (here.filter fun d => d.path == .fetch).map fun d => (d.aid, d.epoch)
      recs := modNth c.recs si fun r => { r with reached := true, done := true } }
  .next (s.fetchFor fl).2

end Sys2Proof.Machine
end

