-- ==== Sys2Proof/Machine/Check.lean ====
section
/-! DEFINITION. The checks at issue of each macro-instruction (R205–R208, R215, R216, R238, R245, R246), and the list operands
(R444). -/

namespace Sys2Proof.Machine

open Sys2Proof

/-! ### Tile shapes (R206–R208, R245, R246) -/

/-- An effective shape: rows, outputs, second outputs. -/
structure Tile where
  ro : Nat
  oo : Nat
  o2 : Nat
  deriving DecidableEq, Repr

/-- A footprint: accumulator bytes, and buffer bytes in thirty-seconds. -/
structure Foot where
  acc : Nat
  buf : Nat
  deriving DecidableEq, Repr

def Foot.legal (f : Foot) : Bool := decide (f.acc ≤ 524288) && decide (f.buf ≤ 2097152 * 32)

def wcost (fmt : Nat) : Nat := if fmt = 1 then 64 else 33

/-- What a forward or gradient macro-instruction needs to know of a drawer: widths, stored rank, formats, vectors. -/
structure Geo where
  inW : Nat
  outW : Nat
  sr : Nat
  wa : Nat
  wb : Nat
  n : Nat
  deriving DecidableEq, Repr

def State.geo (s : State) (proj : Nat) (d : Drawer) : Geo :=
  let sh := s.shape proj
  ⟨sh.1, sh.2, storedRank d.ranks, d.wfmtA, d.wfmtB, d.nvec⟩

/-- The effective chunk length P (R245). -/
def Geo.chunk (g : Geo) : Nat := min 1024 (32 * ceilDiv g.n 32)

/-- The footprints of the units of a macro-instruction at a shape. -/
def MI.foots (m : MI) (g : Geo) (t : Tile) : List Foot :=
  let a := cost32 m.fmta
  let h := cost32 (hfmtOf m.hfmt)
  let cg := cost32 m.fmtg
  match m.op with
  | 0x10 => [⟨t.ro * t.oo * 4, t.ro * g.inW * a + 2 * t.oo * 64 * wcost g.wa⟩]
  | 0x11 => [⟨t.ro * t.oo * 4, t.ro * g.sr * h + 2 * t.oo * 64 * wcost g.wb⟩]
  | 0x12 => [⟨t.ro * max g.sr t.o2 * 4, t.ro * g.inW * a + t.ro * g.sr * h + 2 * max g.sr t.o2 * 64 * max (wcost g.wa) (wcost g.wb)⟩]
  | 0x20 => [⟨t.ro * g.sr * 4, t.ro * g.outW * cg + 2 * g.sr * 64 * wcost g.wb⟩,
             ⟨t.oo * g.sr * 4, g.chunk * t.oo * cg + g.chunk * g.sr * h⟩]
  | 0x21 => ⟨g.sr * t.oo * 4, g.chunk * g.sr * cg + g.chunk * t.oo * a⟩
             :: (if m.dxdst = 0 then [] else [⟨t.ro * t.o2 * 4, t.ro * g.sr * cg + 2 * t.o2 * 64 * wcost g.wa⟩])
  | _ => []

/-- The widths that `TILE_O` and `TILE_O2` cover. -/
def MI.widths (m : MI) (g : Geo) : Nat × Nat :=
  match m.op with
  | 0x10 => (g.sr, 64)
  | 0x11 => (g.outW, 64)
  | 0x12 => (g.sr, g.outW)
  | 0x20 => (g.outW, 64)
  | _ => (g.inW, g.inW)

/-- The `TILE_R` for given outputs (R208 step 2). -/
def MI.pickRows (m : MI) (g : Geo) (oo o2 : Nat) : Option Tile :=
  let top := ceilDiv g.n 16
  let ok (t : Tile) : Bool := (m.foots g t).all Foot.legal
  if m.tr ≠ 0 then
    let t : Tile := ⟨min (16 * m.tr) (16 * top), oo, o2⟩
    if ok t then some t else none
  else
    let k0 := min top 512
    ((List.range k0).find? fun i => ok ⟨16 * (k0 - i), oo, o2⟩).map fun i => ⟨16 * (k0 - i), oo, o2⟩

/-- R208: AUTO outputs are halved until a shape is legal. -/
def MI.pickTile (m : MI) (g : Geo) : Nat → Nat → Nat → Option Tile
  | 0, _, _ => none
  | fuel + 1, oo, o2 =>
    match m.pickRows g oo o2 with
    | some t => some t
    | none =>
      let half (auto : Bool) (o : Nat) : Nat := if auto then max 64 (o / 2 / 64 * 64) else o
      let a := half (m.tOut == 0) oo
      let b := half (m.tOut2 == 0) o2
      if a = oo ∧ b = o2 then none else m.pickTile g fuel a b

/-- The effective shape for a drawer, or none where it is illegal. -/
def MI.tile (m : MI) (g : Geo) : Option Tile :=
  let w := m.widths g
  let o (code width : Nat) : Nat := min width (if code = 0 then 1024 else 64 * code)
  if m.op = 0x12 then m.pickTile g 16 g.sr (o m.tOut2 w.2)
  else m.pickTile g 16 (o m.tOut w.1) (o m.tOut2 w.2)

/-! ### Operand pairs (R68, R69, R238) -/

def fwdPair (w a : Nat) : Bool :=
  match w with
  | 7 => decide (2 ≤ a ∧ a ≤ 6)
  | 8 => isMx8 a
  | 1 => a == 1
  | _ => isMx8 w && isMx8 a

def gradPair (g a wa wb : Nat) : Bool :=
  if wa = 1 then wb == 1 && g == 1 && a == 1
  else isMx8 g && isMx8 a && (((wa == 7 || wa == 8) && wb == 7) || (isMx8 wa && isMx8 wb))

def MI.pairOk (m : MI) (d : Drawer) : Bool :=
  match m.op with
  | 0x10 => fwdPair d.wfmtA m.fmta
  | 0x11 => fwdPair d.wfmtB (hfmtOf m.hfmt)
  | 0x12 => fwdPair d.wfmtA m.fmta && fwdPair d.wfmtB (hfmtOf m.hfmt)
  | 0x20 => gradPair m.fmtg (hfmtOf m.hfmt) d.wfmtA d.wfmtB
  | 0x21 => gradPair m.fmtg m.fmta d.wfmtA d.wfmtB
  | _ => true

/-! ### Descriptors (R202, R203, R215, R216, R237) -/

def Desc.vecForm (d : Desc) (w : Nat) : Bool :=
  !d.paged && d.rank == 2 && (d.fmt == 0 || d.fmt == 1 || (isMx8 d.fmt && d.blkAxis == 1)) && d.size 0 == w

/-- An `H_H` or `GH_H` operand: its `SIZE0` indexes outputs or is reduced along, so it is a multiple of 64 (R112, R203). -/
def Desc.hForm (d : Desc) (dest : Bool) : Bool :=
  !d.paged && d.rank == 2 && d.fmt == 0 && d.size 0 % 64 == 0 && decide (d.space ≤ 2) && (!dest || !d.overlap)

def State.opsOk (s : State) (m : MI) : Bool :=
  let sh := s.shape m.proj
  let q (h : Word) (f : Desc → Bool) : Bool := (s.dOf h).any f
  match m.op with
  | 0x10 => (m.src == 0 || q m.op0 fun d => d.vecForm sh.1) && q m.op1 fun d => d.hForm true
  | 0x11 => q m.op1 fun d => d.hForm false
  | 0x12 => m.src == 0 || q m.op0 fun d => d.vecForm sh.1
  | 0x20 => (m.src == 0 || q m.op0 fun d => d.vecForm sh.2) && q m.op1 (fun d => d.hForm false) && q m.op2 fun d => d.hForm true
  | 0x21 => q m.op0 (fun d => d.vecForm sh.1) && q m.op2 fun d => d.hForm false
  | _ => true

/-- The destination rules of a placement macro-instruction (R215, R216, R130). -/
def State.placeDestOk (s : State) (prod m : MI) : Bool :=
  let w := (s.shape m.proj).2
  match s.dOf m.op0 with
  | none => false
  | some d =>
    d.fmt == (if prod.ofmt = 0 then 1 else 0) && d.blkAxis == 0 && decide (w ≤ d.size 0) && (d.space == 0 || d.space == 2) && !d.overlap
    && (match m.op with
        | 0x13 => !d.paged && d.rank == 2
        | 0x15 => !d.paged && decide (2 ≤ d.rank) && (match s.dOf m.ih with | some l => indirectOk m d l | none => false)
        | _ => d.paged && d.rank == 3 && (s.dOf m.op1).any fun b => b.isU32 2)

/-- `DX_H` (R237, R112). -/
def State.dxOk (s : State) (m : MI) : Bool :=
  m.op != 0x21 || m.dxdst != 2 || (s.dOf m.op1).any fun d =>
    !d.paged && d.rank == 2 && (d.fmt == 0 || d.fmt == 1) && (d.space == 0 || d.space == 2) && decide ((s.shape m.proj).1 ≤ d.size 0) && d.size 0 % 64 == 0
    && !d.overlap

/-! ### Lists (R444) -/

/-- The entries of a list macro-instruction, narrowed by its bound (R439), through what a purpose has read; out-of-bounds entries read
`FILL` and count. -/
def State.listOf (s : State) (c : Ctx) (tag i : Nat) : List Nat × Nat :=
  let m := nth c.prog i (miOf [])
  match s.dOf m.op0 with
  | none => ([], 0)
  | some d =>
    let b := nth c.bounds i 0
    let n := if b = 0 then d.size 0 else b - 1
    let v := s.view c tag
    ((List.range n).map fun k => (s.u32 v d k []).1, n - d.size 0)

/-- The ranges a list needs. -/
def State.listRngs (s : State) (c : Ctx) (i : Nat) : List Rng :=
  let m := nth c.prog i (miOf [])
  match s.dOf m.op0 with
  | none => []
  | some d =>
    let b := nth c.bounds i 0
    let n := min (d.size 0) (if b = 0 then d.size 0 else b - 1)
    if n = 0 then [] else [⟨d.space, d.base, 4 * n⟩]

/-- Whether a macro-instruction reads an adapter list. -/
def MI.hasList (m : MI) : Bool := m.op == 0x30 || m.op == 0x31 || ((m.op == 0x24 || m.op == 0x38) && m.flag)

/-! ### Phase 6 -/

/-- Whether an adapter is known here as a common one: by its entry, or a remote one by its notice record (R152). -/
def State.isCommon (s : State) (aid : Nat) : Bool :=
  match s.entry aid with
  | some e => e.ward == wardCommon
  | none => s.pol.notes.any fun n => n.1 == aid && n.2.ward == wardCommon

/-- The first check of R205, R238, R152 or R402 that a macro-instruction fails: the status and the index it is reported
against. -/
def State.checkMI (s : State) (p : Nat) (c : Ctx) (i : Nat) : Option (Status × Nat) :=
  let m := nth c.prog i (miOf [])
  let nxt := nth c.prog (i + 1) (miOf [])
  let own := (s.getP p).tumOwn
  if m.isFwd ∨ m.isGrad = true then
    let ds := c.drawers.filter fun d => !d.dead && d.projs.contains m.proj
    if s.mgt.projTab.length ≤ m.proj then some (.descInvalid, i)
    else if (m.isFwd = true ∧ 4 ≤ m.fmta ∧ c.role = .learner) ∨ (ds.all fun d => m.pairOk d) = false then some (.descInvalid, i)
    else if s.opsOk m = false ∨ s.dxOk m = false then some (.descInvalid, i)
    else if nxt.isPlace ∧ s.placeDestOk m nxt = false then some (.descInvalid, i + 1)
    else if (ds.filter fun d => d.path != .visit).any (fun d => own == 0 || (m.tile (s.geo m.proj d)).isNone) then some (.tileIllegal, i)
    else none
  else if m.op = 0x24 ∨ m.op = 0x30 ∨ m.op = 0x31 then
    let l := if m.hasList then (s.listOf c (tagList i) i).1 else []
    if l.any (fun a => decide (a < 2 ^ 24) && s.isCommon a) then some (.descInvalid, i)
    else if m.op ≠ 0x24 ∧ own = 0 then some (.tileIllegal, i)
    else none
  else none

/-- Phase 6 (R432). -/
def State.phaseCheck (s : State) (p : Nat) (c : Ctx) : Go :=
  let lists := ((List.range c.prog.length).filter fun i => (nth c.prog i (miOf [])).hasList)
  match lists.foldl (fun (st : Bool × State) i => let r := st.2.want p (tagList i) (st.2.listRngs c i); (st.1 && r.1, r.2)) (true, s) with
  | (false, s) => .stay s
  | (true, s) =>
    match s.ctxOf p with
    | none => .stay s
    | some c =>
      -- a handle that was stale at the sampling point (R119, R205 check 1)
      match (List.range c.prog.length).findSome? fun i => if c.samp.stale.contains i then some (.descStale, i) else s.checkMI p c i with
      | some (st, i) => .refuse st i s
      | none =>
        let here := (c.drawers.filter fun d => !d.dead && d.path != .visit)
        if (s.getP p).tumOwn = 0 ∧ here ≠ [] then .refuse .tileIllegal noIdx s
        else if c.role = .learner ∧ 2 ^ 20 * (s.getP p).effGw < s.window c.prog (here.map fun d => (d.aid, d.epoch)) then .refuse .noCapacity noIdx s
        else .next ((s.modCtx p fun c => { c with phase := .reserve, phaseAt := s.now }).modP p fun q => { q with waitSince := s.now })

end Sys2Proof.Machine
end

