-- ==== Sys2Proof/Machine/Wake.lean ====
section
/-! DEFINITION. The switched domains that a step uses (R563). -/

namespace Sys2Proof.Machine

open Sys2Proof

/-- Whether a program names an operand in HOST or POOL space. -/
def State.usesFabric (s : State) (c : Ctx) : Bool :=
  c.drawers.any (fun d => d.path != .local) ||
    c.prog.any fun m => m.handles.any fun h => (s.dOf h).any fun d => decide (2 ≤ d.space)

/-- The domains a step will use (R563), fenced ones left out. -/
def State.stepDoms (s : State) (p : Nat) (c : Ctx) : List Nat :=
  let own := (s.getP p).tumOwn
  let dies := diesOf own
  let ports := ((c.rows.filter fun r => !r.vacant).map (·.port)).eraseDups
  ((((tumsOf own).map (· / 2)).eraseDups ++ dies.flatMap (fun q => [domCommon q, domHalf q 0, domHalf q 1]) ++ ports.map domCommon
    ++ (List.range 8).map domHbm ++ (if s.usesFabric c then (List.range 8).map domFab else [])).eraseDups).filter fun d => !s.fencedDom d

end Sys2Proof.Machine
end

