-- ==== Sys2Proof/Machine/Deliver.lean ====
section
/-! DEFINITION. Where the results of a step go (R200, R214–R225, R247): table positions, row statuses, responses on the hinge,
writes through descriptors, placements with their order (R219) and their page pins (R217). -/

namespace Sys2Proof.Machine

open Sys2Proof

/-! ### Rows and positions -/

def vacantRow : Row :=
  { vacant := true, aid := 0, ticket := 0, prefill := false, expl := false, port := 0, len := 0, kvPos := 0, join := 0, pinEpoch := 0,
    status := .ok, epoch := 0, charged := false, checked := false, settled := false, drawer := none, cnt := (0, 0, 0, 0) }

def Ctx.row (c : Ctx) (slot : Nat) : Row := nth c.rows slot vacantRow
def Ctx.mi (c : Ctx) (i : Nat) : MI := nth c.prog i (miOf [])
def noDrawer : Drawer :=
  { aid := 0, epoch := 0, path := .local, ovf := false, pres := false, forced := false, last := none, gdDrop := false, slots := [],
    nvec := 0, ranks := 16, wfmtA := 0, wfmtB := 0, projs := [], ofs := [], owner := 0, dead := true, satAct := 0,
    satAcc := 0, nonfin := 0, badcode := 0, gradAcc := 0, served := [], srcs := [] }
def Ctx.drw (c : Ctx) (k : Nat) : Drawer := nth c.drawers k noDrawer

/-- Table position (R200). -/
def Ctx.tpos (c : Ctx) (slot off : Nat) : Nat :=
  (c.rows.take slot).foldl (fun n r => if r.vacant then n else n + r.len) 0 + off

/-- The vectors of a drawer in drawer order (R185); a serve step's are numbered by drawer position (R377). -/
def Ctx.posOf (c : Ctx) (d : Drawer) : List (Nat × Nat) :=
  if c.role = .serve then (List.range d.nvec).map fun j => (j, 0)
  else d.slots.flatMap fun sl => (List.range (c.row sl).len).map fun o => (sl, o)

/-- Whether the row of a position still stands at OK. -/
def Ctx.posOk (c : Ctx) (slot : Nat) : Bool := c.role == .serve || (!(c.row slot).vacant && (c.row slot).status == .ok)

/-! ### Macro-instructions of a program -/

/-- The placement macro-instruction that runs as one with producer i (R214). -/
def Ctx.placeOf (c : Ctx) (i : Nat) : Option Nat :=
  if ((c.mi i).op = 0x11 ∨ (c.mi i).op = 0x12) ∧ (c.mi (i + 1)).isPlace = true then some (i + 1) else none

def MI.isProd (m : MI) : Bool := m.op == 0x11 || m.op == 0x12

/-- The first producer of a projection after index i. -/
def Ctx.prodAfter (c : Ctx) (i proj : Nat) : Option Nat :=
  (List.range c.prog.length).find? fun j => decide (i < j) && (c.mi j).isProd && (c.mi j).proj == proj

/-- The macro-instruction that consumes a projection from the hinge (R204, R235). -/
def Ctx.takerOf (c : Ctx) (proj : Nat) : Option Nat :=
  (List.range c.prog.length).find? fun j => (c.mi j).consumes && (c.mi j).proj == proj

/-- The macro-instruction whose result answers the vectors of a projection (R221, R247): for a consuming `SHRINK` the producer that
follows it, or itself where none follows. -/
def Ctx.answerer (c : Ctx) (proj : Nat) : Option Nat :=
  match c.takerOf proj with
  | some i =>
    if (c.mi i).op = 0x20 then
      some (((List.range c.prog.length).find? fun j => (c.mi j).op == 0x21 && (c.mi j).proj == proj && (c.mi j).dxdst != 0).getD i)
    else if (c.mi i).isProd then some i
    else some ((c.prodAfter i proj).getD i)
  | none => (List.range c.prog.length).find? fun j => (c.mi j).isProd && (c.mi j).proj == proj

/-- A `GRAD_SHRINK` that returns dX on the hinge although no `GRAD_EXPAND` takes g from there: its dX leaves for every vector (R240). -/
def Ctx.freeDx (c : Ctx) (i : Nat) : Bool :=
  (c.mi i).op == 0x21 && (c.mi i).dxdst == 1 && !((c.takerOf (c.mi i).proj).any fun j => (c.mi j).op == 0x20)

/-- Whether host bytes that ranges need have arrived. -/
def Ctx.has (c : Ctx) (tag : Nat) (rs : List Rng) : Bool :=
  ((rs.filter fun r => decide (2 ≤ r.space)).flatMap Rng.cut).all fun r => (c.gotAt tag r).any fun g => g.data.isSome

/-! ### Counters (R80) -/

/-- Counts that a row's own work gives (R80), and `OOB_RD` of the macro-instruction. -/
def State.addRow (s : State) (p i drw slot : Nat) (k : Cnt) : State :=
  (s.modCtx p fun c =>
    if c.role = .serve then
      { c with drawers := modNth c.drawers drw fun d =>
        { d with satAct := sat32 (d.satAct + k.satAct), satAcc := sat32 (d.satAcc + k.satAcc), nonfin := sat32 (d.nonfin + k.nonfin),
                 badcode := sat32 (d.badcode + k.badcode) } }
    else
      { c with rows := modNth c.rows slot fun r =>
        { r with cnt := (r.cnt.1 + k.satAct, r.cnt.2.1 + k.satAcc, r.cnt.2.2.1 + k.nonfin, r.cnt.2.2.2 + k.badcode) } }).addRec p i k.oobRd 0

/-- `SAT_ACC` of a drawer's gradient partials and of their reduction, to which every row of the drawer contributes. -/
def State.addGrad (s : State) (p drw n : Nat) : State :=
  s.modCtx p fun c => { c with drawers := modNth c.drawers drw fun d => { d with gradAcc := sat32 (d.gradAcc + n) } }

/-- Counts that belong to a drawer as a whole: its weights. -/
def State.addDrw (s : State) (p i drw : Nat) (k : Cnt) : State :=
  (s.modCtx p fun c =>
    { c with drawers := modNth c.drawers drw fun d =>
      { d with satAct := sat32 (d.satAct + k.satAct), satAcc := sat32 (d.satAcc + k.satAcc), nonfin := sat32 (d.nonfin + k.nonfin),
               badcode := sat32 (d.badcode + k.badcode) } }).addRec p i k.oobRd 0

/-- Add to the STAT counts of a pair (R83). -/
def statAdd (l : List (Nat × Nat × Nat × Nat × Nat)) (aid proj : Nat) (q : QCnt) : List (Nat × Nat × Nat × Nat × Nat) :=
  if l.any (fun e => e.1 == aid && e.2.1 == proj) then
    updFirst l (fun e => e.1 == aid && e.2.1 == proj) fun e => (aid, proj, e.2.2.1 + q.n, e.2.2.2.1 + q.sat, e.2.2.2.2 + q.low)
  else l ++ [(aid, proj, q.n, q.sat, q.low)]

/-- Take back STAT counts of a pair; a pair without counts is not listed. -/
def statSub (l : List (Nat × Nat × Nat × Nat × Nat)) (e : StatLog) : List (Nat × Nat × Nat × Nat × Nat) :=
  (updFirst l (fun x => x.1 == e.aid && x.2.1 == e.proj) fun x =>
    (x.1, x.2.1, x.2.2.1 - e.n, x.2.2.2.1 - e.sat, x.2.2.2.2 - e.low)).filter fun x => x.2.2.1 != 0

/-- STAT counts of a pair (R83); the step remembers which row gave them (R95). -/
def State.addStat (s : State) (p slot aid proj : Nat) (q : QCnt) : State :=
  if q.n = 0 then s
  else
    { (s.modCtx p fun c => { c with stats := c.stats ++ [⟨slot, aid, proj, q.n, q.sat, q.low⟩] }) with
      stat := statAdd s.stat aid proj q }

/-- The STAT counts of a step's rows that do not stand at OK are not kept when the step is torn down or has been pre-empted (R95); all
of a serve step's, which has no rows. -/
def State.unStat (s : State) (c : Ctx) : State :=
  { s with stat := (c.stats.filter fun e => c.role == .serve || (c.row e.slot).status != .ok).foldl statSub s.stat }

/-! ### Responses -/

/-- A response goes to its port's egress; on a link that is down none is sent (R589, R590). -/
def State.pushResp (s : State) (port : Nat) (r : Resp) : State :=
  s.modHng port fun h => if h.lstate = 2 ∨ h.lstate = 3 then { h with egress := h.egress ++ [r] } else h

def Ctx.arrived (c : Ctx) (slot off proj : Nat) : Option Vec :=
  c.vecs.find? fun v => v.slot == slot && v.off == off && v.proj == proj

def Ctx.answered (c : Ctx) (slot off proj : Nat) : Ctx :=
  { c with vecs := updFirst c.vecs (fun v => v.slot == slot && v.off == off && v.proj == proj) fun v => { v with answered := true } }

/-- A response of the step with the row's status (R222). -/
def State.sendResp (s : State) (p slot off proj : Nat) (zero placed : Bool) (ofmt : Nat) (data : List Nat) : State :=
  match s.ctxOf p with
  | none => s
  | some c =>
    (s.pushResp (c.row slot).port
      { part := p, sseq := c.sub.sseq, slot := slot, off := off, proj := proj, status := (c.row slot).status, zero := zero,
        placed := placed, ofmt := ofmt, data := data }).modCtx p fun c => c.answered slot off proj

/-- A delta of a row that does not stand at OK is zero (R19), also one that has not left yet. -/
def Resp.settled (r : Resp) (st : Status) : Resp := { r with status := st, zero := r.zero || !r.placed, data := [] }

/-- Answer an arrived vector, once, with `ZERO` set. -/
def State.answerZero (s : State) (p slot off proj : Nat) : State :=
  match (s.ctxOf p).bind fun c => c.arrived slot off proj with
  | some v => if v.answered then s else s.sendResp p slot off proj true false 0 []
  | none => s

/-- A row's status becomes another one, once (R194): its unanswered vectors are answered with `ZERO` (R221), and responses
that have not left carry the status (R182). -/
def State.settleRow (s : State) (p slot : Nat) (st : Status) : State :=
  match s.ctxOf p with
  | none => s
  | some c =>
    if (c.row slot).vacant ∨ (c.row slot).status ≠ .ok then s
    else
      let s := s.modCtx p fun c => { c with rows := modNth c.rows slot fun r => { r with status := st } }
      let s := { s with hng := s.hng.map fun h =>
        { h with egress := h.egress.map fun r =>
            if r.part = p ∧ r.sseq = c.sub.sseq ∧ r.slot = slot ∧ r.status = .ok then r.settled st else r } }
      -- responses that become ready together leave by table position, then projection (R494)
      (insSort (fun (a b : Vec) => lexLt [a.off, a.proj] [b.off, b.proj]) (c.vecs.filter fun v => v.slot == slot)).foldl
        (fun s v => s.answerZero p v.slot v.off v.proj) s

/-- The rows of a drawer get a status (R36, R227). -/
def State.settleDrawer (s : State) (p drw : Nat) (st : Status) : State :=
  match s.ctxOf p with
  | some c => (insSort (fun (a b : Nat) => decide (a < b)) (c.drw drw).slots).foldl (fun s sl => s.settleRow p sl st) s
  | none => s

/-! ### Results per vector -/

def Ctx.acc (c : Ctx) (mi slot off : Nat) : OutAcc :=
  (c.outs.find? fun a => a.mi == mi && a.slot == slot && a.off == off).getD
    { mi := mi, slot := slot, off := off, lanes := [], writes := [], full := false, zero := false, sent := false }

def Ctx.putAcc (c : Ctx) (a : OutAcc) : Ctx :=
  if c.outs.any (fun b => b.mi == a.mi && b.slot == a.slot && b.off == a.off) then
    { c with outs := updFirst c.outs (fun b => b.mi == a.mi && b.slot == a.slot && b.off == a.off) fun _ => a }
  else { c with outs := c.outs ++ [a] }

/-- The lanes of a result in ascending order. -/
def OutAcc.data (a : OutAcc) : List Nat :=
  (insSort (fun (x y : Nat × List Nat) => decide (x.1 < y.1)) a.lanes).flatMap (·.2)

def OutAcc.count (a : OutAcc) : Nat := a.lanes.foldl (fun n l => n + l.2.length) 0

/-- Whether the result of a macro-instruction leaves on the hinge with data, or is written where R223 asks for visibility. -/
def Ctx.toHinge (c : Ctx) (i : Nat) : Bool :=
  ((c.mi i).isProd && (c.placeOf i).isNone) || ((c.mi i).op == 0x21 && (c.mi i).dxdst == 1)
def Ctx.toPlace (c : Ctx) (i : Nat) : Bool :=
  (c.placeOf i).isSome || ((c.mi i).op == 0x21 && (c.mi i).dxdst == 2)

/-- Send the response of a result that is complete (R221, R223, R247). -/
def State.settleOut (s : State) (p mi slot off : Nat) : State :=
  match s.ctxOf p with
  | none => s
  | some c =>
    let a := c.acc mi slot off
    let proj := (c.mi mi).proj
    let v := c.arrived slot off proj
    if a.full = false ∨ a.sent = true ∨ (c.answerer proj ≠ some mi ∧ c.freeDx mi = false) ∨ c.role = .serve ∨ c.posOk slot = false then s
    else if c.freeDx mi then
      (s.pushResp (c.row slot).port
        { part := p, sseq := c.sub.sseq, slot := slot, off := off, proj := proj, status := (c.row slot).status, zero := false,
          placed := false, ofmt := (c.mi mi).ofmt, data := a.data }).modCtx p fun c => c.putAcc { a with sent := true }
    else
      let due := v.any fun v => !v.answered
      let sent (s : State) : State := s.modCtx p fun c => c.putAcc { a with sent := true }
      if c.toHinge mi then
        if a.zero then (if due then sent (s.sendResp p slot off proj true false (c.mi mi).ofmt []) else s)
        else if v.isSome && !due then s   -- its vector went with its link (R590)
        else sent (s.sendResp p slot off proj false false (c.mi mi).ofmt a.data)
      else if due = false then s
      else if c.toPlace mi then
        if a.writes = [] then sent (s.sendResp p slot off proj a.zero true (c.mi mi).ofmt []) else s
      else sent (s.sendResp p slot off proj true false 0 [])

/-! ### Writes through descriptors -/

/-- Adjacent bytes joined into runs. -/
def runsOf : List (Nat × Byte) → List (Nat × List Byte)
  | [] => []
  | (a, b) :: l =>
    match runsOf l with
    | (a', bs) :: rest => if a' = a + 1 then (a, b :: bs) :: rest else (a, [b]) :: (a', bs) :: rest
    | [] => [(a, [b])]

/-- The parts of a write that no later position or macro-instruction has already written (R133, R219). Two page-table entries
that name overlapping pages are not ordered (R104): each byte of the overlap then holds one of the values, whichever is
acknowledged last. -/
def uncovered (log : List PlaceLog) (space page key a : Nat) (bs : List Byte) : List (Nat × List Byte) :=
  let hi := log.filter fun e => decide (key < e.key) && e.space == space && e.page == page && decide (e.addr < a + bs.length)
    && decide (a < e.addr + e.len)
  if hi.isEmpty then [(a, bs)]
  else runsOf ((bs.mapIdx fun i b => (a + i, b)).filter fun x => !hi.any fun e => decide (e.addr ≤ x.1) && decide (x.1 < e.addr + e.len))

/-- Write bytes of macro-instruction `mi` at an address, elements of `ew` bits; an ordered write carries its `key` and the page it
goes through. The second result lists the writes. -/
def State.emit (s : State) (p mi drw key space a : Nat) (bs : List Byte) (ew : Nat := 8) (page : Nat := 0) : State × List Nat :=
  match s.ctxOf p with
  | none => (s, [])
  | some c =>
    let ps := if key = 0 then [(a, bs)] else uncovered c.placed space page key a bs
    let n0 := s.nextWrite
    let s' := ps.foldl (fun s x => s.stepWrite space x.1 x.2 (.step p c.sub.sseq mi) drw key ew page) s
    let s' := if key = 0 then s' else s'.modCtx p fun c => { c with placed := c.placed ++ [⟨key, space, a, bs.length, page⟩] }
    (s', (List.range (s'.nextWrite - n0)).map (n0 + ·))

/-- Write elements lo … of the row at upper coordinates `cs`; elements out of bounds are dropped and counted (R121, R123). -/
def State.putRow (s : State) (p mi drw key : Nat) (v : View) (d : Desc) (cs : List Nat) (lo : Nat) (els : List (List Byte)) :
    State × List Nat :=
  match s.rowAddr v d cs with
  | none => (s.addRec p mi 0 els.length, [])
  | some a =>
    let keep := min els.length (d.size 0 - lo)
    let s := s.addRec p mi 0 (els.length - keep)
    if keep = 0 then (s, []) else s.emit p mi drw key d.space (a + rowLen d.fmt 32 * lo / 32) (els.take keep).flatten (elBits d.fmt)

/-! ### Placements (R214–R220) -/

/-- The order of an ordered write: later macro-instruction, then higher position (R219), then, among the lanes of one vector,
the higher lane (R133). -/
def placeKey (pi t : Nat) (lane : Nat := 0) : Nat := 2 ^ 24 * (2 ^ 40 * pi + t) + lane

/-- Element j of an index or list tensor of rank 1. -/
def idxAt (v : View) (l : Desc) (j : Nat) : Nat × Nat :=
  if j < l.size 0 then
    (v.num l.space (l.base + j * rowLen l.fmt 32 / 32) (rowLen l.fmt 32 / 32), 0)
  else (l.fill.toNat % (if l.fmt = 0xD then 65536 else 2 ^ 32), 1)

/-- Whether an index is the mark of a skipped position (R132). -/
def skipIdx (l : Desc) (j : Nat) : Bool := j == if l.fmt = 0xD then 0xFFFF else 0xFFFFFFFF

/-- Page-table entry of page g of a `KV_PLACE`, as it is pinned or as it stands (R217). -/
def Ctx.pteOf (c : Ctx) (pi : Nat) (v : View) (d : Desc) (g : Nat) : Nat :=
  match c.pages.find? fun x => x.mi == pi && x.page == g with
  | some x => x.pte
  | none => v.num d.space (d.base + 8 * g) 8

/-- The host bytes that placing a vector needs (R611): its index, list or block-table entries, then a page-table entry. -/
def State.placeRngs (s : State) (c : Ctx) (pi slot off : Nat) : List Rng :=
  let m := c.mi pi
  let t := c.tpos slot off
  match m.op with
  | 0x15 =>
    match s.dOf m.ih with
    | none => []
    | some l =>
      if m.iform = 1 then (List.range (min (l.size 1) 65536)).flatMap fun j => s.rowRng (s.view c pi) l [j] 0 (l.size 0)
      else
        let e := rowLen l.fmt 32 / 32
        if m.idim = 0 then [⟨l.space, l.base, e * l.size 0⟩]
        else
          let j := if m.idim = 1 then t else 0
          if j < l.size 0 then [⟨l.space, l.base + e * j, e⟩] else []
  | 0x14 =>
    match s.dOf m.op0, s.dOf m.op1 with
    | some d, some b =>
      if d.size 1 = 0 then []
      else
        let k := ((c.row slot).kvPos + off) / d.size 1
        if c.pages.any fun x => x.mi == pi && x.slot == slot && x.blk == k then []
        else
          match s.rowAddr (s.view c pi) b [slot] with
          | none => []
          | some a =>
            if k < b.size 0 then
              -- the page-table entry is read once the block-table entry is there
              let e : Rng := ⟨b.space, a + 4 * k, 4⟩
              let g := (s.view c pi).num b.space (a + 4 * k) 4
              e :: (if c.has pi [e] = true ∧ g < d.size 2 ∧ (c.pages.any fun x => x.mi == pi && x.page == g) = false then
                [⟨d.space, d.base + 8 * g, 8⟩] else [])
            else []
    | _, _ => []
  | _ => []

/-- Place elements lo … of the delta of a vector by placement macro-instruction `pi`. The spec does not say how often a list or
index that is read beyond its tensor counts (R131); the model counts it once for each vector (log entry 70). -/
def State.placeVec (s : State) (p pi drw slot off lo : Nat) (els : List (List Byte)) : State × List Nat :=
  match s.ctxOf p with
  | none => (s, [])
  | some c =>
    let m := c.mi pi
    let v := s.view c pi
    let t := c.tpos slot off
    let key := placeKey pi t
    match s.dOf m.op0 with
    | none => (s, [])
    | some d =>
      match m.op with
      | 0x13 => s.putRow p pi drw key v d [t] lo els
      | 0x14 =>
        match s.dOf m.op1 with
        | none => (s, [])
        | some bt =>
          if d.size 1 = 0 then (s.addRec p pi 0 els.length, [])
          else
            let x := (c.row slot).kvPos + off
            let b := x / d.size 1
            let u := x % d.size 1
            let g := match c.pages.find? fun x => x.mi == pi && x.slot == slot && x.blk == b with
              | some x => (x.page, 0)
              | none => s.u32 v bt b [slot]
            let s := s.addRec p pi g.2 0
            if g.1 = 0xFFFFFFFF then
              (s.modCtx p fun c => { c with pages := c.pages ++ [{ mi := pi, slot := slot, blk := b, page := g.1, pte := 0 }] }, [])
            else
              let e := c.pteOf pi v d g.1
              let s := if c.pages.any (fun x => x.mi == pi && x.slot == slot && x.blk == b) then s
                else s.modCtx p fun c => { c with pages := c.pages ++ [{ mi := pi, slot := slot, blk := b, page := g.1, pte := e }] }
              let pg := e % 2 ^ 56
              if g.1 < d.size 2 ∧ bitN e 63 = true ∧ bitsN e 62 56 = 0 ∧ s.inGrant d.part d.space pg d.extent = true then
                let keep := min els.length (d.size 0 - lo)
                (s.addRec p pi 0 (els.length - keep)).emit p pi drw key d.space (pg + u * d.stride 1 + rowLen d.fmt 32 * lo / 32)
                  (els.take keep).flatten (elBits d.fmt) (g.1 + 1)
              else (s.addRec p pi 0 els.length, [])
      | _ =>
        match s.dOf m.ih with
        | none => (s, [])
        | some l =>
          let zeros := List.replicate (d.rank - 2) 0
          if m.iform = 2 then
            if m.idim = 0 then
              (els.mapIdx fun i b => (i, b)).foldl (fun (st : State × List Nat) x =>
                let k := idxAt v l (lo + x.1)
                let s := st.1.addRec p pi k.2 0
                if skipIdx l k.1 then (s, st.2)
                else
                  let r := if k.1 < d.size 0 then s.putRow p pi drw (placeKey pi t (lo + x.1 + 1)) v d (t :: zeros) k.1 [x.2] else (s.addRec p pi 0 1, [])
                  (r.1, st.2 ++ r.2)) (s, [])
            else
              let k := idxAt v l (if m.idim = 1 then t else 0)
              let s := s.addRec p pi (if lo = 0 then k.2 else 0) 0
              if skipIdx l k.1 then (s, []) else s.putRow p pi drw key v d (modNth (t :: zeros) (m.idim - 1) fun _ => k.1) lo els
          else
            -- granules of G0 lanes by G1 positions, taken along the lanes first (R128)
            let g0 := 32 * m.g0
            let g1 := 32 * m.g1
            let nx := ceilDiv (s.shape m.proj).2 g0
            let x0 := lo / g0
            let x1 := ceilDiv (lo + els.length) g0
            (List.range (x1 - x0)).foldl (fun (st : State × List Nat) i =>
              let x := x0 + i
              let j := t / g1 * nx + x
              let es := (List.range (l.size 0)).map fun k => st.1.u32 v l k [j]
              let s := st.1.addRec p pi (if lo ≤ x * g0 then es.foldl (fun n e => n + e.2) 0 else 0) 0
              let co := es.map (·.1)
              if nth co 0 0 = 0xFFFFFFFF then (s, st.2)
              else
                let a := max lo (x * g0)
                let b := min (lo + els.length) ((x + 1) * g0)
                let r := s.putRow p pi drw (placeKey pi t (a + 1)) v d ((nth co 1 0 * g1 + t % g1) :: (co.drop 2)) (nth co 0 0 * g0 + (a - x * g0))
                  ((els.drop (a - lo)).take (b - a))
                (r.1, st.2 ++ r.2)) (s, [])

end Sys2Proof.Machine
end

