-- ==== Sys2Proof/Machine/Units.lean ====
section
/-! DEFINITION. Work units (R209–R213, R245, R246, R485–R489): their list, their times and pins, staging streams (R296, R493),
operand loads, and the start of a unit. -/

namespace Sys2Proof.Machine

open Sys2Proof

/-! ### Matrices of a drawer -/

/-- A matrix of a drawer's version: its blob's reader, the matrix and the header; `none` where the blob is not in HBM. -/
def State.wmat (s : State) (d : Drawer) (proj : Nat) (isB : Bool) : Option (Reader × WMat × BlobHdr) :=
  match s.entry d.aid with
  | none => none
  | some e =>
    match e.slot d.epoch, e.projs.findIdx? (· == proj) with
    | some v, some k =>
      if v.slow ∨ v.vstate = .filling then none
      else
        let rd := s.reader (gAddr v.loc)
        let h := rd.hdr
        some (rd, mkMat h (rd.mrec (2 * k + b2n isB)) (s.shape proj), h)
    | _, _ => none

/-- Whether the drawer's version can be staged: LOCAL and not demoted, or FETCH and VALID (R297, R302). -/
def State.blobHere (s : State) (d : Drawer) : Bool :=
  ((s.entry d.aid).bind fun e => e.slot d.epoch).any fun v => !v.slow && v.vstate != .filling

/-! ### Times (R485–R487) -/

/-- Escape blocks of the 64 × 64 tile at row block r and column block k. -/
def WMat.tileEsc (w : WMat) (rd : Reader) (r k : Nat) : Nat :=
  if isCelat w.fmt then
    (List.range 64).foldl (fun n i =>
      n + ((List.range 2).filter fun b =>
        decide (64 * r + i < w.rows) && rd (w.scl + (64 * r + i) * (w.cols / 32) + 2 * k + b) == 0xFF).length) 0
  else 0

/-- Pin operation on r rows (R485); `grad` for transposed reads and weight gradients. -/
def pinOp (fmt r e : Nat) (grad : Bool) : Nat :=
  if fmt = 1 then 4 * r
  else if grad then 2 * r
  else if fmt = 7 then min (2 * r) (r + ceilDiv (e * r) 16)
  else if fmt = 8 then min (2 * r) (ceilDiv r 2 + ceilDiv (e * r) 16)
  else 2 * r

/-- Tile transfer (R486). -/
def tileXfer (fmt e : Nat) (conv : Bool) : Nat :=
  if conv then 33
  else if fmt = 7 then 17 + ceilDiv e 4
  else if fmt = 8 then 8 + ceilDiv e 4
  else if fmt = 1 then 64
  else 33

/-- Row groups of 64. -/
def rowGroups (n : Nat) : List Nat := List.replicate (n / 64) 64 ++ (if n % 64 = 0 then [] else [n % 64])

/-- A walk over tiles with their pin and transfer times (R487). -/
def walk : List (Nat × Nat) → Nat
  | [] => 18
  | t :: ts => 18 + t.2 + go t.1 ts
where
  go (p : Nat) : List (Nat × Nat) → Nat
    | [] => p
    | t :: ts => max p t.2 + go t.1 ts

def drainTime (n o : Nat) : Nat := 12 + ceilDiv (n * o) 512

/-- The walk of n rows over the tiles of a matrix: outputs `o0`–`o1` of a reduction of width k; `grad` reads it transposed. -/
def walkOf (w : Option (Reader × WMat × BlobHdr)) (fmt n k o0 o1 : Nat) (grad : Bool) : Nat :=
  let conv := grad && fmt == 8
  walk ((List.range (ceilDiv k 64)).flatMap fun kk => (List.range (ceilDiv (o1 - o0) 64)).map fun oo =>
    let e := match w with
      | some (rd, m, _) => if grad then m.tileEsc rd kk (o0 / 64 + oo) else m.tileEsc rd (o0 / 64 + oo) kk
      | none => 0
    ((rowGroups n).foldl (fun t r => t + pinOp fmt r e grad) 0, tileXfer fmt e conv + (if conv ∧ kk = 0 ∧ oo = 0 then 16 else 0)))

/-! ### The list of units (R209, R245, R246) -/

/-- A unit before it is placed. -/
def mkUnit (mi drw : Nat) (kind : UnitKind) (chunk pass lo hi o0 o1 : Nat) (f : Foot) (time : Nat) : WUnit :=
  { id := 0, mi := mi, drw := drw, kind := kind, chunk := chunk, pass := pass, lo := lo, hi := hi, o0 := o0, o1 := o1, pin := 0,
    acc := f.acc, buf := f.buf, time := time, st := .waiting, occ := 0, xs := [], ys := [] }

/-- Pieces [lo, hi) of a range of n. -/
def cut (n w : Nat) : List (Nat × Nat × Nat) :=
  if w = 0 then [] else (List.range (ceilDiv n w)).map fun c => (c, c * w, min ((c + 1) * w) n)

/-- The units of macro-instruction i for drawer k. -/
def State.unitsOf (s : State) (c : Ctx) (i k : Nat) : List WUnit :=
  let m := c.mi i
  let d := c.drw k
  let g := s.geo m.proj d
  match m.tile g with
  | none => []
  | some t =>
    let a := s.wmat d m.proj false
    let b := s.wmat d m.proj true
    let f (n : Nat) : Foot := nth (m.foots g t) n ⟨0, 0⟩
    let rows := cut g.n t.ro
    let chunks := cut g.n 1024
    match m.op with
    | 0x10 => rows.flatMap fun r => (cut g.sr t.oo).map fun q =>
        mkUnit i k .shrink r.1 q.1 r.2.1 r.2.2 q.2.1 q.2.2 (f 0)
          (walkOf a g.wa (r.2.2 - r.2.1) g.inW q.2.1 q.2.2 false + drainTime (r.2.2 - r.2.1) t.oo)
    | 0x11 => rows.flatMap fun r => (cut g.outW t.oo).map fun q =>
        mkUnit i k .expand r.1 q.1 r.2.1 r.2.2 q.2.1 q.2.2 (f 0)
          (walkOf b g.wb (r.2.2 - r.2.1) g.sr q.2.1 q.2.2 false + drainTime (r.2.2 - r.2.1) t.oo)
    | 0x12 => rows.map fun r =>
        let n := r.2.2 - r.2.1
        mkUnit i k .fused r.1 0 r.2.1 r.2.2 0 g.outW (f 0)
          ((cut g.outW t.o2).foldl (fun x q => x + walkOf b g.wb n g.sr q.2.1 q.2.2 false + drainTime n (q.2.2 - q.2.1))
            (walkOf a g.wa n g.inW 0 g.sr false + drainTime n g.sr))
    | 0x20 =>
      (rows.map fun r =>
        mkUnit i k .gh r.1 0 r.2.1 r.2.2 0 g.sr (f 0) (walkOf b g.wb (r.2.2 - r.2.1) g.outW 0 g.sr true + drainTime (r.2.2 - r.2.1) g.sr))
      ++ chunks.flatMap fun r => (cut g.outW t.oo).map fun q =>
        mkUnit i k .dB r.1 q.1 r.2.1 r.2.2 q.2.1 q.2.2 (f 1)
          (30 + ceilDiv g.chunk 64 * (t.oo / 64) * (g.sr / 64) * pinOp (if g.wa = 1 then 1 else 2) 64 0 true + drainTime t.oo g.sr)
    | 0x21 =>
      (chunks.flatMap fun r => (cut g.inW t.oo).map fun q =>
        mkUnit i k .dA r.1 q.1 r.2.1 r.2.2 q.2.1 q.2.2 (f 0)
          (30 + ceilDiv g.chunk 64 * (t.oo / 64) * (g.sr / 64) * pinOp (if g.wa = 1 then 1 else 2) 64 0 true + drainTime g.sr t.oo))
      ++ (if m.dxdst = 0 then [] else rows.flatMap fun r => (cut g.inW t.o2).map fun q =>
        mkUnit i k .dX r.1 q.1 r.2.1 r.2.2 q.2.1 q.2.2 (f 1)
          (walkOf a g.wa (r.2.2 - r.2.1) g.sr q.2.1 q.2.2 true + drainTime (r.2.2 - r.2.1) t.o2))
    | _ => []

/-- The drawers that a macro-instruction covers: those whose set holds its projection (R201); a serve step runs one
macro-instruction for each drawer (R334). -/
def Ctx.covers (c : Ctx) (i : Nat) : List Nat :=
  (List.range c.drawers.length).filter fun k =>
    let d := c.drw k
    !d.dead && d.projs.contains (c.mi i).proj && (c.role != .serve || k == i)

def UnitKind.reads (k : UnitKind) : Bool := k != .dB && k != .dA && k != .copy && k != .opt && k != .quant

/-- The stagings of a drawer's layers (R296): the macro-instruction that first needs each, and the layer. -/
def State.stagings (s : State) (c : Ctx) (k : Nat) : List (Nat × Nat) :=
  (List.range c.prog.length).foldl (fun (l : List (Nat × Nat)) i =>
    let m := c.mi i
    if (m.isFwd || m.isGrad) ∧ (c.covers i).contains k = true then
      let y := s.layer m.proj
      if (l.drop (l.length - 2)).any fun e => e.2 == y then l else l ++ [(i, y)]
    else l) []

/-- Which staging macro-instruction i reads, from 1. -/
def stagingFor (l : List (Nat × Nat)) (i y : Nat) : Nat :=
  (l.mapIdx fun n e => (n, e)).foldl (fun r e => if e.2.1 ≤ i ∧ e.2.2 = y then e.1 + 1 else r) 0

/-- Give each unit the pin with the earliest scheduled finish (R210), ties to the lower tumbler and pin. -/
def placeUnits (pins : List Nat) (us : List WUnit) : List WUnit :=
  (us.foldl (fun (st : List WUnit × List (Nat × Nat)) u =>
    match least (fun (a b : Nat × Nat) => lexLt [a.2, a.1] [b.2, b.1]) st.2 with
    | some x => (st.1 ++ [{ u with pin := x.1 }], updFirst st.2 (fun y => y.1 == x.1) fun y => (y.1, y.2 + u.time))
    | none => (st.1 ++ [u], st.2)) ([], pins.map fun x => (x, 0))).1

def pinTum (pin : Nat) : Nat := pin / 16
def pinDie (pin : Nat) : Nat := pin / 512

/-- All units of the step in order, placed and numbered from 1. -/
def State.listUnits (s : State) (p : Nat) (c : Ctx) : List WUnit :=
  let own := (tumsOf (s.getP p).tumOwn).filter fun t => (s.tumOf t).st != .fenced
  let pins := own.flatMap fun t => (List.range 16).map fun i => 16 * t + i
  let us := (List.range c.prog.length).flatMap fun i =>
    if (c.mi i).isFwd || (c.mi i).isGrad then
      (c.covers i).flatMap fun k =>
        if (c.drw k).path = .visit then []
        else
          let st := s.stagings c k
          (s.unitsOf c i k).map fun u => { u with occ := if u.kind.reads then stagingFor st i (s.layer (c.mi i).proj) else 0 }
    else []
  (placeUnits pins us).mapIdx fun n u => { u with id := n + 1 }

/-- The layers in the order in which the program first names them (R296). -/
def State.layerOrder (s : State) (c : Ctx) : List Nat :=
  ((c.prog.filter fun m => m.isFwd || m.isGrad).map fun m => s.layer m.proj).eraseDups

/-- The staging streams of the step on its dies, in order (R493). -/
def State.listStreams (s : State) (c : Ctx) (us : List WUnit) : List Stream :=
  let ord := s.layerOrder c
  (List.range 4).flatMap fun q =>
    let ks := (List.range c.drawers.length).filter fun k => us.any fun u => u.drw == k && pinDie u.pin == q
    let l := ks.flatMap fun k =>
      let st := s.stagings c k
      st.mapIdx fun n e =>
        let first := !((st.take n).any fun x => x.2 == e.2)
        (if first then (ord.findIdx? (· == e.2)).getD 0 else ord.length + e.1, k, n + 1, e.2)
    (insSort (fun (a b : Nat × Nat × Nat × Nat) => lexLt [a.1, a.2.1] [b.1, b.2.1]) l).map fun e =>
      { die := q, drw := e.2.1, occ := e.2.2.1, layer := e.2.2.2, started := false, done := false }

/-- Whether a stream's buffer is free: the units that read its older content have finished (R296). -/
def Ctx.bufFree (c : Ctx) (x : Stream) : Bool :=
  !(c.units.any fun u => u.drw == x.drw && pinDie u.pin == x.die && u.occ != 0 && decide (u.occ + 2 ≤ x.occ) && u.st != .done)

/-- The stream that runs, or runs next, on a die. -/
def Ctx.headStream (c : Ctx) (q : Nat) : Option Stream := c.streams.find? fun x => x.die == q && !x.done

/-- Bytes of a layer of a drawer's version. -/
def State.streamBytes (s : State) (d : Drawer) (y : Nat) : Nat :=
  match s.entry d.aid with
  | some e =>
    match e.slot d.epoch with
    | some v => let rd := s.reader (gAddr v.loc); s.layerBytes e.rank e.wfmtA e.wfmtB e.projs (fun i => (rd.mrec i).nesc) y
    | none => 0
  | none => 0

/-- The stream that runs on die q ends; the next begins when its buffer is free (R493). -/
def State.streamEnd (s : State) (p q : Nat) : State :=
    match s.ctxOf p with
    | none => s
    | some c =>
      match c.headStream q with
      | none => s
      | some x =>
        if c.phase = .run ∧ s.blobHere (c.drw x.drw) = true ∧ (x.started || c.bufFree x) = true then
          let n := s.streamBytes (c.drw x.drw) x.layer
          { (s.hbmRead.modCtx p fun c =>
              let l := updFirst c.streams (fun y => y == x) fun y => { y with started := true, done := true }
              let nx := ({ c with streams := l }).headStream q
              { c with streams := match nx with
                  | some y => if c.bufFree y then updFirst l (fun z => z == y) fun z => { z with started := true } else l
                  | none => l }) with
            shf := modNth s.shf q fun h => { h with stgBytes := wrapAdd h.stgBytes n } }
        else s

/-! ### Operands of a unit -/

/-- STAT offset of a drawer for a projection (R84). -/
def Drawer.offsetOf (d : Drawer) (proj : Nat) : Int :=
  match d.projs.findIdx? (· == proj) with
  | some i => offVal (nth d.ofs i 0)
  | none => 0

/-- Vectors of a serve drawer in drawer order. -/
def Drawer.servedVec (d : Drawer) (j : Nat) : QVec := nth (d.served.flatMap (·.vecs)) j ⟨1, [], []⟩

/-- The quantized vector at a drawer position: what arrived on the hinge, or a serve step's. -/
def Ctx.hingeVec (c : Ctx) (k mi slot off : Nat) : Option QVec :=
  if c.role = .serve then some ((c.drw k).servedVec slot)
  else (c.arrived slot off (c.mi mi).proj).map (·.q)

/-- What a unit loads through descriptors, as (handle, width): first and second operand (R488). -/
def State.loads (s : State) (c : Ctx) (u : WUnit) : List (Word × Nat) :=
  let m := c.mi u.mi
  let g := s.geo m.proj (c.drw u.drw)
  let none_ : Word × Nat := (0, 0)
  if c.role = .serve then [none_, none_]
  else
    match u.kind with
    | .shrink => [if m.src = 1 then (m.op0, g.inW) else none_, none_]
    | .fused => [if m.src = 1 then (m.op0, g.inW) else none_, none_]
    | .expand => [(m.op1, g.sr), none_]
    | .gh => [if m.src = 1 then (m.op0, g.outW) else none_, none_]
    | .dB => [if m.src = 1 then (m.op0, g.outW) else none_, (m.op1, g.sr)]
    | .dA => [(m.op2, g.sr), (m.op0, g.inW)]
    | .dX => [(m.op2, g.sr), none_]
    | _ => [none_, none_]

/-- The positions of a unit. -/
def Ctx.unitPos (c : Ctx) (u : WUnit) : List (Nat × Nat) := ((c.posOf (c.drw u.drw)).drop u.lo).take (u.hi - u.lo)

/-- The host ranges a unit's load needs. -/
def State.loadRngs (s : State) (c : Ctx) (u : WUnit) : List Rng :=
  (s.loads c u).flatMap fun l =>
    match s.dOf l.1 with
    | none => []
    | some d => if d.space < 2 then [] else (c.unitPos u).flatMap fun x =>
        if c.posOk x.1 then s.elRngs (s.view c u.mi) d 0 l.2 [c.tpos x.1 x.2] else []

/-- One row through a descriptor: FP32 patterns and what reading them counts. -/
def State.loadRow (s : State) (v : View) (d : Desc) (w t : Nat) : List Nat × Cnt :=
  let rs := (List.range w).map fun i => s.elRead v d [i, t]
  (rs.map (·.val), rs.foldl (fun n r => n.plus r.cnt) Cnt.zero)

/-- Load an operand of a unit; `count` says whether this unit counts the reading (each row once for a macro-instruction). -/
def State.loadOp (s : State) (p : Nat) (c : Ctx) (u : WUnit) (l : Word × Nat) (fmt : Nat) (k : Int) (count stat : Bool) :
    List (List Nat) × State :=
  match s.dOf l.1 with
  | none => ([], s)
  | some d =>
    (c.unitPos u).foldl (fun (st : List (List Nat) × State) x =>
      if c.posOk x.1 = false then (st.1 ++ [[]], st.2)
      else
        let t := c.tpos x.1 x.2
        let r := s.loadRow (s.view c u.mi) d l.2 t
        if count = false then (st.1 ++ [r.1], st.2)
        else
          let q := quantVec fmt k r.1
          let s' := st.2.addRow p u.mi u.drw x.1 (r.2.plus q.2.1)
          (st.1 ++ [r.1], if stat ∧ t < d.size 1 then s'.addStat p x.1 (c.drw u.drw).aid (c.mi u.mi).proj q.2.2 else s')) ([], s)

/-- The formats to which a unit's operands are quantized. -/
def MI.fmts (m : MI) (kind : UnitKind) : Nat × Nat :=
  match kind with
  | .shrink => (m.fmta, 1)
  | .fused => (m.fmta, 1)
  | .expand => (hfmtOf m.hfmt, 1)
  | .gh => (m.fmtg, 1)
  | .dB => (m.fmtg, hfmtOf m.hfmt)
  | .dA => (m.fmtg, m.fmta)
  | _ => (m.fmtg, 1)

/-! ### Start (R489) -/

/-- The handles through which a macro-instruction writes (R415 item 2). -/
def MI.writesTo (m : MI) : List Word :=
  (match m.op with
    | 0x10 => [m.op1]
    | 0x20 => [m.op2]
    | 0x21 => if m.dxdst = 2 then [m.op1] else []
    | 0x48 => [m.op1]
    | _ => if m.isPlace then [m.op0] else [])

/-- The handles through which it reads. -/
def MI.readsFrom (m : MI) : List Word :=
  match m.op with
  | 0x10 => if m.src = 1 then [m.op0] else []
  | 0x12 => if m.src = 1 then [m.op0] else []
  | 0x11 => [m.op1]
  | 0x13 => []
  | 0x14 => [m.op1]
  | 0x15 => [m.ih]
  | 0x20 => (if m.src = 1 then [m.op0] else []) ++ [m.op1]
  | 0x21 => [m.op0, m.op2]
  | 0x48 => m.op0 :: (if m.iform = 0 then [] else [m.ih])
  | 0x24 => if m.flag then [m.op0] else []
  | 0x38 => if m.flag then [m.op0] else []
  | 0x30 => [m.op0]
  | 0x31 => [m.op0]
  | _ => []

/-- Whether macro-instruction j has made every write for drawer k (any drawer for `none`) and all are visible. -/
def State.writesDone (s : State) (p : Nat) (c : Ctx) (j : Nat) (k : Option Nat) : Bool :=
  let mine (w : Nat) : Bool := match k with | some x => w == x || w == 0xFFFF | none => true
  let prod := if (c.mi j).isPlace then j - 1 else j
  let done := if (c.mi j).op = 0x48 then (nth c.recs j freshRec).done else
    (nth c.recs prod freshRec).reached && !(c.units.any fun u => u.mi == prod && mine u.drw && u.st != .done)
  done && !(s.writes.any fun w => w.tag == .step p c.sub.sseq j && mine w.drw)

/-- R415 item 2 for macro-instruction i and a drawer: earlier writes through a handle that it reads are visible. -/
def State.readsReady (s : State) (p : Nat) (c : Ctx) (i : Nat) (k : Option Nat) : Bool :=
  let rd := ((c.mi i).readsFrom ++ (match c.placeOf i with | some j => (c.mi j).readsFrom | none => [])).filter (· != 0)
  (List.range i).all fun j => !((c.mi j).writesTo.any fun h => rd.contains h) || s.writesDone p c j k

/-- The admitted vectors of a unit have arrived (R212); those of rows no longer at OK are not waited for. -/
def Ctx.vecsHere (c : Ctx) (u : WUnit) : Bool :=
  c.role == .serve || (c.mi u.mi).src != 0 || !((c.mi u.mi).consumes) || u.kind == .dX ||
    (c.unitPos u).all fun x => !c.posOk x.1 || (c.arrived x.1 x.2 (c.mi u.mi).proj).isSome

/-- The conditions of R489 other than footprint room. -/
def State.unitReady (s : State) (p : Nat) (c : Ctx) (u : WUnit) : Bool :=
  u.st == .waiting && (nth c.recs u.mi freshRec).reached && c.vecsHere u && s.readsReady p c u.mi (some u.drw)
  && !(c.units.any fun v => v.pin == u.pin && (v.st == .running || (v.st == .waiting && decide (v.id < u.id))))
  && (u.occ == 0 || c.streams.any fun x => x.die == pinDie u.pin && x.drw == u.drw && x.occ == u.occ && x.done)
  && s.blobHere (c.drw u.drw) && (s.tumOf (pinTum u.pin)).st != .fenced

/-- Footprint room in the unit's tumbler (R210). -/
def Ctx.room (c : Ctx) (u : WUnit) : Bool :=
  let run := c.units.filter fun v => v.st == .running && pinTum v.pin == pinTum u.pin
  decide (run.foldl (fun n v => n + v.acc) u.acc ≤ 524288) && decide (run.foldl (fun n v => n + v.buf) u.buf ≤ 2097152 * 32)

/-- The rails of a unit's load: host bytes there or asked for. -/
def State.setUnit (s : State) (p id : Nat) (f : WUnit → WUnit) : State :=
  s.modCtx p fun c => { c with units := updFirst c.units (fun u => u.id == id) f }

/-- A unit whose conditions hold loads its operands and runs on its pin (R489, R212, R210). -/
def State.startUnit (s : State) (p u : Nat) : State :=
    match s.ctxOf p with
    | none => s
    | some c =>
      match c.units.find? fun x => x.id == u with
      | none => s
      | some w =>
        let ahead := c.units.any fun v =>
          decide (v.id < w.id) && pinTum v.pin == pinTum w.pin && s.unitReady p c v && !c.room v
        if c.phase ≠ .run ∨ s.unitReady p c w = false ∨ c.room w = false ∨ ahead = true then s
        else
          match s.want p w.mi (s.loadRngs c w) with
          | (false, s) => s
          | (true, s) =>
            match s.ctxOf p with
            | none => s
            | some c =>
              let m := c.mi w.mi
              let d := c.drw w.drw
              let ls := s.loads c w
              let fm := m.fmts w.kind
              let fwd := w.kind == .shrink || w.kind == .fused
              let c1 := w.pass == 0 && (fwd || w.kind == .expand || w.kind == .gh || w.kind == .dA)
              let c2 := w.pass == 0 && (w.kind == .dB || w.kind == .dA)
              let k1 : Int := if fwd then d.offsetOf m.proj else 0
              let k2 : Int := if w.kind = .dA then d.offsetOf m.proj else 0
              let a := s.loadOp p c w (nth ls 0 (0, 0)) fm.1 k1 c1 fwd
              let b := a.2.loadOp p c w (nth ls 1 (0, 0)) fm.2 k2 c2 (w.kind == .dA)
              (b.2.hbmRead.setUnit p u fun x => { x with st := .running, xs := a.1, ys := b.1 }).modTum (pinTum w.pin) fun t =>
                { t with st := .run }

end Sys2Proof.Machine
end

