-- ==== Sys2Proof/Machine/Run.lean ====
section
/-! DEFINITION. What a step does while it runs: the arithmetic of a unit (R197–R199, R239–R244), where its results go, VISIT
drawers (R226–R228, R333–R335), and reaching the macro-instructions in program order. -/

namespace Sys2Proof.Machine

open Sys2Proof

/-! ### Arithmetic of a unit -/

/-- What a unit computes: lanes for each vector with what they count, a gradient partial, and counts of the drawer. -/
structure UOut where
  vecs : List (Nat × Nat × List Nat × Cnt)
  part : Option GPartial
  cnt : Cnt
  deriving DecidableEq, Repr

/-- `ALPHA_R` (R146). -/
def BlobHdr.alphaR (h : BlobHdr) : Nat := ((div32 h.alpha (natF h.rank)).map (·.1)).getD 0

/-- An FP32 result in `OFMT` (R198): its pattern and `SAT_ACC`. -/
def toOut (ofmt w : Nat) : Nat × Nat := if ofmt = 0 then toBf w else (w, 0)

/-- First operand of a unit at its position n. -/
def Ctx.operand (c : Ctx) (u : WUnit) (n : Nat) (x : Nat × Nat) (desc : Bool) : Option QVec :=
  let m := c.mi u.mi
  if desc then some (quantVec (m.fmts u.kind).1 (if u.kind = .shrink ∨ u.kind = .fused then (c.drw u.drw).offsetOf m.proj else 0) (nth u.xs n [])).1
  else c.hingeVec u.drw u.mi x.1 x.2

/-- Lanes o0 ≤ o < o1 of a forward product, times alpha and rounded to `ofmt` where they are a delta. -/
def fwdLanes (w : Reader × WMat × BlobHdr) (o0 o1 : Nat) (delta : Option Nat) (x : QVec) : List Nat × Cnt :=
  let rs := (List.range (o1 - o0)).map fun i =>
    let r := w.2.1.out w.1 (o0 + i) x
    match delta with
    | none => r
    | some ofmt =>
      let a := mul32 r.1 w.2.2.alphaR
      let o := toOut ofmt a.1
      (o.1, r.2 + a.2 + o.2)
  (rs.map (·.1), Cnt.acc (rs.foldl (fun n r => n + r.2) 0))

/-- Lanes of a transposed product (R242): gh is multiplied by alpha, dX rounded to `ofmt`. -/
def trLanes (w : Reader × WMat × BlobHdr) (o0 o1 : Nat) (alpha : Bool) (ofmt : Nat) (g : QVec) : List Nat × Cnt :=
  let rs := (List.range (o1 - o0)).map fun i =>
    let r := w.2.1.outT w.1 (o0 + i) g
    if alpha then let a := mul32 r.1 w.2.2.alphaR; (a.1, r.2 + a.2) else let o := toOut ofmt r.1; (o.1, r.2 + o.2)
  (rs.map (·.1), Cnt.acc (rs.foldl (fun n r => n + r.2) 0))

/-- One vector of a unit: its lanes and what they count. -/
def vecLanes (m : MI) (u : WUnit) (sr : Nat) (a b : Option (Reader × WMat × BlobHdr)) (q : QVec) : List Nat × Cnt :=
  match u.kind, a, b with
  | .shrink, some a, _ => fwdLanes a u.o0 u.o1 none q
  | .expand, _, some b => fwdLanes b u.o0 u.o1 (some m.ofmt) q
  | .fused, some a, some b =>
    let h := fwdLanes a 0 sr none q
    let hq := quantVec (hfmtOf m.hfmt) 0 h.1
    let r := fwdLanes b u.o0 u.o1 (some m.ofmt) hq.1
    (r.1, (h.2.plus hq.2.1).plus r.2)
  | .gh, _, some b => trLanes b u.o0 u.o1 true 1 q
  | .dX, some a, _ => trLanes a u.o0 u.o1 false m.ofmt q
  | _, _, _ => ([], Cnt.zero)

/-- The partial of a dB or dA unit (R243): rows of dB are g lanes o0 ≤ o < o1, of dA all gh lanes. -/
def partialOf (u : WUnit) (proj sr : Nat) (g h : List (Option QVec)) : GPartial × Cnt :=
  let col (l : List (Option QVec)) (i : Nat) : List Dy := l.map fun q => match q with | some q => q.val i | none => Dy.zero
  let w := u.o1 - u.o0
  let rs := if u.kind = .dB then
      (List.range w).map fun o => (List.range sr).map fun i => gradElem (col g (u.o0 + o)) (col h i)
    else (List.range sr).map fun i => (List.range w).map fun o => gradElem (col g i) (col h (u.o0 + o))
  ({ drw := u.drw, proj := proj, isB := u.kind == .dB, chunk := u.chunk, o0 := u.o0, vals := rs.map fun r => r.map (·.1) },
    Cnt.acc (rs.foldl (fun n r => r.foldl (fun n e => n + e.2) n) 0))

/-- What a unit computes from its operands and its version. -/
def State.unitOut (s : State) (c : Ctx) (u : WUnit) : UOut :=
  let m := c.mi u.mi
  let d := c.drw u.drw
  let g := s.geo m.proj d
  let a := s.wmat d m.proj false
  let b := s.wmat d m.proj true
  let ls := s.loads c u
  let pos := c.unitPos u
  let d1 := (nth ls 0 (0, 0)).1 != 0
  let op (n : Nat) (x : Nat × Nat) : Option QVec := if c.posOk x.1 then c.operand u n x d1 else none
  let ops := pos.mapIdx op
  if u.kind = .dB ∨ u.kind = .dA then
    let k2 : Int := if u.kind = .dA then d.offsetOf m.proj else 0
    let second := (pos.mapIdx fun n x => if c.posOk x.1 then some (quantVec (m.fmts u.kind).2 k2 (nth u.ys n [])).1 else none)
    let r := partialOf u m.proj g.sr ops second
    { vecs := [], part := some r.1, cnt := r.2 }
  else
    { vecs := (pos.zip ops).filterMap fun x => x.2.map fun q => let r := vecLanes m u g.sr a b q; (x.1.1, x.1.2, r.1, r.2)
      part := none, cnt := Cnt.zero }

/-- What reading a unit's matrices counts. R78 does not say how often a bad weight counts: the model counts a whole matrix, once for
a macro-instruction, a drawer and a matrix, and the blocks under a bad panel scale count nothing (log entry 70). The conversion of
a Q2T matrix counts with it (R238). -/
def State.weightCnt (s : State) (c : Ctx) (u : WUnit) : Cnt :=
  let m := c.mi u.mi
  let d := c.drw u.drw
  if c.units.any fun v => v.mi == u.mi && v.drw == u.drw && v.kind == u.kind && v.st == .done then Cnt.zero
  else
    let one (w : Option (Reader × WMat × BlobHdr)) : Cnt := match w with | some (rd, w, _) => w.counts rd 0 w.rows | none => Cnt.zero
    match u.kind with
    | .shrink => one (s.wmat d m.proj false)
    | .expand => one (s.wmat d m.proj true)
    | .fused => (one (s.wmat d m.proj false)).plus (one (s.wmat d m.proj true))
    | .gh => one (s.wmat d m.proj true)
    | .dX => (one (s.wmat d m.proj false)).plus (match s.wmat d m.proj false with
        | some (rd, w, _) => if w.fmt = 8 then w.convCnt rd else Cnt.zero
        | none => Cnt.zero)
    | _ => Cnt.zero

/-! ### Where results go -/

/-- The width of the result of a macro-instruction for a drawer. -/
def State.outWidth (s : State) (c : Ctx) (i k : Nat) : Nat :=
  let m := c.mi i
  let g := s.geo m.proj (c.drw k)
  match m.op with
  | 0x10 => g.sr
  | 0x20 => g.sr
  | 0x21 => g.inW
  | _ => g.outW

/-- Write or keep lanes lo … of the result of macro-instruction i for a vector, and answer it when it is complete. -/
def State.putLanes (s : State) (p i k slot off lo : Nat) (vals : List Nat) (zero : Bool) : State :=
  match s.ctxOf p with
  | none => s
  | some c =>
    let m := c.mi i
    let t := c.tpos slot off
    let row (h : Word) (n : Nat) : State × List Nat :=
      match s.dOf h with
      | some d => s.putRow p i k 0 (s.view c i) d [t] lo (vals.map (leBytes n))
      | none => (s, [])
    let r : State × List Nat :=
      if c.role = .serve then (s, [])
      else
        match m.op with
        | 0x10 => row m.op1 4
        | 0x20 => row m.op2 4
        | 0x21 => if m.dxdst = 2 then row m.op1 (if m.ofmt = 0 then 2 else 4) else (s, [])
        | _ =>
          match c.placeOf i with
          | some pi => s.placeVec p pi k slot off lo (vals.map (outBytes m.ofmt))
          | none => (s, [])
    let w := s.outWidth c i k
    (r.1.modCtx p fun c =>
      let a := c.acc i slot off
      let a := { a with lanes := a.lanes ++ [(lo, vals)], writes := a.writes ++ r.2, zero := zero }
      c.putAcc { a with full := zero || decide (w ≤ a.count) }).settleOut p i slot off

/-- The width of a projection's delta. -/
def State.outW (s : State) (proj : Nat) : Nat := (s.shape proj).2

/-! ### VISIT drawers -/

/-- The macro-instruction that delivers what a consumer's VISIT vectors return (R226, R228). -/
def Ctx.deliverer (c : Ctx) (i : Nat) : Nat := if (c.mi i).op = 0x10 then (c.prodAfter i (c.mi i).proj).getD i else i

/-- The VISIT drawers that a consuming macro-instruction covers. -/
def Ctx.visits (c : Ctx) (i : Nat) : List Nat :=
  if (c.mi i).op = 0x10 ∨ (c.mi i).op = 0x12 then (c.covers i).filter fun k => (c.drw k).path == .visit else []

def visitKey (i k : Nat) : Nat := 16384 * i + k

/-- Whether a drawer still has a row at OK. -/
def Ctx.drawerLive (c : Ctx) (k : Nat) : Bool := (c.drw k).slots.any fun sl => c.posOk sl

/-- A pseudo-unit that covers a whole drawer, for the operands of its VISIT records. -/
def Ctx.wholeUnit (c : Ctx) (i k : Nat) : WUnit :=
  mkUnit i k (if (c.mi i).op = 0x10 then .shrink else .fused) 0 0 0 (c.drw k).nvec 0 0 ⟨0, 0⟩ 0

/-- Records of at most 65,535 vectors (R333). -/
def recordsFrom (r : VisitRec) : Nat → Nat → List QVec → List VisitRec
  | 0, _, _ => []
  | n + 1, first, l => { r with first := first, vecs := l.take 65535 } :: recordsFrom r n (first + 65535) (l.drop 65535)

/-- The records of a VISIT drawer (R333); a position without a vector carries zeros. -/
def State.visitRecs (s : State) (p : Nat) (c : Ctx) (i k : Nat) : List VisitRec × State :=
  let m := c.mi i
  let d := c.drw k
  let u := c.wholeUnit i k
  let l := nth (s.loads c u) 0 (0, 0)
  let ld := s.loadOp p c u l m.fmta (d.offsetOf m.proj) true true
  let u := { u with xs := ld.1 }
  let inW := (s.shape m.proj).1
  let blank := (quantVec m.fmta 0 (List.replicate inW 0)).1
  let vs := (c.unitPos u).mapIdx fun n x => ((if c.posOk x.1 then c.operand u n x (l.1 != 0) else none).getD blank)
  let out := c.mi (c.deliverer i)
  let honly := m.op == 0x10 && c.deliverer i == i
  let r : VisitRec := { aid := d.aid, epoch := d.epoch, proj := m.proj, afmt := m.fmta, hfmt := out.hfmt, ofmt := out.ofmt,
                        honly := honly, first := 0, sseq := c.sub.sseq, part := p, vecs := [] }
  (recordsFrom r (ceilDiv vs.length 65535) 0 vs, ld.2)

/-- Send the `VISIT_ROWS` exchanges whose vectors are all there (R226, R333). -/
def State.visitSend (s : State) (p : Nat) : State :=
  match s.ctxOf p with
  | none => s
  | some c0 =>
    if c0.role = .serve then s
    else
      (List.range c0.prog.length).foldl (fun (s : State) i =>
        match s.ctxOf p with
        | none => s
        | some c =>
          if (nth c.recs i freshRec).reached = false then s
          else
            let ks := (c.visits i).filter fun k => !(c.sentVisits.contains (i, k)) && c.drawerLive k
            let owners := insSort (fun (a b : Nat) => decide (a < b)) (ks.map fun k => (c.drw k).owner).eraseDups
            owners.foldl (fun (s : State) o =>
              let mine := ks.filter fun k => (c.drw k).owner == o
              let ready := mine.all fun k =>
                let u := c.wholeUnit i k
                c.vecsHere u && s.readsReady p c i (some k)
              if ready = false then s
              else
                match s.want p i (mine.flatMap fun k => s.loadRngs c (c.wholeUnit i k)) with
                | (false, s) => s
                | (true, s) =>
                  match s.ctxOf p with
                  | none => s
                  | some c =>
                    let r := mine.foldl (fun (st : List VisitRec × State) k =>
                      let x := st.2.visitRecs p c i k; (st.1 ++ x.1, x.2)) ([], s)
                    (r.2.modCtx p fun c => { c with sentVisits := c.sentVisits ++ mine.map fun k => (i, k) }).request o
                      (.visit p c.sub.sseq (c.mi i).proj i mine) 0x14 0 0 (.visit r.1)) s) s

/-- The vectors that came back for a drawer, in drawer order; `none` while some are missing. -/
def Ctx.returned (c : Ctx) (i k : Nat) : Option (List QVec) :=
  let rs := (c.ret.filter fun e => e.1 == visitKey i k).map (·.2)
  let l := (insSort (fun (a b : VisitRec) => decide (a.first < b.first)) rs).flatMap (·.vecs)
  if (c.drw k).nvec ≤ l.length ∧ 0 < (c.drw k).nvec then some l else none

/-- Producers that are reached deliver what their VISIT drawers got back (R226–R228). -/
def State.visitDeliver (s : State) (p : Nat) : State :=
  match s.ctxOf p with
  | none => s
  | some c0 =>
    (List.range c0.prog.length).foldl (fun (s : State) i =>
      (c0.visits i).foldl (fun (s : State) k =>
        match s.ctxOf p with
        | none => s
        | some c =>
          let j := c.deliverer i
          if (nth c.recs j freshRec).reached = false ∨ c.delivered.contains (i, k) = true then s
          else
            match c.returned i k with
            | none => s
            | some l =>
              let pos := c.posOf (c.drw k)
              let need := match c.placeOf j with
                | some pi => pos.flatMap fun x => s.placeRngs c pi x.1 x.2
                | none => []
              match s.want p ((c.placeOf j).getD j) need with
              | (false, s) => s
              | (true, s) =>
                let w := s.outWidth c j k
                let s := (pos.zip l).foldl (fun (s : State) x =>
                  if ((s.ctxOf p).any fun c => c.posOk x.1.1) = false then s
                  else s.putLanes p j k x.1.1 x.1.2 0 ((List.range w).map fun n => nth x.2.els n 0) false) s
                s.modCtx p fun c => { c with delivered := c.delivered ++ [(i, k)], ret := c.ret.filter fun e => e.1 != visitKey i k }) s) s

/-! ### Deltas of zero (R139, R148, R220) -/

/-- Whether a vector's delta is zero without any adapter read. -/
def Ctx.zeroDelta (c : Ctx) (slot proj : Nat) : Bool :=
  c.posOk slot && match (c.row slot).drawer with
    | none => true
    | some k => !(c.drw k).projs.contains proj

/-- Placement producers that are reached write +0 for such vectors, once each. -/
def State.zeroPlace (s : State) (p : Nat) : State :=
  match s.ctxOf p with
  | none => s
  | some c0 =>
    (List.range c0.prog.length).foldl (fun (s : State) j =>
      match c0.placeOf j with
      | none => s
      | some pi =>
        if (nth c0.recs j freshRec).reached = false then s
        else
          let proj := (c0.mi j).proj
          let pos := (List.range c0.rows.length).flatMap fun sl =>
            if c0.zeroDelta sl proj then (List.range (c0.row sl).len).map fun o => (sl, o) else []
          let pos := pos.filter fun x => !(c0.outs.any fun a => a.mi == j && a.slot == x.1 && a.off == x.2)
            && ((c0.takerOf proj).isNone || (c0.arrived x.1 x.2 proj).isSome)
          pos.foldl (fun (s : State) x =>
            match s.want p pi (s.placeRngs c0 pi x.1 x.2) with
            | (false, s) => s
            | (true, s) => s.putLanes p j 0xFFFF x.1 x.2 0 (List.replicate (s.outW proj) 0) true) s) s

/-- Whether a drawer is empty for a projection that is taken from the hinge (R187): none of its rows stands at OK and none of its vectors
has passed the tag check. -/
def Ctx.emptyFor (c : Ctx) (k proj : Nat) : Bool :=
  c.role != .serve && (c.takerOf proj).isSome && !c.drawerLive k
    && !(c.drw k).slots.any fun sl => c.vecs.any fun v => v.slot == sl && v.proj == proj

/-- Units of drawers that are empty for their projection are skipped: nothing is staged, loaded or counted for them (R95, R187, R232).
A staging stream that no other unit needs ends without a transfer. -/
def State.skipEmpty (s : State) (p : Nat) : State :=
  s.modCtx p fun c =>
    let skip (u : WUnit) : Bool :=
      u.st == .waiting && (nth c.recs u.mi freshRec).reached && c.emptyFor u.drw (c.mi u.mi).proj
    if c.units.any skip then
      let c' := { c with units := c.units.map fun u => if skip u then { u with st := .done } else u }
      { c' with streams := c'.streams.map fun x =>
          if !x.started && (c'.units.any fun u => u.drw == x.drw && u.occ == x.occ) && !(c'.units.any fun u => u.drw == x.drw && u.occ == x.occ && u.st != .done)
          then { x with done := true } else x }
    else c

/-- What follows whenever something of a running step has moved: empty drawers, zero deltas, VISIT exchanges and deliveries. -/
def State.pump (s : State) (p : Nat) : State :=
  match s.ctxOf p with
  | some c => if c.phase = .run then (((s.skipEmpty p).zeroPlace p).visitDeliver p).visitSend p else s
  | none => s

/-! ### Program order -/

/-- Macro-instructions that hold nothing up: gates, `ROWS`, `SORT`, `COPY`, `LATCH_REL` (R415). -/
def MI.passes (m : MI) : Bool := m.isGate || m.op == 1 || m.op == 2 || m.op == 0x48 || m.op == 0x41

/-- Pass over them. -/
def Ctx.advance : Nat → Ctx → Ctx
  | 0, c => c
  | n + 1, c =>
    if c.pc < c.prog.length ∧ (c.mi c.pc).passes = true then
      Ctx.advance n { c with recs := modNth c.recs c.pc fun r => { r with reached := true }, pc := c.pc + 1 }
    else c

/-- The macro-instruction at the program position is reached when it has this opcode: a producer's placement with it. -/
def State.reach (s : State) (p op : Nat) : State :=
  match s.ctxOf p with
  | none => s
  | some c =>
    if c.phase = .run ∧ c.role ≠ .serve ∧ c.pc < c.prog.length ∧ (c.mi c.pc).op = op then
      (s.modCtx p fun c =>
        let n := if (c.placeOf c.pc).isSome then 2 else 1
        Ctx.advance c.prog.length
          { c with
            recs := (c.recs.mapIdx fun i r => if c.pc ≤ i ∧ i < c.pc + n then { r with reached := true, since := some s.now } else r)
            pc := c.pc + n }).pump p
    else s

/-- `SHRINK` (R197): reached in program order; its units may start. -/
def execShrink (p : Nat) (s : State) : Host.Outcome State Fault Refusal := .next (s.reach p 0x10)
/-- `EXPAND` (R198), with the placement macro-instruction that follows it (R214). -/
def execExpand (p : Nat) (s : State) : Host.Outcome State Fault Refusal := .next (s.reach p 0x11)
/-- `SHRINK_EXPAND` (R199), with its placement. -/
def execShrinkExpand (p : Nat) (s : State) : Host.Outcome State Fault Refusal := .next (s.reach p 0x12)
/-- `GRAD_EXPAND` (R239). -/
def execGradExpand (p : Nat) (s : State) : Host.Outcome State Fault Refusal := .next (s.reach p 0x20)
/-- `GRAD_SHRINK` (R240). -/
def execGradShrink (p : Nat) (s : State) : Host.Outcome State Fault Refusal := .next (s.reach p 0x21)

/-- Whether a macro-instruction has completed (R431). -/
def Ctx.macroDone (c : Ctx) (i : Nat) : Bool :=
  let r := nth c.recs i freshRec
  r.done || (r.reached && ((c.mi i).isFwd || (c.mi i).isGrad || (c.mi i).isPlace) &&
    (let j := if (c.mi i).isPlace then i - 1 else i
     !(c.units.any fun u => u.mi == j && u.st != .done) &&
     (List.range c.prog.length).all fun i' =>
       c.deliverer i' != j || (c.visits i').all fun k => c.delivered.contains (i', k) || !c.drawerLive k))

/-- Every macro-instruction before index i has completed. -/
def Ctx.beforeDone (c : Ctx) (i : Nat) : Bool := (List.range i).all c.macroDone

/-! ### End of a unit -/

/-- Tumbler cycles of a unit, a save or a restore (R386): a free number, to the partition, the step and the tumbler. -/
def State.addCycles (s : State) (p t : Nat) : State :=
  let r := s.fresh
  (((r.2.modP p fun q =>
    { q with engCycles := wrapAdd q.engCycles r.1, winCycles := satAdd q.winCycles r.1 }).modCtx p fun c =>
      { c with eng := wrapAdd c.eng r.1 }).modTum t fun x => { x with busy := wrapAdd x.busy r.1 })

/-- Answer the records of a serve drawer whose units are all done (R334). -/
def State.serveReply (s : State) (p k : Nat) : State :=
  match s.ctxOf p with
  | none => s
  | some c =>
    if c.role ≠ .serve ∨ c.units.any (fun u => u.drw == k && u.st != .done) = true then s
    else
      let d := c.drw k
      let ofmt := if (c.mi k).op = 0x10 then 0 else if (c.mi k).ofmt = 0 then 1 else 0
      let r := (d.served.zip d.srcs).foldl (fun (st : State × Nat) e =>
        let vs := (List.range e.1.vecs.length).map fun n => (⟨ofmt, (c.acc k (st.2 + n) 0).data, []⟩ : QVec)
        (st.1.finishReq e.2.1 e.2.2 0x15 .ok d.aid d.epoch (.visit [{ e.1 with vecs := vs }]), st.2 + e.1.vecs.length)) (s, 0)
      r.1.modCtx p fun c => { c with drawers := modNth c.drawers k fun d => { d with served := [], srcs := [] } }

/-- Results of a unit go to their destinations. -/
def State.putOut (s : State) (p : Nat) (u : WUnit) (o : UOut) : State :=
  let s := o.vecs.foldl (fun (s : State) x =>
    if (s.ctxOf p).any (fun c => c.posOk x.1) then
      (s.addRow p u.mi u.drw x.1 x.2.2.2).putLanes p u.mi u.drw x.1 x.2.1 u.o0 x.2.2.1 false
    else s) s
  match o.part with
  | some g => (s.addGrad p u.drw o.cnt.satAcc).modCtx p fun c => { c with parts := c.parts ++ [g] }
  | none => s.addDrw p u.mi u.drw o.cnt

/-- The host bytes that the destinations of a unit need. -/
def State.outRngs (s : State) (c : Ctx) (u : WUnit) : List Rng :=
  match c.placeOf u.mi with
  | some pi => if c.role = .serve then [] else (c.unitPos u).flatMap fun x => if c.posOk x.1 then s.placeRngs c pi x.1 x.2 else []
  | none => []

/-- `UNIT_COMPLETE` (R487): the walk and the drain end; results are written, kept or answered, and the pin is free. -/
def execUnitComplete (p u : Nat) (s : State) : Host.Outcome State Fault Refusal :=
  .next <|
    match s.ctxOf p with
    | none => s
    | some c =>
      match c.units.find? fun x => x.id == u with
      | none => s
      | some w =>
        if c.phase ≠ .run ∨ w.st ≠ .running then s
        else
          match s.want p ((c.placeOf w.mi).getD w.mi) (s.outRngs c w) with
          | (false, s) => s
          | (true, s) =>
            match s.ctxOf p with
            | none => s
            | some c =>
              let s := (s.putOut p w (s.unitOut c w)).addDrw p w.mi w.drw (s.weightCnt c w)
              let s := s.setUnit p u fun x => { x with st := .done, xs := [], ys := [] }
              -- gradient units add to a drawer in HBM (R250)
              let s := if (c.mi w.mi).isGrad then s.hbmWork else s
              let t := pinTum w.pin
              let busy := (s.ctxOf p).any fun c => c.units.any fun v => v.st == .running && pinTum v.pin == t
              let s := s.modTum t fun x => { x with st := if busy then .run else if x.st = .fenced then .fenced else .idle, units := satAdd x.units 1 }
              ((s.addCycles p t).serveReply p w.drw).pump p

end Sys2Proof.Machine
end

