-- ==== Sys2Proof/Machine/Hinge.lean ====
section
/-! DEFINITION. Row vectors on the hinge ports (R179–R183, R195, R563, R602–R606): credits, the tag check, vectors held by
back-pressure, quantization at ingress, the answers that are due at once. -/

namespace Sys2Proof.Machine

open Sys2Proof

/-! ### Ingress header (R605) -/

def RowVec.part (v : RowVec) : Nat := fld v.w0 4 0
def RowVec.sseq (v : RowVec) : Nat := fld v.w0 12 5
def RowVec.slot (v : RowVec) : Nat := fld v.w0 30 13
def RowVec.off (v : RowVec) : Nat := fld v.w1 12 0
def RowVec.proj (v : RowVec) : Nat := fld v.w1 24 13
def RowVec.aid (v : RowVec) : Nat := fld v.w2 23 0
def RowVec.ticket (v : RowVec) : Nat := fld v.w3 15 0
def RowVec.dlen (v : RowVec) : Nat := fld v.w3 26 16

/-- A reserved header field is not zero (R606). -/
def RowVec.reserved (v : RowVec) : Bool :=
  bit v.w0 31 || fld v.w1 31 25 != 0 || fld v.w2 31 24 != 0 || fld v.w3 31 27 != 0 || v.rest.any (· != 0)

/-- Beats of a vector (R494). -/
def RowVec.beats (v : RowVec) : Nat := ceilDiv (64 + 128 * v.dlen) 2048

/-! ### Which step a vector names (R180, R195) -/

inductive VecFor where
  | check | hold | torn | orphan
  deriving DecidableEq, Repr

/-- Whether the issued step's vectors are held: before `SORT` has completed, while it is being saved or restored. -/
def Ctx.holds (q : Prt) (c : Ctx) : Bool :=
  match c.phase with
  | .load => true
  | .gate => true
  | .sample => true
  | .table => true
  | .notice => true
  | .sort => true
  | .restore => true
  | .saving => true
  | .wake => q.saved && q.svCtx.isNone
  | _ => false

/-- What becomes of a vector that names partition p and step number n modulo 256. -/
def State.vecFor (s : State) (p n : Nat) : VecFor :=
  let q := s.getP p
  if q.ctx.any fun c => c.sub.sseq % 256 == n then (if q.ctx.any fun c => c.holds q then .hold else .check)
  else if q.svCtx.any fun c => c.sub.sseq % 256 == n then .hold
  else if (q.running.bind fun j => j.queue.head?).any fun x => x.sseq % 256 == n then .hold
  else if q.finals.any fun c => !c.rows.isEmpty && c.sub.sseq % 256 == n then .torn
  else .orphan

/-! ### The tag check (R181) -/

/-- A zero delta for a vector that is not of a row's own (R181, R183). -/
def State.zeroResp (s : State) (port p sseq : Nat) (v : RowVec) (st : Status) : State :=
  s.pushResp port { part := p, sseq := sseq, slot := v.slot, off := v.off, proj := v.proj, status := st, zero := true, placed := false,
                    ofmt := 0, data := [] }

/-- A vector of no step (R180, R606). -/
def State.orphan (s : State) (port : Nat) (v : RowVec) : State :=
  (s.modHng port fun h => { h with hngOrph := satAdd h.hngOrph 1 }).zeroResp port v.part v.sseq v .wardFault

/-- A vector of a step that was torn down while it was saved is answered with its row's status (R183, R230). -/
def State.tornVec (s : State) (port : Nat) (c : Ctx) (v : RowVec) : State :=
  let r := c.row v.slot
  if v.slot < c.rows.length ∧ r.vacant = false ∧ r.status ≠ .ok then s.zeroResp r.port v.part c.sub.sseq v r.status
  else s.zeroResp port v.part c.sub.sseq v .wardFault

/-- Whether a vector fails the tag check against its step (R181). -/
def Ctx.tagBad (c : Ctx) (port : Nat) (v : RowVec) : Bool :=
  let r := c.row v.slot
  decide (c.rows.length ≤ v.slot) || r.vacant || decide (r.len ≤ v.off) || v.aid != r.aid || v.ticket != r.ticket || r.port != port
    || (c.arrived v.slot v.off v.proj).isSome

/-- The width that a consuming macro-instruction reads (R606). -/
def State.inWidth (s : State) (m : MI) : Nat := if m.op = 0x20 then (s.shape m.proj).2 else (s.shape m.proj).1

/-- The elements of a vector at a width, as FP32 patterns, and what replacing them counts (R77, R78, R606). -/
def RowVec.elems (v : RowVec) (w : Nat) : List Nat × Cnt :=
  let l := (v.data.map (·.toNat)).take (64 * v.dlen)
  let rs := (List.range w).map fun i => inBf (nth l i 0)
  (rs.map (·.1), Cnt.nf (rs.foldl (fun n r => n + r.2) 0))

/-- A vector that passes the tag check: quantized at ingress for its consumer (R202, R239), kept, and answered where nothing
later answers it (R221). -/
def State.takeVec (s : State) (p port : Nat) (c : Ctx) (v : RowVec) : State :=
  let taker := c.takerOf v.proj
  let s := match taker with
    | some i => if s.inWidth (c.mi i) = 64 * v.dlen then s else s.modHng port fun h => { h with lenMism := satAdd h.lenMism 1 }
    | none => s
  let drw := (c.row v.slot).drawer.filter fun k => (c.drw k).projs.contains v.proj && (c.row v.slot).status == .ok
  let r : QVec × State := match taker, drw with
    | some i, some k =>
      let m := c.mi i
      let e := v.elems (s.inWidth m)
      let fwd := m.isFwd
      let q := quantVec (if fwd then m.fmta else m.fmtg) (if fwd then (c.drw k).offsetOf v.proj else 0) e.1
      let s := s.addRow p i k v.slot (e.2.plus q.2.1)
      (q.1, if fwd then s.addStat p v.slot (c.drw k).aid v.proj q.2.2 else s)
    | _, _ => (⟨1, [], []⟩, s)
  let s := r.2.modCtx p fun c => { c with vecs := c.vecs ++ [{ slot := v.slot, off := v.off, proj := v.proj, q := r.1, answered := false }] }
  match if (c.row v.slot).status = .ok then c.answerer v.proj else none with
  | none => s.answerZero p v.slot v.off v.proj
  | some a =>
    if c.zeroDelta v.slot v.proj = true ∧ (c.placeOf a).isNone then s.answerZero p v.slot v.off v.proj
    else if (c.acc a v.slot v.off).sent then s.modCtx p fun c => c.answered v.slot v.off v.proj
    else s.settleOut p a v.slot v.off

/-- A vector that names the issued step is checked against its row table (R180, R181), unless its row was settled before by one
of the three causes of R183; a refused step counts as no step (R205). -/
def State.tagCheck (s : State) (p port : Nat) (v : RowVec) : State :=
  match s.ctxOf p with
  | none => s.orphan port v
  | some c =>
    if c.refused.isSome then s.orphan port v
    else
      let known := decide (v.slot < c.rows.length) && !(c.row v.slot).vacant
      if known ∧ ((c.row v.slot).settled = true ∨ (c.row v.slot).status = .contextTorn) then
        s.zeroResp (c.row v.slot).port p c.sub.sseq v (c.row v.slot).status   -- on the row's port (R221)
      else if c.tagBad port v then
        let s := s.modCtx p fun c => { c with tagFault := sat32 (c.tagFault + 1) }
        let s := if known then s.settleRow p v.slot .wardFault else s
        (s.zeroResp port p c.sub.sseq v .wardFault).pump p
      else (s.takeVec p port c v).pump p

/-- A vector that is not held goes where it belongs. -/
def State.vecGo (s : State) (p port : Nat) (v : RowVec) : State :=
  match s.vecFor p v.sseq with
  | .check => s.tagCheck p port v
  | .torn =>
    match (s.getP p).finals.find? fun c => !c.rows.isEmpty && c.sub.sseq % 256 == v.sseq with
    | some c => s.tornVec port c v
    | none => s.orphan port v
  | _ => s.orphan port v

/-! ### Credits and back-pressure (R603) -/

def State.beatCredit (s : State) (port p : Nat) (f : Nat → Nat) : State := s.modHng port fun h => { h with crdUsed := SMap.upd 0 h.crdUsed p f }

/-- The credits of n beats of partition p are returned, up to 64 in one control word (R602, R603). -/
def Hng.giveBack (p n : Nat) (h : Hng) : Hng :=
  { h with
    crdRet := h.crdRet ++ List.replicate (n / 64) (p, 64) ++ (if n % 64 = 0 then [] else [(p, n % 64)])
    crdLast := if n = 0 then h.crdLast else p }

/-- The partitions in the order in which credits that are due together are returned: round robin after the one served last (R603). -/
def Hng.turns (h : Hng) : List Nat := (List.range 32).map fun i => (h.crdLast + 1 + i) % 32

/-- Let the held vectors of partition p go as far as they may; `fuel` bounds the passes. -/
def State.releasePort (p port : Nat) : Nat → State → State
  | 0, s => s
  | n + 1, s =>
    if s.awake (domCommon port) = false then s
    else
      match (s.getHng port).held.find? fun v => v.part == p && s.vecFor p v.sseq != .hold with
      | none => s
      | some v =>
        State.releasePort p port n
          (((s.modHng port fun h => { h with held := h.held.erase v }.giveBack p v.beats).beatCredit port p (· - v.beats)).vecGo p port v)

/-- Let the held vectors of partition p go on every port. -/
def State.releaseHeld (s : State) (p : Nat) : State :=
  (List.range 4).foldl (fun (s : State) port => State.releasePort p port (s.getHng port).held.length s) s

/-- `ROW_VECTOR` (R180, R181, R603): its beats take credits; a vector is checked, or held with its credits. Beats without a
credit, or of another partition than the header's, are discarded and counted. -/
def execRowVector (port : Nat) (v : RowVec) (s : State) : Host.Outcome State Fault Refusal :=
  .next <|
    let h := s.getHng port
    if 4 ≤ port ∨ (h.lstate ≠ 2 ∧ h.lstate ≠ 3) then s
    else
      let p := v.part
      let n := v.beats
      let bad (s : State) (k : Nat) : State := s.modHng port fun h => { h with hngBad := satAdd h.hngBad k }
      let got (s : State) : State := s.modHng port fun h => { h with beatsIn := wrapAdd h.beatsIn n }.giveBack p n
      if v.rowPart ≠ p then
        bad (if SMap.get 0 h.crdUsed v.rowPart < 64 then s.modHng port (Hng.giveBack v.rowPart n) else s) n
      else if v.reserved then (got s).orphan port v
      else
        let go := s.vecFor p v.sseq
        let up := s.awake (domCommon port)
        if go ≠ .hold ∧ up = true then
          (got s).vecGo p port v
        else
          let s := if up then s else s.requestWakes [domCommon port]
          let used := SMap.get 0 h.crdUsed p
          if 64 < used + n then bad (s.modHng port (Hng.giveBack p (64 - used))) (used + n - max used 64)
          else ((s.modHng port fun h => { h with beatsIn := wrapAdd h.beatsIn n, held := h.held ++ [v] }).beatCredit port p (· + n))

/-- The first four header words of a response; the others are reserved (R222, R605). -/
def Resp.words (r : Resp) : List Word :=
  [r.part + at_ (r.sseq % 256) 5 + at_ r.slot 13, r.off + at_ r.proj 13,
    statusCode r.status + at_ (b2n r.zero) 8 + at_ (b2n r.placed) 9 + at_ r.ofmt 10,
    if r.zero || r.placed then 0 else r.data.length / 64].map (BitVec.ofNat 32)

/-- `RESPONSE_EGRESS` (R494): the response that became ready first leaves; ties by table position and projection are the order
in which they became ready here. -/
def execResponseEgress (port : Nat) (s : State) : Host.Outcome State Fault Refusal :=
  .next <|
    match (s.getHng port).egress with
    | [] => s
    | r :: rest =>
      if (s.getHng port).lstate ≠ 2 then s
      else s.modHng port fun h =>
        { h with egress := rest, sent := h.sent ++ [{ r with sseq := r.sseq % 256 }], beatsOut := wrapAdd h.beatsOut r.beats, deltaValid := true,
                   outHdr := r.words }

end Sys2Proof.Machine
end

