-- ==== Sys2Proof/Machine/Issue.lean ====
section
/-! DEFINITION. Issue of a step (R432, R433): its head conditions, the phases in order, refusals, and the commands that run them.
-/

namespace Sys2Proof.Machine

open Sys2Proof

/-- Release the version references of a step (R356, R286). -/
def State.dropPins (s : State) (c : Ctx) : State :=
  State.reclaim (State.evictInval ((c.pinned ++ c.used).foldl (fun s g => s.freeRef g.1 g.2) s))

/-- Release gradient drawers that a step reserved and nothing was added to (R249). -/
def State.dropGradNew (s : State) (p : Nat) (l : List (Nat × Nat)) : State :=
  l.foldl (fun (s : State) g =>
    if s.cab.grads.any (fun x => x.part == p && x.aid == g.1 && x.base == g.2 && !x.filled) then
      s.modCab fun c =>
        { (c.release (.grad p g.1 g.2)) with grads := c.grads.filter fun x => !(x.part == p && x.aid == g.1 && x.base == g.2) }
    else s) s

/-- A step is refused (R432): its gate is released (R413), everything that its phases took goes back, and it waits for its
final `STEP_DONE`. -/
def State.refuse (s : State) (p : Nat) (st : Status) (idx : Nat) : State :=
  match s.ctxOf p with
  | none => s
  | some c =>
    let s := if c.phase = .load then s else s.gateRelease p
    let s := (s.dropPins c).dropGradNew p c.gdNew
    let s := if c.phase.issued then s else s.popSub p c
    s.modCtx p fun c =>
      { c with refused := some (st, idx), phase := .ending, resume := c.phase, pinned := [], used := [], gdNew := [], vecs := [], fetchWait := [], noteWait := []
               recs := c.recs.mapIdx fun i r => if i = idx then { r with status := some st } else r }

/-- Run one phase of issue. -/
def State.issuePhase (s : State) (p : Nat) (c : Ctx) : Go :=
  match c.phase with
  | .load => s.phaseLoad p c
  | .gate => s.phaseGate p c none
  | .sample => s.phaseSample p c
  | .table => s.phaseTable p c
  | .notice => s.phaseNotice p c
  | .sort => s.phaseSort p c
  | .check => s.phaseCheck p c
  | _ => .stay s

/-- Run the phases of issue as far as they go; `fuel` is their number. -/
def State.issueGo (p : Nat) : Nat → State → State
  | 0, s => s
  | n + 1, s =>
    match s.ctxOf p with
    | none => s
    | some c =>
      match s.issuePhase p c with
      | .stay s => s
      | .next s => State.issueGo p n s
      | .refuse st i s => s.refuse p st i

/-- Continue a step that waits in a phase of issue; vectors held for it go on once `SORT` has completed (R180). -/
def State.resumeIssue (s : State) (p : Nat) : State := (s.issueGo p 8).releaseHeld p

/-- Phase 1 (R432): the next step of the running job, its previous `STEP_DONE` sent and 2 µs after the last issue. -/
def State.headSub (s : State) (p : Nat) : Option (Job × Sub) :=
  let q := s.getP p
  -- `STEP_DONE` notices of the partition that have not left (R477)
  let told := s.lnk.notes.any fun f => f.opc == 0x60 && leAt f.data 6 1 % 32 == p
  match q.running, q.ctx with
  | some j, none =>
    if s.issueHeld = true ∨ told = true ∨ j.queue.isEmpty ∨ q.svCtx.any (fun c => c.job == j.num) = true then none
    else if q.lastIssue.any (fun t => decide (s.now < t + 200)) then none
    else j.queue.head?.map fun x => (j, x)
  | _, _ => none

/-- `STEP_ISSUE` (R432): a step at the head of its queue passes the phases of issue. -/
def execStepIssue (p : Nat) (s : State) : Host.Outcome State Fault Refusal :=
  .next <|
    match s.headSub p with
    | some (j, x) =>
      (s.modP p fun q => { q with ctx := some { freshCtx j.num (if j.learner then .learner else .generator) x .load with phaseAt := s.now } }).resumeIssue p
    | none => s.resumeIssue p

/-- Run one phase where a step stands in it, and what follows. -/
def State.phaseCmd (s : State) (p : Nat) (phs : List Phase) : State :=
  match s.ctxOf p with
  | some c => if phs.contains c.phase then s.resumeIssue p else s
  | none => s

/-- `ROWS` (R174): a step that stands at its sampling point or at the checks of its rows. -/
def execRows (p : Nat) (s : State) : Host.Outcome State Fault Refusal := .next (s.phaseCmd p [.sample, .table, .notice])

/-- `SORT` (R184, R188): a step whose rows are checked. -/
def execSort (p : Nat) (s : State) : Host.Outcome State Fault Refusal := .next (s.phaseCmd p [.sort])

/-- The gate macro-instructions of one kind try their latches in the gate's order (R412). -/
def State.gateCmd (s : State) (p : Nat) (wait : Bool) : State :=
  match s.ctxOf p with
  | some c =>
    if c.phase = .gate then
      match s.phaseGate p c (some wait) with
      | .next s => s.resumeIssue p
      | .stay s => s
      | .refuse st i s => (s.refuse p st i).releaseHeld p
    else s
  | none => s

/-- `LATCH_ACQ` (R412). -/
def execLatchAcq (p : Nat) (s : State) : Host.Outcome State Fault Refusal := .next (s.gateCmd p false)

/-- `LATCH_WAIT` (R411). -/
def execLatchWait (p : Nat) (s : State) : Host.Outcome State Fault Refusal := .next (s.gateCmd p true)

/-- Whether a gate macro-instruction has waited for its limit (R413, R422); a limit of 0 is none. -/
def GateItem.late (g : GateItem) (now : Nat) : Bool := g.limit != 0 && g.since.any fun t => decide (t + usTicks g.limit ≤ now)

/-- `LAT_WAIT` (R413): the gate macro-instruction that waits reaches its limit. -/
def execLatWait (p : Nat) (s : State) : Host.Outcome State Fault Refusal :=
  .next <|
    match s.ctxOf p with
    | some c =>
      if c.phase ≠ .gate then s
      else
        match c.gate.find? fun g => g.done == .pending with
        | some g => if g.late s.now then (s.refuse p .latchHeld g.idx).releaseHeld p else s
        | none => s
    | none => s

end Sys2Proof.Machine
end

