-- ==== Sys2Proof/Machine/Copy.lean ====
section
/-! DEFINITION. `COPY` (R442): element by element, with transposition (R125–R127), gather and scatter (R128–R134), decoding and
requantizing. -/

namespace Sys2Proof.Machine

open Sys2Proof

/-- All coordinates below some sizes, dimension 0 fastest. -/
def allCoords : List Nat → List (List Nat)
  | [] => [[]]
  | n :: ns => (allCoords ns).flatMap fun cs => (List.range n).map fun c => c :: cs

/-- Dimensions 0 and 1 exchanged. -/
def swap01 (cs : List Nat) : List Nat :=
  match cs with
  | a :: b :: l => b :: a :: l
  | l => l

/-- What a `COPY` is about: source, destination, indirection list, run-time bound, and whether source and destination overlap in memory
(R442). -/
structure CopyJob where
  m : MI
  a : Desc
  b : Desc
  l : Option Desc
  bnd : Option Nat
  clash : Bool
  deriving DecidableEq, Repr

def CopyJob.gather (j : CopyJob) : Bool := j.m.iform != 0 && j.m.islot == 0
def CopyJob.scatter (j : CopyJob) : Bool := j.m.iform != 0 && j.m.islot == 1
def CopyJob.tr (j : CopyJob) : Bool := j.m.flag
def Desc.sizes (d : Desc) : List Nat := (List.range d.rank).map d.size
def Desc.blocked (d : Desc) : Bool := d.blkAxis != 0
/-- Bits are copied: same format, and the block axis kept or swapped. -/
def CopyJob.bits (j : CopyJob) : Bool := j.a.fmt == j.b.fmt && (j.a.blkAxis == j.b.blkAxis || isMx8 j.a.fmt) && !(j.tr && j.a.blkAxis == 1 && j.b.blkAxis == 1)
def CopyJob.deco (j : CopyJob) : Bool := !j.bits && j.b.fmt == 0

/-- The operand's extents as the macro-instruction walks it, in the source's orientation. The spec does not give the extents of an
operand that is gathered through a list (R128); the model takes the destination's sizes, rounded up to granules, so that list entries
past them are unused. A run-time bound does not narrow such a walk; target coordinates at or beyond it are read as counted
`FILL` (log entry 71). -/
def CopyJob.walkSizes (j : CopyJob) : List Nat :=
  let own := j.a.sizes
  let s := if j.gather = false then own
    else match j.l with
      | some l => if j.m.iform = 2 then modNth own j.m.idim fun _ => l.size 0
        else
          let ds := if j.tr then swap01 j.b.sizes else j.b.sizes
          ds.mapIdx fun k n => if k = 0 then roundUp n (32 * j.m.g0) else if k = 1 then roundUp n (32 * j.m.g1) else n
      | none => own
  match j.bnd with
  | some n => if j.gather ∧ j.m.iform = 1 then s else modNth s (s.length - 1) fun _ => n
  | none => s

/-- The extents that move: with `TRANSPOSE`, whole 32 × 32 squares (R126). -/
def CopyJob.sqSizes (j : CopyJob) : List Nat :=
  if j.tr then j.walkSizes.mapIdx fun k n => if k < 2 then roundUp n 32 else n else j.walkSizes

/-- Whether an operand element lies in a square's part that reaches past the walk (R126). -/
def CopyJob.edge (j : CopyJob) (o : List Nat) : Bool :=
  (o.zip j.walkSizes).any fun x => decide (x.2 ≤ x.1)

/-- Position of the granule that holds an operand element (R128), the operand's extents given. -/
def granuleNo (m : MI) (sz o : List Nat) : Nat :=
  let dim (k n : Nat) : Nat := if k = 0 then ceilDiv n (32 * m.g0) else if k = 1 then ceilDiv n (32 * m.g1) else n
  let pos (k c : Nat) : Nat := if k = 0 then c / (32 * m.g0) else if k = 1 then c / (32 * m.g1) else c
  (List.range sz.length).foldr (fun k acc => pos k (nth o k 0) + dim k (nth sz k 1) * acc) 0

/-- Coordinates of an operand element in the target through a list or index tensor: `none` where it is skipped (R132); the
second result counts list reads out of bounds. The spec does not say how often such a read counts (R131); the model counts it once
for each granule or position (log entry 70). -/
def State.through (s : State) (v : View) (m : MI) (l tgt : Desc) (sz o : List Nat) : Option (List Nat) × Nat :=
  if m.iform = 2 then
    let k := idxAt v l (nth o m.idim 0)
    let first := (o.mapIdx fun i c => i == m.idim || c == 0).all id
    (if skipIdx l k.1 then none else some (modNth o m.idim fun _ => k.1), if first then k.2 else 0)
  else
    let j := granuleNo m sz o
    let g0 := 32 * m.g0
    let g1 := 32 * m.g1
    let es := (List.range tgt.rank).map fun k => s.u32 v l k [j]
    let co := es.map (·.1)
    let first := nth o 0 0 % g0 == 0 && nth o 1 0 % g1 == 0
    (if nth co 0 0 = 0xFFFFFFFF then none
      else some (co.mapIdx fun k c => if k = 0 then c * g0 + nth o 0 0 % g0 else if k = 1 then c * g1 + nth o 1 0 % g1 else c),
      if first then es.foldl (fun n e => n + e.2) 0 else 0)

/-- Source coordinates of an operand element: skipped, out of bounds, or there. -/
def State.copySrc (s : State) (v : View) (j : CopyJob) (o : List Nat) : Option (List Nat) × Bool × Nat :=
  if j.edge o then (some o, true, 0)
  else if j.gather = false then (some o, false, 0)
  else match j.l with
    | none => (some o, false, 0)
    | some l =>
      let r := s.through v j.m l j.a j.walkSizes o
      let beyond := j.m.iform == 1 && match r.1, j.bnd with
        | some cs, some n => decide (n ≤ nth cs (j.a.rank - 1) 0)
        | _, _ => false
      (r.1, beyond, r.2)

/-- Destination coordinates of an operand element, cut or filled to the destination's rank; `none` where nothing is written.
The third result counts elements dropped because the destination lacks a dimension. -/
def State.copyDst (s : State) (v : View) (j : CopyJob) (o : List Nat) : Option (List Nat) × Nat × Nat :=
  let o' := if j.tr then swap01 o else o
  let r : Option (List Nat) × Nat := if j.scatter = false then (some o', 0)
    else match j.l with
      | none => (some o', 0)
      | some l => s.through v j.m l j.b (if j.tr then swap01 j.sqSizes else j.sqSizes) o'
  match r.1 with
  | none => (none, r.2, 0)
  | some cs =>
    if (cs.drop j.b.rank).any (· != 0) then (none, r.2, 1)
    else ((some ((List.range j.b.rank).map fun k => nth cs k 0)), r.2, 0)

/-- Bytes of n elements at coordinates; `none` out of bounds. -/
def State.rawAt (s : State) (v : View) (d : Desc) (cs : List Nat) (n : Nat) : Option (List Byte) :=
  if nth cs 0 0 + n ≤ d.size 0 then
    (s.rowAddr v d (cs.drop 1)).map fun a => (List.range (rowLen d.fmt (32 * n) / 32)).map fun i => v d.space (a + rowLen d.fmt (32 * nth cs 0 0) / 32 + i)
  else none

/-- `FILL` of a plain format as its bits; of an MX format, a value quantized with k = 0. For Celat and ESC8 the spec states no
encoding of a `FILL`: the bits are free, among those that Bartor may write (R79): no invalid Q2T byte, no E4M3 NaN, no scale code
0xFF. -/
def State.fillBits (s : State) (d : Desc) (n : Nat) : List Byte × Byte :=
  match d.fmt with
  | 0 => (leBytes 4 d.fill.toNat, 0)
  | 0xC => (leBytes 4 d.fill.toNat, 0)
  | 1 => (leBytes 2 (toBf (in32 d.fill.toNat).1).1, 0)
  | 0xD => (leBytes 2 d.fill.toNat, 0)
  | 0xA => (leBytes 1 d.fill.toNat, 0)
  | 0x9 => (leBytes 1 d.fill.toNat, 0)
  | _ =>
    if isMx d.fmt then
      let q := quantBlock d.fmt 0 (List.replicate 32 (in32 d.fill.toNat).1)
      let c := nth q.1 0 0
      let bits := match d.fmt with
        | 6 => List.replicate (n / 2) (BitVec.ofNat 8 (c + 16 * c))
        | 4 => (List.range (n / 4)).flatMap fun _ => leBytes 3 (c + 64 * c + 4096 * c + 262144 * c)
        | 5 => (List.range (n / 4)).flatMap fun _ => leBytes 3 (c + 64 * c + 4096 * c + 262144 * c)
        | _ => List.replicate n (BitVec.ofNat 8 c)
      (bits, BitVec.ofNat 8 q.2.1)
    else
      let f (i : Nat) : Nat := Config.freeNat (s.freeCtr + i)
      let el (i : Nat) : Nat :=
        if d.fmt = 8 then (if i % 7 = 6 then 117 + f i % 9 else f i % 243)
        else if d.fmt = 0xB then f i % 127 + 128 * (f i / 127 % 2)
        else f i
      ((List.range (rowLen d.fmt (32 * n) / 32)).map fun i => BitVec.ofNat 8 (el i), BitVec.ofNat 8 (f 64 % 255))

/-- The memory that an operand's elements and auxiliary arrays take: space, first byte, length. -/
def State.memOf (s : State) (v : View) (d : Desc) : List (Nat × Nat × Nat) :=
  (allCoords (d.sizes.drop 1)).filterMap (fun cs => (s.rowAddr v d cs).map fun a => (d.space, a, rowLen d.fmt (32 * d.size 0) / 32))
    ++ ([d.scaleH, d.pscaleH, d.escH].filterMap s.auxDesc).map fun x => (x.space, x.base, x.footprint)

/-- Whether source and destination overlap in memory (R442). -/
def State.overlapping (s : State) (v : View) (a b : Desc) : Bool :=
  (s.memOf v a).any fun x => (s.memOf v b).any fun y =>
    x.1 == y.1 && decide (x.2.1 < y.2.1 + y.2.2) && decide (y.2.1 < x.2.1 + x.2.2)

/-- A write of a `COPY`. Where source and destination overlap each element is, as the bits of a free number say, the one that was there or
the one that the macro-instruction computed (R442, R137); what lies in host memory outside the source is not known and is written. -/
def State.copyEmit (s : State) (p i key : Nat) (v : View) (j : CopyJob) (space a : Nat) (bs : List Byte) (ew : Nat := 8) : State :=
  if j.clash ∧ (space < 2 ∨ (j.a.base ≤ a ∧ a + bs.length ≤ j.a.base + j.a.footprint)) then
    let r := s.fresh
    (r.2.emit p i 0xFFFF key space a (mixEls ew r.1 ((List.range bs.length).map fun k => v space (a + k)) bs) ew).1
  else (s.emit p i 0xFFFF key space a bs ew).1

/-- Write bytes of n elements at coordinates of the destination; out of bounds they are dropped and counted. -/
def State.copyPut (s : State) (p i key : Nat) (v : View) (j : CopyJob) (cs : List Nat) (n : Nat) (bs : List Byte) : State × Bool :=
  let d := j.b
  if nth cs 0 0 + n ≤ d.size 0 then
    match s.rowAddr v d (cs.drop 1) with
    | some a => (s.copyEmit p i key v j d.space (a + rowLen d.fmt (32 * nth cs 0 0) / 32) bs (elBits d.fmt), true)
    | none => (s.addRec p i 0 n, false)
  else (s.addRec p i 0 n, false)

/-- Write one byte of an auxiliary array. -/
def State.auxPut (s : State) (p i key : Nat) (v : View) (j : CopyJob) (h : Word) (off : Nat) (bs : List Byte) : State :=
  match s.auxDesc h with
  | some x => s.copyEmit p i key v j x.space (x.base + off) bs
  | none => s

/-- Bytes of an auxiliary array. -/
def State.auxGet (s : State) (v : View) (h : Word) (off n : Nat) : List Byte :=
  match s.auxDesc h with
  | some x => (List.range n).map fun k => v x.space (x.base + off + k)
  | none => List.replicate n 0

/-- Copy the bits of an atom: one element, or a block of 32 along dimension 0 with its scale, its panel scale and its escape
record. The bits go over as they are: a NaN, an Inf, an E8M0 code 0xFF or an invalid Q2T byte that the source holds is copied, although R79
says that Bartor writes none, since R442 asks for the same bits (log entry 70). -/
def State.copyAtom (s : State) (p i key : Nat) (v : View) (j : CopyJob) (n : Nat) (o : List Nat) : State :=
  let src := s.copySrc v j o
  let dst := s.copyDst v j o
  let got := if src.2.1 then none else src.1.bind fun cs => (s.rawAt v j.a cs n).map fun b => (cs, b)
  -- a position that a gather skips reads FILL uncounted, one that a scatter skips counts nothing (R132)
  let fills := if got.isNone && src.1.isSome && !(dst.1.isNone && dst.2.2 == 0) then n else 0
  let s := s.addRec p i (src.2.2 + dst.2.1 + fills) (dst.2.2 * n)
  match dst.1 with
  | none => s
  | some dc =>
    let fb := s.fillBits j.a n
    let s := if got.isNone ∧ isCelat j.a.fmt then s.fresh.2 else s
    let bs := match got with | some x => x.2 | none => fb.1
    let r := s.copyPut p i key v j dc n bs
    if r.2 = false ∨ j.b.scaleH = 0 then r.1
    else
      let sc := match got with | some x => s.auxGet v j.a.scaleH (j.a.blockNo x.1) 1 | none => [fb.2]
      let s := r.1.auxPut p i key v j j.b.scaleH (j.b.blockNo dc) sc
      if isCelat j.b.fmt then
        match got with
        | none => s
        | some x =>
          let s := s.auxPut p i key v j j.b.pscaleH (2 * (nth dc 1 0 / 256)) (s.auxGet v j.a.pscaleH (2 * (nth x.1 1 0 / 256)) 2)
          let idx := leAt x.2 0 4
          let fits (h : Word) : Bool := (s.auxDesc h).any fun e => decide (32 * idx + 32 ≤ e.size 0)
          if sc = [0xFF] ∧ fits j.a.escH = true ∧ fits j.b.escH = true then
            s.auxPut p i key v j j.b.escH (32 * idx) (s.auxGet v j.a.escH (32 * idx) 32)
          else s
      else s

/-- A source element decoded to FP32 (R125), or `FILL`, a subnormal one as zero (R77); counted. -/
def State.copyVal (s : State) (v : View) (j : CopyJob) (o : List Nat) : Nat × Nat :=
  let fill := (in32 j.a.fill.toNat).1
  let src := s.copySrc v j o
  match src.1 with
  | none => (fill, src.2.2)
  | some cs =>
    if src.2.1 then (fill, src.2.2 + 1)
    else
      let last := j.a.rank - 1
      let past := j.gather == false && j.bnd.any fun n => decide (n ≤ nth cs last 0)
      if past then (fill, src.2.2 + 1)
      else let r := s.elRead v j.a cs; (r.val, src.2.2 + r.cnt.oobRd)

/-- Decode one element to FP32. -/
def State.copyDeco (s : State) (p i key : Nat) (v : View) (j : CopyJob) (o : List Nat) : State :=
  let x := s.copyVal v j o
  let dst := s.copyDst v j o
  let s := s.addRec p i ((if dst.1.isNone ∧ dst.2.2 = 0 then 0 else x.2) + dst.2.1) dst.2.2
  match dst.1 with
  | some dc => (s.copyPut p i key v j dc 1 (leBytes 4 x.1)).1
  | none => s

/-- Requantize one block of 32 along the destination's dimension 0; `o` in the destination's orientation. -/
def State.copyReq (s : State) (p i key : Nat) (v : View) (j : CopyJob) (o : List Nat) : State :=
  let at' (k : Nat) : List Nat := let q := modNth o 0 (· + k); if j.tr then swap01 q else q
  let xs := (List.range 32).map fun k => s.copyVal v j (at' k)
  let q := quantBlock j.b.fmt 0 (xs.map fun x => (in32 x.1).1)
  let dst := s.copyDst v j (at' 0)
  let s := s.addRec p i (if dst.1.isNone ∧ dst.2.2 = 0 then dst.2.1 else xs.foldl (fun n x => n + x.2) dst.2.1) (32 * dst.2.2)
  match dst.1 with
  | none => s
  | some dc =>
    let r := s.copyPut p i key v j dc 32 (q.1.map (BitVec.ofNat 8))
    if r.2 then r.1.auxPut p i key v j j.b.scaleH (j.b.blockNo dc) [BitVec.ofNat 8 q.2.1] else r.1

/-- Stepped coordinates: dimension 0 in blocks of 32. Where a run-time bound narrows a blocked dimension 0 to no multiple of 32,
which R122 leaves open, the model moves the whole last block; along a dimension 1 of blocks only the bounded rows move
(log entry 71). -/
def blockCoords (sz : List Nat) : List (List Nat) :=
  (allCoords (modNth sz 0 fun n => ceilDiv n 32)).map fun o => modNth o 0 (· * 32)

/-- The order of a scattered operand element: the position of its granule or index in the destination operand (R133, R134);
0 without a scatter. `o` in the destination's orientation. -/
def CopyJob.key (j : CopyJob) (i : Nat) (o : List Nat) : Nat :=
  if j.scatter = false then 0
  else placeKey i (1 + if j.m.iform = 2 then nth o j.m.idim 0 else granuleNo j.m (if j.tr then swap01 j.sqSizes else j.sqSizes) o)

/-- Run a `COPY` (R442). Scattered positions carry their order (R133). -/
def State.copyRun (s : State) (p i : Nat) (v : View) (j : CopyJob) : State :=
  let sz := j.sqSizes
  let blk := j.a.blkAxis == 1
  let dest (o : List Nat) : List Nat := if j.tr then swap01 o else o
  let step : State → List Nat → State := fun s o =>
    if j.bits then s.copyAtom p i (j.key i (dest o)) v j (if blk && !j.tr then 32 else 1) o
    else if j.deco then s.copyDeco p i (j.key i (dest o)) v j o
    else s.copyReq p i (j.key i o) v j o
  let os := if j.bits then (if blk && !j.tr then blockCoords sz else allCoords sz)
    else if j.deco then allCoords sz
    else blockCoords (if j.tr then swap01 sz else sz)
  os.foldl step s

/-- The host ranges of a `COPY`'s source and list: whole rows, block by block. -/
def State.copyRngs (s : State) (v : View) (j : CopyJob) : List Rng :=
  let src := if j.a.space < 2 then [] else
    (allCoords (j.a.sizes.drop 1)).flatMap fun cs =>
      if j.gather = false ∧ j.bnd.any (fun n => decide (j.a.rank = 1 ∨ n ≤ nth cs (j.a.rank - 2) 0)) = true ∧ j.a.rank ≠ 1 then []
      else s.elRngs v j.a 0 (j.a.size 0) cs
  let lst := match j.l with
    | some l =>
      if l.space < 2 then []
      else if l.rank = 1 then [⟨l.space, l.base, rowLen l.fmt (32 * l.size 0) / 32⟩]
      else (List.range (l.size 1)).flatMap fun k => s.rowRng v l [k] 0 (l.size 0)
    | none => []
  let dst := if j.b.paged ∧ 2 ≤ j.b.space then [⟨j.b.space, j.b.base, 8 * j.b.size (j.b.rank - 1)⟩] else []
  src ++ lst ++ dst

/-- `COPY` (R442): the first one reached and not done runs once what it reads is visible and there. -/
def execCopy (p : Nat) (s : State) : Host.Outcome State Fault Refusal :=
  .next <|
    match s.ctxOf p with
    | none => s
    | some c =>
      if c.phase ≠ .run then s
      else
        match (List.range c.prog.length).find? fun i => (c.mi i).op == 0x48 && (nth c.recs i freshRec).reached && !(nth c.recs i freshRec).done with
        | none => s
        | some i =>
          if s.readsReady p c i none = false then s
          else
            let m := c.mi i
            match s.dOf m.op0, s.dOf m.op1 with
            | some a, some b =>
              let bd := nth c.bounds i 0
              let j : CopyJob := { m := m, a := a, b := b, l := s.dOf m.ih, bnd := if bd = 0 then none else some (bd - 1), clash := false }
              match s.want p i (s.copyRngs (s.view c i) j) with
              | (false, s) => s
              | (true, s) =>
                let s := s.hbmRead
                match s.ctxOf p with
                | none => s
                | some c =>
                  let v := s.view c i
                  ((s.copyRun p i v { j with clash := s.overlapping v a b }).modCtx p fun c =>
                    { c with recs := modNth c.recs i fun r => { r with done := true } }).pump p
            | _, _ => s

end Sys2Proof.Machine
end

