-- ==== Sys2Proof/Machine/Contrib.lean ====
section
/-! DEFINITION. Contributions at an adapter's owner (R255–R261): the ownership request, the write-back, the close of a round. -/

namespace Sys2Proof.Machine

open Sys2Proof

/-- Sort keys by R255, most significant field first. -/
def SortKey.lt (a b : SortKey) : Bool := lexLt [a.sseq, a.inst, a.part, a.idx] [b.sseq, b.inst, b.part, b.idx]

/-- Slots of the owner gradient drawer in use: granted or written, and those of an open round (R257, R265). -/
def Entry.slotsUsed (e : Entry) : List Nat :=
  e.contribs.map (·.slot) ++ (match e.round with | some r => r.contribs.map (·.slot) | none => [])

/-- Granules of one contribution slot. -/
def State.contribLen (s : State) (e : Entry) : Nat := ceilDiv (s.gradSize ⟨e.rank, e.wfmtA, e.wfmtB, e.projs⟩) granule

/-- The owner's answer to an ownership request (R257): a slot or a status. -/
def State.gdRequest (s : State) (aid base : Nat) (key : SortKey) (src : Nat) : Except Status Nat × State :=
  match s.entry aid with
  | none => (.error .adapterUnknown, s)
  | some e =>
    if e.owned = false ∨ e.learn = false ∨ e.state ≠ .ready ∨ e.master.isNone then (.error .adapterUnknown, s)
    else if (e.slot base).any (fun v => v.vstate == .current || v.vstate == .retained) = false then (.error .versionGone, s)
    else if e.frozen then (.error .noCapacity, s)   -- R317 phase 3
    else
      match (List.range 16).find? fun i => !(e.slotsUsed.contains i) with
      | none => (.error .noCapacity, s)
      | some i =>
        match s.charge e.home (s.contribLen e) (.contrib aid i) with
        | (none, s) => (.error .noCapacity, s)
        | (some _, s) =>
          (.ok i, s.modEntry aid fun e =>
            { e with contribs := e.contribs ++ [{ slot := i, key := key, base := base, src := src, due := s.now + usTicks s.pol.gdHold.toNat, written := false, data := [] }] })

/-- A write-back completes in its slot (R256, R336): true when it is committed, now or before. -/
def State.gdWrite (s : State) (aid slot : Nat) (key : SortKey) (mats : List (List Nat)) : Bool × State :=
  match s.entry aid with
  | none => (false, s)
  | some e =>
    if e.keysNow.contains key ∨ e.keysPrev.contains key = true then (true, s)
    else
      match e.contribs.find? fun c => c.slot == slot && c.key == key && !c.written with
      | none => (false, s)
      | some _ =>
        (true, s.modEntry aid fun e =>
          { e with
            contribs := updFirst e.contribs (fun c => c.slot == slot && c.key == key) fun c => { c with written := true, data := mats }
            keysNow := e.keysNow ++ [key] })

/-- Release a granted slot (R259). -/
def State.dropSlot (s : State) (aid slot : Nat) : State :=
  (s.modEntry aid fun e => { e with contribs := e.contribs.filter fun c => c.slot != slot }).modCab fun c => c.release (.contrib aid slot)

/-- Close the round of an adapter (R261, R264): the written contributions in key order. -/
def State.closeRound (s : State) (aid gscale : Nat) : State :=
  s.modEntry aid fun e =>
    let w := insSort (fun (a b : Contrib) => a.key.lt b.key) (e.contribs.filter (·.written))
    { e with
      round := some { contribs := w, gscale := gscale, target := nextEpoch e.curEpoch, mark := 0
                      opt := (e.master.map (·.opt)).getD ⟨0, 0, 0, 0, 0, 0, 0⟩ }
      contribs := e.contribs.filter fun c => !c.written
      keysPrev := e.keysNow, keysNow := [] }

/-- Elements of a master area, and where each matrix starts. -/
def Master.size (m : Master) : Nat := m.mats.foldl (fun n x => n + x.w.length) 0

/-- Update elements lo ≤ i < hi of the master area from the open round (R263–R265); padded lanes are written +0. The optimizer
record is the one the round started with (R263). -/
def optTile (e : Entry) (m : Master) (r : Round) (shapes : List (Nat × Nat)) (lo hi : Nat) : Master × Cnt :=
  let out := (m.mats.mapIdx fun i x => (i, x)).foldl (fun (st : List MasterMat × Nat × Nat × Cnt) ix =>
    let (acc, base, panel, nf) := st
    let isB := ix.1 % 2 == 1
    let sh := shapeOf e.rank isB (nth shapes (ix.1 / 2) (64, 64))
    let mm := ix.2
    let n := mm.w.length
    let pan := panel + ceilDiv sh.1 256
    if hi ≤ base ∨ base + n ≤ lo then (acc ++ [mm], base + n, pan, nf)
    else
      let rs := (List.range n).map fun k =>
        let row := k / sh.2
        let col := k % sh.2
        if base + k < lo ∨ hi ≤ base + k then (nth mm.w k 0, nth mm.m k 0, nth mm.v k 0, Cnt.zero)
        else if (if isB then col else row) < e.rank then
          optWrite r.opt e.aid r.target (panel + row / 256) ((row % 256) * sh.2 + col) (nth mm.w k 0) (nth mm.m k 0) (nth mm.v k 0)
            (roundElem (r.contribs.map fun c => nth (nth c.data ix.1 []) k 0) r.gscale)
        else (0, 0, 0, Cnt.zero)
      (acc ++ [⟨rs.map (·.1), rs.map (·.2.1), if r.opt.kind = 1 then rs.map (·.2.2.1) else []⟩], base + n, pan,
        rs.foldl (fun k x => k.plus x.2.2.2) nf)) ([], 0, 0, Cnt.zero)
  ({ m with mats := out.1 }, out.2.2.2)

end Sys2Proof.Machine
end

