-- ==== Sys2Proof/Machine/Serial.lean ====
section
/-! DEFINITION. The macro-instructions that hold the program position (R431, R251–R270, R443, R441, R415, R429): `POOL_SUM` and
`POOL_MEAN`, `GRAD_SHIP`, `OPT_STEP`, `QUANT_PUBLISH`, `STAT`, `FENCE`, `END`, and `LATCH_REL`. Each command moves its
macro-instruction on by one piece of its work: a drawer, an adapter, a tile. -/

namespace Sys2Proof.Machine

open Sys2Proof

/-! ### Position -/

/-- The context and index when the program stands at a macro-instruction of this opcode and every earlier one is complete. -/
def State.serialAt (s : State) (p op : Nat) : Option (Ctx × Nat) :=
  match s.ctxOf p with
  | none => none
  | some c =>
    if c.phase = .run ∧ c.role ≠ .serve ∧ c.pc < c.prog.length ∧ (c.mi c.pc).op = op ∧ c.beforeDone c.pc = true then some (c, c.pc)
    else none

def State.modRec (s : State) (p i : Nat) (f : MacRec → MacRec) : State :=
  s.modCtx p fun c => { c with recs := modNth c.recs i f }

/-- A macro-instruction completes and the position passes it. -/
def State.serialDone (s : State) (p i : Nat) : State :=
  ((s.modRec p i fun r => { r with reached := true, done := true }).modCtx p fun c =>
    Ctx.advance c.prog.length { c with pc := i + 1 }).pump p

/-- Add a list record to macro-instruction i (R450, R451). -/
def State.addList (s : State) (p i : Nat) (r : ListRec) : State :=
  (s.modCtx p fun c => { c with lists := c.lists ++ [{ r with mi := i }] }).modRec p i fun r => { r with lcount := r.lcount + 1 }

def listRec (aid : Nat) (st : Status) (kind epoch : Nat) : ListRec :=
  { mi := 0x1FFF, aid := aid, status := st, kind := kind, skip := false, esc := 0, epoch := epoch, cnt := 0, satAcc := 0, nonfin := 0 }

/-- A `QUANT_PUBLISH` record with the counters of R80. -/
def pubRec (aid : Nat) (st : Status) (epoch esc : Nat) (c : Cnt) : ListRec :=
  { listRec aid st 2 epoch with esc := esc, cnt := sat32 c.satQ, satAcc := sat32 c.satAcc, nonfin := sat32 c.nonfin }

def skipRec (aid kind : Nat) : ListRec := { listRec aid .ok kind 0 with skip := true }

/-! ### `POOL_SUM` and `POOL_MEAN` (R251, R252) -/

/-- One chunk's partial of a matrix, row-major: pieces of dB follow each other, pieces of dA lie side by side. -/
def gradMat (ps : List GPartial) : List Nat :=
  let l := insSort (fun (a b : GPartial) => decide (a.o0 < b.o0)) ps
  match l.head? with
  | none => []
  | some h =>
    if h.isB then l.flatMap fun g => g.vals.flatten
    else (List.range h.vals.length).flatMap fun i => l.flatMap fun g => nth g.vals i []

/-- The reduction of one matrix of a drawer: what is added to its gradient drawer, and `SAT_ACC`. `div` is the divisor of
`POOL_MEAN`, 0 for `POOL_SUM`. -/
def poolMat (ps : List GPartial) (isB : Bool) (alphaR div : Nat) : List Nat × Nat :=
  let cs := (List.range (ps.foldl (fun n g => max n (g.chunk + 1)) 0)).map fun c => gradMat (ps.filter fun g => g.chunk == c)
  match cs with
  | [] => ([], 0)
  | c0 :: rest =>
    let rs := c0.mapIdx fun k x =>
      let a := rest.foldl (fun (st : Nat × Nat) c => let r := add32 st.1 (nth c k 0); (r.1, st.2 + r.2)) (x, 0)
      let b := if isB then let r := mul32 a.1 alphaR; (r.1, a.2 + r.2) else a
      if div = 0 then b else
        match div32 b.1 (natF div) with
        | some r => (r.1, b.2 + r.2)
        | none => b
    (rs.map (·.1), rs.foldl (fun n r => n + r.2) 0)

/-- Add to a gradient drawer's matrix; a matrix to which nothing has been added holds +0. -/
def gradAdd (old s : List Nat) : List Nat × Nat :=
  let rs := s.mapIdx fun k x => add32 (nth old k 0) x
  (rs.map (·.1), rs.foldl (fun n r => n + r.2) 0)

def State.modGrad (s : State) (p aid base : Nat) (f : GradDrawer → GradDrawer) : State :=
  s.modCab fun c => { c with grads := updFirst c.grads (fun g => g.part == p && g.aid == aid && g.base == base) f }

/-- The drawers that a reduction covers. -/
def Ctx.reduced (c : Ctx) : List Nat := (List.range c.drawers.length).filter fun k => (c.drw k).path != .visit

/-- Mark the home write of the drawer at a position, if something is written to its gradient drawer: its rows stand at OK and it has
partials (R252, R272). -/
def State.homeWrite (s : State) (p : Nat) (c : Ctx) (n : Nat) : State :=
  match (c.reduced)[n]? with
  | some k =>
    if (c.drw k).slots.any (fun sl => !c.posOk sl) || !(c.parts.any fun g => g.drw == k) then s
    else s.modGrad p (c.drw k).aid (c.drw k).epoch fun g => { g with homeWrite := true }
  | none => s

/-- Add one drawer's partials to its gradient drawer. -/
def State.poolDrawer (s : State) (p i k : Nat) (c : Ctx) (mean : Bool) : State :=
  let d := c.drw k
  let s := s.modGrad p d.aid d.epoch fun g => { g with homeWrite := false }
  if d.slots.any fun sl => !c.posOk sl then
    s.modCtx p fun c => { c with drawers := modNth c.drawers k fun d => { d with gdDrop := true } }
  else
    let div := if mean = false then 0 else if (c.mi i).flag then d.slots.length else d.nvec
    let alphaR := ((s.wmat d (d.projs.headD 0) true).map (·.2.2.alphaR)).getD 0
    (List.range (2 * d.projs.length)).foldl (fun (s : State) m =>
      let isB := m % 2 == 1
      let ps := c.parts.filter fun g => g.drw == k && g.proj == nth d.projs (m / 2) 0 && g.isB == isB
      if ps.isEmpty then s
      else
        let r := poolMat ps isB alphaR div
        let old := match s.cab.grads.find? fun g => g.part == p && g.aid == d.aid && g.base == d.epoch with
          | some g => nth g.data m []
          | none => []
        let a := gradAdd old r.1
        let s := s.modGrad p d.aid d.epoch fun g =>
          let data := if g.data.isEmpty then List.replicate (2 * d.projs.length) [] else g.data
          { g with filled := true, data := modNth data m fun _ => a.1 }
        s.addGrad p k (r.2 + a.2)) s

/-- One command of a reduction: the first begins it, each later one completes a drawer. -/
def State.pool (s : State) (p op : Nat) (mean : Bool) : State :=
  match s.serialAt p op with
  | none => s
  | some (c, i) =>
    let r := nth c.recs i freshRec
    if r.reached = false then
      if c.reduced.isEmpty then s.serialDone p i
      else (s.modRec p i fun r => { r with reached := true }).homeWrite p c 0
    else
      match (c.reduced)[r.pos]? with
      | none => s.serialDone p i
      | some k =>
        let s := (s.poolDrawer p i k c mean).modRec p i fun r => { r with pos := r.pos + 1 }
        if r.pos + 1 < c.reduced.length then s.homeWrite p c (r.pos + 1) else s.serialDone p i

/-- `POOL_SUM` (R251). -/
def execPoolSum (p : Nat) (s : State) : Host.Outcome State Fault Refusal := .next (s.pool p 0x22 false)
/-- `POOL_MEAN` (R251). -/
def execPoolMean (p : Nat) (s : State) : Host.Outcome State Fault Refusal := .next (s.pool p 0x23 true)

/-! ### `GRAD_SHIP` (R254–R260) -/

/-- Remove a gradient drawer. -/
def State.dropGrad (s : State) (p aid base : Nat) : State :=
  s.modCab fun c =>
    { (c.release (.grad p aid base)) with grads := c.grads.filter fun g => !(g.part == p && g.aid == aid && g.base == base) }

/-- A shipment has a status (R257, R260): its list record, in the step's report or in the power-down report, and what becomes of
the gradient drawer. In power-down every drawer that is not shipped is discarded (R274). -/
def State.shipDone (s : State) (p sseq aid base : Nat) (st : Status) : State :=
  let is (r : ListRec) : Bool := r.kind == 3 && r.aid == aid && r.epoch == base && r.status == .deferred
  let upd (x : Ctx) : Ctx :=
    if x.sub.sseq = sseq then { x with lists := updFirst x.lists is fun r => { r with status := st } } else x
  let pd := s.pwr.pdLists.any fun e => e.1 == p && is e.2
  let s := s.modP p fun q => { q with ctx := q.ctx.map upd, svCtx := q.svCtx.map upd, finals := q.finals.map upd }
  let s := s.modPwr fun w => { w with pdLists := updFirst w.pdLists (fun e => e.1 == p && is e.2) fun e => (e.1, { e.2 with status := st }) }
  if st = .ok ∨ st = .adapterUnknown ∨ st = .versionGone ∨ pd = true then s.dropGrad p aid base else s

/-- The gradient drawers that a `GRAD_SHIP` ships, in ship order; `l` the adapters of a list, `none` for all. One to which nothing has
been added holds +0 (R248, R251). -/
def State.shipList (s : State) (p : Nat) (l : Option (List Nat)) : List GradDrawer :=
  insSort (fun (a b : GradDrawer) => lexLt [a.aid, a.base] [b.aid, b.base])
    (s.cab.grads.filter fun g => g.part == p && match l with | some l => l.contains g.aid | none => true)

/-- The owner to which a gradient drawer goes: the one recorded at step issue, or, for the final ship of power-down, the view's (R254). -/
def State.shipOwner (s : State) (p sseq aid : Nat) : Option Nat :=
  match (s.ctxOf p).filter fun c => c.sub.sseq == sseq with
  | some c => (c.owners.find? fun e => e.1 == aid).map (·.2)
  | none => s.ownerAt aid

/-- Ship one gradient drawer whose record stands as DEFERRED. -/
def State.shipOne (s : State) (p sseq mi ship : Nat) (g : GradDrawer) : State :=
  let key : SortKey := { sseq := sseq, inst := s.me, part := p, idx := ship }
  let o := s.shipOwner p sseq g.aid
  if g.celat = false then s.shipDone p sseq g.aid g.base .formatUnsupported   -- R260
  else if o = some s.me then
    match s.gdRequest g.aid g.base key s.me with
    | (.error st, s) => s.shipDone p sseq g.aid g.base st
    | (.ok slot, s) => let r := s.gdWrite g.aid slot key g.data; r.2.shipDone p sseq g.aid g.base (if r.1 then .ok else .timeout)
  else
    match o with
    | none => s.shipDone p sseq g.aid g.base .ownerUnreachable
    | some o =>
      if s.unreach o then s.shipDone p sseq g.aid g.base .ownerUnreachable
      else s.request o (.gd p sseq mi ship) 0x16 g.aid g.base (.gdReq key)

/-- Ship gradient drawers in order, `add` entering each record first. -/
def State.shipAll (s : State) (p sseq mi : Nat) (gs : List GradDrawer) (add : State → ListRec → State) : State :=
  (gs.zip (List.range gs.length)).foldl (fun (s : State) x =>
    (add s (listRec x.1.aid .deferred 3 x.1.base)).shipOne p sseq mi x.2 x.1) s

/-- The records of a list's entries that name no adapter (R444). -/
def badEntry (a : Nat) : Option Status := if 2 ^ 24 ≤ a then some .descInvalid else if a = 0 then some .adapterUnknown else none

/-- A macro-instruction starts and reads its list (R444), where it names one: the entries are kept, those out of bounds counted. False
while the list's bytes are on their way. -/
def State.startList (s : State) (p i : Nat) (c : Ctx) : Bool × State :=
  if (nth c.recs i freshRec).reached then (true, s)
  else if (c.mi i).hasList = false then (true, s.modRec p i fun r => { r with reached := true })
  else
    match s.want p i (s.listRngs c i) with
    | (false, s) => (false, s)
    | (true, s) =>
      let l := ((s.ctxOf p).map fun c => s.listOf c i i).getD ([], 0)
      (true, (s.modRec p i fun r => { r with reached := true, list := l.1 }).addRec p i l.2 0)

/-- The list of a macro-instruction that has started. -/
def State.theList (s : State) (p i : Nat) : List Nat := ((s.ctxOf p).map fun c => (nth c.recs i freshRec).list).getD []

/-- `GRAD_SHIP` (R254–R260): the first command ships; a later one completes it once every shipment has a status. -/
def execGradShip (p : Nat) (s : State) : Host.Outcome State Fault Refusal :=
  .next <|
    match s.serialAt p 0x24 with
    | none => s
    | some (c, i) =>
      let s' :=
        if (nth c.recs i freshRec).reached then s
        else
          let st := s.startList p i c
          if st.1 = false then st.2 else
          let s1 := st.2.hbmWork
          let sel := if (c.mi i).flag then some (s1.theList p i) else none
          let s2 := s1.shipAll p c.sub.sseq i (s1.shipList p sel) fun s r => s.addList p i r
          (sel.getD []).foldl (fun (s : State) a =>
            match badEntry a with
            | some st => s.addList p i (listRec (a % 2 ^ 24) st 3 0)
            | none => s) s2
      if (s'.ctxOf p).any (fun c => !(nth c.recs i freshRec).reached || c.lists.any fun r => r.kind == 3 && r.status == .deferred) then s' else s'.serialDone p i

/-! ### `OPT_STEP` (R262–R266) -/

/-- Elements of an `OPT_STEP` tile. -/
def optTileSize : Nat := 4096

/-- The status or skip with which `OPT_STEP` passes an adapter by. -/
def State.optPass (s : State) (p aid : Nat) : Option ListRec :=
  match badEntry aid with
  | some st => some (listRec (aid % 2 ^ 24) st 1 0)
  | none =>
    match s.entry aid with
    | none => some (listRec aid .adapterUnknown 1 0)
    | some e =>
      if e.owned = false ∨ e.home ≠ p ∨ e.learn = false ∨ e.master.isNone then some (listRec aid .adapterUnknown 1 0)
      else if e.badMaster then some (listRec aid .internal 1 0)
      else if e.frozen ∨ (e.round.isNone ∧ e.contribs.any (·.written) = false) then some (skipRec aid 1)
      else none

/-- The open record of an adapter under way. -/
def ListRec.openOpt (r : ListRec) (aid : Nat) : Bool := r.kind == 1 && r.aid == aid && r.status == .deferred

/-- Update one tile of an adapter from its open round; at the last element the round ends. -/
def State.optRun (s : State) (p i aid : Nat) : State :=
  -- an adapter that was freed meanwhile (R142) is known no longer
  let gone : State := (s.modCtx p fun c =>
    { c with lists := updFirst c.lists (·.openOpt aid) fun x => { x with status := .adapterUnknown } }).modRec p i fun x => { x with pos := x.pos + 1 }
  match s.entry aid with
  | none => gone
  | some e =>
    match e.master, e.round with
    | some m, some r =>
      let hi := r.mark + optTileSize
      let t := optTile e m r (e.projs.map s.shape) r.mark hi
      let s := s.modCtx p fun c => { c with lists := updFirst c.lists (·.openOpt aid) fun x =>
        { x with cnt := sat32 (x.cnt + t.2.nonfin), nonfin := sat32 (x.nonfin + t.2.nonfin), satAcc := sat32 (x.satAcc + t.2.satAcc) } }
      if hi < m.size then s.modEntry aid fun e => { e with master := some t.1, round := some { r with mark := hi } }
      else
        let s := s.modEntry aid fun e =>
          { e with master := some { t.1 with opt := { m.opt with t := m.opt.t + 1 } }, round := none, target := r.target, dirty := true }
        let s := r.contribs.foldl (fun (s : State) c => s.modCab fun b => b.release (.contrib aid c.slot)) s
        (s.modCtx p fun c => { c with lists := updFirst c.lists (·.openOpt aid) fun x => { x with status := .ok, epoch := r.target } }).modRec p i
          fun x => { x with pos := x.pos + 1 }
    | _, _ => gone

/-- `OPT_STEP` (R262–R266): each command updates one tile, or passes one adapter by. -/
def execOptStep (p : Nat) (s : State) : Host.Outcome State Fault Refusal :=
  .next <|
    match s.serialAt p 0x30 with
    | none => s
    | some (c, i) =>
      let st := s.startList p i c
      let s := st.2
      if st.1 = false then s else
      match (s.theList p i)[(nth c.recs i freshRec).pos]? with
      | none => s.serialDone p i
      | some aid =>
        if c.lists.any (·.openOpt aid) then s.hbmWork.optRun p i aid
        else
          match s.optPass p aid with
          | some x => (s.addList p i x).modRec p i fun r => { r with pos := r.pos + 1 }
          | none =>
            let opened := (s.entry aid).any fun e => e.round.isSome
            let s := if opened then s else s.closeRound aid (c.mi i).op1.toNat
            (s.addList p i (listRec aid .deferred 1 0)).hbmWork.optRun p i aid

/-! ### `QUANT_PUBLISH` (R267–R270) -/

/-- Quantize and hand over one adapter. -/
def State.publishOne (s : State) (p i sseq aid : Nat) : State :=
  match badEntry aid with
  | some st => s.addList p i (listRec (aid % 2 ^ 24) st 2 0)
  | none =>
    match s.entry aid with
    | none => s.addList p i (listRec aid .adapterUnknown 2 0)
    | some e =>
      match e.master with
      | none => s.addList p i (listRec aid .adapterUnknown 2 0)
      | some m =>
        if e.owned = false ∨ e.home ≠ p then s.addList p i (listRec aid .adapterUnknown 2 0)
        else if e.badMaster then s.addList p i (listRec aid .internal 2 e.target)
        else if e.dirty = false ∨ e.round.isSome ∨ e.frozen then s.addList p i (skipRec aid 2)
        else
          let n := s.cab.nextResv
          let shapes := e.projs.map s.shape
          match s.charge p (ceilDiv (pubSize e shapes) granule) (.resv n) with
          | (none, s) => s.addList p i (listRec aid .noCapacity 2 e.target)
          | (some g, s) =>
            -- the padded lanes of the master copy and the moments are written +0 (R145)
            let s := s.modEntry aid fun e => { e with master := some (m.padded e.rank shapes) }
            let pb := publishBlob e m shapes e.alpha e.tau e.tau e.target s.pol.pubMinor.toNat
            match pb.1 with
            | none =>
              (s.modCab fun c => { (c.release (.resv n)) with nextResv := n + 1 }).addList p i
                (pubRec aid .numericGuard e.target pb.2.1 pb.2.2)
            | some bs =>
              let s := (s.land 0 (gAddr g) bs).modCab fun c => { c with nextResv := n + 1 }
              (s.candidate { aid := aid, kind := 2, target := e.target, part := p, sseq := sseq, base := g, blen := bs.length,
                             esc := pb.2.1, tau := e.tau, resv := n, up := none, boot := false, sat := sat32 pb.2.2.satQ, since := 0 }).addList p i
                (pubRec aid .deferred e.target pb.2.1 pb.2.2)

/-- `QUANT_PUBLISH` (R267–R270): each command publishes one adapter; it is complete when every commit has ended. -/
def execQuantPublish (p : Nat) (s : State) : Host.Outcome State Fault Refusal :=
  .next <|
    match s.serialAt p 0x31 with
    | none => s
    | some (c, i) =>
      let st := s.startList p i c
      let s := st.2
      if st.1 = false then s else
      match (s.theList p i)[(nth c.recs i freshRec).pos]? with
      | some aid => (s.hbmWork.publishOne p i c.sub.sseq aid).modRec p i fun r => { r with pos := r.pos + 1 }
      | none => if c.lists.any (fun x => x.kind == 2 && x.status == .deferred) then s else s.serialDone p i

/-! ### `STAT` (R83–R85, R443) -/

/-- Commit one pair. -/
def State.statPair (s : State) (aid proj : Nat) : State :=
  match s.stat.find? fun e => e.1 == aid && e.2.1 == proj with
  | none => s
  | some x =>
    if x.2.2.1 < 4096 then s
    else
      let s' := s.modEntry aid fun e =>
        match e.projs.findIdx? (· == proj) with
        | some j =>
          let l := (List.range e.projs.length).map fun k => nth e.statoff k 0
          { e with statoff := modNth l j fun k => offCode (statCommit (offVal k) x.2.2.1 x.2.2.2.1 x.2.2.2.2) }
        | none => e
      -- counts that are committed are not taken back
      let upd (c : Ctx) : Ctx := { c with stats := c.stats.filter fun e => !(e.aid == aid && e.proj == proj) }
      { s' with
        stat := s.stat.filter fun e => !(e.1 == aid && e.2.1 == proj)
        prt := s'.prt.map fun q => { q with ctx := q.ctx.map upd, svCtx := q.svCtx.map upd } }

/-- The pairs that a `STAT` commits: those of its list's known adapters, or of every drawer. -/
def State.statPairs (s : State) (c : Ctx) (i : Nat) : List (Nat × Nat) :=
  if (c.mi i).flag then
    (nth c.recs i freshRec).list.flatMap fun a =>
      match s.entry a with
      | some e => e.projs.map fun j => (a, j)
      | none => []
  else c.drawers.flatMap fun d => d.projs.map fun j => (d.aid, j)

/-- `STAT` (R443). -/
def execStat (p : Nat) (s : State) : Host.Outcome State Fault Refusal :=
  .next <|
    match s.serialAt p 0x38 with
    | none => s
    | some (c, i) =>
      match s.startList p i c with
      | (false, s) => s
      | (true, s) =>
        match s.ctxOf p with
        | some c => ((s.statPairs c i).foldl (fun (s : State) x => s.statPair x.1 x.2) s).serialDone p i
        | none => s

/-! ### Ordering and end -/

/-- No write of a macro-instruction before index i is on its way, and all are complete. -/
def State.quiet (s : State) (p : Nat) (c : Ctx) (i : Nat) : Bool :=
  c.beforeDone i &&
    !(s.writes.any fun w => match w.tag with | .step q n j => q == p && n == c.sub.sseq && decide (j < i) | _ => false)

/-- `FENCE` (R415 item 3). -/
def execFence (p : Nat) (s : State) : Host.Outcome State Fault Refusal :=
  .next <|
    match s.serialAt p 0x43 with
    | some (c, i) => if s.quiet p c i then s.serialDone p i else s
    | none => s

/-- `END` (R429): reached, the program has no more to start. -/
def execEndProg (p : Nat) (s : State) : Host.Outcome State Fault Refusal :=
  .next <|
    match s.ctxOf p with
    | some c =>
      if c.phase = .run ∧ c.role ≠ .serve ∧ c.pc < c.prog.length ∧ (c.mi c.pc).op = 0x4F then
        (s.modRec p c.pc fun r => { r with reached := true, done := true }).modCtx p fun c => { c with pc := c.pc + 1 }
      else s
    | none => s

/-- `LATCH_REL` (R441, R415 item 4): the first that is reached and not complete, once earlier writes are visible. -/
def execLatchRel (p : Nat) (s : State) : Host.Outcome State Fault Refusal :=
  .next <|
    match s.ctxOf p with
    | none => s
    | some c =>
      if c.phase ≠ .run then s
      else
        match (List.range c.prog.length).find? fun i =>
            (c.mi i).op == 0x41 && (nth c.recs i freshRec).reached && !(nth c.recs i freshRec).done && s.quiet p c i with
        | none => s
        | some i =>
          let n := fld (c.mi i).op0 14 0
          let held := c.gate.any fun g => g.latch == n && match g.done with | .acquired _ => true | _ => false
          let s := if held then (s.latchOp (.context p) n (if (c.mi i).flag then 3 else 2) 0).2 else s
          (s.modRec p i fun r => { r with done := true }).pump p

end Sys2Proof.Machine
end

