-- ==== Sys2Proof/Machine/Report.lean ====
section
/-! DEFINITION. The step report (R447–R455), and teardown (R398–R400, R230, R272, R137). -/

namespace Sys2Proof.Machine

open Sys2Proof

/-! ### Report -/

/-- Bytes padded to a multiple of 64. -/
def pad64b (bs : List Byte) : List Byte := bs ++ List.replicate (roundUp bs.length 64 - bs.length) 0

/-- A macro-instruction met a condition of BOUNDS_FILLED (R21, R123). -/
def MacRec.bounds (r : MacRec) : Bool := r.oobRd != 0 || r.oobWr != 0

/-- The status of a step (R447). -/
def Ctx.stepStatus (c : Ctx) (final : Bool) : Status :=
  match c.refused with
  | some x => x.1
  | none =>
    if c.torn then .contextTorn
    else if final = false then .preempted
    else if c.recs.any MacRec.bounds then .boundsFilled
    else .ok

/-- A refused or torn step that did not reach phase 4 (R455). -/
def Ctx.early (c : Ctx) : Bool := (c.refused.isSome || c.torn) && (c.resume == .load || c.resume == .gate)

/-- The header of a report (R448). -/
def Ctx.header (c : Ctx) (p : Nat) (final trunc : Bool) : List Byte :=
  let n (x : Nat) : Nat := if c.early then 0 else x
  let mv := c.mv.getD (0, 0, 0)
  leBytes 8 (c.sub.sseq + at_ p 48 + at_ (statusCode (c.stepStatus final)) 56) ++ leBytes 8 (jobId p c.job)
    ++ leBytes 4 c.sub.htag.toNat
    ++ leBytes 4 (c.cause + at_ (b2n final) 4 + at_ (b2n trunc) 5 + at_ (min c.npre 255) 8 + at_ ((c.refused.map (·.2)).getD noIdx) 16)
    ++ leBytes 8 c.snap ++ leBytes 8 c.eng.toNat ++ leBytes 4 (n c.rows.length)
    ++ leBytes 4 (n c.drawers.length + at_ (n c.projs.length) 15) ++ leBytes 4 c.tagFault
    ++ leBytes 4 (mv.1 + at_ mv.2.1 18 + at_ (b2n c.mv.isSome) 31) ++ leBytes 4 (mv.2.2 + at_ (n c.lists.length) 12)
    ++ leBytes 4 c.nins

/-- The status in a macro record (R450). -/
def Ctx.macStatus (c : Ctx) (i : Nat) : Status :=
  let r := nth c.recs i freshRec
  match r.status with
  | some st => st
  | none => if c.macroDone i then (if r.bounds then .boundsFilled else .ok) else c.stepStatus true

def Ctx.macSection (c : Ctx) : List Byte :=
  (List.range c.nins).flatMap fun i =>
    let r := nth c.recs i freshRec
    bytes4 [statusCode (c.macStatus i) + at_ (c.mi i).op 8, r.oobRd, r.oobWr, r.lcount]

def ListRec.bytes (r : ListRec) : List Byte :=
  bytes4 [r.aid + at_ (statusCode r.status) 24, r.kind + at_ (b2n r.skip) 4 + at_ r.esc 16, if r.skip then 0 else r.epoch, r.cnt]

def pathCode : Path → Nat
  | .local => 0 | .fetch => 1 | .visit => 2

/-- A drawer with the counts of its rows that stand at OK (R80). What belongs to the drawer as a whole (log entry 27): the counts of its
weights go with the last of its rows that stands at OK, those of its gradient partials with any row that does not. -/
def Ctx.tallied (c : Ctx) (d0 : Drawer) : Drawer :=
  let live := c.role == .serve || d0.slots.any c.posOk
  let whole := c.role == .serve || d0.slots.all c.posOk
  let d := { d0 with
    satAct := if live then d0.satAct else 0, nonfin := if live then d0.nonfin else 0, badcode := if live then d0.badcode else 0
    satAcc := sat32 ((if live then d0.satAcc else 0) + if whole then d0.gradAcc else 0) }
  d.slots.foldl (fun d sl =>
    let r := c.row sl
    if r.status = .ok then
      { d with satAct := sat32 (d.satAct + r.cnt.1), satAcc := sat32 (d.satAcc + r.cnt.2.1), nonfin := sat32 (d.nonfin + r.cnt.2.2.1),
               badcode := sat32 (d.badcode + r.cnt.2.2.2) }
    else d) d

/-- A drawer record (R452). -/
def Ctx.drwBytes (c : Ctx) (d : Drawer) : List Byte :=
  let x := c.tallied d
  let far := d.path != .local
  bytes4 [d.aid + at_ (pathCode d.path) 24 + at_ (b2n d.ovf) 26 + at_ (b2n (far && d.pres)) 27 + at_ (b2n (far && d.forced)) 28
      + at_ (if far then match d.last with | some .fetch => 1 | some .visit => 2 | _ => 0 else 0) 29 + at_ (b2n d.gdDrop) 31,
    d.nvec, d.epoch, 0, x.satAct, x.satAcc, x.nonfin, x.badcode]

/-- The offsets section (R445, R449). -/
def Ctx.ofsSection (c : Ctx) : List Byte :=
  pad64b (c.projs.flatMap (leBytes 2)) ++ c.drawers.flatMap fun d =>
    let bs := c.projs.map fun j => BitVec.ofNat 8 (match d.projs.findIdx? (· == j) with | some i => nth d.ofs i 0 | none => 0)
    leBytes 4 d.aid ++ bs ++ List.replicate (4 * ceilDiv c.projs.length 4 - bs.length) 0

/-- A slot record (R453). -/
def Row.bytes (r : Row) : List Byte :=
  leBytes 4 (if r.vacant then 512
    else statusCode r.status + at_ (b2n (r.prefill && r.len != 1)) 8 +   -- the effective kind (R168)
      at_ (b2n r.drawer.isNone) 10 + at_ (r.drawer.getD 0) 14)

/-- The sections of a final report in order (R449, R455). -/
def Ctx.sections (c : Ctx) : List (List Byte) :=
  if c.early then [c.macSection]
  else [c.macSection, c.lists.flatMap ListRec.bytes, c.drawers.flatMap c.drwBytes, c.ofsSection, c.rows.flatMap Row.bytes]

/-- Whole sections while the next one fits, each at a multiple of 64 bytes (R449, R454): the bytes, and whether any is left out. -/
def fitSections (cap : Nat) : Nat → List (List Byte) → List Byte × Bool
  | _, [] => ([], false)
  | at0, x :: xs =>
    if x.isEmpty ∨ at0 + x.length ≤ cap then
      let r := fitSections cap (at0 + roundUp x.length 64) xs
      (pad64b x ++ r.1, r.2)
    else ([], true)

/-- The report descriptor of a step, if it has a legal one (R454). -/
def State.rptDesc (s : State) (p : Nat) (c : Ctx) : Option Desc :=
  if c.rpt.isSome then c.rpt
  else if c.refs.contains (hSlot c.sub.rptH) then s.heldDesc c.sub.rptH
  else match s.stepHandle p c.sub.rptH with
    | .ok (_, d) => if rptForm d then some d else none
    | .error _ => none

/-- The final report's header, `TRUNC` as it comes out (R454). -/
def State.finalHeader (s : State) (p : Nat) (c : Ctx) : List Byte :=
  match s.rptDesc p c with
  | some d => c.header p true (fitSections (4 * d.size 0) 64 c.sections).2
  | none => c.header p true false

/-- Write the report of a step (R454, R455): a final one with its sections, an interim one the header only. Padding between
sections is not written beyond the last byte that fits. -/
def State.writeReport (s : State) (p : Nat) (c : Ctx) (final : Bool) (tag : WriteTag) : State :=
  match s.rptDesc p c with
  | none => s
  | some d =>
    if final then
      let f := fitSections (4 * d.size 0) 64 c.sections
      s.stepWrite d.space d.base ((c.header p true f.2 ++ f.1).take (4 * d.size 0)) tag 0xFFFF
    else s.stepWrite d.space d.base (c.header p false false) tag 0xFFFF

/-! ### Teardown (R398, R399) -/

/-- A write of a torn step to HBM or the Shelf that is not visible yet: each element lands or does not, as the bits of a free
number say (R137). -/
def State.tearWrite (s : State) (w : PWrite) : State :=
  let r := s.fresh
  let old := s.peek w.space w.addr w.bytes.length
  let s := (((mixEls w.ew r.1 old w.bytes).zip old).mapIdx fun i x => (i, x)).foldl (fun (s : State) x =>
    if x.2.1 = x.2.2 then s else s.land w.space (w.addr + x.1) [x.2.1]) r.2
  { s with writes := s.writes.filter fun x => x.id != w.id }

/-- A running unit of a torn step: a free choice says whether what it computes is on its way to memory (R137). -/
def State.tearUnit (s : State) (p : Nat) (c : Ctx) (u : WUnit) : State :=
  let b := s.freshB
  if b.1 ∧ c.toHinge u.mi = false ∧ c.has ((c.placeOf u.mi).getD u.mi) (s.outRngs c u) = true then
    (s.unitOut c u).vecs.foldl (fun (s : State) x => s.putLanes p u.mi u.drw x.1 x.2.1 u.o0 x.2.2.1 false) b.2
  else b.2

/-- The answers of a serve drawer's records with a status (R334). -/
def State.serveFail (s : State) (d : Drawer) (st : Status) : State :=
  (d.served.zip d.srcs).foldl (fun (s : State) e => s.finishReq e.2.1 e.2.2 0x15 st d.aid d.epoch (.visit [{ e.1 with vecs := [] }])) s

/-- List records that a torn step has not produced are not in its report; `LCOUNT` counts those that are (R450). -/
def Ctx.dropLists (c : Ctx) (pick : ListRec → Bool) : Ctx :=
  { c with
    lists := c.lists.filter fun r => !pick r
    recs := c.recs.mapIdx fun i r => { r with lcount := r.lcount - (c.lists.filter fun x => pick x && x.mi == i).length } }

/-- Update a step wherever it stands: issued, saved, or waiting for its final report. -/
def State.modStep (s : State) (p sseq : Nat) (f : Ctx → Ctx) : State :=
  let upd (c : Ctx) : Ctx := if c.sub.sseq = sseq then f c else c
  s.modP p fun q => { q with ctx := q.ctx.map upd, svCtx := q.svCtx.map upd, finals := q.finals.map upd }

/-- Commit candidates of a step that the engine has not taken are dropped (R370), their records with them. -/
def State.dropCands (s : State) (p sseq : Nat) : State :=
  let mine (x : Candidate) : Bool := x.kind == 2 && x.part == p && x.sseq == sseq
  (s.cab.cands.filter mine).foldl (fun (s : State) x =>
    (s.modCab fun b => { (b.release (.resv x.resv)) with cands := b.cands.filter fun y => y.resv != x.resv }).modStep p sseq fun c =>
      c.dropLists fun r => r.kind == 2 && r.aid == x.aid && r.status == .deferred) s

/-- The codes that a list record may carry (R17). -/
def listCodes : List Status :=
  [.ok, .timeout, .noCapacity, .descInvalid, .versionGone, .superseded, .formatUnsupported, .adapterUnknown, .ownerUnreachable, .numericGuard,
   .internal]

/-- Gradient drawers whose home write was in progress are discarded and listed (R272, R451). The spec names no status for the record: it is
free among those of R17. -/
def State.tearGrads (s : State) (p : Nat) (sseq : Nat) : State :=
  (s.cab.grads.filter fun g => g.part == p && g.homeWrite).foldl (fun (s : State) g =>
    let r := s.fresh
    (r.2.dropGrad p g.aid g.base).modStep p sseq fun c =>
      { c with lists := c.lists ++ [listRec g.aid (nth listCodes (r.1 % 11) .internal) 4 g.base] }) s

/-- What is left of a torn context; its list records without a status go, those of commits under way apart (R370). -/
def Ctx.tornCtx (c0 : Ctx) (cause : Nat) : Ctx :=
  let c := c0.dropLists fun r => r.status == .deferred && r.kind != 2
  { c with
    phase := .ending, resume := if c.phase = .saving ∨ c.phase = .saved then c.resume else c.phase
    torn := true, cause := cause, units := [], vecs := [], outs := [], parts := [], streams := [], pages := [],
    host := [], refs := [], pinned := [], used := [], gdNew := [], fetchWait := [], noteWait := [], ret := [], placed := [], stats := []
    recs := c.recs.mapIdx fun i r => { r with reached := c.macroDone i, done := c.macroDone i }
    rows := c.rows.map fun r => if r.vacant || r.status != .ok then r else { r with status := .contextTorn } }

/-- Teardown of the issued step of partition p (R399). -/
def State.teardown (s : State) (p cause : Nat) : State :=
  match s.ctxOf p with
  | none => s
  | some c =>
    if c.phase = .ending then s
    else
      let slots := List.range c.rows.length
      let restored := (s.getP p).saved && (s.getP p).svCtx.isNone
      -- an error during the save has a cause of its own (R398, R401)
      let cause := if c.phase = .saving ∧ cause = 3 then 6 else cause
      -- the cycles of what stops midway (R386)
      let s := (c.units.filter fun u => u.st == .running).foldl (fun s u => s.addCycles p (pinTum u.pin)) s
      let s := if c.phase = .saving ∨ (c.phase = .wake ∧ restored = true) then (tumsOf (s.getP p).tumOwn).foldl (fun s t => s.addCycles p t) s else s
      -- 1, 2: units stop, vectors are answered
      let s := slots.foldl (fun s sl => s.settleRow p sl .contextTorn) s
      let s := (c.units.filter fun u => u.st == .running).foldl (fun s u => s.tearUnit p c u) s
      let s := (s.writes.filter fun w => decide (w.space < 2) && match w.tag with | .step q n _ => q == p && n == c.sub.sseq | .save q => q == p | _ => false).foldl
        (fun s w => s.tearWrite w) s
      let s := if c.role = .serve then c.drawers.foldl (fun s d => s.serveFail d .contextTorn) s else s
      -- 3, 4: drawers, dirty state
      let s := (s.dropCands p c.sub.sseq).tearGrads p c.sub.sseq
      -- 5, 6: references of versions and descriptors, reservation, latches; a step that is being restored still has `OSAV` set
      let s := ((s.dropPins c).dropGradNew p c.gdNew).dropRefs c.refs
      let s := if c.phase.issued then s.breakStep p restored else (s.popSub p c).gateRelease p
      let s := if c.units.any (fun u => u.st == .running) || c.phase == .saving || c.phase == .restore || c.phase == .wake then s.setTums p .idle else s
      let s := match s.ctxOf p with | some c => s.unStat (c.tornCtx cause) | none => s
      let s := if restored then s.modP p fun q => { q with saved := false } else s
      ((s.modCtx p fun c => c.tornCtx cause).releaseHeld p)

/-- Teardown of the saved step of partition p (R399): its report is sent when it can be. -/
def State.tearSaved (s : State) (p cause : Nat) : State :=
  match (s.getP p).svCtx with
  | none => s
  | some c =>
    -- vectors held for it are answered with its rows' status
    let c' := c.tornCtx cause
    let s := (c.vecs.filter fun v => !v.answered).foldl (fun (s : State) v =>
      s.pushResp (c.row v.slot).port
        { part := p, sseq := c.sub.sseq, slot := v.slot, off := v.off, proj := v.proj, status := (c'.row v.slot).status, zero := true,
          placed := false, ofmt := 0, data := [] }) s
    -- a response that has not left carries its row's status and no data (R19, R182)
    let s : State := { s with hng := s.hng.map fun (h : Hng) =>
      { h with egress := h.egress.map fun (r : Resp) =>
          if r.part = p ∧ r.sseq = c.sub.sseq ∧ r.status = .ok ∧ (c'.row r.slot).status ≠ .ok then r.settled (c'.row r.slot).status else r } }
    let s := (s.unStat { c' with stats := c.stats }).modP p fun q => { q with svCtx := none, saved := false, finals := q.finals ++ [c'] }
    let s := (s.dropCands p c.sub.sseq).tearGrads p c.sub.sseq
    let s := (((s.dropPins c).dropGradNew p c.gdNew).dropRefs c.refs).breakStep p true
    s.releaseHeld p

end Sys2Proof.Machine
end

