-- ==== Sys2Proof/Machine/Fills.lean ====
section
/-! DEFINITION. What follows for steps when a fill, a promotion or another pool request of theirs ends (R36, R285, R303, R343),
the notice table (R322, R323), and the fill requests that an owner serves (R331). -/

namespace Sys2Proof.Machine

open Sys2Proof

/-! ### Steps, issued or saved -/

/-- The rows of a drawer of the saved step get a status (R36); their vectors are answered. -/
def State.settleSaved (s : State) (p drw : Nat) (st : Status) : State :=
  match (s.getP p).svCtx with
  | none => s
  | some c =>
    let hit (sl : Nat) : Bool := (c.drw drw).slots.contains sl && !(c.row sl).vacant && (c.row sl).status == .ok
    let s := (c.vecs.filter fun v => !v.answered && hit v.slot).foldl (fun (s : State) v =>
      s.pushResp (c.row v.slot).port
        { part := p, sseq := c.sub.sseq, slot := v.slot, off := v.off, proj := v.proj, status := st, zero := true, placed := false,
          ofmt := 0, data := [] }) s
    s.modP p fun q => { q with svCtx := q.svCtx.map fun c =>
      { c with
        vecs := c.vecs.map fun v => if hit v.slot then { v with answered := true } else v
        rows := c.rows.mapIdx fun i r => if hit i then { r with status := st } else r } }

/-- The rows of a drawer of step `sseq`, issued or saved, get a status. -/
def State.settleStep (s : State) (p sseq drw : Nat) (st : Status) : State :=
  let q := s.getP p
  if q.ctx.any (fun c => c.sub.sseq == sseq && !c.torn) then s.settleDrawer p drw st
  else if q.svCtx.any (fun c => c.sub.sseq == sseq) then s.settleSaved p drw st
  else s

/-- Drawers of a context that need a version on a path. -/
def Ctx.needing (c : Ctx) (path : Path) (aid ep : Nat) : List Nat :=
  (List.range c.drawers.length).filter fun k => (c.drw k).path == path && (c.drw k).aid == aid && (c.drw k).epoch == ep

/-- Drawers whose version will not come: they have no units and no staging streams any more (R36). -/
def Ctx.dropDrawers (c : Ctx) (ks : List Nat) : Ctx :=
  { c with
    drawers := c.drawers.mapIdx fun i d => if ks.contains i then { d with dead := true } else d
    units := c.units.map fun u => if ks.contains u.drw && u.st == .waiting then { u with st := .done } else u
    streams := c.streams.filter fun x => x.done || !ks.contains x.drw }

/-- A version will not come: the rows of every drawer that needs it on a path report OWNER_UNREACHABLE (R285, R303). -/
def State.versionLost (s : State) (path : Path) (aid ep : Nat) : State :=
  parts.foldl (fun (s : State) p =>
    let q := s.getP p
    let a := match q.ctx with | some c => if c.torn then [] else c.needing path aid ep | none => []
    let b := match q.svCtx with | some c => c.needing path aid ep | none => []
    if a.isEmpty && b.isEmpty then s
    else
      let s := a.foldl (fun s k => s.settleDrawer p k .ownerUnreachable) s
      let s := b.foldl (fun s k => s.settleSaved p k .ownerUnreachable) s
      State.pump (s.modP p fun q => { q with ctx := q.ctx.map (·.dropDrawers a), svCtx := q.svCtx.map (·.dropDrawers b) }) p) s

/-- A fill fails (R285): its space goes, with the references on it, and what depends on it reports OWNER_UNREACHABLE. -/
def State.fillFailed (s : State) (aid ep : Nat) : State :=
  let s := (s.failFill aid ep).versionLost .fetch aid ep
  let drop (c : Ctx) : Ctx :=
    { c with used := c.used.filter fun x => x != (aid, ep), fetchWait := c.fetchWait.filter fun x => x != (aid, ep) }
  ({ s with prt := s.prt.map fun (q : Prt) => { q with ctx := q.ctx.map drop, svCtx := q.svCtx.map drop } }).pinSettle

/-! ### The notice table (R322, R323) -/

/-- Keep a new record: in a full table it takes the place of the record with the lowest stamp whose adapter has no cached
entry; where there is none it is not kept. -/
def State.noteCreate (s : State) (n : NoteRec) : State :=
  let put (s : State) : State := s.modPol fun q =>
    { q with notes := SMap.insert q.notes n.aid n, noteStamp := SMap.set 0 q.noteStamp n.aid s.cab.useStamp.toNat }
  if s.pol.notes.length < s.pol.noteCap.toNat then put s
  else
    let free := s.pol.notes.filter fun x => (s.entry x.1).isNone
    match least (fun (a b : Nat × NoteRec) => lexLt [SMap.get 0 s.pol.noteStamp a.1, a.1] [SMap.get 0 s.pol.noteStamp b.1, b.1]) free with
    | some v => put (s.modPol fun q => { q with notes := SMap.erase q.notes v.1, noteStamp := SMap.erase q.noteStamp v.1 })
    | none => s

def State.note (s : State) (aid : Nat) : Option NoteRec := (s.pol.notes.find? fun x => x.1 == aid).map (·.2)

/-- A `PUB_NOTICE` or a completed fill updates the record where its epoch follows the record's. -/
def State.noteMove (s : State) (n : NoteRec) : State :=
  match s.note n.aid with
  | none => s.noteCreate n
  | some o =>
    if precedes o.epoch n.epoch then
      let r : NoteRec := { o with epoch := n.epoch, blen := n.blen, bminor := n.bminor, lbytes := n.lbytes, valid := true }
      s.modPol fun q => { q with notes := SMap.insert q.notes n.aid r }
    else s

/-- A `NOTE_REP` replaces the record whole. -/
def State.noteReplace (s : State) (n : NoteRec) : State :=
  if (s.note n.aid).isSome then s.modPol fun q => { q with notes := SMap.insert q.notes n.aid n } else s.noteCreate n

/-- Forget the record of an adapter. -/
def State.noteDrop (s : State) (aid : Nat) : State :=
  s.modPol fun q => { q with notes := SMap.erase q.notes aid, noteStamp := SMap.erase q.noteStamp aid }

/-! ### Serving fills (R331, R367) -/

/-- Send the blob of one version as frames, from frame `seg` on; the reference of its serving goes. -/
def State.sendBlob (s : State) (peer tag seg aid ep : Nat) (last : Bool) : Nat × State :=
  match (s.entry aid).bind fun e => e.slot ep with
  | none => (seg, s)
  | some v =>
    let bs := Memory.readN s.hbm (gAddr v.loc) v.blen
    let cs := chunks 65536 (ceilDiv bs.length 65536 + 1) bs
    let s' := (cs.zip (List.range cs.length)).foldl (fun (s : State) x =>
      s.sendFrame peer ((s.rppMsg peer 0x13 tag .ok aid ep (.data (65536 * x.2) x.1 true)).framed (last && x.2 + 1 == cs.length) (seg + x.2))) s
    (seg + cs.length, s'.hbmRead.freeRef aid ep)

/-- Serve one fill request as far as promotions allow; `fuel` its entries. -/
def State.serveFill (id : Nat × Nat) : Nat → State → State
  | 0, s => s
  | fuel + 1, s =>
    match s.pol.fetchQ.find? fun x => (x.peer, x.tag) == id with
    | none => s
    | some x =>
      match x.left with
      | [] => s.modPol fun q =>
          { (q.modSess x.peer fun y => { y with busyTags := y.busyTags.erase x.tag }) with fetchQ := q.fetchQ.filter fun y => (y.peer, y.tag) != id }
      | (aid, ep, code) :: rest =>
        let step (s : State) (seg : Nat) : State :=
          s.modPol fun q => { q with fetchQ := updFirst q.fetchQ (fun y => (y.peer, y.tag) == id) fun y => { y with seg := seg, left := rest } }
        let fail (s : State) (st : Status) : State :=
          State.serveFill id fuel (step (s.sendFrame x.peer ((s.rppMsg x.peer 0x13 x.tag st aid ep .none).framed rest.isEmpty x.seg)) (x.seg + 1))
        if code ≠ 0 then fail s (statusOf code)
        else
          match (s.entry aid).bind fun e => e.slot ep with
          | none => fail s .versionGone
          | some v =>
            if v.slow then (if s.promoting aid ep then s else fail (s.freeRef aid ep) .versionGone)
            else let r := s.sendBlob x.peer x.tag x.seg aid ep rest.isEmpty; State.serveFill id fuel (step r.2 r.1)

/-- Serve every fill request that can go on; versions that nothing holds any more are reclaimed. -/
def State.serveFills (s : State) : State :=
  State.reclaim (s.pol.fetchQ.foldl (fun (s : State) x => s.serveFill (x.peer, x.tag) (x.left.length + 1)) s)

/-- A promotion has ended (R302, R303): fills that waited for it go on; without its blob, LOCAL drawers pinned to it report
OWNER_UNREACHABLE. -/
def State.promotionEnd (s : State) (aid ep : Nat) (bytes : Option (List Byte)) : State :=
  let s := s.promoted aid ep bytes
  let s := if ((s.entry aid).bind fun e => e.slot ep).any (fun v => !v.slow) then s else s.versionLost .local aid ep
  s.serveFills

end Sys2Proof.Machine
end

