-- ==== Sys2Proof/Machine/Finish.lean ====
section
/-! DEFINITION. From the reservation of a step to its end (R34, R387–R401, R432 phases 7 and 8, R477, R483): reservation,
start, acknowledged writes, waits that run out, save and restore, the final report, `JOB_KILL`, host accesses. -/

namespace Sys2Proof.Machine

open Sys2Proof

/-! ### Reservation (R34, R387–R389, R397) -/

/-- Whether a step waits for its reservation. -/
def Prt.waits (q : Prt) : Bool := q.ctx.any fun c => c.phase == .reserve || c.phase == .restore

/-- The arbiter's order (R388): partition a before partition b. -/
def rankLt (a b : Nat) (x y : Prt) : Bool :=
  let u := x.winCycles.toNat * y.shares.toNat
  let v := y.winCycles.toNat * x.shares.toNat
  if (x.shares = 0) ≠ (y.shares = 0) then y.shares == 0
  else if x.shares = 0 ∨ u = v then decide (a < b)
  else decide (u < v)

/-- A step that has waited for more than 1 ms stops the arbiter at its position (R388). -/
def State.arbBlocked (s : State) (p : Nat) : Bool :=
  parts.any fun k => k != p && (s.getP k).waits && decide ((s.getP k).waitSince + msTicks 1 ≤ s.now) && rankLt k p (s.getP k) (s.getP p)

/-- Whether the arbiter has passed partition p over at this instant: it takes waiting steps in ascending rank, so none that waited already
follows one of a higher rank (R388). -/
def State.arbPassed (s : State) (p : Nat) : Bool :=
  s.arb.any fun a => a.1 == s.now && decide ((s.getP p).waitSince < a.1) && rankLt p a.2 (s.getP p) (s.getP a.2)

/-- Rate of a bucket: 0 HBM, 1 hinge, 2 fabric, as the last refill took it (R376). -/
def Prt.rate (q : Prt) (k : Nat) : Nat := (nth q.effTb k (0, 0)).1

/-- The regulators admit a new step (R389). -/
def Prt.levelsOk (q : Prt) : Bool :=
  (q.rate 0 == 0 || decide (0 ≤ q.tbHbmLvl)) && (q.rate 1 == 0 || decide (0 ≤ q.tbHngLvl)) && (q.rate 2 == 0 || decide (0 ≤ q.tbFabLvl))

def sumOf (l : List Nat) : Nat := l.foldl (· + ·) 0

/-- Bytes of the descriptors that a program names in memory spaces, each once for every macro-instruction that names it. -/
def State.namedBytes (s : State) (c : Ctx) (pick : Nat → Bool) : Nat :=
  sumOf (c.prog.flatMap fun m => (m.handles.eraseDups.filterMap s.dOf).map fun d => if pick d.space then d.footprint else 0)

/-- Bytes of the fills that a step has requested. -/
def State.fillBytes (s : State) (c : Ctx) : Nat := sumOf (c.fetchWait.map fun x => s.blobLen x.1 x.2)

/-- The HBM charge of a step (R389): staging, home writes, fills, HBM-space descriptors and placements. -/
def State.hbmCharge (s : State) (p : Nat) (c : Ctx) : Nat :=
  let staged := (s.listStreams c (s.listUnits p c)).map fun x =>
    if s.blobHere (c.drw x.drw) then s.streamBytes (c.drw x.drw) x.layer else s.largestLayer (c.drw x.drw).aid (c.drw x.drw).epoch
  let home := if c.prog.any MI.isReduce then c.drawers.map fun d => s.gradSize (s.shapeOfAid d.aid) else []
  sumOf staged + sumOf home + s.fillBytes c + s.namedBytes c (· == 0)

/-- The hinge charge of a step (R389): for each position of an occupied row and each projection that the program takes from the hinge, the
vector in ingress bytes and its response in egress bytes. -/
def State.hngCharge (s : State) (c : Ctx) : Nat :=
  let n := sumOf ((c.rows.filter fun r => !r.vacant).map (·.len))
  sumOf (((c.prog.map (·.proj)).eraseDups).map fun pj =>
    match c.takerOf pj with
    | none => 0
    | some i =>
      let back := match (c.answerer pj).filter c.toHinge with
        | some j => (if (c.mi j).op = 0x21 then (s.shape pj).1 else (s.shape pj).2) * (if (c.mi j).ofmt = 0 then 2 else 4)
        | none => 0
      n * (64 + 2 * s.inWidth (c.mi i) + 64 + back))

/-- The fabric charge of a step (R389): VISIT records and deltas, HOST- and POOL-space descriptors, fills, `GRAD_SHIP` bytes. -/
def State.fabCharge (s : State) (p : Nat) (c : Ctx) : Nat :=
  let visits := (List.range c.prog.length).flatMap fun i => (c.visits i).map fun k =>
    let out := c.mi (c.deliverer i)
    64 + (c.drw k).nvec * (visitVec (c.mi i).fmta (s.inWidth (c.mi i)) + visitVec (1 - out.ofmt) (s.shape out.proj).2)
  let ship := if c.prog.any fun m => m.op == 0x24 then
      (s.shipList p none).map fun g => if s.mine g.aid then 0 else s.gradSize (s.shapeOfAid g.aid)
    else []
  sumOf visits + sumOf ship + s.fillBytes c + s.namedBytes c (fun sp => decide (2 ≤ sp))

/-- Issue subtracts the charges of a step; a bucket of rate 0 is not charged (R389). How the bytes of R389's table are counted is the
model's reading (log entry 73, DEDUCED). -/
def State.chargeLevels (s : State) (p : Nat) (c : Ctx) : State :=
  let a := s.hbmCharge p c
  let b := s.hngCharge c
  let f := s.fabCharge p c
  s.modP p fun q =>
    { q with
      tbHbmLvl := if q.rate 0 = 0 then q.tbHbmLvl else q.tbHbmLvl - (a : Int)
      tbHngLvl := if q.rate 1 = 0 then q.tbHngLvl else q.tbHngLvl - (b : Int)
      tbFabLvl := if q.rate 2 = 0 then q.tbFabLvl else q.tbFabLvl - (f : Int) }

/-- `RESERVATION` (R388, R389, R397): a waiting step obtains its whole reservation; the domains it uses are asked to wake. A restored step
was charged when it issued, unless it was saved before that. -/
def execReservation (p : Nat) (s : State) : Host.Outcome State Fault Refusal :=
  .next <|
    match s.ctxOf p with
    | none => s
    | some c =>
      if (s.getP p).waits = false ∨ s.issueHeld = true ∨ s.arbBlocked p = true ∨ s.arbPassed p = true then s
      else
        let go (s : State) : State :=
          { (s.requestWakes (s.stepDoms p c)).modCtx p (fun c => { c with phase := .wake }) with arb := some (s.now, p) }
        let new := c.phase == .reserve || c.resume == .reserve
        if c.phase = .restore ∧ ((s.getP p).tumOwn ≠ c.saveMask ∨ (tumsOf (s.getP p).tumOwn).any (fun t => (s.tumOf t).st == .fenced) = true) then
          s.teardown p 4
        else if new = true ∧ (s.getP p).levelsOk = false then s
        else
          let s := go (if new then s.chargeLevels p c else s)
          if c.phase = .restore then s.setTums p .restore else s

/-- Units are listed, pinned and staged as phase 8 begins (R210, R296); a serve step has reached all its macro-instructions. -/
def State.startRun (s : State) (p : Nat) : State :=
  match s.ctxOf p with
  | none => s
  | some c =>
    let us := s.listUnits p c
    let st := s.listStreams c us
    let at0 := (c.prog.findIdx? fun m => m.op == 2).getD 0 + 1
    (s.modCtx p fun c =>
      let c := { c with units := us, nextUnit := us.length + 1, streams := st, phase := .run, phaseAt := s.now }
      if c.role = .serve then { c with recs := c.recs.map fun r => { r with reached := true }, pc := c.prog.length }
      else Ctx.advance c.prog.length { c with pc := at0 }).pump p

/-- A restored step goes on (R397 items 3 and 4): staging starts afresh for what units still need (R298), running units resume. -/
def State.restored (s : State) (p : Nat) (c : Ctx) : State :=
  let s := ((s.hbmRead.modP p fun q => { q with saved := false }).setOsav p false).setTums p .idle
  let s := (tumsOf (s.getP p).tumOwn).foldl (fun s t => s.addCycles p t) s
  let s := (c.units.filter fun u => u.st == .running).foldl (fun s u => s.modTum (pinTum u.pin) fun t => { t with st := .run }) s
  let fresh (x : Stream) : Stream :=
    let need := c.units.any fun u => u.drw == x.drw && pinDie u.pin == x.die && u.occ == x.occ && u.st != .done
    { x with started := !need, done := !need }
  let back : Phase := match c.resume with | .table => .table | .notice => .notice | .sort => .sort | .check => .check | _ => .run
  let s := s.modCtx p fun c =>
    -- the clock of `VEC_WAIT` starts anew (R396)
    { c with streams := c.streams.map fresh, phase := back, phaseAt := s.now, recs := c.recs.map fun r => { r with since := r.since.map fun _ => s.now } }
  let s := if back ≠ .run then s.resumeIssue p else if c.resume = .run then s else s.startRun p
  -- shipments that rested while the step was saved go out (R271)
  ((s.releaseHeld p).pump p).flushQueued

/-- `RUN_START` (R483): the reservation is complete and every domain the step uses is awake. -/
def execRunStart (p : Nat) (s : State) : Host.Outcome State Fault Refusal :=
  .next <|
    match s.ctxOf p with
    | none => s
    | some c =>
      if c.phase ≠ .wake ∨ (s.stepDoms p c).any (fun d => !s.awake d) = true then s
      else if (s.getP p).saved ∧ (s.getP p).svCtx.isNone then s.restored p c
      else s.startRun p

/-! ### Waits and writes -/

/-- Whether a macro-instruction's units have waited for longer than a limit in µs (R213, R422). -/
def MacRec.overdue (r : MacRec) (us now : Nat) : Bool := r.since.any fun t => decide (t + usTicks us ≤ now)

/-- `VEC_WAIT` (R213): a unit that has waited for hinge vectors for longer than the limit tears its step down. -/
def execVecWait (p u : Nat) (s : State) : Host.Outcome State Fault Refusal :=
  .next <|
    match s.ctxOf p with
    | none => s
    | some c =>
      match c.units.find? fun x => x.id == u with
      | none => s
      | some w =>
        if c.phase ≠ .run ∨ (s.getP p).vecWait = 0 ∨ w.st ≠ .waiting ∨ (nth c.recs w.mi freshRec).reached = false ∨ c.vecsHere w = true
            ∨ (nth c.recs w.mi freshRec).overdue (s.getP p).vecWait.toNat s.now = false then s
        else
          let proj := (c.mi w.mi).proj
          let miss := (c.unitPos w).filter fun x => c.posOk x.1 && (c.arrived x.1 x.2 proj).isNone
          let first := least (fun (a b : Nat × Nat) => decide (c.tpos a.1 a.2 < c.tpos b.1 b.2)) miss
          (s.modCtx p fun c => { c with mv := first.map fun x => (x.1, x.2, proj) }).teardown p 2

/-- A write of a step becomes visible: what waited for it goes on (R223, R415). -/
def State.settleWrite (s : State) (p sseq id : Nat) : State :=
  let upd (c : Ctx) : Ctx :=
    if c.sub.sseq = sseq then { c with outs := c.outs.map fun a => if a.writes.contains id then { a with writes := a.writes.filter (· != id) } else a } else c
  let due : List OutAcc := match s.ctxOf p with
    | some c => if c.sub.sseq = sseq then c.outs.filter fun a => a.writes.contains id else []
    | none => []
  let s := s.modP p fun q => { q with ctx := q.ctx.map upd, svCtx := q.svCtx.map upd }
  (due.foldl (fun (s : State) a => s.settleOut p a.mi a.slot a.off) s).pump p

/-- Let one pending write land and take it from the list (R416, R219). -/
def State.ackWrite (s : State) (id : Nat) : State :=
  match s.writes.find? fun w => w.id == id with
  | none => s
  | some w =>
    let log := match w.tag with
      | .step p n _ => match s.ctxOf p with | some c => if c.sub.sseq = n then c.placed else [] | none => []
      | _ => []
    let ps := if w.key = 0 then [(w.addr, w.bytes)] else uncovered log w.space w.page w.key w.addr w.bytes
    let s := ps.foldl (fun (s : State) x => s.land w.space x.1 x.2) { s with writes := s.writes.filter fun x => x.id != id }
    match w.tag with
    | .step p n _ => s.settleWrite p n id
    | _ => s

/-- `WRITE_ACK` (R416): the memory has acknowledged a write; writes to host memory are acknowledged by their completion. -/
def execWriteAck (id : Nat) (s : State) : Host.Outcome State Fault Refusal :=
  .next (if s.writes.any fun w => w.id == id && decide (w.space < 2) then s.ackWrite id else s)

/-! ### Save (R393) -/

/-- Whether any write of a step is still on its way (R417). -/
def State.stepWrites (s : State) (p sseq : Nat) : Bool :=
  s.writes.any fun w => match w.tag with | .step q n _ => q == p && n == sseq | _ => false

/-- The slots of the save area (R394): tumbler i's, partition p's control slot, and in it the row-table copy and the drawer records. -/
def saveTum (i : Nat) : Nat := 0x7FCA000000 + i * 0x280000
def saveCtl (p : Nat) : Nat := 0x7FCA000000 + 0x14000000 + p * 0xE00000
def saveRows (p : Nat) : Nat := saveCtl p + 0x10000
def State.saveDrws (s : State) (p : Nat) : Nat := saveRows p + 32 * (s.getP p).rowQuota.toNat

/-- A row as an entry of the row table (R170). -/
def Row.entry (r : Row) : List Byte :=
  if r.vacant then List.replicate 32 0
  else
    bytes4 [r.aid, r.ticket + at_ (b2n r.prefill) 16 + at_ (b2n r.expl) 17 + at_ r.port 18, r.len, r.kvPos] ++ leBytes 8 r.join
      ++ bytes4 [r.pinEpoch, 0]

/-- The part of the dirty state whose bytes spec/ lays out: the row-table copy goes to the control slot (R393, R394); the rest is kept as
the saved context itself (log entry 16). -/
def State.saveOut (s : State) (p : Nat) (c : Ctx) : State := s.land 0 (saveRows p) (c.rows.flatMap Row.entry)

/-- `SAVE_COMPLETE` (R393, R455): the first command writes the interim report, a later one, once it is visible, completes the
save and starts the waiting job. -/
def execSaveComplete (p : Nat) (s : State) : Host.Outcome State Fault Refusal :=
  .next <|
    match s.ctxOf p with
    | none => s
    | some c =>
      if c.phase ≠ .saving ∨ s.stepWrites p c.sub.sseq = true then s
      else if c.leaving = false then
        let c' := { c with npre := c.npre + 1, leaving := true }
        (s.modCtx p fun _ => c').writeReport p c' false (.save p)
      else if s.writes.any (fun w => w.tag == .save p) then s
      else
        let s := (tumsOf (s.getP p).tumOwn).foldl (fun s t => s.addCycles p t) (s.hbmWork.saveOut p c)
        match s.ctxOf p with
        | none => s
        | some c =>
          let own := (s.getP p).tumOwn
          let s := (s.setTums p .idle).notice 0x60 (c.header p false false)
          let s := (s.setOsav p true).modP p fun q =>
            -- page pins are released, and what host memory held for them is read afresh (R229)
            { q with
              ctx := none, saved := true
              svCtx := some { c with phase := .saved, saveMask := own, pages := [], leaving := false
                                     host := c.host.filter fun g => (c.mi g.tag).op != 0x14 } }
          let s := ((s.stopRunning p c.job .preempted).chooseJob p).releaseHeld p
          -- power-down tears saved steps down (R402)
          if s.pwr.powering then s.tearSaved p 5 else s

/-! ### The end of a step (R385, R392, R414, R477) -/

/-- Whether a running step has nothing left to do. -/
def State.complete (s : State) (p : Nat) (c : Ctx) : Bool :=
  c.phase == .run && decide (c.prog.length ≤ c.pc) && (List.range c.prog.length).all c.macroDone && !(c.units.any fun u => u.st != .done)
    && !(c.host.any fun g => g.data.isNone) && !(c.lists.any fun r => r.status == .deferred) && !s.stepWrites p c.sub.sseq

/-- Whether a step that has ended can write its report: its writes are visible and the commits under way have ended (R370). -/
def State.ended (s : State) (p : Nat) (c : Ctx) : Bool :=
  c.phase == .ending && !s.stepWrites p c.sub.sseq && !(c.lists.any fun r => r.kind == 2 && r.status == .deferred)

/-- At a step boundary the running job yields, or a request that waited switches it (R385, R392). -/
def State.boundary (s : State) (p : Nat) : State :=
  let q := s.getP p
  match q.running, least jobLt q.waitingJobs with
  | some r, some w =>
    if r.prio < w.prio then (s.stopRunning p r.num .preempted).runJob p w.num
    else if r.prio = w.prio ∧ r.since + msTicks q.jobSlice.toNat ≤ s.now then (s.stopRunning p r.num .queued).runJob p w.num
    else s
  | _, _ => s

/-- What the end of the issued step releases. A step that was pre-empted keeps the STAT counts of its rows at OK only (R95). -/
def State.releaseStep (s : State) (p : Nat) (c : Ctx) : State :=
  let s := if c.npre = 0 then s else s.unStat c
  let s := ((s.dropPins c).dropGradNew p c.gdNew).dropRefs c.refs
  let s := if c.torn || c.refused.isSome then s else s.relStep p
  let s := if c.phase = .run then s.setTums p .idle else s
  s.modP p fun q => { q with ctx := none }

/-- The final `STEP_DONE` of the issued step leaves. The running job yields at a `STEP_DONE` of its own only (R385); a pre-emption request
that waited for the step is served (R392). -/
def State.stepEnd (s : State) (p : Nat) (c : Ctx) : State :=
  let own := ((s.getP p).running).any fun j => j.num == c.job
  let s := ((s.releaseStep p c).notice 0x60 (s.finalHeader p c)).settleClose p c.job
  ((((if own then s.boundary p else s.preempt p)).chooseJob p).startRestore p).releaseHeld p

/-- The final report of a step that ended outside the issued place: killed before issue, or torn while saved. -/
def State.finalEnd (s : State) (p : Nat) (c : Ctx) : State :=
  let s := (s.dropRefs c.refs).notice 0x60 (s.finalHeader p c)
  ((s.modP p fun q => { q with finals := q.finals.filter fun x => x.sub.sseq != c.sub.sseq }).settleClose p c.job).chooseJob p

/-- `STEP_DONE` (R477): the report of the earliest step that has ended is written; once it is visible and VC2 has credit its
notice leaves, everything of the step is released and the next job is chosen. A serve step, which no job holds, only ends. -/
def execStepDone (p : Nat) (s : State) : Host.Outcome State Fault Refusal :=
  .next <|
    let q := s.getP p
    let fin := least (fun (a b : Ctx) => decide (a.sub.sseq < b.sub.sseq)) (q.finals.filter fun c => s.ended p c)
    let iss := q.ctx.filter fun c => s.ended p c || s.complete p c
    let reports (sseq : Nat) : Bool := s.writes.any fun w => w.tag == .report p sseq
    let useFin := match fin, iss with
      | some f, some c => decide (f.sub.sseq < c.sub.sseq)
      | some _, none => true
      | _, _ => false
    if useFin then
      match fin with
      | none => s
      | some c =>
        if c.written = false then
          (s.modP p fun q => { q with finals := updFirst q.finals (fun x => x.sub.sseq == c.sub.sseq) fun x => { x with written := true } }).writeReport
            p c true (.report p c.sub.sseq)
        else if reports c.sub.sseq ∨ s.lnk.canSend 2 = false then s
        else s.finalEnd p c
    else
      match iss with
      | none => s
      | some c =>
        if c.role = .serve then s.releaseStep p c
        else if c.written = false then
          let s := (c.vecs.filter fun v => !v.answered).foldl (fun s v => s.answerZero p v.slot v.off v.proj) s
          (s.modCtx p fun c => { c with written := true }).writeReport p c true (.report p c.sub.sseq)
        else if reports c.sub.sseq ∨ s.lnk.canSend 2 = false then s
        else s.stepEnd p c

/-! ### `JOB_KILL` (R384) -/

/-- A job ends at once: its step is torn down, steps that have not issued get a final report. -/
def State.killJob (s : State) (p : Nat) (j : Job) : State :=
  let q := s.getP p
  let s : State :=
    match q.ctx with
    | some c =>
      if c.job ≠ j.num then s
      else if c.phase.issued then (if c.phase = .ending then s else s.teardown p 5)
      else s.unissue p
    | none => s
  let s := if (s.getP p).svCtx.any (fun c => c.job == j.num) then s.tearSaved p 5 else s
  let queued := (((s.getP p).job j.num).map (·.queue)).getD []
  let s := s.modP p fun q =>
    { q with finals := q.finals ++ queued.map fun x =>
        { freshCtx j.num (if j.learner then .learner else .generator) x .ending with torn := true, cause := 5, resume := .load } }
  ((s.endJob p j.num).chooseJob p).releaseHeld p

/-- `JOB_KILL` (R384). -/
def execJobKill (f : RclFrame) (s : State) : Host.Outcome State Fault Refusal :=
  .next <| s.serve 0x22 none none f fun cl s =>
    if f.data.length ≠ 8 then (.now .descInvalid [], s)
    else
      match s.jobFor cl (f.pl 0 8) with
      | .error st => (.now st [], s)
      | .ok (p, j) => if j.st = .ended then (.now .descInvalid [], s) else (.now .ok [], s.killJob p j)

/-! ### Host accesses (R611) -/

/-- Whether a slower-tier access is still on its way. -/
def State.xferFor (s : State) (use : XferFor) : Bool := s.fab.xfers.any fun x => x.use == use

/-- The bytes of a purpose of a step arrive: what waited for them goes on. -/
def State.stepData (s : State) (p sseq tag : Nat) (x : Xfer) (bytes : List Byte) : State :=
  let upd (c : Ctx) : Ctx :=
    if c.sub.sseq = sseq then
      { c with host := updFirst c.host (fun g => g.tag == tag && g.space == x.space && g.addr == x.addr && g.len == x.len && g.data.isNone)
                 fun g => { g with data := some ((bytes ++ List.replicate (x.len - bytes.length) 0).take x.len) } }
    else c
  let s := s.modP p fun q => { q with ctx := q.ctx.map upd, svCtx := q.svCtx.map upd }
  (s.resumeIssue p).pump p

/-- A read of the slower tier ends: with every piece there, the blob is opened (R303, R530). -/
def State.slowData (s : State) (p aid ep : Nat) (x : Xfer) (bytes : List Byte) : State :=
  let use := XferFor.slowRead p aid ep
  let xs := s.fab.xfers.map fun y => if y.xid = x.xid then { y with got := some (bytes.take x.len) } else y
  let mine := xs.filter fun y => y.use == use
  if mine.all fun y => y.got.isSome then
    let data := (insSort (fun (a b : Xfer) => decide (a.addr < b.addr)) mine).flatMap fun y => y.got.getD []
    let s := s.modFab fun b => { b with xfers := xs.filter fun y => y.use != use }
    let o := ((s.entry aid).bind fun e => e.slot ep).bind (·.slowLoc)
    s.promotionEnd aid ep (Config.opened p aid ep (granule * o.getD 0) data)
  else s.modFab fun b => { b with xfers := xs }

/-- `HOST_READ_DATA` (R611): the data of a read request arrive. -/
def execHostReadData (xid : Nat) (bytes : List Byte) (s : State) : Host.Outcome State Fault Refusal :=
  .next <|
    match s.fab.xfers.find? fun x => x.xid == xid && x.write.isNone && x.got.isNone with
    | none => s
    | some x =>
      let s := s.fabCount (s.subPort x.addr) false bytes.length
      let drop : State := s.modFab fun b => { b with xfers := b.xfers.filter fun y => y.xid != xid }
      match x.use with
      | .step p n tag => drop.stepData p n tag x bytes
      | .slowRead p aid ep => s.slowData p aid ep x bytes
      | _ => s

/-- `HOST_WRITE_COMPLETION` (R611): a write is visible in host memory. -/
def execHostWriteCompletion (xid : Nat) (s : State) : Host.Outcome State Fault Refusal :=
  .next <|
    match s.fab.xfers.find? fun x => x.xid == xid && x.write.isSome with
    | none => s
    | some x =>
      let s := (s.fabCount (s.subPort x.addr) false 0).modFab fun b => { b with xfers := b.xfers.filter fun y => y.xid != xid }
      match x.use with
      | .write id => s.ackWrite id
      | .slowWrite _ aid ep => if s.xferFor x.use then s else s.demoted aid ep
      | _ => s

end Sys2Proof.Machine
end

