-- ==== Sys2Proof/Machine/BootBlob.lean ====
section
/-! DEFINITION. The boot image as bytes (R539–R541) and the installation of boot-image blobs up to their reads (R551). -/

namespace Sys2Proof.Machine

open Sys2Proof

/-! ### The boot memory -/

def State.flashNum (s : State) (a n : Nat) : Nat := leNat (Memory.readN s.flash a n)

/-- Base of a slot (R539). -/
def slotBase (slot : Bool) : Nat := if slot then 0x2000000 else 0

/-- An image directory entry (R540): offset in the slot, length with header, kind, whether its reserved bits are zero. -/
structure CompEnt where
  off : Nat
  len : Nat
  kind : Nat
  clean : Bool
  deriving DecidableEq, Repr

def State.compEnt (s : State) (slot : Bool) (i : Nat) : CompEnt :=
  let a := slotBase slot + 0x20 + 16 * i
  { off := s.flashNum a 4, len := s.flashNum (a + 4) 4, kind := s.flashNum (a + 8) 1, clean := s.flashNum (a + 9) 7 == 0 }

/-- Where a component lies, its `BODY_LEN` and its `COMMIT` and `SVN` (R541). -/
def State.compAt (s : State) (i : Nat) : Nat := slotBase s.mgt.bootSlot + (s.compEnt s.mgt.bootSlot i).off
def State.bodyLen (s : State) (i : Nat) : Nat := s.flashNum (s.compAt i + 0x10) 8
def State.compSvn (s : State) (i : Nat) : Nat := s.flashNum (s.compAt i + 5) 1
def State.compCommit (s : State) (i : Nat) : Bool := bitN (s.flashNum (s.compAt i + 4) 4) 16
def State.bodyBytes (s : State) (i : Nat) : List Byte := Memory.readN s.flash (s.compAt i + 8192) (s.bodyLen i)

/-! ### Boot-image blobs (R551) -/

/-- The record of the blob under installation: home partition and common mask (R547). -/
def State.blobRec (s : State) : Option (Nat × Nat × Nat) := s.mgt.blobRecs.find? fun r => r.1 == s.mgt.comp

/-- Go on to the lowest directory index of a list; after the last blob the stage is RUN and the xSPI bus is released. -/
def State.blobTo (s : State) (l : List Nat) : State :=
  match least (fun (a b : Nat) => decide (a < b)) l with
  | some i => s.modMgt fun g => { g with comp := i, blobAid := 0, blobWait := false, blobResv := 0, reading := false, verifying := false }
  | none => s.modMgt fun g =>
      { g with bootStage := 0xA, xspiOwn := false, blobAid := 0, blobWait := false, blobResv := 0, reading := false, verifying := false }

/-- The first blob, once the device holds an instance ID. -/
def State.blobStart (s : State) : State :=
  State.blobTo (s.modMgt fun g => { g with bootStage := 9 }) (s.mgt.blobRecs.map (·.1))

def State.blobAdvance (s : State) : State := s.blobTo ((s.mgt.blobRecs.map (·.1)).filter fun i => s.mgt.comp < i)

/-- Skip the blob: `BLOB_FAIL` counts it, its ID is freed, RAS logs it, the next one follows. -/
def State.blobSkip (s : State) : State :=
  let s := s.modCab fun c => c.release (.resv s.mgt.blobResv)
  let s := if s.mgt.blobAid = 0 then s else s.freeAdapter s.mgt.blobAid
  State.blobAdvance (s.logSkip.modMgt fun g => { g with blobFail := satAdd g.blobFail 1 })

/-- The blob has its ID: space in its home partition's quota is reserved and its read begins. -/
def State.blobReserve (s : State) (aid home : Nat) : State :=
  let s := s.modMgt fun g => { g with blobAid := aid }
  let n := s.cab.nextResv
  match s.charge home (ceilDiv (s.bodyLen s.mgt.comp) granule) (.resv n) with
  | (none, s) => s.blobSkip
  | (some _, s) => (s.modMgt fun g => { g with blobResv := n, reading := true }).modCab fun c => { c with nextResv := n + 1 }

/-! ### Adapter IDs (R141, R142, R149) -/

/-- The lowest free ID of a range. -/
def State.freeIdIn (s : State) (k : Nat) : Option Nat :=
  ((List.range 256).map fun i => 256 * k + i).find? fun a => a != 0 && (s.entry a).isNone

/-- The ranges this member holds and is not moving away, ascending. -/
def State.ownRanges (s : State) : List Nat :=
  (s.pol.ranges.filter fun r => r.2.state == .held && r.2.inst == s.me && !(s.pol.moves.any fun m => m.source && m.range == r.1)).map (·.1)

/-- Whether a partition may have another owned entry (R283). -/
def State.dirRoom (s : State) (p : Nat) : Bool := decide (s.dirUse p < (s.getP p).dirQuota.toNat) && s.freeDirIdx.isSome

/-- Create the entry of an ID: EMPTY, bound to a ward; its first epoch follows the last one used on the ID. -/
def State.newEntry (s : State) (aid p ward : Nat) : State :=
  match s.freeDirIdx with
  | some i => s.modCab fun c => { c with dir := c.dir ++ [Entry.fresh i aid ward s.me p (SMap.get 0 c.lastEpoch aid) true] }
  | none => s

/-- The lowest free ID of some ranges, with its entry. -/
def State.takeId (s : State) (p ward : Nat) (ranges : List Nat) : Option (Nat × State) :=
  (ranges.findSome? s.freeIdIn).map fun a => (a, s.newEntry a p ward)

/-- An allocation that asked for a range ends without one. -/
def State.rangeFail (s : State) (long : Nat) (st : Status) : State := if long = 0 then s.blobSkip else s.endLong long st []

/-- A range has been granted for an allocation (long command, or 0 for a boot-image blob): it takes the lowest ID. -/
def State.rangeFor (s : State) (long k : Nat) : State :=
  let place : Option (Nat × Nat) :=
    if long = 0 then s.blobRec.map fun r => (r.2.1, wardCommon)
    else (s.lnk.longs.find? fun l => l.id == long).bind fun l => match l.kind with
      | .allocRange p w _ => some (p, w)
      | _ => none
  match place with
  | none => s
  | some (p, w) =>
    if s.dirRoom p = false then s.rangeFail long .noCapacity
    else
      match s.takeId p w [k] with
      | none => s.rangeFail long .idExhausted
      | some (a, s) => if long = 0 then s.blobReserve a p else s.endLong long .ok (leBytes 4 a)

end Sys2Proof.Machine
end

