-- ==== Sys2Proof/Machine/View.lean ====
section
/-! DEFINITION. Views of the pool (R306–R320): proposing, issuing and installing them, granting ranges, and what ends with a
member, a request or a move. -/

namespace Sys2Proof.Machine

open Sys2Proof

/-! ### Requests that end without their reply (R342, R343) -/

/-- Ask the next seed for admission (R309): the listed seeds in order, from those after `after`. -/
def State.joinNext (s : State) (after : Option Nat) : State :=
  let l := (s.pol.seeds.take s.pol.seedCnt.toNat).filter (· != s.pol.addr)
  let l := match after with
    | some a => (l.dropWhile (· != a)).drop 1
    | none => l
  match l with
  | [] => s
  | a :: _ =>
    s.request (65536 + a) .join 3 0 0
      (.join 1 0 blobMinorMax s.pol.poolId.toNat s.mgt.devId.toNat s.pol.addr s.pol.group.toNat (s.pol.servePart.toNat < 32) true)

/-- The entries of a range that this member owns. -/
def State.rangeEntries (s : State) (k : Nat) : List Entry := s.cab.dir.filter fun e => e.owned && e.aid / 256 == k

/-- Mark the entries of a range frozen or not (R317, R319). -/
def State.freeze (s : State) (k : Nat) (b : Bool) : State :=
  s.modCab fun c => { c with dir := c.dir.map fun e => if e.owned && e.aid / 256 == k then { e with frozen := b } else e }

def ReqKind.moves (r : ReqKind) (k : Nat) : Bool :=
  match r with
  | .moveBegin j => j == k
  | .moveData j => j == k
  | .moveCommit j => j == k
  | .moveAbort j => j == k
  | _ => false

/-- A move that ends aborted at its source (R318): the target is told, the range is no longer frozen, the command is answered. -/
def State.finishAbort (s : State) (k : Nat) (st : Status) : State :=
  match s.pol.moves.find? fun m => m.source && m.range == k with
  | none => s
  | some m =>
    let s := (s.modPol fun q =>
      { q with moves := q.moves.filter fun x => !(x.source && x.range == k), reqs := q.reqs.filter fun r => !r.kind.moves k }).freeze k false
    let s := if (s.member m.peer).isSome then s.sendRpp m.peer 0x33 0 .ok 0 0 (.num k) else s
    match m.long with
    | some id => s.endLong id st []
    | none => s

def noChange : ViewPl := { num := 0, full := false, add := [], del := [], ranges := [], wards := [] }

def ViewPl.empty (v : ViewPl) : Bool := v.add.isEmpty && v.del.isEmpty && v.ranges.isEmpty && v.wards.isEmpty

/-- The registrar takes back the changes of a range that its holder is moving: false where a view that gives the range away is installed
or being agreed on. Where a view shows, or is to show, the range MOVING, the next one shows it HELD again. -/
def State.regWithdraw (s : State) (k inst : Nat) : Bool × State :=
  let r := SMap.get freeRange s.pol.ranges k
  let agreed := s.pol.pend.toList.flatMap fun v => v.ranges.filter fun x => x.1 == k
  if r.inst ≠ inst ∨ (r.state ≠ .held ∧ r.state ≠ .moving) ∨ agreed.any (fun x => x.2.inst != inst || x.2.state == .lost) = true then (false, s)
  else
    let l := (s.pol.nextView.map fun v => { v with ranges := v.ranges.filter fun x => x.1 != k }).filter fun v => !v.empty
    let back := r.state == .moving || agreed.any fun x => x.2.state == .moving
    (true, s.modPol fun q =>
      { q with nextView := if back then l ++ [{ noChange with ranges := [(k, { state := .held, inst := inst })] }] else l })

/-- Whether a change of a range waits or is being agreed on here. -/
def State.changing (s : State) (k : Nat) : Bool :=
  (s.pol.nextView ++ s.pol.pend.toList).any fun v => v.ranges.any fun x => x.1 == k

/-- Ask the registrar to take back a committed move. -/
def State.askAbort (s : State) (k : Nat) : State :=
  if s.pol.reqs.any fun r => r.kind == .moveAbort k then s
  else
    match s.registrar.filter (· != s.me) with
    | some r => s.request r (.moveAbort k) 0x33 0 0 (.num k)
    | none => s

/-- The source aborts a move (R318). Once `MOVE_COMMIT` has gone to another registrar, that one decides whether the change can still be taken
back, and the abort waits for its answer or for the view that commits the move. DESIGN CHOICE (log entry 39). -/
def State.abortMove (s : State) (k : Nat) (st : Status) : State :=
  match s.pol.moves.find? fun m => m.source && m.range == k with
  | none => s
  | some m =>
    if s.isRegistrar ∨ s.changing k = true then
      let r := s.regWithdraw k s.me
      if r.1 then r.2.finishAbort k st else s
    else if m.st = .commit then
      State.askAbort (s.modPol fun q =>
        { q with
          moves := updFirst q.moves (fun x => x.source && x.range == k) fun x => { x with abort := some st }
          reqs := q.reqs.filter fun r => r.kind != .moveCommit k }) k
    else
      let s := match s.registrar.filter (· != m.peer) with
        | some r => s.sendRpp r 0x33 0 .ok 0 0 (.num k)
        | none => s
      s.finishAbort k st

/-- The target of a move discards what it has received. -/
def State.dropMove (s : State) (k : Nat) : State :=
  (s.modPol fun q => { q with moves := q.moves.filter fun x => x.source || x.range != k }).modCab fun c =>
    { c with extents := c.extents.filter fun x => match x.obj with | .moved r _ => r != k | _ => true }

/-- The view asked of a peer does not come: the frames that the peer sent under it cannot be acted on and go; for those of others the next
sender is asked. -/
def State.pullFailed (s : State) (peer : Nat) : State :=
  let s := s.modPol fun q => { q with heldMsgs := q.heldMsgs.filter fun m => m.peer != peer }
  match s.pol.heldMsgs with
  | [] => s
  | m :: _ => s.pullView m.peer

/-- The notice records that a step waits for have come, or will not (R324); the step may have been saved meanwhile (R396). -/
def State.noteFor (s : State) (p : Nat) (l : List NoteRec) (dead : List Nat) : State :=
  let got := l.map (·.aid) ++ dead
  let f (c : Ctx) : Ctx :=
    { c with
      noteOut := c.noteOut ++ l.filter fun n => c.noteWait.contains n.aid
      noteDead := c.noteDead ++ dead.filter fun a => c.noteWait.contains a
      noteWait := c.noteWait.filter fun a => !got.contains a }
  let waits (c : Option Ctx) : Bool := c.any fun c => c.noteWait.any fun a => got.contains a
  let q := s.getP p
  if waits q.ctx then State.resumeIssue (s.modCtx p f) p
  else if waits q.svCtx then s.modP p fun q => { q with svCtx := q.svCtx.map f }
  else s

/-- A request of this member ends with TIMEOUT or OWNER_UNREACHABLE: what depends on it gets that outcome (R36, R343). -/
def State.failOne (s : State) (r : PReq) (st : Status) : State :=
  let s := s.dropReq r.id
  match r.kind with
  | .hello | .oneWay | .winReq _ | .probe _ | .leave | .moveAbort _ => s
  | .viewPull => s.pullFailed r.peer
  | .join => s.joinNext (some (r.peer - 65536))
  | .range long => s.rangeFail long st
  | .note p aids =>
    if p = 32 then s.pinSettle else s.noteFor p [] aids
  | .fetch pairs => pairs.foldl (fun (s : State) x => s.fillFailed x.1 x.2) s
  | .visit p sseq _ _ drws => (drws.foldl (fun (s : State) k => s.settleStep p sseq k .ownerUnreachable) s).pump p
  | .gd p sseq _ _ => s.shipDone p sseq r.msg.aid r.msg.epoch st
  | .gdWrite p sseq _ _ _ => s.shipDone p sseq r.msg.aid r.msg.epoch st
  | .slowRd _ aid ep => s.promotionEnd aid ep none
  | .slowWr _ aid ep => s.modSlot aid ep fun v => if v.slow then v else { v with slowLoc := none }
  | .moveBegin k => s.abortMove k st
  | .moveData k => s.abortMove k st
  | .moveCommit k => s.abortMove k st

/-- As `failOne`; a session that does not open goes with every request that waits for it. -/
def State.failReq (s : State) (r : PReq) (st : Status) : State :=
  match r.kind with
  | .hello =>
    let s := (s.dropReq r.id).modPol fun q => { q with sess := q.sess.filter fun x => x.inst != r.peer }
    (s.pol.reqs.filter fun x => x.peer == r.peer).foldl (fun s x => s.failOne x st) s
  | _ => s.failOne r st

/-- Every request outstanding to a peer completes with OWNER_UNREACHABLE at once (R343). -/
def State.failPeer (s : State) (peer : Nat) : State :=
  (s.pol.reqs.filter fun r => r.peer == peer).foldl (fun s r => s.failReq r .ownerUnreachable) s

/-! ### Members that leave, ranges that change -/

/-- What a view that removes a member ends (R312, R318, R321, R343, R345, R366). -/
def State.dropPeer (s : State) (inst : Nat) : State :=
  let s := s.failPeer inst
  let s := (s.pol.moves.filter fun m => m.peer == inst).foldl (fun (s : State) m =>
    if m.source then s.abortMove m.range .ownerUnreachable else s.dropMove m.range) s
  let s := (s.pol.fetchQ.filter fun x => x.peer == inst).foldl (fun (s : State) x =>
    x.left.foldl (fun (s : State) e => if e.2.2 = 0 then s.freeRef e.1 e.2.1 else s) s) s
  let s := s.modCab fun c => { c with extents := c.extents.filter fun e => decide (e.obj ≠ .window inst) }
  s.modPol fun q =>
    { q with
      sess := q.sess.filter fun x => x.inst != inst
      fetchQ := q.fetchQ.filter fun x => x.peer != inst
      serveQ := q.serveQ.filter fun x => x.1 != inst
      exports := q.exports.filter fun w => w.inst != inst
      grants := q.grants.filter fun g => g.1 != inst
      rx := q.rx.filter fun b => b.owner != inst
      acks := SMap.erase q.acks inst
      quiet := SMap.erase q.quiet inst
      reclaim := q.reclaim.map fun r => (r.1, r.2.1, r.2.2.filter (· != inst))
      heldMsgs := q.heldMsgs.filter fun m => m.peer != inst
      work := q.work.filter fun w => match w with | .msg m => m.peer != inst | _ => true
      quarantine := q.quarantine ++ [(inst, s.now + msTicks (2 * q.lease.toNat))] }

/-- A cached version is to be forgotten: dropped where nothing refers to it, else marked so that it takes no new pin. -/
def State.forget (s : State) (e : Entry) : State :=
  if e.owned then s
  else
    e.vtab.foldl (fun (s : State) v =>
      if v.refs = 0 ∧ v.vstate = .valid then s.dropCached e.aid v.epoch
      else s.modSlot e.aid v.epoch fun v => { v with inval := true }) (s.modEntry e.aid fun e => { e with pinned := false })

/-- A LOST range is FREE again (R320): cached entries, notice records and hysteresis entries of its IDs go, and the record of
their last epochs, so that an adapter later allocated on one begins at epoch 1. -/
def State.clearRange (s : State) (k : Nat) : State :=
  let s := (s.cab.dir.filter fun e => e.aid / 256 == k).foldl (fun s e => s.forget e) s
  let s := (s.pol.notes.filter fun n => n.1 / 256 == k).foldl (fun (s : State) n => s.noteDrop n.1) s
  (s.modPol fun q => { q with hystTab := q.hystTab.filter fun h => h.aid / 256 != k }).modCab fun c =>
    { c with lastEpoch := c.lastEpoch.filter fun x => x.1 / 256 != k }

/-- A ward is bound to another digest (R519): its sessions close, its cached entries and notice records go. -/
def State.closeWard (s : State) (w : Nat) : State :=
  let s := (s.sec.sessions.filter fun x => !x.2.operator && x.2.ward == w).foldl (fun (s : State) x => s.endSession x.1) s
  let s := (s.cab.dir.filter fun e => e.ward == w).foldl (fun s e => s.forget e) s
  (s.pol.notes.filter fun n => n.2.ward == w).foldl (fun (s : State) n => s.noteDrop n.1) s

/-- The owned entries of a range go, with their charges, candidates and last epochs. -/
def State.releaseRange (s : State) (k : Nat) : State :=
  let here (a : Nat) : Bool := a / 256 == k
  let resvs := (s.cab.cands.filter fun c => here c.aid).map (·.resv)
  s.modCab fun c =>
    { c with
      dir := c.dir.filter fun e => !(e.owned && here e.aid)
      lastEpoch := c.lastEpoch.filter fun x => !here x.1
      cands := c.cands.filter fun c => !here c.aid
      extents := c.extents.filter fun x => match x.obj with
        | .blob a _ => !here a
        | .master a => !here a
        | .contrib a _ => !here a
        | .resv n => !resvs.contains n
        | _ => true }

/-- The source of a committed move releases the range's charges and entries (R318), and its command is answered OK. -/
def State.movedOut (s : State) (m : Move) : State :=
  let s := s.releaseRange m.range
  let s := s.modPol fun q =>
    { q with moves := q.moves.filter fun x => !(x.source && x.range == m.range), reqs := q.reqs.filter fun r => !r.kind.moves m.range }
  match m.long with
  | some id => s.endLong id .ok []
  | none => s

/-- No owned entry stays for an ID outside the ranges that this member holds (R314). -/
def State.dropForeign (s : State) : State :=
  let mine (k : Nat) : Bool := let r := SMap.get freeRange s.pol.ranges k; (r.state == .held || r.state == .moving) && r.inst == s.me
  (((s.cab.dir.filter (·.owned)).map fun e => e.aid / 256).eraseDups.filter fun k => !mine k).foldl (fun (s : State) k => s.releaseRange k) s

/-- Where the parts of a moving entry are kept until the commit: blobs by their place, the master area, contribution slots. -/
def movedNo (aid j : Nat) : Nat := aid * 64 + j

/-- The target of a committed move takes an entry (R317, R318): its ranges are charged to the receiving partition; a cached
entry of the adapter gives way, its references passing to the same versions. -/
def State.takeEntry (s : State) (m : Move) (e : Entry) : State :=
  let old := s.entry e.aid
  let refs (ep : Nat) : Nat := ((old.bind fun o => o.slot ep).map (·.refs)).getD 0
  let s := s.modCab fun c =>
    { c with
      dir := c.dir.filter fun x => x.aid != e.aid
      extents := (c.extents.filter fun x => match x.obj with | .cached a _ => a != e.aid | _ => true).map fun x =>
        match x.obj with
        | .moved r n =>
          if r = m.range ∧ n / 64 = e.aid then
            let j := n % 64
            { x with obj := if j < 32 then .blob e.aid (nth e.vtab j (freshSlot 0 .free 0 0 0)).epoch
                            else if j = 40 then .master e.aid else .contrib e.aid (j - 41) }
          else x
        | _ => x }
  let s := s.noteDrop e.aid
  match s.freeDirIdx with
  | none => s
  | some i => s.modCab fun c => { c with dir := c.dir ++
      [{ e with idx := i, owned := true, owner := s.me, home := m.part, frozen := false, pinned := false,
                vtab := e.vtab.map fun v => { v with refs := refs v.epoch, rbatch := 0, slow := false, slowLoc := none } }] }

/-- The moves that a view settles: at the source the range is another member's, at the target it is this one's. -/
def State.settleMoves (s : State) : State :=
  s.pol.moves.foldl (fun (s : State) m =>
    let r := SMap.get freeRange s.pol.ranges m.range
    if m.source then (if r.inst = s.me ∧ (r.state = .held ∨ r.state = .moving) then s else s.movedOut m)
    else if r.state = .held ∧ r.inst = s.me then
      let s := m.got.foldl (fun s g => s.takeEntry m g.1) s
      -- the last epochs of the range's freed IDs came with `MOVE_BEGIN` (R142)
      let s := s.modCab fun c => { c with lastEpoch := m.last.foldl (fun l x => SMap.insert l x.1 x.2) c.lastEpoch }
      s.modPol fun q => { q with moves := q.moves.filter fun x => x.source || x.range != m.range }
    else s) s

/-! ### Installing a view (R307, R308) -/

/-- The whole view. -/
def State.fullView (s : State) : ViewPl :=
  { num := s.pol.viewNum.toNat, full := true, add := s.pol.members, del := [], ranges := s.pol.ranges, wards := s.pol.wards }

/-- Sessions known by a fabric address take the instance ID that the view gives it. -/
def State.renamePeers (s : State) : State :=
  let name (p : Nat) : Nat :=
    if p < 65536 then p else ((s.pol.members.find? fun m => 65536 + m.addr == p).map (·.inst)).getD p
  s.modPol fun q =>
    { q with sess := q.sess.map fun x => { x with inst := name x.inst }, reqs := q.reqs.map fun r => { r with peer := name r.peer } }

/-- Range grants that waited for the view (R316). -/
def State.settleGrants (s : State) : State :=
  s.pol.grants.foldl (fun (s : State) g =>
    let r := SMap.get freeRange s.pol.ranges g.2.2
    if r.state = .held ∧ r.inst = g.1 then
      let s := s.modPol fun q => { q with grants := q.grants.filter (· != g) }
      if g.1 = s.me then s.rangeFor g.2.1 g.2.2 else s.finishReq g.1 g.2.1 0x0C .ok 0 0 (.num g.2.2)
    else s) s

/-- Joins that waited for the view (R309): the new member gets its instance ID with the whole view. -/
def State.settleJoins (s : State) : State :=
  s.pol.joins.foldl (fun (s : State) j =>
    if (s.member j.2.2).isSome then
      (s.modPol fun q => { q with joins := q.joins.filter (· != j) }).finishReq j.1 j.2.1 4 .ok 0 0 (.joinAck j.2.2 s.fullView)
    else s) s

/-- Install a view: its members, ranges and wards, and everything that follows from them. -/
def State.install (s : State) (v : ViewPl) : State :=
  let old := s.pol.members
  let oldR := s.pol.ranges
  let now := if v.full then v.add
    else (old.filter fun m => !v.del.contains m.inst && !(v.add.any fun a => a.inst == m.inst)) ++ v.add
  let newR := if v.full then v.ranges.foldl (fun m r => SMap.set freeRange m r.1 r.2) [] else v.ranges.foldl (fun m r => SMap.set freeRange m r.1 r.2) oldR
  let same (a b : Member) : Bool := a.inst == b.inst && a.devId == b.devId
  let gone := (old.filter fun m => !(now.any (same m)) && m.inst != s.me).map (·.inst)
  let come := (now.filter fun m => !(old.any (same m)) && m.inst != s.me).map (·.inst)
  -- wards first (R519)
  let s := v.wards.foldl (fun (s : State) w =>
    if s.pol.wards.any (fun x => x.1 == w.1 && x.2 != w.2) then s.closeWard w.1 else s) s
  let s := s.modPol fun q =>
    { q with
      members := now, ranges := newR, viewNum := BitVec.ofNat 32 v.num
      wards := v.wards.foldl (fun m w => SMap.insert m w.1 w.2) q.wards
      pend := q.pend.filter fun p => decide (v.num < p.num) }
  let s := gone.foldl (fun s i => s.dropPeer i) s
  let s := s.modPol fun q =>
    { q with
      acks := come.foldl (fun m i => SMap.insert m i (q.batchNext - 1)) q.acks
      quiet := come.foldl (fun m i => SMap.set (0, 0) m i (s.now + msTicks q.peerDead.toNat, s.now + msTicks q.lease.toNat)) q.quiet }
  -- ranges reclaimed, by this view or by one that a whole view makes up for (R320): what was held is FREE, or held anew though its
  -- holder is gone
  let back := oldR.filter fun r =>
    let n := SMap.get freeRange newR r.1
    (r.2.state == .lost && n.state != .lost) ||
      (v.full && (r.2.state == .held || r.2.state == .moving) && (n.state == .free || (n.state != .lost && gone.contains r.2.inst && n.inst != r.2.inst)))
  let s := back.foldl (fun (s : State) r => s.clearRange r.1) s
  -- a member that holds, or comes to hold, the registrar's office grants such a range when every member has acknowledged the view
  let acked := if s.pol.pendAt = v.num then s.pol.pendAcks else []
  let s := s.modPol fun q =>
    { q with reclaim := q.reclaim ++ (back.map fun r => (r.1, v.num, s.others.filter fun i => !acked.contains i)) }
  -- requests to an owner whose range is LOST end (R343)
  let s := (s.pol.reqs.filter fun r => match r.kind with
      | .fetch pairs => pairs.any fun x => (s.rangeOf x.1).state == .lost
      | .gd .. | .gdWrite .. => (s.rangeOf r.msg.aid).state == .lost
      | _ => false).foldl (fun s r => s.failReq r .ownerUnreachable) s
  let s := (s.settleMoves.dropForeign.settleJoins.renamePeers).settleGrants
  (s.settleClaims).reclaim

/-! ### Issuing a view (R306, R307) -/

/-- The changes that wait, as one view: the ranges that a removed member would hold become LOST (R312). -/
def State.nextViewOf (s : State) : ViewPl :=
  let l := s.pol.nextView
  let del := l.flatMap (·.del)
  let ch := l.flatMap (·.ranges)
  let tab := ch.foldl (fun m r => SMap.set freeRange m r.1 r.2) s.pol.ranges
  let lost := (tab.filter fun r => (r.2.state == .held || r.2.state == .moving) && del.contains r.2.inst).map fun r =>
    (r.1, { r.2 with state := .lost })
  { num := s.pol.viewNum.toNat + 1, full := false, add := l.flatMap (·.add), del := del, ranges := ch ++ lost, wards := l.flatMap (·.wards) }

/-- The listed seeds that the view holds. -/
def State.seedMembers (s : State) : List Nat :=
  (s.pol.members.filter fun m => (s.pol.seeds.take s.pol.seedCnt.toNat).contains m.addr).map (·.inst)

/-- A view that a majority of seeds has acknowledged is issued while this member is registrar with a majority: installed here and sent to
the other members. -/
def State.tryIssue (s : State) : State :=
  match s.pol.pend.filter fun _ => s.isRegistrar && s.majority with
  | none => s
  | some v =>
    let got := s.seedMembers.filter fun i => s.pol.pendAcks.contains i
    if s.pol.seedCnt.toNat < 2 * got.length then
      let seeds := s.seedMembers
      let s := s.install v
      (s.others.filter fun i => !seeds.contains i && !(v.add.any fun m => m.inst == i)).foldl
        (fun (s : State) i => s.sendRpp i 6 0 .ok 0 0 (.view v)) s
    else s

/-- Whether this member is catching up with a later view that it has seen (R307). -/
def State.pulling (s : State) : Bool :=
  s.pol.reqs.any (fun r => r.kind == .viewPull) || s.pol.heldMsgs.any fun m => decide (s.pol.viewNum.toNat < m.view)

/-- The registrar gathers the changes that wait into its next view, numbered above every view it has seen, and asks the seeds for their
acknowledgement. -/
def State.issueView (s : State) : State :=
  if s.isRegistrar = false ∨ s.majority = false ∨ s.pulling = true ∨ s.pol.pend.isSome ∨ s.pol.nextView.isEmpty then s
  else
    let v := s.nextViewOf
    let s := s.modPol fun q => { q with pend := some v, pendAt := v.num, pendAcks := [s.me], nextView := [] }
    let s := (s.seedMembers.filter (· != s.me)).foldl (fun (s : State) i => s.sendRpp i 6 0 .ok 0 0 (.view v)) s
    s.tryIssue

/-- Put a change into the next view. -/
def State.propose (s : State) (v : ViewPl) : State := State.issueView (s.modPol fun q => { q with nextView := q.nextView ++ [v] })

/-! ### Granting ranges (R316, R320) -/

/-- The ranges that a view to come changes, or that members have yet to acknowledge as FREE. -/
def State.rangesBusy (s : State) : List Nat :=
  (s.pol.nextView ++ s.pol.pend.toList).flatMap (fun v => v.ranges.map (·.1))
    ++ (s.pol.reclaim.filter fun r => !r.2.2.isEmpty).map (·.1)

/-- The lowest FREE range; the table lists the ranges that are not FREE, ascending. -/
def lowestRange (busy : List Nat) (tab : SMap RangeEnt) : Nat → Nat → Option Nat
  | 0, _ => none
  | fuel + 1, k => if (SMap.get freeRange tab k).state == .free && !busy.contains k then some k else lowestRange busy tab fuel (k + 1)

/-- The registrar grants the lowest FREE range to a member; the answer waits for the view. -/
def State.grantRange (s : State) (peer tag : Nat) : Option Status × State :=
  match lowestRange s.rangesBusy s.pol.ranges 65536 0 with
  | none => (some .idExhausted, s)
  | some k =>
    (none, State.propose (s.modPol fun q => { q with grants := q.grants ++ [(peer, tag, k)] })
      { noChange with ranges := [(k, { state := .held, inst := peer })] })

/-- Ask for a further range (R141): the registrar, or this member where it is that. Without a registrar that holds a majority
the request times out (R349). -/
def State.askRange (s : State) (long : Nat) : State :=
  match s.registrar.filter fun _ => !s.lostSeat with
  | none => s.rangeFail long .timeout
  | some r =>
    if r = s.me then
        match s.grantRange s.me long with
        | (some st, s) => s.rangeFail long st
        | (none, s) => s
    else s.request r (.range long) 0x0B 0 0 .none

/-! ### The next boot-image blob's ID -/

/-- Whether the blob under installation waits for its ID and nothing asks for it yet. -/
def State.blobIdle (s : State) : Bool :=
  s.mgt.bootStage == 9 && s.mgt.blobAid == 0 && !(s.pol.reqs.any fun r => r.kind == .range 0)
    && !(s.pol.grants.any fun g => g.1 == s.me && g.2.1 == 0) && s.pol.instValid

/-- Allocate the ID of the blob, and of the ones after it where it is skipped. -/
def State.blobPump : Nat → State → State
  | 0, s => s
  | fuel + 1, s =>
    if s.blobIdle = false then s
    else
      match s.blobRec with
      | none => s
      | some (_, home, _) =>
        if s.dirRoom home = false then State.blobPump fuel s.blobSkip
        else
          match s.takeId home wardCommon s.ownRanges with
          | some (a, s) => State.blobPump fuel (s.blobReserve a home)
          | none => State.blobPump fuel (s.askRange 0)

/-! ### Range moves (R317) -/

/-- One entry of a moving range as it is sent: with its blobs in version-table order. -/
def State.moveMsg (s : State) (e : Entry) : List (Nat × List Byte) :=
  e.vtab.map fun v => (v.epoch, if v.slow then [] else Memory.readN s.hbm (gAddr v.loc) v.blen)

/-- Take a move at its source through its phases as far as they go: freeze once no round is open, transfer once no granted slot
is being written and every blob is in the Cabinet, commit once every transfer is acknowledged. -/
def State.moveGo (s : State) (k : Nat) : State :=
  match s.pol.moves.find? fun m => m.source && m.range == k with
  | none => s
  | some m =>
    let es := s.rangeEntries k
    let set (s : State) (st : MoveSt) : State :=
      s.modPol fun q => { q with moves := updFirst q.moves (fun x => x.source && x.range == k) fun x => { x with st := st } }
    let commit (s : State) : State :=
      let s := set s .commit
      if s.isRegistrar then s.propose { noChange with ranges := [(k, { state := .held, inst := m.peer })] }
      else
        match s.registrar with
        | some r => s.request r (.moveCommit k) 0x32 0 0 (.pairs [(k, m.peer)])
        | none => s.finishAbort k .timeout
    let transfer (s : State) : State :=
      if es.any (fun e => e.contribs.any fun c => !c.written) then s
      else
        -- demoted blobs come back first (R302)
        let slow := es.flatMap fun e => (e.vtab.filter (·.slow)).map fun v => (e.aid, v.epoch)
        if slow.isEmpty = false then
          slow.foldl (fun (s : State) x =>
            match s.promote x.1 x.2 with
            | (true, s) => s
            | (false, s) => s.abortMove k .noCapacity) s
        else
          let s := es.foldl (fun (s : State) e => s.request m.peer (.moveData k) 0x31 e.aid 0 (.moveData k e (s.moveMsg e))) (set s .transfer)
          if es.isEmpty then commit s else s
    match m.st with
    | .begin => s
    | .freeze =>
      -- in power-down commits in progress finish first (R371)
      if es.any (fun e => e.round.isSome) ∨ (s.pwr.powering = true ∧ (s.cab.engine.isSome ∨ !s.cab.cands.isEmpty)) then s else transfer ((set s .drain).freeze k true)
    | .drain => transfer s
    | .transfer =>
      if s.pol.reqs.any (fun r => match r.kind with | .moveData j => j == k | _ => false) then s else commit s
    | .commit => if m.abort.isSome then s.askAbort k else s

/-- The registrar is to show a range MOVING while its holder moves it (R315). -/
def State.showMoving (s : State) (k inst : Nat) : State :=
  let r := SMap.get freeRange s.pol.ranges k
  if r.state = .held ∧ r.inst = inst ∧ s.changing k = false then
    s.propose { noChange with ranges := [(k, { state := .moving, inst := inst })] }
  else s

/-- Every move at its source goes on. -/
def State.movesGo (s : State) : State := (s.pol.moves.filter (·.source)).foldl (fun s m => s.moveGo m.range) s

end Sys2Proof.Machine
end

