-- ==== Sys2Proof/Machine/PoolMsg.lean ====
section
/-! DEFINITION. What a member does with each RPP message (R307–R348, R363–R366). A handler takes the state, the message and the
peer that sent it. -/

namespace Sys2Proof.Machine

open Sys2Proof

/-! ### Calibration (R329) -/

def groupOf (s : State) (peer : Nat) : Nat := ((s.member peer).map (·.group)).getD 0

/-- est + (sample − est) / 16 in FP32. -/
def estNext (old sample : Nat) : Nat := (add32 old (((div32 (sub32 sample old).1 0x41800000).map (·.1)).getD 0)).1

/-- ACLK counts as nanoseconds in FP32. -/
def nsOf (t : Nat) : Nat := natF (10 * t)

/-- Bytes per nanosecond; none over no time. -/
def bwOf (bytes t : Nat) : Option Nat := if t = 0 then none else (div32 (natF bytes) (nsOf t)).map (·.1)

def State.modCal (s : State) (grp : Nat) (f : CalGrp → CalGrp) : State := s.modPol fun q => { q with cal := modNth q.cal grp f }

/-- Bytes of a VISIT record: header and vectors, each padded to 64 (R333). -/
def VisitRec.bytes (r : VisitRec) : Nat :=
  32 + r.vecs.foldl (fun n v => n + roundUp (rowLen v.fmt v.els.length + v.scl.length) 64) 0

def sumBytes (l : List VisitRec) : Nat := l.foldl (fun n r => n + r.bytes) 0

/-- A reply frame comes in: the request's timer runs `T_GAP` from now on (R342). -/
def State.gotFrame (s : State) (r : PReq) (n : Nat) : State :=
  s.modReq r.id fun x => { x with t0 := s.now, due := s.now + usTicks s.pol.tGap.toNat, tFirst := if x.tFirst = 0 then s.now else x.tFirst, got := x.got + n }

/-! ### Resends and redirection (R341, R342) -/

/-- Resend a request with its tag, or let it end where its resends are spent (R342, R343). -/
def State.resend (s : State) (r : PReq) : State :=
  if r.resends < s.pol.retry.toNat then
    if r.queued then s.modReq r.id fun x => { x with resends := x.resends + 1, t0 := s.now, due := s.now + usTicks s.pol.tReq.toNat, tFirst := 0 }
    else (s.modReq r.id fun x => { x with resends := x.resends + 1, t0 := s.now, due := s.now + usTicks s.pol.tReq.toNat, tFirst := 0 }).pushRpp r.peer r.msg
  else
    let dead := s.unreach r.peer || (r.peer < 65536 && (s.member r.peer).isNone)
    s.failReq r (if dead then .ownerUnreachable else .timeout)

/-- The parts of a redirected request, each with the owner that the view names. -/
def State.reaskParts (s : State) (r : PReq) : List (Option Nat × ReqKind × RppPl) :=
  let own (a : Nat) : Option Nat := (s.ownerOfAid a).filter (· != s.me)
  match r.kind with
  | .fetch pairs => ((pairs.map fun x => own x.1).eraseDups).map fun o =>
      let l := pairs.filter fun x => own x.1 == o
      (o, .fetch l, .pairs l)
  | .note p aids => ((aids.map own).eraseDups).map fun o =>
      let l := aids.filter fun a => own a == o
      (o, .note p l, .aids l)
  | .visit p sseq proj mi drws =>
    match r.msg.pl with
    | .visit recs => ((recs.map fun x => own x.aid).eraseDups).map fun o =>
        let l := recs.filter fun x => own x.aid == o
        let c := ((s.getP p).ctx.filter fun c => c.sub.sseq == sseq) <|> ((s.getP p).svCtx.filter fun c => c.sub.sseq == sseq)
        (o, .visit p sseq proj mi (drws.filter fun k => match c with | some c => own (c.drw k).aid == o | none => false), .visit l)
    | _ => []
  | .range long => [(s.registrar.filter (· != s.me), .range long, r.msg.pl)]
  | k => [(own r.msg.aid, k, r.msg.pl)]

/-- Send a redirected request again to the owner that the view names (R341); the third time it ends. -/
def State.reask (s : State) (r : PReq) : State :=
  if 2 ≤ r.redirects then s.failReq r .ownerUnreachable
  else
    (s.reaskParts r).foldl (fun (s : State) x =>
      match x.1 with
      | some o =>
        let id := s.pol.nextReq
        (s.request o x.2.1 r.msg.type r.msg.aid r.msg.epoch x.2.2).modPol fun q =>
          { q with reqs := q.reqs.map fun y => if id ≤ y.id ∧ y.kind ≠ .hello then { y with redirects := r.redirects + 1 } else y }
      | none => s.failOne { r with kind := x.2.1 } .ownerUnreachable) (s.dropReq r.id)

/-- `REDIRECT` (R309, R341). -/
def hRedirect (s : State) (m : RppMsg) (peer : Nat) : State :=
  match s.reqOf peer m.tag with
  | none => s
  | some r =>
    -- on another channel than that of the message it answers it is discarded and counted (R339)
    if m.vc ≠ r.msg.vc then s.modPol fun q => { q with rppBad := satAdd q.rppBad 1 }
    else
    match r.kind, m.pl with
    | .join, .pairs ((_, a) :: _) =>
      if 2 ≤ r.redirects then s.failReq r .ownerUnreachable
      else
        let id := s.pol.nextReq
        ((s.dropReq r.id).request (65536 + a) .join 3 0 0 r.msg.pl).modPol fun q =>
          { q with reqs := q.reqs.map fun y => if id ≤ y.id ∧ y.kind = .join then { y with redirects := r.redirects + 1 } else y }
    | _, _ => s.reask r

/-- Whether every adapter of a list lies in a range that this member holds. -/
def State.allMine (s : State) (l : List Nat) : Bool := l.all s.mine

/-! ### Sessions (R337, R346, R531) -/

/-- What `HELLO` and `HELLO_ACK` ask of a peer: the RPP major version, in the header as in the payload, the pool, its attestation. -/
def State.helloStatus (s : State) (m : RppMsg) : Status :=
  match m.pl with
  | .hello major _ _ _ pool _ _ _ _ ok =>
    if m.major ≠ 1 ∨ major ≠ 1 then .formatUnsupported
    else if s.sec.coreFault then .internal
    else if pool ≠ s.pol.poolId.toNat ∨ ok = false ∨ s.sec.lcState ≠ 2 then .authFail
    else .ok
  | _ => .descInvalid

def helloMinors (pl : RppPl) : Nat × Nat × Nat :=
  match pl with
  | .hello _ minor bm pm _ _ _ _ _ _ => (minor, bm, pm)
  | _ => (0, 0, 0)

/-- `HELLO` (R346): a session opens at the lower of the two minor versions, or the reply says why not. -/
def hHello (s : State) (m : RppMsg) (peer : Nat) : State :=
  match s.helloStatus m with
  | .ok =>
    let v := helloMinors m.pl
    let x : RppSess := { inst := peer, minor := min 0 v.1, blobMinor := v.2.1, pubMinor := v.2.2, opening := false, unreach := false,
                         nextTag := ((s.pol.session peer).map (·.nextTag)).getD 1, idle := s.now, doneTags := [], busyTags := [],
                         used := 0, used0 := 0, wait := [], asm := [] }
    let busy (x : RppSess) : Bool := s.pol.reqs.any fun r => r.peer == x.inst
    let l := s.pol.sess.filter fun y => y.inst != peer
    let room : Option (List RppSess) :=
      if l.length < 8192 then some l
      else (least (fun (a b : RppSess) => decide (a.idle < b.idle)) (l.filter fun y => !busy y)).map fun v => l.filter fun y => y.inst != v.inst
    match room with
    | some l => (s.modPol fun q => { q with sess := l ++ [x] }).reply m peer 2 .ok s.helloPl
    | none => s.reply m peer 2 .noCapacity s.helloPl
  | st => s.reply m peer 2 st s.helloPl

/-- `HELLO_ACK` (R346): the session is open, or its request has failed. -/
def hHelloAck (s : State) (m : RppMsg) (peer : Nat) : State :=
  match (s.reqOf peer m.tag).filter fun r => r.kind == .hello with
  | none => s
  | some r =>
    if m.status ≠ .ok ∨ s.helloStatus m ≠ .ok then s.failReq r .ownerUnreachable
    else
      let v := helloMinors m.pl
      let name := if m.unjd then m.src else peer
      (s.dropReq r.id).modPol fun q =>
        { q with
          sess := q.sess.map fun x =>
            if x.inst = peer then { x with inst := name, opening := false, minor := min 0 v.1, blobMinor := v.2.1, pubMinor := v.2.2 } else x
          reqs := q.reqs.map fun y => if y.peer = peer then { y with peer := name } else y }

/-! ### Membership (R306–R313) -/

/-- The lowest instance ID that no member holds, no view to come gives and no quarantine keeps (R310). -/
def freeInst (taken : List Nat) : Nat → Nat → Option Nat
  | 0, _ => none
  | fuel + 1, i => if taken.contains i then freeInst taken fuel (i + 1) else some i

def State.instsTaken (s : State) : List Nat :=
  s.pol.members.map (·.inst) ++ s.pol.quarantine.map (·.1)
    ++ (s.pol.nextView ++ s.pol.pend.toList).flatMap fun v => v.add.map (·.inst)

/-- `JOIN_REQ` (R309, R310, R511). A device that is no registrar names it; without a majority nothing is answered (R349). -/
def hJoinReq (s : State) (m : RppMsg) (peer : Nat) : State :=
  match m.pl with
  | .join major minor bm pool dev addr group serves att =>
    if s.pol.instValid = false then s
    else if s.isRegistrar = false then
      match s.registrar.bind s.member with
      | some r => s.reply m peer 0x0A .ok (.pairs [(r.inst, r.addr)])
      | none => s
    else if s.majority = false then s
    else
      s.serveReq m peer fun s =>
        if m.major ≠ 1 ∨ major ≠ 1 then s.reply m peer 4 .formatUnsupported .none
        else if pool ≠ s.pol.poolId.toNat ∨ att = false ∨ s.sec.coreFault then s.reply m peer 4 .authFail .none
        else
          let taken := s.instsTaken
          let old := (s.pol.members.filter fun x => x.devId == dev && x.inst != s.me).map (·.inst)
          match freeInst taken 65536 0 with
          | none => s.reply m peer 4 .poolFull .none
          | some i =>
            let n : Member := { inst := i, devId := dev, addr := addr, group := group, rppMinor := minor, blobMinor := bm, serves := serves }
            State.propose (s.modPol fun q => { q with joins := q.joins ++ [(peer, m.tag, i)] }) { noChange with add := [n], del := old }
  | _ => s

/-- Tell the registrar that the view is installed, as every member does (R308). -/
def State.ackView (s : State) : State :=
  match s.registrar with
  | some r => if r = s.me then s else s.sendRpp r 7 0 .ok 0 0 (.num s.pol.viewNum.toNat)
  | none => s

/-- This device is a member from now on, as instance i in a view. -/
def State.joined (s : State) (i : Nat) (v : ViewPl) : State :=
  ((s.modPol fun q => { q with instId := BitVec.ofNat 16 i, instValid := true, batchNext := 1 }).install v).ackView

/-- `JOIN_ACK` (R309, R551): the device is a member from now on; the boot installs its blobs. -/
def hJoinAck (s : State) (m : RppMsg) (peer : Nat) : State :=
  match (s.reqOf peer m.tag).filter fun r => r.kind == .join with
  | none => s
  | some r =>
    match m.status, m.pl with
    | .ok, .joinAck i v => let s := (s.dropReq r.id).joined i v; if s.mgt.bootStage = 8 then s.blobStart else s
    | _, _ => s.dropReq r.id

/-- `LEAVE` (R312): the registrar removes the member in the next view; the answer leaves before the view closes the session. -/
def hLeave (s : State) (m : RppMsg) (peer : Nat) : State :=
  if s.isRegistrar = false ∨ s.majority = false then s
  else s.serveReq m peer fun s => (s.reply m peer 7 .ok (.num s.pol.viewNum.toNat)).propose { noChange with del := [peer] }

/-- `VIEW` (R307, R308): views are installed in ascending number; a gap is filled by the whole view. -/
def hView (s : State) (m : RppMsg) (peer : Nat) : State :=
  match m.pl with
  | .view v =>
    let s := s.modPol fun q => { q with reqs := q.reqs.filter fun r => !(r.kind == .viewPull && r.peer == peer && r.tag == m.tag && !r.queued) }
    let ack (s : State) : State := s.reply m peer 7 .ok (.num s.pol.viewNum.toNat)
    if s.pol.instValid = false then s
    else if v.num ≤ s.pol.viewNum.toNat then ack s
    else if v.full ∨ v.num = s.pol.viewNum.toNat + 1 then ack (s.install v)
    else s.pullView peer
  | _ => s

/-- `VIEW_ACK` (R307, R308, R320); it also acknowledges a `LEAVE`. -/
def hViewAck (s : State) (m : RppMsg) (peer : Nat) : State :=
  match m.pl with
  | .num n =>
    let s := s.modPol fun q =>
      { q with
        reqs := q.reqs.filter fun r => !(r.kind == .leave && r.peer == peer && r.tag == m.tag && !r.queued)
        reclaim := (q.reclaim.map fun r => if r.2.1 ≤ n then (r.1, r.2.1, r.2.2.filter (· != peer)) else r).filter fun r => !r.2.2.isEmpty
        pendAcks := if q.pend.any (fun v => v.num ≤ n) && !q.pendAcks.contains peer then q.pendAcks ++ [peer] else q.pendAcks }
    s.tryIssue.issueView
  | _ => s

/-- `VIEW_PULL` (R307): the registrar returns the whole view; a member that a new registrar asks returns its own. -/
def hViewPull (s : State) (m : RppMsg) (peer : Nat) : State :=
  if s.isRegistrar ∨ s.registrar = some peer then s.reply m peer 6 .ok (.view s.fullView) else s

/-! ### Ranges and windows (R316, R321) -/

/-- `RANGE_REQ` (R316). -/
def hRangeReq (s : State) (m : RppMsg) (peer : Nat) : State :=
  if s.isRegistrar = false then s.redirect m peer
  else if s.majority = false then s
  else s.serveReq m peer fun s =>
    match s.grantRange peer m.tag with
    | (some st, s) => s.reply m peer 0x0C st .none
    | (none, s) => s

/-- `RANGE_GRANT` (R141, R316). -/
def hRangeGrant (s : State) (m : RppMsg) (peer : Nat) : State :=
  match s.reqOf peer m.tag with
  | some r =>
    match r.kind, m.status, m.pl with
    | .range long, .ok, .num k => (s.dropReq r.id).rangeFor long k
    | .range long, .ok, _ => (s.dropReq r.id).rangeFail long .internal
    | .range long, st, _ => (s.dropReq r.id).rangeFail long st
    | _, _, _ => s
  | none => s

/-- `EXPORT_REQ` (R321): the lowest free range of the export window. -/
def hExportReq (s : State) (m : RppMsg) (peer : Nat) : State :=
  match m.pl with
  | .num bytes =>
    s.serveReq m peer fun s =>
      let base := s.cab.exportBase
      let len := ceilDiv bytes granule
      match lowestFree len s.cab.cacheBase base (s.cab.extents.filter fun e => e.part == 33) with
      | some b =>
        if len = 0 then s.reply m peer 0x0E .noCapacity .none
        else
          ((s.modCab fun c => { c with extents := addExtent ⟨b, len, 33, .window peer⟩ c.extents }).modPol fun q =>
            { q with exports := q.exports ++ [{ inst := peer, base := granule * (b - base), bytes := bytes }] }).reply m peer 0x0E .ok
              (.window (granule * (b - base)) bytes)
      | none => s.reply m peer 0x0E .noCapacity .none
  | _ => s

/-- `EXPORT_GRANT` (R321): the partition's slower tier exists from now on. -/
def hExportGrant (s : State) (m : RppMsg) (peer : Nat) : State :=
  match s.reqOf peer m.tag with
  | some r =>
    match r.kind, m.status, m.pl with
    | .winReq p, .ok, .window base _ => (s.dropReq r.id).modP p fun q => { q with slowAt := base + 1 }
    | .winReq _, _, _ => s.dropReq r.id
    | _, _, _ => s
  | none => s

/-- Whether a range lies in a window granted to a member. -/
def State.inWindow (s : State) (inst off len : Nat) : Bool :=
  s.pol.exports.any fun w => w.inst == inst && decide (w.base ≤ off ∧ off + len ≤ w.base + w.bytes)

/-- `SLOW_RD` (R321): the bytes of a window that this member exports. -/
def hSlowRd (s : State) (m : RppMsg) (peer : Nat) : State :=
  match m.pl with
  | .window off len =>
    if s.inWindow peer off len then
      s.reply m peer 0x1D .ok (.data 0 (Memory.readN s.hbm (gAddr s.cab.exportBase + off) len) true)
    else s
  | _ => s

/-- `SLOW_DATA` (R302, R303): with its last frame the sealed blob is opened. -/
def hSlowData (s : State) (m : RppMsg) (peer : Nat) : State :=
  match s.reqOf peer m.tag with
  | some r =>
    match r.kind, m.pl with
    | .slowRd p aid ep, .data off bs _ =>
      if off ≠ r.buf.length then s
      else
        let data := r.buf ++ bs
        if m.last then
          let o := (((s.entry aid).bind fun e => e.slot ep).bind (·.slowLoc)).getD 0
          (s.dropReq r.id).promotionEnd aid ep (Config.opened p aid ep (granule * o) data)
        else (s.gotFrame r bs.length).modReq r.id fun x => { x with buf := data }
    | _, _ => s
  | none => s

/-- `SLOW_WR` (R321): a demoted blob's frames land in the exported window; the last one is acknowledged. -/
def hSlowWr (s : State) (m : RppMsg) (peer : Nat) : State :=
  match m.pl with
  | .data off bs _ =>
    if s.inWindow peer off bs.length then
      let s := s.land 0 (gAddr s.cab.exportBase + off) bs
      if m.last then s.reply m peer 0x1F .ok .none else s
    else s
  | _ => s

/-- `SLOW_ACK` (R300): the blob's Cabinet charge goes. -/
def hSlowAck (s : State) (m : RppMsg) (peer : Nat) : State :=
  match s.reqOf peer m.tag with
  | some r =>
    match r.kind with
    | .slowWr _ aid ep => if m.status = .ok then (s.dropReq r.id).demoted aid ep else s.failReq r m.status
    | _ => s
  | none => s

/-! ### Notice records (R324) -/

/-- `NOTE_REQ`: one record for each ID. -/
def hNoteReq (s : State) (m : RppMsg) (peer : Nat) : State :=
  match m.pl with
  | .aids l =>
    if s.allMine l = false then s.redirect m peer
    else
      s.serveReq m peer fun s =>
        let recs := l.map fun a =>
          match (s.entry a).filter (·.owned) with
          | some e => s.recordOf e
          | none => { aid := a, valid := false, learn := false, epoch := 0, ward := 0, bminor := 0, blen := 0, rank := 0, wfmtA := 0,
                      wfmtB := 0, lbytes := 0, gbytes := 0, projs := [] }
        s.reply m peer 0x11 (if recs.all (·.valid) then .ok else .adapterUnknown) (.notes recs)
  | _ => s

/-- `NOTE_REP` (R323, R324): the records of one frame with `VALID` are kept, and the checks of the step that waits for them go on; the last
frame ends the request, and an ID without a record is one whose owner did not answer. -/
def hNoteRep (s : State) (m : RppMsg) (peer : Nat) : State :=
  match s.reqOf peer m.tag with
  | some r =>
    match r.kind, m.pl with
    | .note p aids, .notes l =>
      let l := l.filter fun n => aids.contains n.aid
      let left := aids.filter fun a => !(l.any fun n => n.aid == a)
      let s := (l.filter (·.valid)).foldl (fun (s : State) n => s.noteReplace n) s
      let s := if m.last then s.dropReq r.id else (s.gotFrame r m.len).modReq r.id fun x => { x with kind := .note p left }
      if p = 32 then s.pinSettle else s.noteFor p l (if m.last then left else [])
    | _, _ => s
  | none => s

/-! ### Fills (R331, R332, R348, R367) -/

/-- `FETCH_REQ`: each version is served, after a promotion where it is demoted, or answered with a status. -/
def hFetchReq (s : State) (m : RppMsg) (peer : Nat) : State :=
  match m.pl with
  | .pairs l =>
    if s.allMine (l.map (·.1)) = false then s.redirect m peer
    else
      s.serveReq m peer fun s =>
        let minor := ((s.pol.session peer).map (·.blobMinor)).getD 0
        let r := l.foldl (fun (st : List (Nat × Nat × Nat) × State) x =>
          let s := st.2
          let out (c : Status) : List (Nat × Nat × Nat) × State := (st.1 ++ [(x.1, x.2, statusCode c)], s)
          match (s.entry x.1).filter fun e => e.owned && e.state != .empty with
          | none => out .adapterUnknown
          | some e =>
            match e.slot x.2 with
            | none => out .versionGone
            | some v =>
              if v.damaged then out .versionGone
              else if minor < v.bminor then out .formatUnsupported
              else
                match s.promote x.1 x.2 with
                | (false, s) => (st.1 ++ [(x.1, x.2, statusCode .noCapacity)], s)
                | (true, s) => (st.1 ++ [(x.1, x.2, 0)], s.takeRef x.1 x.2)) ([], s)
        r.2.modPol fun q => { q with fetchQ := q.fetchQ ++ [{ peer := peer, tag := m.tag, seg := 0, left := r.1 }] }
  | _ => s

/-- The notice record that a completed fill gives (R323). -/
def State.fillNote (s : State) (e : Entry) (v : VSlot) (h : BlobHdr) : NoteRec :=
  { aid := e.aid, valid := true, learn := e.learn, epoch := v.epoch, ward := e.ward, bminor := h.minor, blen := ceilDiv v.blen 64,
    rank := e.rank, wfmtA := e.wfmtA, wfmtB := e.wfmtB, lbytes := ceilDiv (s.maxLayer e v.loc) 64,
    gbytes := ceilDiv (s.gradLayer e.rank e.projs) 64, projs := e.projs }

/-- A pair of a fill request has ended; with the last one the request completes and gives its bandwidth sample (R329). -/
def State.fillNext (s : State) (id peer aid : Nat) : State :=
  match s.pol.reqs.find? fun r => r.id == id with
  | none => s
  | some r =>
    match r.kind with
    | .fetch pairs =>
      let left := pairs.filter fun x => x.1 != aid
      if left.isEmpty then
        let s := s.dropReq id
        if 2 ^ 20 ≤ r.got then
          match bwOf r.got (s.now - r.tFirst) with
          | some b => s.modCal (groupOf s peer) fun g => { g with bwF := estNext g.bwF b }
          | none => s
        else s
      else s.modReq id fun x => { x with kind := .fetch left }
    | _ => s

/-- The last byte of a fill has come (R332): the blob is VALID where its header matches. Its stamp is that of the last step that took it,
else that of now (R287); the header gives the entry its alpha-over-rank value and, of the current version, `TAU` (R154). -/
def State.fillDone (s : State) (e : Entry) (v : VSlot) : State :=
  let h := (s.reader (gAddr v.loc)).hdr
  if h.aid = e.aid ∧ h.epoch = v.epoch ∧ h.ward = e.ward then
    let stamp := if v.stamp = 0 then s.cab.useStamp.toNat else v.stamp
    let s := (s.modSlot e.aid v.epoch fun v => { v with vstate := .valid, stamp := stamp }).modEntry e.aid fun e =>
      { e with alpha := h.alpha, alphaR := h.alphaR, tau := if v.epoch = e.curEpoch then h.tau else e.tau }
    ((s.noteMove (s.fillNote e v h)).evictInval).pinSettle
  else s.fillFailed e.aid v.epoch

/-- The first frame of a blob tells its length (R158): false where it is not what the reservation was made for. -/
def VSlot.fitted (v : VSlot) (off : Nat) (bs : List Byte) : Bool × VSlot :=
  if off ≠ 0 then (true, v)
  else
    let len := (listReader bs).hdr.blen
    (decide (ceilDiv len granule ≤ ceilDiv v.blen granule), { v with blen := len })

/-- `FETCH_DATA` (R331, R332, R368). -/
def hFetchData (s : State) (m : RppMsg) (peer : Nat) : State :=
  match s.reqOf peer m.tag with
  | none => s
  | some r =>
    match r.kind with
    | .fetch pairs =>
      match pairs.find? fun x => x.1 == m.aid with
      | none => s
      | some (aid, ep) =>
        if m.epoch ≠ ep then (if precedes m.epoch ep then s.resend r else s)
        else if m.status ≠ .ok then ((s.gotFrame r 0).fillNext r.id peer aid).fillFailed aid ep
        else
          match m.pl with
          | .data off bs _ =>
            let s := if r.tFirst = 0 then s.modCal (groupOf s peer) fun g => { g with latF := estNext g.latF (nsOf (s.now - r.t0)) } else s
            let s := s.gotFrame r (if r.tFirst = 0 then 0 else bs.length)
            match s.entry aid with
            | none => s.fillNext r.id peer aid
            | some e =>
              match (e.slot ep).filter fun v => v.vstate == .filling with
              | none => s.fillNext r.id peer aid
              | some v =>
                let f := v.fitted off bs
                if off ≠ v.got then s
                else if f.1 = false then (s.fillNext r.id peer aid).fillFailed aid ep
                else
                  let v := f.2
                  let s := s.modSlot aid ep fun x => { x with blen := v.blen }
                  let bs := bs.take (v.blen - v.got)
                  let s := s.land 0 (gAddr v.loc + off) bs
                  let n := v.got + bs.length
                  let s := s.modSlot aid ep fun v => { v with got := n }
                  if n < v.blen then s else (s.fillNext r.id peer aid).fillDone e v
          | _ => s
    | _ => s

/-! ### VISIT (R333–R335) -/

/-- `VISIT_ROWS` (R334): the records wait for a serve window. -/
def hVisitRows (s : State) (m : RppMsg) (peer : Nat) : State :=
  match m.pl with
  | .visit l =>
    if s.allMine (l.map (·.aid)) = false then s.redirect m peer
    else
      s.serveReq m peer fun s =>
        if 32 ≤ s.pol.servePart.toNat then s.reply m peer 0x15 .noCapacity (.visit (l.map fun r => { r with vecs := [] }))
        else
          s.modPol fun q =>
            { (q.modSess peer fun y => { y with busyTags := y.busyTags ++ List.replicate (l.length - 1) m.tag }) with
              serveQ := q.serveQ ++ l.map fun r => (peer, m.tag, r) }
  | _ => s

/-- `VISIT_DELTA` (R227, R335): the records of the exchange, told by projection, adapter, pinned epoch (R37) and first vector. Deltas go to the return area; another status makes the drawer's rows OWNER_UNREACHABLE. -/
def hVisitDelta (s : State) (m : RppMsg) (peer : Nat) : State :=
  match s.reqOf peer m.tag with
  | none => s
  | some r =>
    match r.kind, m.pl, r.msg.pl with
    | .visit p sseq proj mi drws, .visit l, .visit sent =>
      let new := l.filter fun x => x.proj == proj && (sent.any fun y => y.aid == x.aid && y.epoch == x.epoch && y.first == x.first) && !r.ans.contains (x.aid, x.first)
      let s := if r.tFirst = 0 then s.modCal (groupOf s peer) fun g => { g with latV := estNext g.latV (nsOf (s.now - r.t0)) } else s
      let s := (s.gotFrame r (sumBytes l)).modReq r.id fun x => { x with ans := x.ans ++ new.map fun y => (y.aid, y.first) }
      let aidOf (k : Nat) : Option Nat :=
        ((s.getP p).ctx.filter fun c => c.sub.sseq == sseq && !c.torn).map (fun c => (c.drw k).aid)
          <|> ((s.getP p).svCtx.filter fun c => c.sub.sseq == sseq).map (fun c => (c.drw k).aid)
      let s := new.foldl (fun (s : State) x =>
        match drws.find? fun k => aidOf k == some x.aid with
        | none => s
        | some k =>
          if m.status = .ok then s.modStep p sseq fun c => if c.torn then c else { c with ret := c.ret ++ [(visitKey mi k, x)] }
          else s.settleStep p sseq k .ownerUnreachable) s
      let s :=
        if sent.length ≤ r.ans.length + new.length then
          let s := s.dropReq r.id
          match bwOf (sumBytes sent + r.got + sumBytes l) (if r.tFirst = 0 then 0 else s.now - r.tFirst) with
          | some b => s.modCal (groupOf s peer) fun g => { g with bwV := estNext g.bwV b }
          | none => s
        else s
      s.pump p
    | _, _, _ => s

/-! ### Gradients (R256–R259, R336) -/

/-- `GD_REQ`. -/
def hGdReq (s : State) (m : RppMsg) (peer : Nat) : State :=
  match m.pl with
  | .gdReq key =>
    if s.mine m.aid = false then s.redirect m peer
    else
      s.serveReq m peer fun s =>
        match s.gdRequest m.aid m.epoch key peer with
        | (.ok slot, s) => s.reply m peer 0x17 .ok (.num slot)
        | (.error st, s) => s.reply m peer 0x17 st .none
  | _ => s

/-- Whether the shipment of a gradient drawer still waits for its status. -/
def State.shipLive (s : State) (p sseq aid base : Nat) : Bool :=
  let is (r : ListRec) : Bool := r.kind == 3 && r.aid == aid && r.epoch == base && r.status == .deferred
  let c (x : Ctx) : Bool := x.sub.sseq == sseq && x.lists.any is
  (s.getP p).ctx.any c || (s.getP p).svCtx.any c || (s.getP p).finals.any c || s.pwr.pdLists.any fun e => e.1 == p && is e.2

/-- `GD_GRANT`: the learner writes the drawer back into the slot, or its shipment ends with a status. -/
def hGdGrant (s : State) (m : RppMsg) (peer : Nat) : State :=
  match s.reqOf peer m.tag with
  | some r =>
    match r.kind, r.msg.pl, m.status, m.pl with
    | .gd p sseq mi ship, .gdReq key, .ok, .num slot =>
      let aid := r.msg.aid
      let base := r.msg.epoch
      let s := s.dropReq r.id
      match s.cab.grads.find? fun g => g.part == p && g.aid == aid && g.base == base with
      | some g => if s.shipLive p sseq aid base then s.request peer (.gdWrite p sseq mi ship slot) 0x18 aid base (.gdData slot key g.data) else s
      | none => s
    | .gd p sseq _ _, _, st, _ =>
      let s := s.dropReq r.id
      if s.shipLive p sseq r.msg.aid r.msg.epoch then s.shipDone p sseq r.msg.aid r.msg.epoch st else s
    | _, _, _, _ => s
  | none => s

/-- `GD_DATA`: the contribution is written into its slot, and a duplicate is not added again. -/
def hGdData (s : State) (m : RppMsg) (peer : Nat) : State :=
  match m.pl with
  | .gdData slot key mats =>
    if s.mine m.aid = false then s.redirect m peer
    else
      s.serveReq m peer fun s =>
        let r := s.gdWrite m.aid slot key mats
        (if r.1 then r.2.hbmWork else r.2).reply m peer 0x19 (if r.1 then .ok else .timeout) .none
  | _ => s

/-- `GD_COMMIT`: the learner frees its gradient drawer. -/
def hGdCommit (s : State) (m : RppMsg) (peer : Nat) : State :=
  match s.reqOf peer m.tag with
  | some r =>
    match r.kind with
    | .gdWrite p sseq _ _ _ =>
      let s := s.dropReq r.id
      if m.status = .ok ∨ s.shipLive p sseq r.msg.aid r.msg.epoch = true then s.shipDone p sseq r.msg.aid r.msg.epoch m.status else s
    | _ => s
  | none => s

/-! ### Probes (R329) -/

/-- The 64 KiB length that probes and echoes carry; spec/ does not state their bytes. -/
def RppMsg.long (m : RppMsg) : RppMsg := { m with hdr := { m.hdr with w6 := 65536 } }

/-- `PROBE`. -/
def hProbe (s : State) (m : RppMsg) (peer : Nat) : State :=
  s.pushRpp peer (s.rppMsg peer 0x1B m.tag .ok 0 0 .none).long

/-- `PROBE_ECHO`: the exchange feeds all four estimates; its bandwidth samples are free, since the echo is one frame. -/
def hProbeEcho (s : State) (m : RppMsg) (peer : Nat) : State :=
  match s.reqOf peer m.tag with
  | some r =>
    match r.kind with
    | .probe grp =>
      let lat := nsOf (s.now - r.t0)
      let a := (s.dropReq r.id).fresh
      let b := a.2.fresh
      b.2.modCal grp fun g =>
        { latV := estNext g.latV lat, bwV := estNext g.bwV (a.1 % 2 ^ 31), latF := estNext g.latF lat, bwF := estNext g.bwF (b.1 % 2 ^ 31) }
    | _ => s
  | none => s

/-! ### Versions (R363–R366) -/

/-- `PUB_NOTICE` (R323, R363): records of adapters whose range the sender holds in this view. -/
def hPubNotice (s : State) (m : RppMsg) (peer : Nat) : State :=
  match m.pl with
  | .notes l =>
    (l.filter fun n => s.ownerOfAid n.aid == some peer).foldl (fun (s : State) n =>
      (s.noteMove n).modEntry n.aid fun e =>
        if e.owned = false ∧ precedes e.curEpoch n.epoch = true then { e with curEpoch := n.epoch, unknown := false } else e) s
  | _ => s

/-- Steps issued and not ended or torn: partition and sequence number (R365). -/
def State.issuedSteps (s : State) : List (Nat × Nat) :=
  parts.flatMap fun p =>
    let q := s.getP p
    (match q.ctx with | some c => if c.phase.issued && !c.torn then [(p, c.sub.sseq)] else [] | none => [])
      ++ (match q.svCtx with | some c => [(p, c.sub.sseq)] | none => [])

/-- `INVALIDATE` (R365): one frame of a batch, whose last frame makes it whole. -/
def hInvalidate (s : State) (m : RppMsg) (peer : Nat) : State :=
  match m.pl with
  | .batch n l =>
    let s := l.foldl (fun (s : State) x =>
      let s := s.modEntry x.1 fun e =>
        if e.owned then e
        else { (e.modSlot x.2 fun v => { v with inval := true }) with unknown := e.unknown || e.curEpoch == x.2 }
      match s.note x.1 with
      | some r => if r.epoch = x.2 then s.modPol fun q => { q with notes := SMap.insert q.notes x.1 { r with valid := false } } else s
      | none => s) s
    State.evictInval (s.modPol fun q =>
      { q with rx := q.rx ++ [{ owner := peer, num := n, pairs := l, steps := s.issuedSteps, whole := m.last, told := false }] })
  | _ => s

/-- A member's acknowledgement of batches up to a number; the owner keeps the highest (R365, R368). -/
def State.ackFrom (s : State) (peer n : Nat) : State :=
  if n = 0 then s
  else
    State.reclaim (s.modPol fun q =>
      if SMap.has q.acks peer && !precedes (SMap.get 0 q.acks peer) n then q else { q with acks := SMap.insert q.acks peer n })

/-- `EVICT_NOTICE` (R365): its batch field is an acknowledgement. -/
def hEvictNotice (s : State) (m : RppMsg) (peer : Nat) : State :=
  match m.pl with
  | .batch n _ => s.ackFrom peer n
  | _ => s

/-- `RETIRE_ACK` (R366). -/
def hRetireAck (s : State) (m : RppMsg) (peer : Nat) : State :=
  match m.pl with
  | .batch n _ => s.ackFrom peer n
  | _ => s

/-! ### Range moves (R317, R318) -/

/-- Granules that the parts of a moving entry take. -/
def State.moveLens (s : State) (e : Entry) : List (Nat × Nat) :=
  (e.vtab.mapIdx fun i v => (i, ceilDiv v.blen granule))
    ++ (match e.master with | some m => [(40, ceilDiv (s.masterBytes e.rank m.opt.kind e.projs) granule)] | none => [])
    ++ e.contribs.map fun c => (41 + c.slot, s.contribLen e)

/-- `MOVE_BEGIN`: at the target the checks of phase 1; at the registrar the word that the range is moving, which its next view shows (R315);
at the source the target's answer. -/
def hMoveBegin (s : State) (m : RppMsg) (peer : Nat) : State :=
  match m.pl with
  | .moveBegin k p es last =>
    s.serveReq m peer fun s =>
      let need := es.foldl (fun n e => (s.moveLens e).foldl (fun n x => n + x.2) n) 0
      if es.any fun e => e.vtab.any fun v => blobMinorMax < v.bminor then s.reply m peer 0x30 .formatUnsupported (.num k)
      else if (s.getP p).dirQuota.toNat < s.dirUse p + es.length ∨ (s.getP p).cabQuota.toNat < s.cabUse p + need then
        s.reply m peer 0x30 .noCapacity (.num k)
      else
        (s.modPol fun q =>
          { q with moves := q.moves ++ [{ range := k, peer := peer, part := p, source := false, st := .transfer, long := none, cmd := false,
                                          got := [], last := last, abort := none }] }).reply
            m peer 0x30 .ok (.num k)
  | .pairs [(k, _)] => if s.isRegistrar then s.showMoving k peer else s
  | _ =>
    match s.reqOf peer m.tag with
    | some r =>
      match r.kind with
      | .moveBegin k =>
        if m.status = .ok then
          ((s.dropReq r.id).modPol fun q =>
            { q with moves := updFirst q.moves (fun x => x.source && x.range == k) fun x => { x with st := .freeze } }).moveGo k
        else s.abortMove k m.status
      | _ => s
    | none => s

/-- Charge the parts of a moving entry to the receiving partition and land its blobs. -/
def State.moveLand (s : State) (v : Move) (e : Entry) (blobs : List (Nat × List Byte)) : Option State :=
  let r := (s.moveLens e).foldl (fun (st : Option (State × Entry)) x =>
    match st with
    | none => none
    | some (s, e) =>
      match s.charge v.part x.2 (.moved v.range (movedNo e.aid x.1)) with
      | (none, _) => none
      | (some b, s) =>
        if x.1 < 32 then
          some (s.land 0 (gAddr b) (nth blobs x.1 (0, [])).2, { e with vtab := modNth e.vtab x.1 fun y => { y with loc := b } })
        else some (s, e)) (some (s, e))
  r.map fun x => x.1.modPol fun q =>
    { q with moves := updFirst q.moves (fun y => !y.source && y.range == v.range) fun y => { y with got := y.got ++ [(x.2, [])] } }

/-- `MOVE_DATA`: at the target an entry of the range with everything bound to it; at the source its acknowledgement. -/
def hMoveData (s : State) (m : RppMsg) (peer : Nat) : State :=
  match m.pl with
  | .moveData k e blobs =>
    s.serveReq m peer fun s =>
      match s.pol.moves.find? fun x => !x.source && x.range == k && x.peer == peer with
      | none => s.reply m peer 0x31 .adapterUnknown (.num k)
      | some v =>
        match s.moveLand v e blobs with
        | some s => s.reply m peer 0x31 .ok (.num k)
        | none => s.reply m peer 0x31 .noCapacity (.num k)
  | _ =>
    match s.reqOf peer m.tag with
    | some r =>
      match r.kind with
      | .moveData k => if m.status = .ok then (s.dropReq r.id).moveGo k else s.abortMove k m.status
      | _ => s
    | none => s

/-- `MOVE_COMMIT`: the registrar puts the change of owner into the next view; at the source its answer, after which it waits for that
view. -/
def hMoveCommit (s : State) (m : RppMsg) (peer : Nat) : State :=
  match m.pl with
  | .pairs [(k, target)] =>
    if s.isRegistrar = false then s.redirect m peer
    else if s.majority = false then s
    else
      s.serveReq m peer fun s =>
        let r := SMap.get freeRange s.pol.ranges k
        if (r.state = .held ∨ r.state = .moving) ∧ r.inst = peer ∧ (s.member target).isSome = true then
          (s.propose { noChange with ranges := [(k, { state := .held, inst := target })] }).reply m peer 0x32 .ok (.num k)
        else s.reply m peer 0x32 .ownerUnreachable (.num k)
  | _ =>
    match s.reqOf peer m.tag with
    | some r =>
      match r.kind with
      | .moveCommit k => if m.status = .ok then s.dropReq r.id else (s.dropReq r.id).finishAbort k m.status
      | _ => s
    | none => s

/-- `MOVE_ABORT`: the target discards what it has received; the registrar takes the move's changes back, or says that it cannot (R318, R479);
at the source its answer. -/
def hMoveAbort (s : State) (m : RppMsg) (peer : Nat) : State :=
  match m.pl with
  | .num k =>
    let target := s.pol.moves.any fun x => !x.source && x.range == k && x.peer == peer
    if s.isRegistrar ∨ s.changing k = true then
      let r := s.regWithdraw k peer
      let s := if r.1 && target then r.2.dropMove k else r.2
      if m.tag = 0 then s else s.reply m peer 0x33 (if r.1 then .ok else .descInvalid) .none
    else if target then s.dropMove k
    else s
  | _ =>
    match s.reqOf peer m.tag with
    | some r =>
      match r.kind with
      | .moveAbort k =>
        let s := s.dropReq r.id
        match (s.pol.moves.find? fun x => x.source && x.range == k).bind (·.abort) with
        | some st =>
          if m.status = .ok then s.finishAbort k st
          else s.modPol fun q => { q with moves := updFirst q.moves (fun x => x.source && x.range == k) fun x => { x with abort := none } }
        | none => s
      | _ => s
    | none => s

end Sys2Proof.Machine
end

