-- ==== Sys2Proof/Machine/Work.lean ====
section
/-! DEFINITION. Frames that arrive (R333, R339, R341) and the pool pair's work list: items taken by class and age (R553, R554). -/

namespace Sys2Proof.Machine

open Sys2Proof

/-! ### Handlers -/

/-- Types that hardware handles; the others are the pool pair's work (R553). -/
def rppHw (ty : Nat) : Bool := decide (0x13 ≤ ty ∧ ty ≤ 0x19)

/-- The handler of a message type. -/
def rppHandler (ty : Nat) : State → RppMsg → Nat → State :=
  match ty with
  | 0x01 => hHello
  | 0x02 => hHelloAck
  | 0x03 => hJoinReq
  | 0x04 => hJoinAck
  | 0x05 => hLeave
  | 0x06 => hView
  | 0x07 => hViewAck
  | 0x08 => hViewPull
  | 0x0A => hRedirect
  | 0x0B => hRangeReq
  | 0x0C => hRangeGrant
  | 0x0D => hExportReq
  | 0x0E => hExportGrant
  | 0x10 => hNoteReq
  | 0x11 => hNoteRep
  | 0x12 => hFetchReq
  | 0x13 => hFetchData
  | 0x14 => hVisitRows
  | 0x15 => hVisitDelta
  | 0x16 => hGdReq
  | 0x17 => hGdGrant
  | 0x18 => hGdData
  | 0x19 => hGdCommit
  | 0x1A => hProbe
  | 0x1B => hProbeEcho
  | 0x1C => hSlowRd
  | 0x1D => hSlowData
  | 0x1E => hSlowWr
  | 0x1F => hSlowAck
  | 0x20 => hPubNotice
  | 0x21 => hInvalidate
  | 0x22 => hEvictNotice
  | 0x23 => hRetireAck
  | 0x30 => hMoveBegin
  | 0x31 => hMoveData
  | 0x32 => hMoveCommit
  | 0x33 => hMoveAbort
  | _ => fun s _ _ => s

/-! ### Frames -/

/-- Format and width of the vectors of a VISIT record: activations on the way out, deltas or h rows on the way back (R333). -/
def State.visitForm (s : State) (back : Bool) (r : VisitRec) : Nat × Nat :=
  if back = false then (r.afmt, (s.shape r.proj).1)
  else if r.honly then (0, (shapeOf (s.shapeOfAid r.aid).rank false (s.shape r.proj)).1)
  else (if r.ofmt = 0 then 1 else 0, (s.shape r.proj).2)

/-- The frames so far of a message under reassembly. -/
def State.asmOf (s : State) (peer key : Nat) : List (List Byte) :=
  (((s.pol.session peer).bind fun x => x.asm.find? fun e => e.1 == key).map (·.2)).getD []

def State.setAsm (s : State) (peer key : Nat) (l : List (List Byte)) : State :=
  s.modPol fun q => q.modSess peer fun x =>
    { x with asm := (x.asm.filter fun e => e.1 != key) ++ if l.isEmpty then [] else [(key, l)] }

/-- One frame of a VISIT stream (R333). The owner takes an exchange when its last frame has come, the requester the records that are
whole. -/
def State.visitPart (s : State) (m : RppMsg) (bs : List Byte) : State :=
  let key := at_ m.type 32 + m.tag
  let fs := (if m.seg = 0 then [] else s.asmOf m.peer key) ++ [bs]
  let back := m.type == 0x15
  if back || m.last then
    match visitRead (s.visitForm back) (fs.flatten.length / 32 + 1) fs with
    | some l => rppHandler m.type (s.setAsm m.peer key []) { m with pl := .visit l } m.peer
    | none => s.setAsm m.peer key fs
  else s.setAsm m.peer key fs

/-- Act on a frame: hardware at once, another type as an item of the pool pair (R553). A frame that only continues a message keeps the
request's timer running (R342). -/
def State.deliver (s : State) (m : RppMsg) : State :=
  match m.pl with
  | .part bs => s.visitPart m bs
  | .cont => match s.reqOf m.peer m.tag with | some r => s.gotFrame r m.len | none => s
  | _ => if rppHw m.type then rppHandler m.type s m m.peer else s.modPol fun q => { q with work := q.work ++ [.msg m] }

/-- Frames that waited for a view that is now installed are acted on, in the order they came (R341). -/
def State.heldDue (s : State) : State :=
  let go := s.pol.heldMsgs.filter fun m => decide (m.view ≤ s.pol.viewNum.toNat)
  if go.isEmpty then s
  else go.foldl (fun s m => s.deliver m) (s.modPol fun q => { q with heldMsgs := q.heldMsgs.filter fun m => !decide (m.view ≤ s.pol.viewNum.toNat) })

/-! ### Services -/

/-- Heartbeats to the registrar and to every member with a session (R311). -/
def State.heartbeats (s : State) : State :=
  (s.others.filter fun i => s.sessOpen i || s.registrar == some i).foldl (fun (s : State) i =>
    if s.pol.reqs.any fun r => r.peer == i && r.kind == .oneWay && r.msg.type == 9 then s else s.sendRpp i 9 0 .ok 0 0 .none) s

/-- Slots that became RETIRING since the last batch (R364). -/
def State.newRetiring (s : State) : List (Nat × Nat) :=
  s.cab.dir.flatMap fun e =>
    if e.owned then (e.vtab.filter fun v => v.vstate == .retiring && v.rbatch == 0).map fun v => (e.aid, v.epoch) else []

/-- Form an invalidation batch and send it to every other member (R364). -/
def State.sendBatch (s : State) : State :=
  let l := s.newRetiring
  if l.isEmpty then s
  else
    let n := s.pol.batchNext
    let s := l.foldl (fun (s : State) x => s.modSlot x.1 x.2 fun v => { v with rbatch := n }) s
    let s := s.modPol fun q => { q with batchNext := nextEpoch n }
    (s.others.foldl (fun (s : State) i => s.sendRpp i 0x21 0 .ok 0 0 (.batch n l)) s).reclaim

/-- Send `RETIRE_ACK` to each owner whose batches have been fully processed since the last one (R365). -/
def State.sendAcks (s : State) : State :=
  ((s.pol.rx.map (·.owner)).eraseDups).foldl (fun (s : State) o =>
    let n := s.processed o
    let done (b : RxBatch) : Bool := b.owner == o && n != 0 && !precedes n b.num
    if s.pol.rx.any fun b => done b && !b.told then
      (s.sendRpp o 0x23 0 .ok 0 0 (.batch n [])).modPol fun q =>
        { q with rx := (q.rx.map fun b => if done b then { b with told := true } else b).filter fun b => !(done b && b.num != n) }
    else s) s

/-- Ask for the POOL windows of the slower tier that are not granted yet (R321). -/
def State.askWindows (s : State) : State :=
  parts.foldl (fun (s : State) p =>
    let q := s.getP p
    if q.slowSpace = 3 ∧ q.slowSize ≠ 0 ∧ q.slowAt = 0 ∧ (s.member q.slowPeer).isSome = true
        ∧ (s.pol.reqs.any fun r => r.kind == .winReq p) = false then
      s.request q.slowPeer (.winReq p) 0x0D 0 0 (.num q.slowSize.toNat)
    else s) s

/-- Copy the live estimates into a snapshot; the newest 64 are kept (R330). -/
def State.takeSnap (s : State) : State :=
  s.modPol fun q =>
    let n := q.snapLast + 1
    let x : Snap := { id := n.toNat, stamp := s.now, grps := q.cal }
    { q with snapLast := n, snaps := (q.snaps ++ [x]).drop (q.snaps.length + 1 - 64) }

/-- A member of an idle peer group is probed; which one is free (R329). -/
def State.probeGroup (s : State) (grp : Nat) : State :=
  let l := (s.pol.members.filter fun m => m.group == grp && m.inst != s.me).map (·.inst)
  let busy := s.pol.reqs.any fun r => match r.kind with
    | .probe g => g == grp
    | .fetch _ => l.contains r.peer
    | .visit .. => l.contains r.peer
    | _ => false
  if l.isEmpty ∨ busy then s
  else
    let c := s.fresh
    let peer := nth l (c.1 % l.length) 0
    c.2.queueRpp peer (.probe grp) (c.2.rppMsg peer 0x1A 0 .ok 0 0 .none).long

/-! ### The work list (R554) -/

/-- The class of an item. DESIGN CHOICE (log entry 75): spec/ names no class for `FETCH_REQ`, a `REDIRECT` off P0 and the slower tier's
messages. -/
def Work.cls (w : Work) : Nat :=
  match w with
  | .msg m =>
    let ty := m.type
    if ty ≤ 0x0E then (if m.vc = 0 then 1 else 2)
    else if ty = 0x30 ∨ ty = 0x32 ∨ ty = 0x33 then 1
    else if ty ≤ 0x12 then 2
    else if 0x20 ≤ ty ∧ ty ≤ 0x23 then 3
    else if ty = 0x1A ∨ ty = 0x1B then 4
    else 5
  | .heartbeat => 1
  | .views => 1
  | .windows => 1
  | .sessions => 1
  | .batch => 3
  | .acks => 3
  | .snapshot => 4
  | .probe _ => 4
  | .pin => 5
  | .demote _ => 5
  | .moves => 5
  | .blobs => 5

/-- The pending item of highest class, the oldest of them. -/
def Work.first (l : List Work) : Option Work := [1, 2, 3, 4, 5].findSome? fun k => l.find? fun w => w.cls == k

/-- What an item does. -/
def State.doItem (s : State) (w : Work) : State :=
  match w with
  | .msg m => rppHandler m.type s m m.peer
  | .heartbeat => s.heartbeats
  | .views => s.issueView
  | .windows => s.askWindows
  | .sessions => s.flushQueued
  | .batch => s.sendBatch
  | .acks => s.sendAcks
  | .snapshot => s.takeSnap
  | .probe g => s.probeGroup g
  | .pin => s.pinStart
  | .demote p => State.demote p (s.demotable p).length s
  | .moves => s.movesGo
  | .blobs => State.blobPump 64 s

/-- Put an item of a service on the list, once. -/
def State.item (s : State) (w : Work) : State := if s.pol.work.contains w then s else s.modPol fun q => { q with work := q.work ++ [w] }

/-- Take items while the pair runs (R554, R555). -/
def State.runWork : Nat → State → State
  | 0, s => s
  | fuel + 1, s =>
    let s := s.heldDue
    if s.serviceUp 2 3 = false then s
    else
      match Work.first s.pol.work with
      | none => s
      | some w => State.runWork fuel ((s.modPol fun q => { q with work := q.work.erase w }).doItem w)

/-- The pair takes every item that is pending. -/
def State.runPool (s : State) : State := State.runWork (s.pol.work.length + s.pol.heldMsgs.length + 8) s

/-- An item is due, and the pair takes it in its turn. -/
def State.runItem (s : State) (w : Work) : State := (s.item w).runPool

/-- What the pool pair has to do after anything that concerns it: the next view, requests that waited for a session, moves, the next
blob. -/
def State.poolWork (s : State) : State := ((((s.item .views).item .sessions).item .moves).item .blobs).runPool

/-! ### Arrival -/

/-- The state in which a good frame is acted on: its bytes counted (R635), its sender known to live (R311), credits back. -/
def State.hearing (s : State) (m : RppMsg) : State :=
  ((s.fabCount (s.rppPort m) false (32 + m.len)).heard m.peer m.type).creditsBack m.peer

/-- A frame arrives on a sub-port that is awake (R339, R341). -/
def State.rppArrive (s : State) (m : RppMsg) : State :=
  if s.rppOk m = false then (s.fabCount (s.rppPort m) false (32 + m.len)).modPol fun q => { q with rppBad := satAdd q.rppBad 1 }
  else
    let s := s.hearing m
    if s.waitsView m then (s.modPol fun q => { q with heldMsgs := q.heldMsgs ++ [m] }).pullView m.peer else s.deliver m

/-- What follows a frame: the items it makes, fills that can go on, the pool service's work. -/
def State.afterFrame (s : State) : State := s.runPool.serveFills.poolWork

/-- Frames whose sub-port has woken arrive. -/
def State.heldGo (s : State) : State :=
  let asleep (m : RppMsg) : Bool := (s.rppPort m).any fun k => !s.awake (domFab k)
  let go := s.fab.held.filter fun m => !asleep m
  if go.isEmpty then s
  else State.afterFrame (go.foldl (fun s m => s.rppArrive m) (s.modFab fun b => { b with held := b.held.filter asleep }))

/-- Receive a frame of a row's type. Before READY, and once the sub-ports are off (R572), nothing is received; a frame at a sub-port whose
domain is off wakes it and waits (R562). -/
def State.rpp (s : State) (m : RppMsg) (ty : Nat) : State :=
  if m.type ≠ ty ∨ s.booted = false ∨ 5 ≤ s.pwr.pdStage.toNat then s
  else
    match (s.rppPort m).filter fun k => !s.awake (domFab k) with
    | some k => (s.modFab fun b => { b with held := b.held ++ [m] }).requestWakes [domFab k]
    | none => (s.rppArrive m).afterFrame

end Sys2Proof.Machine
end

