-- ==== Sys2Proof/Machine/Pool.lean ====
section
/-! DEFINITION. The commands of the pool: RPP messages, the pool's timers, the serve window, and the RCL commands that the pool
service answers (R141, R305–R349, R465). -/

namespace Sys2Proof.Machine

open Sys2Proof

/-! ### Messages -/

def execRppHello (m : RppMsg) (s : State) : Host.Outcome State Fault Refusal := .next (s.rpp m 0x01)
def execHelloAck (m : RppMsg) (s : State) : Host.Outcome State Fault Refusal := .next (s.rpp m 0x02)
def execJoinReq (m : RppMsg) (s : State) : Host.Outcome State Fault Refusal := .next (s.rpp m 0x03)
def execJoinAck (m : RppMsg) (s : State) : Host.Outcome State Fault Refusal := .next (s.rpp m 0x04)
def execLeave (m : RppMsg) (s : State) : Host.Outcome State Fault Refusal := .next (s.rpp m 0x05)
def execView (m : RppMsg) (s : State) : Host.Outcome State Fault Refusal := .next (s.rpp m 0x06)
def execViewAck (m : RppMsg) (s : State) : Host.Outcome State Fault Refusal := .next (s.rpp m 0x07)
def execViewPull (m : RppMsg) (s : State) : Host.Outcome State Fault Refusal := .next (s.rpp m 0x08)
/-- `PHB` (R311): a sign of life and nothing else. -/
def execPhb (m : RppMsg) (s : State) : Host.Outcome State Fault Refusal := .next (s.rpp m 0x09)
def execRedirect (m : RppMsg) (s : State) : Host.Outcome State Fault Refusal := .next (s.rpp m 0x0A)
def execRangeReq (m : RppMsg) (s : State) : Host.Outcome State Fault Refusal := .next (s.rpp m 0x0B)
def execRangeGrant (m : RppMsg) (s : State) : Host.Outcome State Fault Refusal := .next (s.rpp m 0x0C)
def execExportReq (m : RppMsg) (s : State) : Host.Outcome State Fault Refusal := .next (s.rpp m 0x0D)
def execExportGrant (m : RppMsg) (s : State) : Host.Outcome State Fault Refusal := .next (s.rpp m 0x0E)
def execNoteReq (m : RppMsg) (s : State) : Host.Outcome State Fault Refusal := .next (s.rpp m 0x10)
def execNoteRep (m : RppMsg) (s : State) : Host.Outcome State Fault Refusal := .next (s.rpp m 0x11)
def execFetchReq (m : RppMsg) (s : State) : Host.Outcome State Fault Refusal := .next (s.rpp m 0x12)
def execFetchData (m : RppMsg) (s : State) : Host.Outcome State Fault Refusal := .next (s.rpp m 0x13)
def execVisitRows (m : RppMsg) (s : State) : Host.Outcome State Fault Refusal := .next (s.rpp m 0x14)
def execVisitDelta (m : RppMsg) (s : State) : Host.Outcome State Fault Refusal := .next (s.rpp m 0x15)
def execGdReq (m : RppMsg) (s : State) : Host.Outcome State Fault Refusal := .next (s.rpp m 0x16)
def execGdGrant (m : RppMsg) (s : State) : Host.Outcome State Fault Refusal := .next (s.rpp m 0x17)
def execGdData (m : RppMsg) (s : State) : Host.Outcome State Fault Refusal := .next (s.rpp m 0x18)
def execGdCommit (m : RppMsg) (s : State) : Host.Outcome State Fault Refusal := .next (s.rpp m 0x19)
def execProbe (m : RppMsg) (s : State) : Host.Outcome State Fault Refusal := .next (s.rpp m 0x1A)
def execProbeEcho (m : RppMsg) (s : State) : Host.Outcome State Fault Refusal := .next (s.rpp m 0x1B)
def execSlowRd (m : RppMsg) (s : State) : Host.Outcome State Fault Refusal := .next (s.rpp m 0x1C)
def execSlowData (m : RppMsg) (s : State) : Host.Outcome State Fault Refusal := .next (s.rpp m 0x1D)
def execSlowWr (m : RppMsg) (s : State) : Host.Outcome State Fault Refusal := .next (s.rpp m 0x1E)
def execSlowAck (m : RppMsg) (s : State) : Host.Outcome State Fault Refusal := .next (s.rpp m 0x1F)
def execPubNotice (m : RppMsg) (s : State) : Host.Outcome State Fault Refusal := .next (s.rpp m 0x20)
def execInvalidate (m : RppMsg) (s : State) : Host.Outcome State Fault Refusal := .next (s.rpp m 0x21)
def execEvictNotice (m : RppMsg) (s : State) : Host.Outcome State Fault Refusal := .next (s.rpp m 0x22)
def execRetireAck (m : RppMsg) (s : State) : Host.Outcome State Fault Refusal := .next (s.rpp m 0x23)
def execMoveBegin (m : RppMsg) (s : State) : Host.Outcome State Fault Refusal := .next (s.rpp m 0x30)
def execMoveData (m : RppMsg) (s : State) : Host.Outcome State Fault Refusal := .next (s.rpp m 0x31)
def execMoveCommit (m : RppMsg) (s : State) : Host.Outcome State Fault Refusal := .next (s.rpp m 0x32)
def execMoveAbort (m : RppMsg) (s : State) : Host.Outcome State Fault Refusal := .next (s.rpp m 0x33)

/-- `RPP_FRAME_DISCARD` (R339, R531): a frame whose header or tag is bad is counted and has no other effect; a good one is no
command of this row. -/
def execRppFrameDiscard (m : RppMsg) (tagOk : Bool) (s : State) : Host.Outcome State Fault Refusal :=
  .next <|
    if m.bad ∨ tagOk = false then (s.fabCount (s.rppPort m) false (32 + m.len)).modPol fun q => { q with rppBad := satAdd q.rppBad 1 } else s

/-! ### Timers -/

/-- `T_REQ_EXPIRY` (R342): `T_REQ` to the first reply frame, `T_GAP` between frames. -/
def execTReqExpiry (r : Nat) (s : State) : Host.Outcome State Fault Refusal :=
  .next <|
    match s.pol.reqs.find? fun x => x.id == r && x.kind != .oneWay with
    | none => s
    | some x =>
      if s.now < x.due then s else (s.resend x).poolWork

/-- `PEER_DEAD` (R311, R318, R343): a session peer is marked unreachable; requests to it end, moves to it are aborted. -/
def execPeerDead (inst : Nat) (s : State) : Host.Outcome State Fault Refusal :=
  .next <|
    if s.sessOpen inst = false ∨ s.unreach inst = true ∨ s.now < (SMap.get (0, 0) s.pol.quiet inst).1 then s
    else
      let s := (s.modPol fun q => q.modSess inst fun x => { x with unreach := true }).failPeer inst
      ((s.pol.moves.filter fun m => m.source && m.peer == inst).foldl (fun (s : State) m => s.abortMove m.range .ownerUnreachable) s).poolWork

/-- `LEASE` (R312): the registrar removes a silent member in its next view. -/
def execLease (inst : Nat) (s : State) : Host.Outcome State Fault Refusal :=
  .next <|
    if s.isRegistrar = false ∨ s.majority = false ∨ inst = s.me ∨ (s.member inst).isNone = true
        ∨ (s.pol.nextView ++ s.pol.pend.toList).any (fun v => v.del.contains inst) = true
        ∨ s.now < (SMap.get (0, 0) s.pol.quiet inst).2 then s
    else (s.propose { noChange with del := [inst] }).poolWork

/-- `QUARANTINE_EXPIRY` (R310): 2 × `LEASE` after the member left. -/
def execQuarantineExpiry (inst : Nat) (s : State) : Host.Outcome State Fault Refusal :=
  .next (s.modPol fun q => { q with quarantine := q.quarantine.filter fun x => !(x.1 == inst && decide (x.2 ≤ s.now)) })

/-- Join the pool (R306, R309): a pool of one at once; else the seeds are asked in order. -/
def State.joinStart (s : State) : State :=
  if s.sec.lcState ≠ 2 ∨ s.sec.coreFault = true then s
  else if s.poolOfOne then
    let self : Member := { inst := 0, devId := s.mgt.devId.toNat, addr := s.pol.addr, group := s.pol.group.toNat, rppMinor := 0,
                           blobMinor := blobMinorMax, serves := decide (s.pol.servePart.toNat < 32) }
    let s := State.install (s.modPol fun q => { q with instId := 0, instValid := true, batchNext := 1 })
      { noChange with num := 1, add := [self] }
    if s.mgt.bootStage = 8 then s.blobStart else s
  else State.joinNext (s.modPol fun q => { q with joinDue := s.now + msTicks q.lease.toNat }) none

/-- `JOIN_RETRY` (R557): every `LEASE` while the device stands in stage JOINING with no join under way. -/
def execJoinRetry (s : State) : Host.Outcome State Fault Refusal :=
  .next <|
    if s.mgt.bootStage ≠ 8 ∨ s.pol.instValid = true ∨ s.pol.reqs.any (fun r => r.kind == .join) = true ∨ s.serviceUp 2 3 = false
        ∨ s.now < s.pol.joinDue then s
    else s.joinStart.poolWork

/-- `GD_HOLD` (R259): a granted slot without a completed write-back is released. -/
def execGdHold (aid slot : Nat) (s : State) : Host.Outcome State Fault Refusal :=
  .next <|
    match (s.entry aid).bind fun e => e.contribs.find? fun c => c.slot == slot && !c.written with
    | some c => if s.now < c.due then s else (s.dropSlot aid slot).movesGo
    | none => s

/-- A snapshot is due (R330, R640): an item of the pool pair. -/
def State.calTrigger (s : State) : State := if s.booted = false then s else s.runItem .snapshot

/-- A periodic service of n ACLK edges starts if its period has ended; a late start is reported (R475). -/
def State.periodic (s : State) (k n svc : Nat) (f : State → State) : State :=
  if s.due k then f ((s.align k n).lagNotice svc (s.dueOf k)) else s

/-- `CAL_PERIOD` (R330). -/
def execCalPeriod (s : State) : Host.Outcome State Fault Refusal :=
  .next (if s.booted = false then s else s.periodic perCal (100000 * s.pol.calPeriod.toNat) 2 State.calTrigger)

/-- `CAL_NOW` (R640): a snapshot at once. -/
def execCalNow (s : State) : Host.Outcome State Fault Refusal :=
  .next s.calTrigger

/-- `PROBE_PERIOD` (R329): a peer group with which nothing has been exchanged for that long is probed. -/
def execProbePeriod (grp : Nat) (s : State) : Host.Outcome State Fault Refusal :=
  .next <|
    if s.pol.instValid = false ∨ s.now < SMap.get 0 s.pol.groupAt grp then s else s.runItem (.probe grp)

/-- `PHB_PERIOD` (R311, R364, R365, R554): heartbeats, the batch, the acknowledgements and the windows to ask for are items of the pool
pair, taken by class. -/
def execPhbPeriod (s : State) : Host.Outcome State Fault Refusal :=
  .next <|
    if s.pol.instValid = false ∨ 5 ≤ s.pwr.pdStage.toNat ∨ s.due perPhb = false then s
    else
      let due := s.dueOf perPhb
      let s := s.align perPhb (100000 * s.pol.phbPeriod.toNat)
      ((((if s.newRetiring.isEmpty then s else s.lagNotice 3 due).item .heartbeat).item .batch).item .acks
        |>.item .windows).poolWork

/-- `PIN_PERIOD` (R289). -/
def execPinPeriod (s : State) : Host.Outcome State Fault Refusal :=
  .next (if s.booted = false then s else s.periodic perPin (100000 * s.cab.pinPeriod.toNat) 1 fun s => s.runItem .pin)

/-- A write of 1 to `PIN_REFRESH` (R426, R640): no effect while a refresh is running. -/
def State.pinTrigger (s : State) : State := if s.cab.pinBusy ∨ s.booted = false then s else s.runItem .pin

/-- `PIN_REFRESH` (R640): a write of 1 starts one refresh. -/
def execPinRefresh (s : State) : Host.Outcome State Fault Refusal := .next s.pinTrigger

/-- `DEMOTION` (R300): a partition's use has passed its mark. -/
def execDemotion (p : Nat) (s : State) : Host.Outcome State Fault Refusal := .next (s.runItem (.demote p))

/-! ### The serve window (R334) -/

/-- A drawer key of a serve step. -/
def VisitRec.key (r : VisitRec) : List Nat := [r.aid, r.epoch, r.proj, r.afmt, r.hfmt, r.ofmt, b2n r.honly]

/-- Records waiting, in the order they are taken. -/
def State.serveOrder (s : State) : List (Nat × Nat × VisitRec) :=
  insSort (fun (a b : Nat × Nat × VisitRec) =>
    lexLt [a.2.2.sseq, a.1, a.2.2.part, a.2.2.proj, a.2.2.first] [b.2.2.sseq, b.1, b.2.2.part, b.2.2.proj, b.2.2.first]) s.pol.serveQ

/-- The records of one window: taken until the vectors would exceed `SERVE_CAP`. -/
def takeCap (cap : Nat) : Nat → List (Nat × Nat × VisitRec) → List (Nat × Nat × VisitRec)
  | _, [] => []
  | n, r :: rs => if n + r.2.2.vecs.length ≤ cap then r :: takeCap cap (n + r.2.2.vecs.length) rs else []

/-- Take a record off the queue. -/
def State.unqueue (s : State) (r : Nat × Nat × VisitRec) : State := s.modPol fun q => { q with serveQ := q.serveQ.erase r }

/-- Answer a record with a status and no vectors. -/
def State.serveStatus (s : State) (r : Nat × Nat × VisitRec) (st : Status) : State :=
  (s.unqueue r).finishReq r.1 r.2.1 0x15 st r.2.2.aid r.2.2.epoch (.visit [{ r.2.2 with vecs := [] }])

/-- Records whose version can be pinned now; the others are answered, or wait for a promotion. -/
def State.servePin (s : State) (l : List (Nat × Nat × VisitRec)) : List (Nat × Nat × VisitRec) × State :=
  l.foldl (fun (st : List (Nat × Nat × VisitRec) × State) r =>
    let s := st.2
    match (s.entry r.2.2.aid).filter fun e => e.owned && e.state != .empty with
    | none => (st.1, s.serveStatus r .adapterUnknown)
    | some e =>
      match (e.slot r.2.2.epoch).filter fun v => !v.damaged with
      | none => (st.1, s.serveStatus r .versionGone)
      | some v =>
        if v.slow = false then (st.1 ++ [r], s)
        else
          match s.promote r.2.2.aid r.2.2.epoch with
          | (true, s) => (st.1, s)
          | (false, s) => (st.1, s.serveStatus r .noCapacity)) ([], s)

def servePath (k : List Nat) : PathInfo :=
  { aid := nth k 0 0, epoch := nth k 1 0, path := .local, ovf := false, pres := false, forced := false, last := none, dead := false, ruled := false }

/-- The macro-instruction of a serve drawer: `SHRINK_EXPAND`, or `SHRINK` where h rows are returned. -/
def serveMI (k : List Nat) : MI :=
  let honly := nth k 6 0 = 1
  { w0 := BitVec.ofNat 32 ((if honly then 0x10 else 0x12) + at_ (nth k 2 0) 8 + at_ (nth k 3 0) 20 + at_ (nth k 4 0 % 4) 28 + at_ (nth k 5 0 % 2) 30)
    w1 := 0, w2 := 0, w3 := 0, w4 := 0, w5 := 0, w6 := 0, w7 := 0 }

/-- The drawer of one key. -/
def State.serveDrawer (s : State) (k : List Nat) (l : List (Nat × Nat × VisitRec)) : Drawer :=
  let sh := s.shapeOfAid (nth k 0 0)
  let mine := l.filter fun r => r.2.2.key == k
  { aid := nth k 0 0, epoch := nth k 1 0, path := .local, ovf := false, pres := false, forced := false, last := none, gdDrop := false,
    slots := [], nvec := mine.foldl (fun n r => n + r.2.2.vecs.length) 0, ranks := sh.rank, wfmtA := sh.wa, wfmtB := sh.wb,
    projs := [nth k 2 0], ofs := [0], owner := s.me, dead := false, satAct := 0, satAcc := 0, nonfin := 0, badcode := 0, gradAcc := 0,
    served := mine.map (·.2.2), srcs := mine.map fun r => (r.1, r.2.1) }

/-- Whether a partition has a tumbler left to run units on; a fence takes its tumblers away (R587). -/
def State.servable (s : State) (p : Nat) : Bool := decide ((s.getP p).tumOwn ≠ 0)

/-- The drawers that the serve partition can stage: taken in order, each with those before it; with the fragmentation misses counted. -/
def State.serveFit (s : State) (p : Nat) (keys : List (List Nat)) : List (List Nat) × State :=
  keys.foldl (fun (st : List (List Nat) × State) k =>
    let r := st.2.reserveStage p [] ((st.1 ++ [k]).map servePath)
    (if r.1.isSome then st.1 ++ [k] else st.1, st.2.fragFrom r.2)) ([], s)

/-- The serve step of drawers that have been staged. -/
def State.serveStep (s : State) (p : Nat) (fit : List (List Nat)) (recs : List (Nat × Nat × VisitRec)) : State :=
  let s := recs.foldl (fun (s : State) x => s.unqueue x) s
  let sub : Sub := { sseq := (s.getP p).sseqNext.toNat, progH := 0, rptH := 0, ofsH := 0, htag := 0 }
  let prog := fit.map serveMI
  let c : Ctx :=
    { freshCtx 0 .serve sub .reserve with
      prog := prog, nins := prog.length, recs := prog.map fun _ => freshRec, drawers := fit.map fun k => s.serveDrawer k recs
      projs := insSort (fun a b => decide (a < b)) (fit.map fun k => nth k 2 0).eraseDups
      pinned := fit.map fun k => (nth k 0 0, nth k 1 0), phaseAt := s.now }
  (s.modCab fun b => { b with useStamp := wrapAdd b.useStamp 1 }).modP p fun q =>
    { q with ctx := some c, sseqNext := q.sseqNext + 1, waitSince := s.now, lastIssue := some s.now }

/-- `VISIT_WIN` (R334): the serve partition forms a serve step from the records that have arrived. Records that its tumblers cannot serve, or
its staging cannot hold, are answered NO_CAPACITY (R349). -/
def execVisitWin (s : State) : Host.Outcome State Fault Refusal :=
  .next <|
    let p := s.pol.servePart.toNat
    if 32 ≤ p ∨ (s.getP p).ctx.isSome ∨ s.issueHeld = true ∨ s.pol.serveQ.isEmpty
        ∨ s.due perVisit = false then s
    else
      let s := s.align perVisit (100 * s.pol.visitWin.toNat)
      let r := s.servePin (takeCap s.pol.serveCap.toNat 0 s.serveOrder)
      let s := r.2.newCharge p
      let keys := if s.servable p then (r.1.map fun x => x.2.2.key).eraseDups else []
      let fit := s.serveFit p keys
      let s := (r.1.filter fun x => !fit.1.contains x.2.2.key).foldl (fun (s : State) x => s.serveStatus x .noCapacity) fit.2
      if fit.1.isEmpty then s
      else
        let g := s.reserveStage p [] (fit.1.map servePath)
        match g.1 with
        | none => g.2
        | some _ => g.2.serveStep p fit.1 (r.1.filter fun x => fit.1.contains x.2.2.key)

/-! ### RCL commands -/

/-- `ADAPTER_ALLOC` (R141, R149): the lowest free ID of this member's ranges; with none free it asks for a further range. -/
def execAdapterAlloc (f : RclFrame) (s : State) : Host.Outcome State Fault Refusal :=
  .next <| s.serve 0x18 none none f fun cl s =>
    let p := fld (f.word 0) 4 0
    let ward := match cl.sess with | some x => if x.operator then wardCommon else x.ward | none => 0
    if f.data.length ≠ 4 ∨ fld (f.word 0) 31 5 ≠ 0 then (.now .descInvalid [], s)
    else if s.pwr.powering then (.now .noCapacity [], s)   -- R572
    else if s.dirRoom p = false then (.now .noCapacity [], s)
    else
      match s.takeId p ward s.ownRanges with
      | some (a, s) => (.now .ok (leBytes 4 a), s)
      | none =>
        let id := s.lnk.nextLong
        (.later, (s.putLong f cl (.allocRange p ward 0)).askRange id)

/-- A status by which an aborted move's command is answered; spec/ does not state it, so it is free among those of an operation
that did not complete. -/
def State.abortStatus (s : State) : Status × State :=
  let c := s.fresh
  (nth [Status.timeout, .preempted, .contextTorn, .noCapacity, .superseded, .internal] (c.1 % 6) .timeout, c.2)

/-- Begin to move a range to a member's partition (R317). -/
def State.moveStart (s : State) (k target p : Nat) (long : Option Nat) (cmd : Bool) : State :=
  let s := s.modPol fun q =>
    { q with moves := q.moves ++ [{ range := k, peer := target, part := p, source := true, st := .begin, long := long, cmd := cmd, got := [],
                                    last := [], abort := none }] }
  -- the registrar learns of it, so that its next view shows the range MOVING (R315)
  let s := if s.isRegistrar then s.showMoving k s.me
    else match s.registrar with
      | some r => s.sendRpp r 0x30 0 .ok 0 0 (.pairs [(k, target)])
      | none => s
  s.request target (.moveBegin k) 0x30 0 0 (.moveBegin k p (s.rangeEntries k) (s.cab.lastEpoch.filter fun x => x.1 / 256 == k))

/-- Whether a range can begin to move to a member. -/
def State.canMove (s : State) (k target : Nat) : Bool :=
  let r := SMap.get freeRange s.pol.ranges k
  s.pol.instValid && r.state == .held && r.inst == s.me && target != s.me && (s.member target).isSome
    && !(s.pol.moves.any fun m => m.range == k)

/-- `RANGE_MOVE` (R317, R465); with `CANCEL` it is a command of another row. -/
def execRangeMove (f : RclFrame) (s : State) : Host.Outcome State Fault Refusal :=
  .next <|
    if bit (f.word 4) 8 then s
    else
      s.serve 0x30 none none f fun cl s =>
        let k := fld (f.word 0) 15 0
        let t := fld (f.word 0) 31 16
        if f.data.length ≠ 8 ∨ fld (f.word 4) 7 5 ≠ 0 ∨ fld (f.word 4) 31 9 ≠ 0 ∨ s.canMove k t = false then (.now .descInvalid [], s)
        else
          let id := s.lnk.nextLong
          (.later, ((s.putLong f cl (.rangeMove k)).moveStart k t (fld (f.word 4) 4 0) (some id) true))

/-- `RANGE_MOVE` with `CANCEL` (R318). -/
def execRangeMoveCancel (f : RclFrame) (s : State) : Host.Outcome State Fault Refusal :=
  .next <|
    if bit (f.word 4) 8 = false then s
    else
      s.serve 0x30 none (some true) f fun _ s =>
        let k := fld (f.word 0) 15 0
        if f.data.length ≠ 8 ∨ fld (f.word 4) 7 5 ≠ 0 ∨ fld (f.word 4) 31 9 ≠ 0
            ∨ (s.pol.moves.any fun m => m.source && m.range == k) = false then (.now .descInvalid [], s)
        else
          let st := s.abortStatus
          let s := st.2.abortMove k st.1
          -- a commit that is being agreed on stands, and its cancel is refused (R479)
          (.now (if s.pol.moves.any fun m => m.source && m.range == k && m.abort.isNone then .descInvalid else .ok) [], s)

/-- `RANGE_RECLAIM` (R320), at the registrar. -/
def execRangeReclaim (f : RclFrame) (s : State) : Host.Outcome State Fault Refusal :=
  .next <| s.serve 0x31 none none f fun _ s =>
    let k := fld (f.word 0) 15 0
    if f.data.length ≠ 4 ∨ fld (f.word 0) 31 16 ≠ 0 ∨ (SMap.get freeRange s.pol.ranges k).state ≠ .lost ∨ (s.isRegistrar = false ∧ s.lostSeat = false) then
      (.now .descInvalid [], s)
    else if s.lostSeat then (.now .timeout [], s)
    else (.now .ok [], s.propose { noChange with ranges := [(k, freeRange)] })

def rangeCode : RangeState → Nat
  | .free => 0 | .held => 1 | .moving => 2 | .lost => 3

/-- `POOL_QUERY` (R308, R315, R465). -/
def poolReply (s : State) : List Byte :=
  let st (k : Nat) : Nat := rangeCode (SMap.get freeRange s.pol.ranges k).state
  bytes4 [s.pol.instId.toNat + at_ (b2n s.pol.instValid) 16, s.pol.viewNum.toNat, (s.registrar.getD 0), s.pol.members.length]
    ++ (List.range 16384).map (fun i => BitVec.ofNat 8 (st (4 * i) + 4 * st (4 * i + 1) + 16 * st (4 * i + 2) + 64 * st (4 * i + 3)))
    ++ (List.range 65536).flatMap fun k => leBytes 2 (SMap.get freeRange s.pol.ranges k).inst

def execPoolQuery (f : RclFrame) (s : State) : Host.Outcome State Fault Refusal :=
  .next <| s.serve 0x32 none none f fun _ s =>
    if f.data.length ≠ 0 then (.now .descInvalid [], s) else (.now .ok (poolReply s), s)

/-- `CAL_READ` (R330, R465). -/
def execCalRead (f : RclFrame) (s : State) : Host.Outcome State Fault Refusal :=
  .next <| s.serve 0x0C none none f fun _ s =>
    if f.data.length ≠ 8 then (.now .descInvalid [], s)
    else
      let n := if f.pl 0 8 = 0 then s.pol.snapLast.toNat else f.pl 0 8
      match s.pol.snaps.find? fun x => x.id == n with
      | none => (.now .descInvalid [], s)
      | some x =>
        (.now .ok (leBytes 8 x.id ++ leBytes 8 x.stamp ++ (List.range 256).flatMap fun g =>
          let c := nth x.grps g ⟨0, 0, 0, 0⟩
          bytes4 [c.latV, c.bwV, c.latF, c.bwF]), s)

end Sys2Proof.Machine
end

