-- ==== Sys2Proof/Machine/Ras.lean ====
section
/-! DEFINITION. Errors, repair and fencing (R576–R593, R632): counting and logging, teardown of readers, poisoned HBM lines,
the repair list, fences with the configuration they leave, UNSERVICEABLE, and the issue hold. -/

namespace Sys2Proof.Machine

open Sys2Proof

/-! ### Contexts that an error ends (R581, R585) -/

/-- Partitions whose issued context satisfies a test. -/
def State.ctxsOf (s : State) (f : Ctx → Bool) : List Nat :=
  parts.filter fun p => (s.ctxOf p).any fun c => c.phase != .ending && f c

def State.tearAll (s : State) (ps : List Nat) (cause : Nat) : State := ps.foldl (fun s p => s.teardown p cause) s

/-- The mask of a list of partitions. -/
def partMask (ps : List Nat) : Nat := ps.eraseDups.foldl (fun n p => n + 2 ^ p) 0

/-- The lowest partition of a list; 0 when it is empty (R580 `PART`). -/
def firstPart (ps : List Nat) : Nat := (least (fun (a b : Nat) => decide (a < b)) ps).getD 0

/-- Whether a context has work on tumblers of a list: a unit that has not ended, or a list macro-instruction in progress, which
runs on every tumbler of its partition (R497). -/
def State.onTums (s : State) (p : Nat) (ts : List Nat) (c : Ctx) : Bool :=
  c.units.any (fun u => u.st != .done && ts.contains (pinTum u.pin)) ||
    (c.lists.any (fun r => r.kind == 1 && r.status == .deferred) && (tumsOf (s.getP p).tumOwn).any fun t => ts.contains t)

/-- Whether a context stages on a Shelf die. -/
def Ctx.stagesOn (c : Ctx) (q : Nat) : Bool := c.streams.any fun x => x.die == q

/-- Whether a row of a context uses a hinge port. -/
def Ctx.usesPort (c : Ctx) (q : Nat) : Bool := c.rows.any fun r => !r.vacant && r.port == q

/-! ### UNSERVICEABLE (R586) -/

/-- `LEAVE` to the registrar; the registrar itself proposes the view without it (R312). -/
def State.leavePool (s : State) : State :=
  if s.pol.instValid = false then s
  else match s.registrar with
    | some r => if r = s.me then s.propose { noChange with del := [r] } else s.request r .leave 5 0 0 .none
    | none => s

/-- No declared configuration remains: every context is torn down with HW_FAULT, the error is logged and sent, core 2 leaves the
pool. -/
def State.unserve (s : State) (name : Nat × Nat) (etype addr : Nat) (torn : List Nat) : State :=
  let ps := s.ctxsOf fun _ => true
  let sv := parts.filter fun p => (s.getP p).svCtx.isSome
  let s := s.tearAll ps 1
  let s := sv.foldl (fun s p => s.tearSaved p 1) s
  let all := torn ++ ps ++ sv
  let first := !s.ras.unserviceable
  let s := s.modRas fun r => { r with config := 0xFF, unserviceable := true }
  let s := s.rasError name.1 name.2 4 etype (firstPart all) addr (partMask all)
  if first ∧ s.serviceUp 2 3 = true then s.leavePool else s

/-! ### What a fence changes (R585, R587, R646) -/

/-- Switch domains off for good. -/
def State.powerOff (s : State) (ds : List Nat) : State :=
  let m : BitVec 96 := BitVec.ofNat 96 (ds.eraseDups.foldl (fun n d => n + 2 ^ d) 0)
  s.modPwr fun w =>
    { w with domAwake := w.domAwake &&& ~~~m, fenced := w.fenced ||| m, wakes := w.wakes.filter fun x => !ds.contains x.dom }

/-- Fenced tumblers leave every mask at once (R376). -/
def State.dropTums (s : State) (ts : List Nat) : State :=
  let m : BitVec 128 := BitVec.ofNat 128 (ts.foldl (fun n t => n + 2 ^ t) 0)
  let s := ts.foldl (fun (s : State) t => s.modTum t fun x => { x with st := .fenced }) s
  { s with prt := s.prt.map fun q => { q with tumOwn := q.tumOwn &&& ~~~m, tumNext := q.tumNext.map fun n => n &&& ~~~m } }

/-- The SHELF-space address of an offset in MiB on die q (R98). -/
def shelfAt (q mib : Nat) : Nat := 2 ^ 29 * q + 2 ^ 20 * mib

/-- Release a range of a host area as an allocation (R108): its descriptors are destroyed, and it stays reserved while
references to them are held. -/
def State.releaseShelf (s : State) (p base size : Nat) : State :=
  if size = 0 then s
  else
    let s := s.destroyIn p 1 base size
    State.sweepAllocs
      { s with allocs := SMap.insert s.allocs (2 ^ 100 + 2 ^ 32 * base + size) { part := p, space := 1, base := base, size := size, freed := true } }

/-- A granted host area holds nothing. -/
def State.clearShelf (s : State) (base size : Nat) : State :=
  { s with shelf := s.shelf.filter fun c => decide (c.1 < base) || decide (base + size ≤ c.1) }

/-- The host area of partition p on die q: offset and size in MiB. -/
def State.hostArea (s : State) (p q : Nat) : Nat × Nat := ((nth (s.getP p).shfHbase q 0).toNat, (nth (s.getP p).shfHost q 0).toNat)

/-- Release every host area of die q. -/
def State.releaseDie (s : State) (q : Nat) : State :=
  parts.foldl (fun (s : State) p => let a := s.hostArea p q; s.releaseShelf p (shelfAt q a.1) (2 ^ 20 * a.2)) s

/-- Place the host areas of die q from offset 0 in ascending partition (R646 item 1), empty. -/
def State.placeHosts (s : State) (q : Nat) : State :=
  let r := parts.foldl (fun (st : Nat × State) p =>
    let n := (nth (st.2.getP p).shfHost q 0).toNat
    (st.1 + n, st.2.modP p fun g => { g with shfHbase := modNth g.shfHbase q fun _ => if n = 0 then 0 else BitVec.ofNat 10 st.1 })) (0, s)
  r.2.clearShelf (shelfAt q 0) (2 ^ 29)

/-- `VISIT_CAP` falls until the staging area of die q is not below zero (R587). -/
def State.fitVisit (s : State) (p q : Nat) : State :=
  let g := s.getP p
  let room := 2 ^ 20 * ((nth g.shfShare q 0).toNat - (nth g.shfHost q 0).toNat)
  if (diesOf g.tumOwn).head? = some q ∧ room < s.returnArea g.visitCap.toNat then
    s.modP p fun g => { g with visitCap := BitVec.ofNat 24 (room / (8 * s.wMax)) }
  else s

/-- Shares and host areas of die q change by a rule, its host areas are granted anew. -/
def State.reshare (s : State) (q : Nat) (f : BitVec 10 → BitVec 10) : State :=
  let s := s.releaseDie q
  let s := { s with prt := s.prt.map fun (g : Prt) => { g with shfShare := modNth g.shfShare q f, shfHost := modNth g.shfHost q f } }
  let s := s.placeHosts q
  parts.foldl (fun s p => s.fitVisit p q) s

def State.halveShares (s : State) (q : Nat) : State := s.reshare q fun b => b >>> 1
def State.zeroShares (s : State) (q : Nat) : State := s.reshare q fun _ => 0

/-- A hinge link goes down for good (R589, R590, R619). -/
def State.fencePort (s : State) (q : Nat) : State :=
  s.portDown q 4

/-- A tumbler pair is fenced. -/
def State.fencePairHw (s : State) (i : Nat) : State :=
  ((s.modRas fun r => { r with fencePair := r.fencePair ||| BitVec.ofNat 64 (2 ^ i) }).powerOff [i]).dropTums [2 * i, 2 * i + 1]

/-- A Shelf half is fenced, the other half of its die still in service. -/
def State.fenceHalfHw (s : State) (n : Nat) : State :=
  let s := (s.modRas fun r => { r with fenceShf := r.fenceShf ||| BitVec.ofNat 8 (2 ^ n) }).powerOff [64 + n]
  let s := { s with shf := modNth s.shf (n / 2) fun x => { x with cap := 256, halfOk := x.halfOk &&& ~~~(BitVec.ofNat 2 (2 ^ (n % 2))) } }
  s.halveShares (n / 2)

/-- A Q-die is fenced with its pairs, its Shelf die and its hinge port. -/
def State.fenceDieHw (s : State) (q : Nat) : State :=
  let pairs := (List.range 16).map fun i => 16 * q + i
  let s := s.modRas fun r =>
    { r with
      fenceQ := r.fenceQ ||| BitVec.ofNat 4 (2 ^ q), fenceShf := r.fenceShf ||| BitVec.ofNat 8 (3 * 4 ^ q)
      fencePair := r.fencePair ||| BitVec.ofNat 64 (0xFFFF * 65536 ^ q) }
  let s := s.powerOff (pairs ++ [domHalf q 0, domHalf q 1, domCommon q])
  let s := s.dropTums ((List.range 32).map fun i => 32 * q + i)
  let s := { s with shf := modNth s.shf q fun x => { x with cap := 0, halfOk := 0 } }
  (s.zeroShares q).fencePort q

/-- A fabric sub-port is fenced: host accesses in flight on it go out once more on their new sub-port (R612). -/
def State.fenceFabHw (s : State) (n : Nat) : State :=
  let lost := s.fab.xfers.filter fun x => s.subPort x.addr == some n
  let s := (s.modRas fun r => { r with fenceFab := r.fenceFab ||| BitVec.ofNat 8 (2 ^ n) }).powerOff [domFab n]
  let again := lost.filter fun x => !x.retried
  let s := s.modFab fun b =>
    { b with
      live := b.live &&& ~~~(BitVec.ofNat 8 (2 ^ n))
      ports := modNth b.ports n fun x => { x with lstate := 4 }
      xfers := b.xfers.map fun x => if lost.any (fun y => y.xid == x.xid) then { x with retried := true } else x
      sent := b.sent ++ again }
  again.foldl (fun (s : State) x => s.fabCount (s.subPort x.addr) true (if x.write.isSome then x.len else 0)) s

/-- Whether a unit is fenced already. -/
def Ras.isFenced (r : Ras) (kind n : Nat) : Bool :=
  match kind with
  | 2 => r.fencePair.getLsbD n
  | 3 => r.fenceShf.getLsbD n
  | 4 => r.fenceQ.getLsbD n
  | _ => r.fenceFab.getLsbD n

/-- The unit that a fence takes: both Shelf halves of a die take its Q-die (R584). -/
def Ras.fenceUnit (r : Ras) (kind n : Nat) : Nat × Nat :=
  if kind = 3 ∧ r.fenceShf.getLsbD (n / 2 * 2 + (1 - n % 2)) = true then (4, n / 2) else (kind, n)

/-- The contexts on a unit (R585 item 1, R588). -/
def State.onUnit (s : State) (kind n : Nat) : List Nat :=
  match kind with
  | 2 => parts.filter fun p => (s.ctxOf p).any fun c => c.phase != .ending && s.onTums p [2 * n, 2 * n + 1] c
  | 3 => s.ctxsOf fun c => c.stagesOn (n / 2)
  | 4 => parts.filter fun p => (s.ctxOf p).any fun c =>
      c.phase != .ending && (s.onTums p ((List.range 32).map fun i => 32 * n + i) c || c.stagesOn n || c.usesPort n)
  | _ => []

/-- The hardware part of a fence. -/
def State.fenceHw (s : State) (kind n : Nat) : State :=
  match kind with
  | 2 => s.fencePairHw n
  | 3 => s.fenceHalfHw n
  | 4 => s.fenceDieHw n
  | _ => s.fenceFabHw n

/-- Fence a unit of kind 2, 3, 4 or 6 (R584, R585 items 1 to 4): its contexts are torn down with HW_FAULT, the hardware leaves,
the configuration changes, issue is held until `ISSUE_HOLD_RELEASE` sends the `FAULT`. `name` is the unit that the error is
reported for, `torn` the contexts that the error has already ended. -/
def State.fence (s : State) (kind n : Nat) (name : Nat × Nat) (etype addr : Nat) (torn : List Nat) : State :=
  let u := s.ras.fenceUnit kind n
  let name := if u.1 = kind then name else u
  if s.ras.isFenced u.1 u.2 then s
  else
    let ps := s.onUnit u.1 u.2
    let s := (s.tearAll ps 1).fenceHw u.1 u.2
    let all := torn ++ ps
    if s.ras.unserviceable ∨ s.ras.configCode = 0xFF then s.unserve name etype addr all
    else
      let s := (s.modRas fun r => { r with config := BitVec.ofNat 8 r.configCode, hold := true }).rasLog name.1 name.2 2 etype (firstPart all) addr
      s.modRas fun r =>
        { r with fences := r.fences ++ [{ kind := name.1, index := name.2, sev := 2, mask := partMask all, lseq := r.lseqLast.toNat }] }

/-- `ISSUE_HOLD_RELEASE` (R585 item 5): the hold ends, then the notices of its fences are sent. -/
def execIssueHoldRelease (s : State) : Host.Outcome State Fault Refusal :=
  .next <|
    if s.ras.hold = false then s
    else s.ras.fences.foldl (fun s h => s.faultSend h) (s.modRas fun r => { r with hold := false, fences := [] })

/-! ### Injection (R632) -/

/-- Whether an error is the injected one that is armed. -/
def Ras.injects (r : Ras) (kind n word : Nat) (double : Bool) : Bool :=
  r.injArm && r.injKind.toNat == kind && r.injIndex.toNat == n && r.injAddr.toNat == word && r.injType == double

def State.disarm (s : State) (b : Bool) : State := if b then s.modRas fun r => { r with injArm := false } else s

/-! ### The repair list (R583) -/

/-- Spare rows of a unit's macro or bank. -/
def spareRows (kind : Nat) : Nat := if kind = 2 then 4 else if kind = 3 then 16 else 8

/-- The spares of a row's macro or bank that are in use. -/
def Ras.sparesUsed (r : Ras) (k : ArrRow) : Nat := ((r.spares.find? fun e => e.1 == { k with row := 0 }).map (·.2)).getD 0

/-- Repair a row by a spare row of its macro or bank; `none` when the spares are exhausted. -/
def Ras.repairRow (r : Ras) (k : ArrRow) : Option Ras :=
  let b : ArrRow := { k with row := 0 }
  if r.sparesUsed k < spareRows k.kind then
    some { r with
      spares := (r.spares.filter fun e => e.1 != b) ++ [(b, r.sparesUsed k + 1)]
      repair := r.repair.map fun e => if e.1 = k then (k, true) else e
      rowCe := r.rowCe.map fun e => if e.1 = k then (k, 0) else e }
  else none

/-- A row enters the repair list; a Shelf row is repaired at once. True when a repair that it needs finds no spare, or the list
is full (R593). -/
def State.enterRow (s : State) (k : ArrRow) : Bool × State :=
  let known := s.ras.repair.any fun e => e.1 == k
  if known = false ∧ 65535 ≤ s.ras.repair.length then (true, s)
  else
    let s := s.modRas fun r =>
      { r with repair := if known then r.repair.map fun e => if e.1 = k then (k, false) else e else r.repair ++ [(k, false)] }
    if k.kind = 3 then
      match s.ras.repairRow k with
      | some r => (false, { s with ras := r })
      | none => (true, s)
    else (false, s)

/-- A repair that finds its spares exhausted fences the unit of R583's table, or leaves the device UNSERVICEABLE. -/
def State.exhausted (s : State) (k : ArrRow) (etype : Nat) (torn : List Nat) : State :=
  if k.kind = 2 ∨ k.kind = 3 then s.fence k.kind k.n (k.kind, k.n) etype k.row torn
  else s.unserve (8, 0) etype k.row torn

/-- Kinds of unit whose stores are SRAM (R576): tumbler pair, Shelf half, management core, Frame die table. -/
def sramKind (kind : Nat) : Bool := kind == 2 || kind == 3 || kind == 7 || kind == 8

/-- `SRAM_CORRECTED` (R578, R583). -/
def execSramCorrected (kind n bank row word : Nat) (s : State) : Host.Outcome State Fault Refusal :=
  .next <|
    if sramKind kind = false then s
    else
      let inj := s.ras.injects kind n word false
      let k : ArrRow := { kind := kind, n := n, bank := bank, row := row }
      let seen := s.ras.rowCe.any fun e => e.1 == k
      let cnt := ((s.ras.rowCe.find? fun e => e.1 == k).map (·.2)).getD 0 + (if inj then 0 else 1)
      let s := (s.disarm inj).modRas fun r =>
        { r with
          ceSram := satAdd r.ceSram 1
          rowCe := if seen then r.rowCe.map fun e => if e.1 = k then (k, cnt) else e else r.rowCe ++ [(k, cnt)] }
      -- macros of a pair count through its two tumblers, 40 each (2.5 MiB)
      let s := if kind = 2 then s.modTum (2 * n + bank / 40 % 2) fun t => { t with ce := satAdd t.ce 1 } else s
      let s := if seen then s else s.rasError kind n 0 1 0 row 0
      if inj = false ∧ s.ras.ceThresh.toNat ≤ cnt ∧ (s.ras.repair.any fun e => e.1 == k && !e.2) = false then
        let r := s.enterRow k
        if r.1 then r.2.exhausted k 6 [] else r.2
      else s

/-- `SRAM_UNCORRECTED` (R581, R583): the contexts that read the data are torn down with MEM_ERROR. -/
def execSramUncorrected (kind n bank row word : Nat) (readers : List Nat) (s : State) : Host.Outcome State Fault Refusal :=
  .next <|
    if sramKind kind = false then s
    else
      let inj := s.ras.injects kind n word true
      let k : ArrRow := { kind := kind, n := n, bank := bank, row := row }
      let ps := s.ctxsOf (fun _ => true) |>.filter readers.contains
      let s := ((s.disarm inj).modRas fun r => { r with ueAll := satAdd r.ueAll 1 }).tearAll ps 3
      let r : Bool × State := if inj then (false, s) else s.enterRow k
      if r.1 then r.2.exhausted k 2 ps else r.2.rasError kind n 1 2 (firstPart ps) row (partMask ps)

/-! ### HBM (R582, R608) -/


/-- The extent that holds an HBM address. -/
def Cab.holding (c : Cab) (a : Nat) : Option Extent := c.extents.find? fun e => decide (e.base ≤ a / granule) && decide (a / granule < e.base + e.len)

/-- Lines that are still poisoned: the object that held the line has neither been released nor been rewritten. -/
def State.poisoned (s : State) : List Nat :=
  (s.ras.poison.filter fun l => match l.2 with
    | none => true
    | some (.master aid) => (s.entry aid).any (·.badMaster)
    | some o => (s.cab.holding l.1).any fun e => e.obj == o).map (·.1)

/-- Whether a byte range of HBM meets a poisoned line. -/
def State.meetsPoison (s : State) (a n : Nat) : Option Nat := s.poisoned.find? fun l => decide (l < a + n) && decide (a < l + 64)

/-- Add a GD_DISCARD record to the report of the partition's step, if it has one (R272, R451). -/
def State.listDiscard (s : State) (p aid base : Nat) : State :=
  s.modP p fun q =>
    let r := listRec aid .internal 4 base
    match q.ctx with
    | some c => { q with ctx := some { c with lists := c.lists ++ [r] } }
    | none => { q with svCtx := q.svCtx.map fun c => { c with lists := c.lists ++ [r] } }

/-- What becomes of the object that holds a poisoned line (R582); true when the device becomes UNSERVICEABLE. -/
def State.poisonObject (s : State) (a : Nat) : Bool × State :=
  if sysBase ≤ a then
    let o := a - sysBase
    (decide (o < 0x9000000) || (decide (0x49000000 ≤ o) && decide (o < 0x7A000000)), s)
  else
    match s.cab.holding a with
    | none => (false, s)
    | some e =>
      match e.obj with
      | .cached aid ep => (false, (s.modSlot aid ep fun v => { v with inval := true }).evictInval)
      | .blob aid ep => (false, s.modSlot aid ep fun v => { v with damaged := true })
      | .master aid => (false, s.modEntry aid fun x => { x with badMaster := true })
      | .grad p aid base => (false, (s.listDiscard p aid base).dropGrad p aid base)
      | .contrib aid slot =>
        let src := (s.entry aid).bind fun x => x.contribs.find? fun c => c.slot == slot
        let s := match s.entry aid with | some x => s.listDiscard x.home aid ((src.map fun (c : Contrib) => c.base).getD 0) | none => s
        (false, (s.dropSlot aid slot).modEntry aid fun x =>
          { x with round := x.round.map fun r => { r with contribs := r.contribs.filter fun c => c.slot != slot } })
      | _ => (false, s)

/-- An uncorrected error of an HBM line that contexts read. -/
def State.hbmError (s : State) (addr : Nat) (ps : List Nat) : State :=
  let l := addr / 64 * 64
  let k := stackOf addr
  let s := (s.modRas fun r =>
    { r with
      ueAll := satAdd r.ueAll 1
      poison := if r.poison.any (fun x => x.1 == l) then r.poison else r.poison ++ [(l, (s.cab.holding l).map (·.obj))] }).modStk k
        fun h => { h with ue := satAdd h.ue 1 }
  let r := (s.tearAll ps 3).poisonObject l
  if r.1 then r.2.unserve (5, k) 4 addr ps else r.2.rasError 5 k 1 4 (firstPart ps) addr (partMask ps)

/-- `HBM_CORRECTED` (R578). -/
def execHbmCorrected (addr line row : Nat) (s : State) : Host.Outcome State Fault Refusal :=
  .next <|
    let k := stackOf addr
    let inj := s.ras.injects 5 k line false
    let r : ArrRow := { kind := 5, n := k, bank := 0, row := row }
    let seen := s.ras.rowCe.any fun e => e.1 == r
    let s := ((s.disarm inj).modRas fun x =>
      { x with ceHbm := satAdd x.ceHbm 1, rowCe := if seen then x.rowCe else x.rowCe ++ [(r, 0)] }).modStk k fun h => { h with ce := satAdd h.ce 1 }
    if seen then s else s.rasError 5 k 0 3 0 addr 0

/-- `HBM_UNCORRECTED` (R581, R582): the line is poisoned, its row enters the repair list, its readers are torn down and the object
that holds it is handled. -/
def execHbmUncorrected (addr line row : Nat) (readers : List Nat) (s : State) : Host.Outcome State Fault Refusal :=
  .next <|
    let k := stackOf addr
    let inj := s.ras.injects 5 k line true
    let s := s.disarm inj
    let s := if inj then s else (s.enterRow { kind := 5, n := k, bank := 0, row := row }).2
    s.hbmError addr ((s.ctxsOf fun _ => true).filter readers.contains)

/-! ### Reads of poisoned lines by a step (R582) -/

/-- The arrays of the layer that the stream at the head of a die reads, as HBM ranges. -/
def State.streamRngs (s : State) (c : Ctx) (q : Nat) : List (Nat × Nat) :=
  match c.headStream q with
  | none => []
  | some x =>
    let d := c.drw x.drw
    match (s.entry d.aid).bind fun e => (e.slot d.epoch).map fun v => (e, v) with
    | none => []
    | some (e, v) =>
      let rd := s.reader (gAddr v.loc)
      let h := rd.hdr
      (List.range e.projs.length).flatMap fun i =>
        let p := nth e.projs i 0
        if s.layer p = x.layer then
          [0, 1].flatMap fun b => (((rd.mrec (2 * i + b)).arrays h (s.shape p)).getD []).map fun a => (gAddr v.loc + a.1, a.2)
        else []

/-- The HBM ranges of a unit's operand loads. -/
def State.loadHbm (s : State) (c : Ctx) (u : WUnit) : List (Nat × Nat) :=
  (s.loads c u).flatMap fun l =>
    match s.dOf l.1 with
    | none => []
    | some d => (c.unitPos u).flatMap fun x =>
        if c.posOk x.1 then ((s.elRngs (s.view c u.mi) d 0 l.2 [c.tpos x.1 x.2]).filter fun r => r.space == 0).map fun r => (r.addr, r.len) else []

/-- A read of ranges by partition p: the uncorrected error of the first poisoned line, or what the read is for. -/
def State.readOr (s : State) (p : Nat) (rs : List (Nat × Nat)) (go : State) : State :=
  if s.ras.poison.isEmpty then go
  else match rs.findSome? fun r => s.meetsPoison r.1 r.2 with
    | some l => s.hbmError l [p]
    | none => go

/-- `STAGING_STREAM_END` (R493). -/
def execStagingStreamEnd (p q : Nat) (s : State) : Host.Outcome State Fault Refusal :=
  .next <|
    match s.ctxOf p with
    | none => s
    | some c => if c.phase = .run then s.readOr p (s.streamRngs c q) (s.streamEnd p q) else s

/-- `UNIT_START` (R489). -/
def execUnitStart (p u : Nat) (s : State) : Host.Outcome State Fault Refusal :=
  .next <|
    match s.ctxOf p with
    | none => s
    | some c =>
      match c.units.find? fun x => x.id == u with
      | none => s
      | some w => if s.unitReady p c w then s.readOr p (s.loadHbm c w) (s.startUnit p u) else s

/-! ### Logic faults (R581, R584) -/

/-- `LOGIC_FAULT`: a pin (kind 1), a pair's sequencers (2), a Q-die common (4), a whole HBM stack (5), or the Frame die (8), where
`part` names the partition controller, 32 the network for good. -/
def execLogicFault (kind n part : Nat) (s : State) : Host.Outcome State Fault Refusal :=
  .next <|
    let s' := s.modRas fun r => { r with ueAll := satAdd r.ueAll 1 }
    match kind with
    | 1 => if n < 2048 then s'.fence 2 (n / 32) (1, n) 7 0 [] else s
    | 2 => if n < 64 then s'.fence 2 n (2, n) 7 0 [] else s
    | 4 => if n < 4 then s'.fence 4 n (4, n) 7 0 [] else s
    | 5 => if n < 8 then (s'.modStk n fun h => { h with st := 4 }).unserve (5, n) 7 0 [] else s
    | 8 =>
      if part < 32 then
        let ps := (s'.ctxsOf fun _ => true).filter (· == part)
        (s'.tearAll ps 1).rasError 8 0 1 7 (firstPart ps) 0 (partMask ps)
      else s'.unserve (8, 0) 7 0 []
    | _ => s

/-- `SECURITY_CORE_FAULT` (R42, R533, R534). -/
def execSecurityCoreFault (s : State) : Host.Outcome State Fault Refusal :=
  .next <|
    if s.sec.coreFault then s
    else
      ((s.failClaims.modSec fun c => { c with coreFault := true }).modMgt fun m => { m with coreLive := m.coreLive &&& ~~~(0x10 : BitVec 6) }).rasError
        7 4 3 9 0 0 0

end Sys2Proof.Machine
end

