-- ==== Sys2Proof/Machine/Links.lean ====
section
/-! DEFINITION. The links (R231, R589–R591, R599–R613): training, loss, L1, retries, and host accesses that time out. `kind` of a
link is its `FAULT` unit kind (R579): 4 a hinge port, 6 a fabric sub-port, 9 the command link. -/

namespace Sys2Proof.Machine

open Sys2Proof

def State.getPort (s : State) (n : Nat) : FabPort := nth s.fab.ports n FabPort.reset
def State.modPort (s : State) (n : Nat) (f : FabPort → FabPort) : State := s.modFab fun b => { b with ports := modNth b.ports n f }

/-- The sub-port is live or not (R635 `FAB_LIVE`). -/
def State.setLive (s : State) (n : Nat) (b : Bool) : State :=
  let m : BitVec 8 := BitVec.ofNat 8 (2 ^ n)
  -- frames that waited for a sub-port that is gone are lost; host accesses take the next one (R612)
  State.fabGo (s.modFab fun x =>
    if b then { x with live := x.live ||| m } else { x with live := x.live &&& ~~~m, frames := x.frames.filter fun e => e.1 != n })

/-! ### Loss -/

/-- Vectors that reached a port and have no complete response are not served (R231, R590): nothing answers them any more. -/
def Ctx.lostPort (port : Nat) (c : Ctx) : Ctx :=
  { c with vecs := c.vecs.map fun v => if (c.row v.slot).port = port then { v with answered := true } else v }

/-- A hinge link leaves its active state: held vectors, responses that have not left and credits are gone (R590, R620). -/
def State.hingeDown (s : State) (port code : Nat) : State :=
  let s := s.portDown port (BitVec.ofNat 3 code)
  { s with prt := s.prt.map fun q => { q with ctx := q.ctx.map (Ctx.lostPort port), svCtx := q.svCtx.map (Ctx.lostPort port) } }

/-- RCL is down (R480, R613): responses and notices that have not left are discarded with all credits, but no `STEP_DONE`, which is
never dropped (R477). Commands in progress go on and keep their queue entries. `HELLO` comes first again (R464). -/
def State.rclDown (s : State) (code : Nat) : State :=
  s.modLnk fun l =>
    { l with
      lstate := BitVec.ofNat 3 code, helloOk := false, crdHeld := [0, 0, 0, 0], crdMin := [false, false, false, false]
      hostCrd := [0, 0, 0, 0], owed := [0, 0, 0, 0], out := [[], [], [], []], notes := l.notes.filter fun n => n.opc == 0x60
      qUsed := l.qUsed - BitVec.ofNat 13 (l.out.flatten.filter fun fr => fr.q == 1 && fr.last).length
      qUrg := l.qUrg - BitVec.ofNat 7 (l.out.flatten.filter fun fr => fr.q == 2 && fr.last).length }

/-- `LINK_INACTIVE` (R590): a hinge link goes down. -/
def execLinkInactive (port : Nat) (s : State) : Host.Outcome State Fault Refusal :=
  .next (let h := s.getHng port; if port < 4 ∧ (h.lstate = 2 ∨ h.lstate = 3) then s.hingeDown port 0 else s)

/-- `L1_EXIT` (R563, R601, R610): the domain of a link in L1 wakes. -/
def execL1Exit (fabric : Bool) (n : Nat) (s : State) : Host.Outcome State Fault Refusal :=
  .next <|
    if fabric then (if n < 8 ∧ (s.getPort n).lstate = 3 then s.requestWakes [domFab n] else s)
    else if n < 4 ∧ (s.getHng n).lstate = 3 then s.requestWakes [domCommon n]
    else s

/-! ### Retries and training (R600, R610, R613) -/

/-- `LINK_RETRY_LIMIT` (R600): the link-level retries, a number that the link knows, are counted; the link retrains. -/
def execLinkRetryLimit (kind n : Nat) (s : State) : Host.Outcome State Fault Refusal :=
  .next <|
    let r := s.fresh
    let up (l : BitVec 3) : Bool := l == 2 || l == 3
    let count (s : State) : State := s.modRas fun x => { x with linkRetry := satAdd x.linkRetry r.1, ueAll := satAdd x.ueAll 1 }
    match kind with
    | 4 =>
      if n < 4 ∧ up (s.getHng n).lstate = true then
        ((count r.2).hingeDown n 1).modHng n fun h => { h with lnkRty := satAdd h.lnkRty r.1, retrained := true }
      else s
    | 6 =>
      if n < 8 ∧ up (s.getPort n).lstate = true then
        ((count r.2).setLive n false).modPort n fun x => { x with lstate := 1, lnkRty := satAdd x.lnkRty r.1, retrained := true }
      else s
    | 9 => if n = 0 ∧ s.lnk.lstate = 2 then ((count r.2).rclDown 0).rasError 9 0 1 5 0 0 0 else s
    | _ => s

/-- Whether the command link is to train again: it is down, after PROBE began and before the power-down is complete. -/
def State.rclIdle (s : State) : Bool :=
  s.side.rstN && s.lnk.lstate == 0 && decide (1 ≤ s.mgt.bootStage.toNat) && s.pwr.pdStage.toNat != 6

/-- `COMMAND_LINK_RETRAIN` (R613): a command link that is down trains again, every 10 ms. -/
def execCommandLinkRetrain (s : State) : Host.Outcome State Fault Refusal :=
  .next (if s.rclIdle && s.due perRetrain then (s.align perRetrain 1000000).modLnk fun l => { l with lstate := 1 } else s)

/-- The credits that Bartor grants the host (R461). -/
def grantCredits : List Nat := [8, 64, 0, 128]

/-- An attempt to train a hinge port ends. `lanes` were repaired. -/
def State.hingeTrained (s : State) (n : Nat) (ok : Bool) (lanes : Nat) : State :=
  let h := s.getHng n
  let s := s.modHng n fun h => { h with trainAtt := satAdd h.trainAtt 1, laneRep := BitVec.ofNat 8 lanes }
  if ok then
    let s := (s.modHng n fun h => { h with lstate := 2, crdUsed := [], retrained := false }).setAwake (domCommon n) true
    if h.retrained then s.rasError 4 n 1 5 0 0 0 else s
  else if h.retrained ∨ 3 ≤ h.trainAtt.toNat + 1 then s.fence 4 n (4, n) 5 0 []
  else s

/-- An attempt to train a fabric sub-port ends. -/
def State.fabTrained (s : State) (n : Nat) (ok : Bool) : State :=
  let x := s.getPort n
  let s := s.modPort n fun x => { x with trainAtt := x.trainAtt + 1 }
  if ok then
    let s := ((s.modPort n fun x => { x with lstate := 2, retrained := false }).setLive n true).setAwake (domFab n) true
    let s := s.fabGo.heldGo
    if x.retrained then s.rasError 6 n 1 5 0 0 0 else s
  else if x.retrained ∨ 3 ≤ x.trainAtt + 1 then s.fence 6 n (6, n) 5 0 []
  else s

/-- An attempt to train the command link ends: each side grants its credits afresh (R462). -/
def State.rclTrained (s : State) (ok : Bool) : State :=
  if ok then State.drain (s.modLnk fun l => { l with lstate := 2, hostCrd := [0, 0, 0, 0], owed := grantCredits })
  else s.modLnk fun l => { l with lstate := 0 }

/-- `LINK_TRAINING_END` (R600, R610, R613): success makes the link active; a hinge port or sub-port that has not trained after three
attempts, or that fails to retrain, is fenced with its unit (R584). -/
def execLinkTrainingEnd (kind n : Nat) (trained : Bool) (lanes : Nat) (s : State) : Host.Outcome State Fault Refusal :=
  .next <|
    match kind with
    | 4 => if n < 4 ∧ (s.getHng n).lstate = 1 then s.hingeTrained n trained lanes else s
    | 6 => if n < 8 ∧ (s.getPort n).lstate = 1 then s.fabTrained n trained else s
    | 9 => if n = 0 ∧ s.lnk.lstate = 1 then s.rclTrained trained else s
    | _ => s

/-! ### Host accesses without an answer (R612) -/

/-- The error of an access of partition p's step `sseq`: the step is torn down with MEM_ERROR (R581). Its type, which spec/ does not
name, is free. -/
def State.hostError (s : State) (x : Xfer) (p sseq : Nat) : State :=
  let t := s.fresh
  let s := t.2
  let issued := (s.ctxOf p).any fun c => c.sub.sseq == sseq && c.phase != .ending
  let saved := ((s.getP p).svCtx).any fun c => c.sub.sseq == sseq
  let s := if issued then s.teardown p 3 else if saved then s.tearSaved p 3 else s
  let ps := if issued || saved then [p] else []
  s.rasError 6 ((s.subPort x.addr).getD 0) 1 (1 + t.1 % 13) (firstPart ps) x.addr (partMask ps)

def State.dropXfers (s : State) (f : Xfer → Bool) : State := s.modFab fun b => { b with xfers := b.xfers.filter fun y => !f y }

/-- `HOST_TMO` (R612): an access has had no data or completion for the field `HOST_TMO` in µs. -/
def execHostTmo (xid : Nat) (s : State) : Host.Outcome State Fault Refusal :=
  .next <|
    match s.fab.xfers.find? fun x => x.xid == xid && x.got.isNone with
    | none => s
    | some x =>
      if s.now < x.t0 + usTicks s.fab.hostTmo.toNat ∨ s.fab.waiting.any (fun y => y.xid == xid) = true then s
      else
        let s := s.modRas fun r => { r with ueAll := satAdd r.ueAll 1 }
        match x.use with
        | .step p n _ => (s.dropXfers fun y => y.xid == xid).hostError x p n
        | .write id =>
          let tag : Option WriteTag := (s.writes.find? fun w => w.id == id).map (·.tag)
          let s := { s.dropXfers (fun y => y.xid == xid) with writes := s.writes.filter fun w => w.id != id }
          match tag with
          | some (.step p n _) => s.hostError x p n
          | some (.report p n) => s.hostError x p n
          | _ => s
        | .slowRead _ aid ep => (s.dropXfers fun y => y.use == x.use).promotionEnd aid ep none
        | .slowWrite _ aid ep =>
          (((s.dropXfers fun y => y.use == x.use).modSlot aid ep fun v => if v.slow then v else { v with slowLoc := none })).logSlow

end Sys2Proof.Machine
end

