-- ==== Sys2Proof/Machine/Power.lean ====
section
/-! DEFINITION. Power and clocks (R558–R575, R476, R389): operating points, the thermal governor, thermal trips, idle and wake of the
switched domains, core faults, heartbeats, token buckets, orderly power-down. Temperatures from sensors are in °C × 256. -/

namespace Sys2Proof.Machine

open Sys2Proof

/-- POWER word k (R571, R630). -/
def Pwr.w (q : Pwr) (k : Nat) : Word := nth q.image k 0
def Pwr.n (q : Pwr) (k : Nat) : Nat := (q.w k).toNat

/-! ### Operating points (R559, R560, R568) -/

/-- CCLK in MHz and VQ rail in mV of each point. -/
def points : List (Nat × Nat) :=
  [(1800, 750), (1650, 720), (1500, 690), (1350, 660), (1200, 630), (1050, 600), (900, 580), (600, 560)]

def pointMhz (j : Nat) : Nat := (nth points j (600, 560)).1
def pointMv (j : Nat) : Nat := (nth points j (600, 560)).2

def State.coreUp (s : State) (c : Nat) : Bool := bitN s.mgt.coreLive.toNat c

/-- CCLK switches to a point; the change sends one `THROTTLE` where its sender is live. -/
def State.switchTo (s : State) (j reason : Nat) (tell : Bool) : State :=
  let old := s.pwr.cclkMhz.toNat
  if s.pwr.opPoint.toNat = j then s
  else
    let s := s.modPwr fun w =>
      { w with opPoint := BitVec.ofNat 3 j, cclkMhz := BitVec.ofNat 16 (pointMhz j), govReason := BitVec.ofNat 4 reason }
    if tell then s.notice 0x63 (bytes4 [pointMhz j + at_ old 16, reason]) else s

/-- The voltage of the four VQ rails is requested over I3C. -/
def State.setVolts (s : State) (j : Nat) : State := s.modSide fun d => { d with volts := List.replicate 4 (pointMv j) }

/-- Go to a point: downwards the frequency first, then the voltage; upwards the voltage first, the frequency after `V_SETTLE`. -/
def State.goPoint (s : State) (j reason : Nat) (tell : Bool) : State :=
  let cur := s.pwr.opPoint.toNat
  if cur ≤ j then
    ((s.switchTo j reason tell).setVolts j).modPwr fun w => { w with rise := none, settling := none }
  else if s.pwr.rise.any fun x => x.1 == j then s
  else (s.setVolts j).modPwr fun w => { w with rise := some (j, reason), settling := some s.now }

/-- `V_SETTLE` (R560): the regulators have settled and the frequency rises. -/
def execVSettle (s : State) : Host.Outcome State Fault Refusal :=
  .next <|
    match s.pwr.rise, s.pwr.settling with
    | some x, some t =>
      if s.now < t + usTicks (s.pwr.n 0) then s
      else (s.switchTo x.1 x.2 (s.coreUp (if s.pwr.fallback then 0 else 5))).modPwr fun w => { w with rise := none, settling := none }
    | _, _ => s

/-! ### The governor (R565–R568) -/

/-- A number as FP32. -/
def fNat (n : Nat) : Nat := rneIeee false n 1 0
/-- A 16-bit reading with 8 fraction bits as FP32. -/
def fQ8 (n : Nat) : Nat := rneIeee false n 1 (-8)

def clampF (lo hi x : Nat) : Nat := if lt32 x lo then lo else if lt32 hi x then hi else x

/-- x ≤ y, exactly. -/
def Dy.le (x y : Dy) : Bool := decide (0 ≤ (y.add { x with neg := !x.neg }).int)

def Dy.ofInt (i : Int) : Dy := ⟨decide (i < 0), i.natAbs, 0⟩

/-- A non-negative FP32 value in units of 2⁻ᵏ as a register's integer; where it is none, the way it is rounded is free. -/
def State.regOf (s : State) (w k : Nat) : Nat × State :=
  let d := dyIeee w
  let e := d.e + k
  if d.neg then (0, s)
  else if 0 ≤ e then (min 65535 (d.m * 2 ^ e.toNat), s)
  else
    let den := 2 ^ (-e).toNat
    if d.m % den = 0 then (min 65535 (d.m / den), s) else let b := s.freshB; (min 65535 (d.m / den + b2n b.1), b.2)

/-- What the model of the cold plate gives in one period: T_m, θ_a, τ, P_therm. -/
structure Plate where
  tm : Nat
  thetaA : Nat
  tau : Nat
  therm : Nat
  slew : Nat
  deriving DecidableEq, Repr

/-- θ(F). -/
def Pwr.theta (w : Pwr) (thetaA f : Nat) : Nat := oAdd thetaA (oDiv (w.n 12) f)

/-- One period of the model and its calibration (R566), and the largest constant power of R567, in FP32 with RNE in the order
written; `q` is the share, `hot` the hottest sensor. -/
def Pwr.plate (w : Pwr) (tin f q : Nat) (r : Sensors) : Plate :=
  let p := fNat r.power
  let target := oAdd tin (oMul (w.theta w.thetaA.toNat f) p)
  let tm := oAdd w.tm.toNat (oMul (oSub target w.tm.toNat) (oDiv 0x3A83126F w.tau.toNat))
  let err := oSub (fQ8 r.hot) (oAdd tm (oMul (oMul (w.n 13) q) p))
  let half (x : Nat) : Nat := oMul 0x3F000000 x
  let twice (x : Nat) : Nat := oMul 0x40000000 x
  let a := if w.n 15 ≤ r.power then clampF (half (w.n 11)) (twice (w.n 11)) (oAdd w.thetaA.toNat (oDiv err (oMul 0x43800000 p))) else w.thetaA.toNat
  let tau := match r.crossed with
    | some m => if w.meas then clampF (half (w.n 14)) (twice (w.n 14)) (oDiv (oAdd (oMul 0x40E00000 w.tau.toNat) m) 0x41000000) else w.tau.toNat
    | none => w.tau.toNat
  let k := (Config.expNeg (BitVec.ofNat 32 (fNat (w.n 18))) (BitVec.ofNat 32 tau)).toNat
  let k1 := oSub 0x3F800000 k
  { tm := tm, thetaA := a, tau := tau,
    therm := oDiv (oSub (oSub (fNat (w.n 19)) (oMul tin k1)) (oMul tm k)) (oAdd (oMul (w.theta a f) k1) (oMul (w.n 13) q)),
    slew := oAdd w.capF.toNat (fNat (w.n 17)) }

/-- The predicted total at point j over a common denominator: numerator and denominator (R567). -/
def Pwr.total (w : Pwr) (power j : Nat) : Int × Nat :=
  let cur := w.opPoint.toNat
  let dyn : Int := (power : Int) - (w.n 16 : Int)
  let den := pointMhz cur * pointMv cur ^ 2
  (dyn * (pointMhz j * pointMv j ^ 2 : Nat) + (w.n 16 * den : Nat), den)

/-- Whether point j fits a limit in FP32 watts. -/
def Pwr.fits (w : Pwr) (power j lim : Nat) : Bool :=
  let t := w.total power j
  (Dy.ofInt t.1).le ((dyIeee lim).mul ⟨false, t.2, 0⟩)

/-- Whether the Q-die with the largest share stays within 430 W at point j (R50). -/
def Pwr.dieFits (w : Pwr) (power q j : Nat) : Bool :=
  let t := w.total power j
  ((dyIeee q).mul (Dy.ofInt t.1)).le ⟨false, 430 * t.2, 0⟩

/-- The constraint that keeps the governor from the point above j, as a `THROTTLE` reason. -/
def Pwr.bind (w : Pwr) (power q : Nat) (x : Plate) (j : Nat) : Nat :=
  if j = 0 then 0
  else if !(w.fits power (j - 1) x.therm) || !(w.fits power (j - 1) x.slew) then 1
  else if !(w.fits power (j - 1) (fNat 2400)) || !(w.dieFits power q (j - 1)) then 4
  else 0

/-- The highest point that fits the cap and every Q-die; 7 where none does. -/
def Pwr.select (w : Pwr) (power q : Nat) (x : Plate) : Nat :=
  ((List.range 8).find? fun j =>
    w.fits power j x.therm && w.fits power j x.slew && w.fits power j (fNat 2400) && w.dieFits power q j).getD 7

/-- A board sensor's missed periods; the third in a row is logged. -/
def State.missed (s : State) (i : Nat) (lost : Bool) : State :=
  let old := nth s.pwr.miss i 0
  let new := if lost then min 3 (old + 1) else 0
  let s := s.modPwr fun w => { w with miss := modNth w.miss i fun _ => new }
  if old < 3 ∧ new = 3 then s.rasError 0xB i 5 0xB 0 0 0 else s

/-- The governor has set the point of a period: forced to 7, kept there by a trip, or selected, rising one code at most. -/
def State.govern (s : State) (forced : Option Nat) (power q : Nat) (x : Plate) : State :=
  let cur := s.pwr.opPoint.toNat
  match forced with
  | some r => s.goPoint 7 r true
  | none =>
    if s.pwr.trip then s
    else
      let sel := s.pwr.select power q x
      let new := if cur ≤ sel then sel else cur - 1
      s.goPoint new (s.pwr.bind power q x new) true

/-- `GOVERNOR_PERIOD` (R565–R569), while core 5 runs. -/
def execGovernorPeriod (r : Sensors) (s : State) : Host.Outcome State Fault Refusal :=
  .next <|
    if s.mgt.applied = false ∨ s.coreUp 5 = false ∨ s.pwr.fallback = true ∨ s.due perGovernor = false then s
    else
      let s := s.align perGovernor 100000
      let s := (s.missed 0 r.tin.isNone).missed 1 r.flow.isNone
      let noIn := nth s.pwr.miss 0 0 == 3
      let noFl := nth s.pwr.miss 1 0 == 3
      let lost := noIn || noFl
      let tin := if lost then 256 * s.pwr.n 22 else r.tin.getD s.pwr.tIn.toNat
      let f := if lost then s.pwr.n 23 else fQ8 (r.flow.getD s.pwr.flow.toNat)
      let q := if lt32 r.share 0x3E800000 then 0x3E800000 else r.share
      let x := s.pwr.plate (fQ8 tin) f q r
      let m := if lt32 x.slew x.therm then x.slew else x.therm
      let cap := if lt32 (fNat 2400) m then fNat 2400 else m
      let capR := s.regOf cap 0
      let flR := capR.2.regOf f 8
      let calm := !s.pwr.warm && decide (r.hot < 256 * (s.pwr.n 20 - 10))
      let jump := decide (500 ≤ r.power - s.pwr.lastP) || decide (500 ≤ s.pwr.lastP - r.power)
      let s := flR.2.modPwr fun w =>
        { w with
          tIn := BitVec.ofNat 16 (min 65535 tin), tHot := BitVec.ofNat 16 (min 65535 r.hot), flow := BitVec.ofNat 16 flR.1
          pEst := BitVec.ofNat 16 (min 65535 r.power), pCap := BitVec.ofNat 16 capR.1, capF := BitVec.ofNat 32 cap
          thetaA := BitVec.ofNat 32 x.thetaA, tau := BitVec.ofNat 32 x.tau, tm := BitVec.ofNat 32 x.tm
          lastP := r.power, meas := jump || (w.meas && r.crossed.isNone)
          trip := w.trip && !calm, warm := false }
      let s := { s with hbmStk := s.hbmStk.mapIdx fun k (h : Hbm) => { h with temp := BitVec.ofNat 16 (min 65535 (nth r.stk k h.temp.toNat)) } }
      let forced : Option Nat :=
        if noFl || lt32 f (s.pwr.n 23) then some 3 else if 256 * s.pwr.n 22 ≤ tin then some 2 else none
      s.govern forced r.power q x

/-! ### Sensors (R569) -/

/-- Sensor n reads `temp`. At `T_SHUT` the thermal-trip output is asserted and the device resets; at `T_TRIP` point 7 is forced. A
threshold that reads zero has not been loaded. -/
def State.sampled (s : State) (temp n : Nat) : State :=
  let at_ (k : Nat) : Bool := s.pwr.n k != 0 && decide (256 * s.pwr.n k ≤ temp)
  if at_ 21 then
    ((s.modPwr fun w => { w with thermtrip := true }).deviceReset.startBoot).modSide fun d => { d with ibi := d.ibi ++ [2] }
  else if at_ 20 then
    if s.pwr.trip then s.modPwr fun w => { w with warm := true }
    else
      let s := s.modPwr fun w => { w with trip := true, warm := true, tripCnt := satAdd w.tripCnt 1 }
      (s.rasError 0xA n 5 8 0 0 0).goPoint 7 1 (s.coreUp 5)
  else if s.pwr.n 20 ≠ 0 ∧ 256 * (s.pwr.n 20 - 10) ≤ temp then s.modPwr fun w => { w with warm := true }
  else s

/-- `SENSOR_SAMPLE`: one sensor's sample, 1 µs after its last one at the earliest. -/
def execSensorSample (temp n : Nat) (s : State) : Host.Outcome State Fault Refusal :=
  .next (if s.side.rstN = false ∨ s.due (perSensor n) = false then s else (s.align (perSensor n) 100).sampled temp n)

/-! ### Management cores (R42, R555, R570) -/

/-- `MANAGEMENT_CORE_FAULT`: the core's services stop, its latches break (R409); after core 5 the always-on domain holds `FB_POINT`. -/
def execManagementCoreFault (c : Nat) (s : State) : Host.Outcome State Fault Refusal :=
  .next <|
    if 6 ≤ c ∨ c = 4 ∨ s.coreUp c = false then s
    else
      let s := ((s.modMgt fun m => { m with coreLive := m.coreLive &&& ~~~(BitVec.ofNat 6 (2 ^ c)) }).breakCore c).rasError 7 c 3 9 0 0 0
      if c ≠ 5 then s
      else
        let s := s.modPwr fun w => { w with fallback := true }
        if s.mgt.applied = false ∨ s.pwr.trip = true then s else s.goPoint (s.pwr.n 24 % 8) 1 (s.coreUp 0)

/-- `HEARTBEAT` (R476): a period of 1 ms ends; without VC0 credit its heartbeat is skipped. -/
def execHeartbeat (s : State) : Host.Outcome State Fault Refusal :=
  .next <|
    if s.lnk.hbOn = false ∨ s.coreUp 5 = false ∨ s.due perHeartbeat = false then s
    else
      let s := (s.spend perHeartbeat 100000).modLnk fun l => { l with hbPeriod := l.hbPeriod + 1 }
      if s.lnk.canSend 0 = false then s.modLnk fun l => { l with hbSkip := l.hbSkip + 1 }
      else
        (s.notice 0x66 (leBytes 8 s.lnk.hbPeriod.toNat ++ leBytes 8 s.now
          ++ bytes4 [s.lnk.qUsed.toNat, s.pwr.cclkMhz.toNat, s.mgt.coreLive.toNat, s.lnk.hbSkip.toNat])).modLnk fun l => { l with hbSkip := 0 }

/-! ### Token buckets (R389) -/

/-- A level grows by its rate in bytes per µs, up to its depth in MiB. -/
def refillLvl (lvl : Int) (rate depth : Nat) : Int := min (lvl + (1000 * rate : Nat)) (2 ^ 20 * depth : Nat)

def Prt.refilled (q : Prt) : Prt :=
  { q with
    tbHbmLvl := refillLvl q.tbHbmLvl q.tbHbmRate.toNat q.tbHbmDepth.toNat
    tbHngLvl := refillLvl q.tbHngLvl q.tbHngRate.toNat q.tbHngDepth.toNat
    tbFabLvl := refillLvl q.tbFabLvl q.tbFabRate.toNat q.tbFabDepth.toNat
    effTb := q.rates }

/-- `REGULATOR_REFILL`: one µs of partition p's buckets, at the rates and depths that are configured by now (R376). -/
def execRegulatorRefill (p : Nat) (s : State) : Host.Outcome State Fault Refusal :=
  .next (if s.due (perRefill p) then (s.spend (perRefill p) 100).modP p Prt.refilled else s)

/-! ### Domains (R562–R564) -/

/-- The rail of a domain: VQ0–VQ3 as 0–3, VHBM 4, VIO 5. -/
def domRail (d : Nat) : Nat :=
  if d < 64 then d / 16 else if d < 72 then (d - 64) / 2 else if d < 76 then d - 72 else if d < 84 then 4 else 5

/-- Load step in A. -/
def domLoad (d : Nat) : Nat := if d < 64 then 30 else if d < 72 then 33 else if d < 76 then 37 else if d < 84 then 12 else 8

/-- Wake time in ACLK edges. -/
def domTime (d : Nat) : Nat := if d < 64 then 400 else if d < 72 then 100 else if d < 76 then 300 else if d < 84 then 500 else 300

/-- Whether a step, a link or the Cabinet uses a domain now (R562, R563). -/
def State.domUsed (s : State) (d : Nat) : Bool :=
  (parts.any fun p => (s.ctxOf p).any fun c =>
      (c.phase == .wake || c.phase == .run || c.phase == .saving || c.phase == .restore) && (s.stepDoms p c).contains d)
    || (if d < 64 then [2 * d, 2 * d + 1].any fun t => (s.tumOf t).st != .idle && (s.tumOf t).st != .off
        else if d < 72 then false
        else if d < 76 then !(s.getHng (d - 72)).held.isEmpty || !(s.getHng (d - 72)).egress.isEmpty
        else if d < 84 then
          (s.writes.any fun w => w.space == 0) || s.cab.engine.isSome || decide (s.mgt.bootStage.toNat < 7)
            || (s.lnk.longs.any fun x => match x.kind with | .upload .. => true | _ => false)
        else (s.fab.xfers.any fun x => s.subPort x.addr == some (d - 84)) || !s.pol.reqs.isEmpty)

/-- A domain enters its idle state. -/
def State.domIdle (s : State) (d : Nat) : State :=
  let s := s.setAwake d false
  if d < 64 then [2 * d, 2 * d + 1].foldl (fun (s : State) t => s.modTum t fun x => { x with st := .off }) s
  else if d < 72 then s
  else if d < 76 then s.modHng (d - 72) fun h => if h.lstate = 2 then { h with lstate := 3, deltaValid := false } else h
  else if d < 84 then s.modStk (d - 76) fun h => if h.st = 2 then { h with st := 3 } else h
  else s.modPort (d - 84) fun x => if x.lstate = 2 then { x with lstate := 3 } else x

/-- The switched domains that are in use at an edge are noted, so that the time a domain has gone unused is known (R563). -/
def State.markUse (s : State) : State :=
  s.modPwr fun w =>
    { w with lastUse := ((List.range 92).filter fun d => s.awake d && s.domUsed d).foldl (fun m d => SMap.set 0 m d s.now) w.lastUse }

/-- `IDLE_HOLD` (R563): a domain that nothing uses, and whose wake nobody requests, goes idle. -/
def execIdleHold (d : Nat) (s : State) : Host.Outcome State Fault Refusal :=
  .next <|
    if 92 ≤ d ∨ s.awake d = false ∨ s.domUsed d = true ∨ s.pwr.wakes.any (fun w => w.dom == d) = true
        ∨ s.now < SMap.get 0 s.pwr.lastUse d + usTicks (s.pwr.n 1) then s
    else s.domIdle d

/-- The admissions within (t − `RAMP_WIN`, t]; a domain that is fenced since then has left its rail (R575). -/
def State.inRamp (s : State) : List (Nat × Nat) :=
  s.pwr.ramp.filter fun x => decide (s.now < x.2 + 100 * s.pwr.n 2) && !s.fencedDom x.1

/-- The first waiting wake that may be admitted: the oldest of its rail, its common awake, its load within the ramp (R564). -/
def State.admissible (s : State) : Option WakeReq :=
  let wait := s.pwr.wakes.filter fun w => w.admitted.isNone
  let first (w : WakeReq) : Bool := (wait.find? fun x => domRail x.dom == domRail w.dom).any fun x => x.dom == w.dom
  wait.find? fun w =>
    let r := domRail w.dom
    let sum := ((s.inRamp.filter fun x => domRail x.1 == r).map fun x => domLoad x.1).sum
    first w && (match domDie w.dom with | some q => s.awake (domCommon q) | none => true)
      && decide (sum + domLoad w.dom ≤ s.pwr.n (3 + r))

/-- `WAKE_ADMIT` (R564). -/
def execWakeAdmit (s : State) : Host.Outcome State Fault Refusal :=
  .next <|
    match s.admissible with
    | none => s
    | some w =>
      s.modPwr fun x =>
        { x with
          wakes := updFirst x.wakes (fun y => y.dom == w.dom) fun y => { y with admitted := some s.now }
          ramp := s.inRamp ++ [(w.dom, s.now)] }

/-- Rows of a tumbler pair that wait for a repair are repaired at its wake from OFF (R583). -/
def State.repairPair (s : State) (i : Nat) : State :=
  (s.ras.repair.filter fun e => e.1.kind == 2 && e.1.n == i && !e.2).foldl (fun (s : State) e =>
    match s.ras.repairRow e.1 with
    | some r => { s with ras := r }
    | none => s.exhausted e.1 6 []) s

/-- A domain is awake. -/
def State.domWake (s : State) (d : Nat) : State :=
  let s := s.setAwake d true
  if d < 64 then ([2 * d, 2 * d + 1].foldl (fun (s : State) t => s.modTum t fun x => if x.st = .off then { x with st := .idle } else x) s).repairPair d
  else if d < 72 then s
  else if d < 76 then
    (s.getHng (d - 72)).turns.foldl (fun (s : State) p => s.releaseHeld p) (s.modHng (d - 72) fun h => if h.lstate = 3 then { h with lstate := 2 } else h)
  else if d < 84 then
    -- loads of steps that waited for their memory go on (R52)
    parts.foldl (fun (s : State) p => if (s.ctxOf p).any (fun c => [Phase.load, .table, .check].contains c.phase) then s.resumeIssue p else s)
      (s.modStk (d - 76) fun h => if h.st = 3 then { h with st := 2 } else h)
  else (s.modPort (d - 84) fun x => if x.lstate = 3 then { x with lstate := 2 } else x).fabGo.heldGo

/-- `WAKE_COMPLETE` (R564): the wake time has elapsed since admission. -/
def execWakeComplete (d : Nat) (s : State) : Host.Outcome State Fault Refusal :=
  .next <|
    match s.pwr.wakes.find? fun w => w.dom == d with
    | some w =>
      match w.admitted with
      | some t =>
        if s.now < t + domTime d then s else (s.modPwr fun x => { x with wakes := x.wakes.filter fun y => y.dom != d }).domWake d
      | none => s
    | none => s

/-! ### Orderly power-down (R572–R574, R274) -/

/-- A stage begins. -/
def State.pdBegin (s : State) (n : Nat) : State := s.modPwr fun w => 
  { w with
    pdStage := BitVec.ofNat 3 n
    pdDue := s.now + (if n = 3 then 100000000 * w.n 25 else if n = 4 then msTicks s.pol.lease.toNat else 0) }

def State.pdList (s : State) (p : Nat) (r : ListRec) : State := s.modPwr fun w => { w with pdLists := w.pdLists ++ [(p, r)] }

/-- Stage 1 begins for a partition: a step that has not issued gets a final report with cause KILLED, a saved one is torn down. -/
def State.pdStop (s : State) (p : Nat) : State :=
  let s := if (s.getP p).ctx.any (fun c => !c.phase.issued) then s.unissue p else s
  let s := if (s.getP p).svCtx.isSome then s.tearSaved p 5 else s
  s.modP p fun q =>
    { q with
      finals := q.finals ++ q.jobs.flatMap fun j => j.queue.map fun x =>
        { freshCtx j.num (if j.learner then .learner else .generator) x .ending with torn := true, cause := 5, resume := .load }
      jobs := q.jobs.map fun j => { j with queue := [] } }

/-- Stage 2 begins: the filled gradient drawers of each partition are shipped in a final step with its next sequence number. -/
def State.pdShip (s : State) : State :=
  parts.foldl (fun (s : State) p =>
    let gs := (s.shipList p none).filter (·.filled)
    if gs.isEmpty then s
    else
      let n := (s.getP p).sseqNext.toNat
      (s.modP p fun q => { q with sseqNext := q.sseqNext + 1 }).shipAll p n 0 gs fun s r => s.pdList p r) s

/-- The final ship step of a partition as a context for its report: no program and no job. -/
def State.pdCtx (s : State) (p : Nat) : Ctx :=
  let l := (s.pwr.pdLists.filter fun e => e.1 == p).map (·.2)
  let n := if l.any (fun r => r.kind == 3) then (s.getP p).sseqNext.toNat - 1 else 0
  { freshCtx 0 .learner { sseq := n, progH := 0, rptH := 0, ofsH := 0, htag := 0 } .ending with lists := l }

/-- Stage 2 ends: drawers that were not shipped are listed as discarded, each ship step's `STEP_DONE` is sent. -/
def State.pdShipped (s : State) : State :=
  let bad := s.pwr.pdLists.filter fun e => e.2.kind == 3 && e.2.status != .ok
  let s := bad.foldl (fun (s : State) e => s.pdList e.1 { e.2 with kind := 4 }) s
  parts.foldl (fun (s : State) p =>
    if s.pwr.pdLists.any (fun e => e.1 == p && e.2.kind == 3) then s.notice 0x60 ((s.pdCtx p).header p true false) else s) s

/-- Stage 3 begins: with a target each HELD range starts to move to it. -/
def State.pdMove (s : State) : State :=
  let t := s.pwr.pdTarget.toNat
  if s.pwr.pdTgtEn then
    (s.ownRanges.foldl (fun (s : State) k => if s.canMove k t then s.moveStart k t s.pwr.pdPart.toNat none false else s) s).movesGo
  else s

/-- A record of something discarded; its status, which spec/ does not state, is free. -/
def State.pdDiscard (s : State) (p aid epoch : Nat) : State := let st := s.abortStatus; st.2.pdList p (listRec aid st.1 4 epoch)

/-- Gradient drawers are discarded and listed (R586). -/
def State.pdGrads (s : State) : State :=
  (parts.flatMap fun p => s.shipList p none).foldl (fun (s : State) g => (s.pdDiscard g.part g.aid g.base).dropGrad g.part g.aid g.base) s

/-- Stage 3 ends: master areas, contribution slots and open rounds of the ranges that stay are discarded and listed (R573). -/
def State.pdMasters (s : State) : State :=
  (s.cab.dir.filter fun e => e.owned && (e.master.isSome || !e.contribs.isEmpty)).foldl (fun (s : State) e =>
    let all := e.contribs ++ ((e.round.map (·.contribs)).getD [])
    let s := all.foldl (fun (s : State) c => (s.pdDiscard e.home e.aid c.base).modCab fun b => b.release (.contrib e.aid c.slot)) s
    let s := if e.master.isSome then s.pdDiscard e.home e.aid ((e.round.map (·.target)).getD e.curEpoch) else s
    (s.modCab fun b => b.release (.master e.aid)).modEntry e.aid fun x => { x with master := none, contribs := [], round := none, dirty := false }) s

/-- The power-down reports one after another, each at a multiple of 64 bytes; from the first section that does not fit on nothing
more is written, and its header has `TRUNC` (R574). -/
def State.pdArea (s : State) (cap : Nat) : Nat → List Nat → List Byte
  | _, [] => []
  | at0, p :: ps =>
    let c := s.pdCtx p
    let l := c.lists.flatMap ListRec.bytes
    if cap < at0 + 64 then []
    else if cap < at0 + 64 + l.length then c.header p true true
    else c.header p true false ++ pad64b l ++ s.pdArea cap (at0 + 64 + roundUp l.length 64) ps

/-- The reports are written through `PD_RPT_H`, if it names a report descriptor. -/
def State.pdReport (s : State) : State :=
  match s.handle s.pwr.pdRptH with
  | .live _ d =>
    if rptForm d then
      let ps := parts.filter fun p => s.pwr.pdLists.any fun e => e.1 == p
      s.stepWrite d.space d.base ((s.pdArea (4 * d.size 0) 0 ps).take (4 * d.size 0)) .other 0xFFFF
    else s
  | _ => s

/-- Stage 5: domains go off in order, links go down, the command is answered (R572, R619). -/
def State.pdOff (s : State) : State :=
  let s := (List.range 128).foldl (fun (s : State) t => s.modTum t fun x => if x.st = .fenced then x else { x with st := .off }) s
  let s := s.modPwr fun w => { w with domAwake := w.domAwake &&& 0xF00000000000000000000000, wakes := [], ramp := [] }
  let s := (List.range 4).foldl (fun (s : State) q => if (s.getHng q).lstate = 4 then s else s.hingeDown q 0) s
  let s := (s.modFab fun b => { b with live := 0, ports := b.ports.map fun x => if x.lstate = 4 then x else { x with lstate := 0 } }).modMgt
    fun m => { m with xspiOwn := false }
  let s := { s with hbmStk := s.hbmStk.map fun (h : Hbm) => if h.st = 4 then h else { h with st := 3 } }
  s.endLong (s.pwr.pdLong.getD 0) .ok []

/-- `POWER_DOWN` (R572, R586). -/
def execPowerDown (f : RclFrame) (s : State) : Host.Outcome State Fault Refusal :=
  .next <| s.serve 0x33 none none f fun cl s =>
    if f.data.length ≠ 0 ∨ s.pwr.powering = true then (.now .descInvalid [], s)
    else
      let id := s.lnk.nextLong
      let s := (s.putLong f cl .powerDown).modPwr fun w => { w with powering := true, pdLong := some id, pdLists := [] }
      if s.ras.unserviceable then (.later, ((s.pdGrads).pdBegin 3).pdMove)
      else (.later, (parts.foldl (fun (s : State) p => s.pdStop p) s).pdBegin 1)

/-- `POWER_DOWN_STAGE_END` (R572): the stage in progress ends when its condition holds, and the next one begins. -/
def execPowerDownStageEnd (s : State) : Host.Outcome State Fault Refusal :=
  .next <|
    match s.pwr.pdStage.toNat with
    | 1 => if s.prt.any (fun q => q.ctx.isSome || q.svCtx.isSome) then s else (s.pdBegin 2).pdShip
    | 2 => if s.pwr.pdLists.any (fun e => e.2.kind == 3 && e.2.status == .deferred) then s else (s.pdShipped.pdBegin 3).pdMove
    | 3 =>
      let busy := s.cab.engine.isSome || !s.cab.cands.isEmpty || s.pol.moves.any (·.source)
      if busy = true ∧ s.pwr.pdWaited = false then s else (s.pdMasters.pdReport.pdBegin 4).leavePool
    | 4 =>
      let open_ := s.pol.reqs.any fun r => r.kind == .leave
      if open_ = true ∧ s.now < s.pwr.pdDue then s
      else ((s.modPol fun q => { q with sess := [], reqs := [] }).pdBegin 5).pdOff
    | 5 =>
      if (nth s.lnk.out 0 []).any (fun fr => fr.opc == 0x40) then s
      else ((s.modPwr fun w => { w with pdStage := 6 }).rclDown 0).modSide fun d => { d with ibi := d.ibi ++ [3] }
    | _ => s

/-- `PD_WAIT` (R572, R573): unfinished moves are aborted. -/
def execPdWait (s : State) : Host.Outcome State Fault Refusal :=
  .next <|
    if s.pwr.pdStage ≠ 3 ∨ s.now < s.pwr.pdDue then s
    else
      ((s.pol.moves.filter (·.source)).foldl (fun (s : State) m => let st := s.abortStatus; st.2.abortMove m.range st.1) s).modPwr
        fun w => { w with pdWaited := true }

end Sys2Proof.Machine
end

