-- ==== Sys2Proof/Machine/Conf.lean ====
section
/-! DEFINITION. Partition configuration (R373–R376, R469, R625–R628, R636–R638, R646): the P words of a partition page and of
the CAB block, the checks of a configuration, host areas, and `PART_SET`. -/

namespace Sys2Proof.Machine

open Sys2Proof

/-! ### P words (R636, R638) -/

/-- Byte offsets of the P words of a partition page. -/
def prtPWords : List Nat :=
  (List.range 17).map (4 * ·) ++ (List.range 12).map (fun i => 0x48 + 4 * i) ++ [0x78, 0x80, 0x84, 0x88, 0x8C]

/-- Byte offsets of the P words of the CAB block. -/
def cabPWords : List Nat := [0x0C, 0x10, 0x14, 0x18]

/-- Words that hold an HWCLR field: `TUM_OWN`, `VISIT_CAP` and `SHF`q (R628). -/
def hwclrWord (off : Nat) : Bool := off < 0x20 || off == 0x30 || (0x68 ≤ off && off < 0x78)

/-- The bits of a P word that its fields cover, and the limits of its fields (R627). -/
def prtLimit (off v : Nat) : Bool :=
  if off < 0x20 then decide (v < 65536)
  else if off = 0x24 ∨ off = 0x2C then decide (v ≤ 262144)
  else if off = 0x28 then decide (v ≤ 16384)
  else if off = 0x30 ∨ off = 0x60 then decide (v < 2 ^ 24)
  else if off = 0x3C then decide (1 ≤ v ∧ v < 65536)
  else if off = 0x64 then decide (v < 2 ^ 19)
  else if 0x68 ≤ off ∧ off < 0x78 then decide (v % 65536 ≤ 512 ∧ v / 65536 < 1024)
  else if off = 0x78 then decide (v = 2 ∨ v = 3)
  else if off = 0x84 then decide (v < 2 ^ 24)
  else if off = 0x34 ∨ off = 0x80 ∨ off = 0x88 ∨ off = 0x8C then true
  else decide (v < 65536)

/-- The tumbler mask that a partition is configured with: owned, or assigned and waiting (R41). -/
def Prt.tumConf (q : Prt) : BitVec 128 := q.tumNext.getD q.tumOwn

/-- Write a `TUM_OWN` word: the new mask waits for R41. -/
def Prt.setTum (q : Prt) (k v : Nat) : Prt :=
  { q with tumNext := some (BitVec.ofNat 128 (setBits q.tumConf.toNat v (16 * k) 16)) }

/-- A write of 1 to `WRITE_LOST` clears it (R425). -/
def Prt.clearLost (q : Prt) (off v : Nat) : Prt :=
  if bitN v 31 = false then q
  else if off < 0x20 then { q with lostTum := q.lostTum &&& ~~~(BitVec.ofNat 8 (2 ^ (off / 4))) }
  else if off = 0x30 then { q with lostVisit := false }
  else if 0x68 ≤ off ∧ off < 0x78 then { q with lostShf := q.lostShf &&& ~~~(BitVec.ofNat 4 (2 ^ ((off - 0x68) / 4))) }
  else q

/-- Hardware sets `WRITE_LOST` of a word (R628). -/
def Prt.setLost (q : Prt) (off : Nat) : Prt :=
  if off < 0x20 then { q with lostTum := q.lostTum ||| BitVec.ofNat 8 (2 ^ (off / 4)) }
  else if off = 0x30 then { q with lostVisit := true }
  else if 0x68 ≤ off ∧ off < 0x78 then { q with lostShf := q.lostShf ||| BitVec.ofNat 4 (2 ^ ((off - 0x68) / 4)) }
  else q

/-- The quota, limit and wait fields of a page. -/
def Prt.setPlain (q : Prt) (off v : Nat) : Prt :=
  if off = 0x20 then { q with shares := BitVec.ofNat 16 v }
  else if off = 0x24 then (if bitsN v 18 0 ≤ 262144 then { q with rowQuota := BitVec.ofNat 19 v } else q)
  else if off = 0x28 then (if bitsN v 14 0 ≤ 16384 then { q with drwQuota := BitVec.ofNat 15 v } else q)
  else if off = 0x2C then (if bitsN v 18 0 ≤ 262144 then { q with dscQuota := BitVec.ofNat 19 v } else q)
  else if off = 0x30 then { q with visitCap := BitVec.ofNat 24 v }
  else if off = 0x34 then { q with vecWait := BitVec.ofNat 32 v }
  else if off = 0x38 then { q with gwMax := BitVec.ofNat 16 v }
  else if off = 0x3C then (if 1 ≤ bitsN v 15 0 then { q with jobSlice := BitVec.ofNat 16 v } else q)
  else if off = 0x40 then { q with latWait := BitVec.ofNat 16 v }
  else q

/-- The regulator fields of a page. -/
def Prt.setReg (q : Prt) (off v : Nat) : Prt :=
  if off = 0x48 then { q with tbHbmRate := BitVec.ofNat 16 v }
  else if off = 0x4C then { q with tbHbmDepth := BitVec.ofNat 16 v }
  else if off = 0x50 then { q with tbHngRate := BitVec.ofNat 16 v }
  else if off = 0x54 then { q with tbHngDepth := BitVec.ofNat 16 v }
  else if off = 0x58 then { q with tbFabRate := BitVec.ofNat 16 v }
  else if off = 0x5C then { q with tbFabDepth := BitVec.ofNat 16 v }
  else q

/-- The tier fields of a page (R277). -/
def Prt.setTier (q : Prt) (off v : Nat) : Prt :=
  if off = 0x60 then { q with cabQuota := BitVec.ofNat 24 v }
  else if off = 0x64 then { q with dirQuota := BitVec.ofNat 19 v }
  else if 0x68 ≤ off ∧ off < 0x78 then
    let k := (off - 0x68) / 4
    { q with
      shfShare := if bitsN v 9 0 ≤ 512 then modNth q.shfShare k fun _ => BitVec.ofNat 10 v else q.shfShare
      shfHost := modNth q.shfHost k fun _ => BitVec.ofNat 10 (bitsN v 25 16) }
  else if off = 0x78 then (if bitsN v 2 0 = 2 ∨ bitsN v 2 0 = 3 then { q with slowSpace := BitVec.ofNat 3 v } else q)
  else if off = 0x80 then { q with slowBase := BitVec.ofNat 56 (setBits q.slowBase.toNat v 0 32) }
  else if off = 0x84 then { q with slowBase := BitVec.ofNat 56 (setBits q.slowBase.toNat v 32 24) }
  else if off = 0x88 then { q with slowSize := BitVec.ofNat 64 (setBits q.slowSize.toNat v 0 32) }
  else if off = 0x8C then { q with slowSize := BitVec.ofNat 64 (setBits q.slowSize.toNat v 32 32) }
  else q

/-- Write a P word of a partition page: each field that takes the value, out-of-range fields unchanged (R627). -/
def Prt.setWord (q : Prt) (off v : Nat) : Prt :=
  let q := q.clearLost off v
  if off < 0x20 then q.setTum (off / 4) v
  else if off < 0x48 then q.setPlain off v
  else if off < 0x60 then q.setReg off v
  else q.setTier off v

/-- Write pairs; a slower-tier base or size that is no multiple of 64 KiB leaves its field unchanged (R299, R627), and a mask that
is owned already waits for nothing. -/
def Prt.setWords (q : Prt) (pairs : List (Nat × Nat)) : Prt :=
  let n := pairs.foldl (fun (q : Prt) x => q.setWord x.1 x.2) q
  { n with
    slowBase := if n.slowBase.toNat % granule = 0 then n.slowBase else q.slowBase
    slowSize := if n.slowSize.toNat % granule = 0 then n.slowSize else q.slowSize
    tumNext := if n.tumNext = some n.tumOwn then none else n.tumNext }

/-- Write a P word of the CAB block (R289, R300, R354, R627). -/
def Cab.setWord (c : Cab) (off v : Nat) : Cab :=
  if off = 0x0C then { c with pinLimit := BitVec.ofNat 24 v }
  else if off = 0x10 then (if 1 ≤ v % 2 ^ 32 ∧ v % 2 ^ 32 ≤ 3600000 then { c with pinPeriod := BitVec.ofNat 32 v } else c)
  else if off = 0x14 then (if 1 ≤ bitsN v 6 0 ∧ bitsN v 6 0 ≤ 100 then { c with demoteMark := BitVec.ofNat 7 v } else c)
  else if off = 0x18 then (if 1 ≤ bitsN v 4 0 ∧ bitsN v 4 0 ≤ 16 then { c with retain := BitVec.ofNat 5 v } else c)
  else c

/-! ### The checks of a configuration (R374) -/

/-- A sum over pages. -/
def sumPrt (l : List Prt) (f : Prt → Nat) : Nat := l.foldl (fun n q => n + f q) 0

/-- No tumbler is in two masks. -/
def disjointMasks (l : List Prt) : Bool :=
  (l.foldl (fun (a : Bool × BitVec 128) q => (a.1 && (a.2 &&& q.tumConf) == 0, a.2 ||| q.tumConf)) (true, 0)).1

/-- The staging area of a page on die q is not below zero, nor is the host area larger than the share (R292). -/
def State.stagingOk (s : State) (g : Prt) (q : Nat) : Bool :=
  let ret := if (diesOf g.tumConf).head? = some q then s.returnArea g.visitCap.toNat else 0
  decide ((nth g.shfHost q 0).toNat ≤ (nth g.shfShare q 0).toNat)
    && decide (ret ≤ 2 ^ 20 * ((nth g.shfShare q 0).toNat - (nth g.shfHost q 0).toNat))

/-- The conditions of R374, R175, R279, R283 and R292 on pages and a CAB block, with the usable MiB of each Shelf die. -/
def State.configOk (s : State) (l : List Prt) (c : Cab) (caps : List Nat) : Bool :=
  disjointMasks l
    && decide (sumPrt l (fun q => q.rowQuota.toNat) ≤ 262144) && decide (sumPrt l (fun q => q.drwQuota.toNat) ≤ 16384)
    && decide (sumPrt l (fun q => q.dscQuota.toNat) ≤ 262144)
    && decide (sumPrt l (fun q => q.cabQuota.toNat) + c.cacheSize.toNat + c.exportSize.toNat ≤ grantable)
    && decide (sumPrt l (fun q => q.dirQuota.toNat) + c.cacheDir.toNat ≤ 262144)
    && decide (sumPrt l (fun q => s.returnArea q.visitCap.toNat + 2 ^ 20 * q.gwMax.toNat) ≤ 176 * 2 ^ 20)
    && (l.all fun q => decide (s.saveChargeOf q.visitCap.toNat q.gwMax.toNat ≤ q.cabQuota.toNat))
    && (List.range 4).all fun d =>
      decide (sumPrt l (fun q => (nth q.shfShare d 0).toNat) ≤ nth caps d 0) && l.all fun q => s.stagingOk q d

/-! ### Host areas (R646) -/

/-- The ranges of die q in MiB that host areas and freed host areas hold, ascending, partition p's own left out. -/
def State.hostRanges (s : State) (p q : Nat) : List Extent :=
  let hosts := ((parts.filter fun i => i != p).map fun i => s.hostArea i q).filter fun a => a.2 != 0
  let freed := (s.allocs.filter fun e => e.2.space == 1 && e.2.freed && e.2.base / 2 ^ 29 == q).map fun e =>
    (e.2.base % 2 ^ 29 / 2 ^ 20, e.2.size / 2 ^ 20)
  (hosts ++ freed).foldl (fun l a => addExtent ⟨a.1, a.2, 0, .resv 0⟩ l) []

/-- Whether a range of die q meets no other host area and lies below the die's capacity. -/
def State.hostFree (s : State) (p q base len : Nat) : Bool :=
  decide (base + len ≤ (nth s.shf q Shf.reset).cap.toNat)
    && (s.hostRanges p q).all fun e => decide (base + len ≤ e.base) || decide (e.base + e.len ≤ base)

/-- Partition p's host area on die q takes a new size (R646 items 2 and 3); `none` where no range holds it. -/
def State.resizeHost (s : State) (p q n : Nat) : Option State :=
  let a := s.hostArea p q
  let put (s : State) (base : Nat) : State :=
    s.modP p fun g =>
      { g with
        shfHost := modNth g.shfHost q fun _ => BitVec.ofNat 10 n
        shfHbase := modNth g.shfHbase q fun _ => if n = 0 then 0 else BitVec.ofNat 10 base }
  if n = a.2 then some s
  else if n < a.2 then some ((put s a.1).releaseShelf p (shelfAt q (a.1 + n)) (2 ^ 20 * (a.2 - n)))
  else if a.2 ≠ 0 ∧ s.hostFree p q a.1 n = true then
    some ((put s a.1).clearShelf (shelfAt q (a.1 + a.2)) (2 ^ 20 * (n - a.2)))
  else
    let s := s.releaseShelf p (shelfAt q a.1) (2 ^ 20 * a.2)
    (lowestFree n (nth s.shf q Shf.reset).cap.toNat 0 (s.hostRanges p q)).map fun b => (put s b).clearShelf (shelfAt q b) (2 ^ 20 * n)

/-! ### `PART_SET` (R469, R628, R637) -/

/-- A pair: word offset in bytes, whether it names the CAB block, value. -/
structure ConfPair where
  off : Nat
  cab : Bool
  v : Nat
  deriving DecidableEq, Repr

/-- Apply pairs to partition p and the CAB block as one whole. `fenced` are the words of the page that take a fence update in the
same CCLK (R628). -/
def State.partSet (s : State) (p : Nat) (pairs : List ConfPair) (fenced : List Nat) : Status × State :=
  if pairs.any (fun x => !(if x.cab then cabPWords else prtPWords).contains x.off) then (.descInvalid, s)
  else
    let mine := pairs.filter fun x => !x.cab
    if mine.any (fun x => fenced.contains x.off && hwclrWord x.off) then
      (.noCapacity, s.modP p fun q => mine.foldl (fun (q : Prt) x => q.setLost x.off) q)
    else
      let g := s.getP p
      let n := g.setWords (mine.map fun x => (x.off, x.v))
      let cab := (pairs.filter (·.cab)).foldl (fun (c : Cab) x => c.setWord x.off x.v) s.cab
      let slow := decide (n.slowSpace ≠ g.slowSpace ∨ n.slowBase ≠ g.slowBase ∨ n.slowSize ≠ g.slowSize)
      let dead := (tumsOf n.tumConf).any fun t => s.ras.fencePair.getLsbD (t / 2)
      if dead || !s.configOk (modNth s.prt p fun _ => n) cab (s.shf.map fun x => x.cap.toNat) || (slow && !(s.slowUse p).isEmpty) then
        (.noCapacity, s)
      else
        let hosts := n.shfHost.map (·.toNat)
        let s' := s.modP p fun _ => { n with shfHost := g.shfHost, slowAt := if slow then 0 else n.slowAt }
        let s' : State := { s' with cab := cab }
        match (List.range 4).foldl (fun (o : Option State) q => o.bind fun s => s.resizeHost p q (nth hosts q 0)) (some s') with
        | some s' =>
          -- a POOL window that changes is released as an allocation (R108, R299)
          let s' := if slow && g.slowSpace == 3 then s'.destroyIn p 3 g.slowBase.toNat g.slowSize.toNat else s'
          (.ok, s'.takeTum p)
        | none => (.noCapacity, s)

/-- `PART_SET` (R465, R469). `fenced` as the words of the page, byte offsets. -/
def execPartSet (f : RclFrame) (fenced : List Nat) (s : State) : Host.Outcome State Fault Refusal :=
  .next <| s.serve 0x25 none none f fun _ s =>
    let n := fld (f.word 4) 7 0
    if f.data.length ≠ 8 + 8 * n ∨ n = 0 ∨ fld (f.word 0) 31 5 ≠ 0 ∨ fld (f.word 4) 31 8 ≠ 0
        ∨ (List.range n).any (fun i => fld (f.word (8 + 8 * i)) 31 17 != 0) = true then (.now .descInvalid [], s)
    else
      let pairs := (List.range n).map fun i =>
        let w := f.word (8 + 8 * i)
        ({ off := 4 * fld w 15 0, cab := bit w 16, v := f.pl (12 + 8 * i) 4 } : ConfPair)
      let r := s.partSet (fld (f.word 0) 4 0) pairs fenced
      (.now r.1 [], r.2)

end Sys2Proof.Machine
end

