-- ==== Sys2Proof/Machine/Image.lean ====
section
/-! DEFINITION. The image headers and the configuration component (R539–R544, R547, R571): reading them from the boot memory, their
limits, and what they load into the registers. -/

namespace Sys2Proof.Machine

open Sys2Proof

/-! ### Headers (R540, R541) -/

/-- Fields of a slot header. -/
def State.slotMagic (s : State) (sl : Bool) : Nat := s.flashNum (slotBase sl) 4
def State.slotSeq (s : State) (sl : Bool) : Nat := s.flashNum (slotBase sl + 8) 4
def State.slotCount (s : State) (sl : Bool) : Nat := s.flashNum (slotBase sl + 0xC) 4
def State.slotBind (s : State) (sl : Bool) : Nat := s.flashNum (slotBase sl + 0x10) 8

/-- Whether a range of the boot memory is zero. -/
def State.flashZero (s : State) (a n : Nat) : Bool := (List.range n).all fun i => Memory.read s.flash (a + i) == 0

/-- A well-formed slot header (R548). -/
def State.slotOk (s : State) (sl : Bool) : Bool :=
  let b := slotBase sl
  let n := s.slotCount sl
  s.slotMagic sl == 0x4F4B4E50 && s.flashNum (b + 4) 1 == 1 && s.flashNum (b + 6) 2 == 0
    && decide (3 ≤ n ∧ n ≤ 64) && (s.slotBind sl == 0 || s.slotBind sl == s.mgt.devId.toNat) && s.flashNum (b + 0x18) 8 == 0
    && (List.range n).all (fun i => (s.compEnt sl i).clean) && s.flashZero (b + 0x20 + 16 * n) (4096 - 0x20 - 16 * n)

/-- The slot that Bartor prefers (R548). -/
def State.preferred (s : State) : Option Bool :=
  match s.slotOk false, s.slotOk true with
  | true, true => some (precedes (s.slotSeq false) (s.slotSeq true))
  | true, false => some false
  | false, true => some true
  | false, false => none

/-- Directory indices of a kind in the booted slot, ascending. -/
def State.compsOf (s : State) (kind : Nat) : List Nat :=
  (List.range (s.slotCount s.mgt.bootSlot)).filter fun i => (s.compEnt s.mgt.bootSlot i).kind == kind

/-- The counts of R541: one of each of the kinds 1 to 3, at most 61 of kind 4, no reserved kind. -/
def State.kindsOk (s : State) : Bool :=
  [1, 2, 3].all (fun k => (s.compsOf k).length == 1) && decide ((s.compsOf 4).length ≤ 61)
    && (List.range (s.slotCount s.mgt.bootSlot)).all fun i => let k := (s.compEnt s.mgt.bootSlot i).kind; decide (1 ≤ k ∧ k ≤ 4)

/-- A component header that is well formed and bound to its place (R541, R548). -/
def State.compOk (s : State) (i : Nat) : Bool :=
  let sl := s.mgt.bootSlot
  let e := s.compEnt sl i
  let a := s.compAt i
  decide (e.off % 4096 = 0 ∧ 4096 ≤ e.off ∧ e.off + e.len ≤ 2 ^ 25 ∧ e.len = 8192 + s.bodyLen i)
    && s.flashNum a 4 == 0x504D4F43 && s.flashNum (a + 4) 1 == e.kind && s.flashNum (a + 4) 4 / 2 ^ 17 == 0
    && s.flashNum (a + 8) 4 == s.slotSeq sl && s.flashNum (a + 0xC) 4 == i && s.flashNum (a + 0x18) 8 == s.slotBind sl
    && s.flashZero (a + 0x50) 48 && s.flashZero (a + 0x80 + 4627) 45 && s.flashZero (a + 0x1320) (8192 - 0x1320)

/-! ### Sections (R542) -/

/-- An entry of the section directory: type, offset in the body, length, whether its reserved bits are zero. -/
structure Sect where
  ty : Nat
  off : Nat
  len : Nat
  clean : Bool
  deriving DecidableEq, Repr

/-- A reader over the body of the configuration component. -/
def State.cfgNum (s : State) (i off n : Nat) : Nat := s.flashNum (s.compAt i + 8192 + off) n

def State.sects (s : State) (i : Nat) : List Sect :=
  (List.range 16).map fun k =>
    let o := 16 * k
    { ty := s.cfgNum i o 1, off := s.cfgNum i (o + 4) 4, len := s.cfgNum i (o + 8) 4
      clean := s.cfgNum i (o + 1) 3 == 0 && s.cfgNum i (o + 12) 4 == 0 }

/-- Each of the types 1 to 8 once, unused entries zero, sections inside the body and apart (R542). -/
def sectsOk (body : Nat) (l : List Sect) : Bool :=
  let used := l.filter fun x => x.ty != 0
  l.all (fun x => x.clean && decide (x.ty ≤ 8) && (x.ty != 0 || (x.off == 0 && x.len == 0)))
    && ((List.range 8).all fun t => (used.filter fun x => x.ty == t + 1).length == 1)
    && used.all (fun x => decide (x.off + x.len ≤ body))
    && used.all fun x => used.all fun y => x.ty == y.ty || decide (x.off + x.len ≤ y.off) || decide (y.off + y.len ≤ x.off)

def sectOf (l : List Sect) (ty : Nat) : Sect := (l.find? fun x => x.ty == ty).getD { ty := 0, off := 0, len := 0, clean := true }

/-- Word k of a section. -/
def State.sectWord (s : State) (i : Nat) (x : Sect) (k : Nat) : Nat := s.cfgNum i (x.off + 4 * k) 4

/-! ### The sections' contents -/

/-- DEVICE: seven words (R542). -/
def devOk (w : Nat → Nat) : Bool :=
  decide (w 0 < 2 ^ 24 ∧ w 1 < 2 ^ 19 ∧ w 2 < 2 ^ 24 ∧ w 3 < 2 ^ 24) && decide (1 ≤ w 4 ∧ w 4 ≤ 3600000)
    && decide (1 ≤ w 5 ∧ w 5 ≤ 100) && decide (1 ≤ w 6 ∧ w 6 ≤ 16)

def Cab.configured (c : Cab) (w : Nat → Nat) : Cab :=
  { c with
    cacheSize := BitVec.ofNat 24 (w 0), cacheDir := BitVec.ofNat 19 (w 1), exportSize := BitVec.ofNat 24 (w 2)
    pinLimit := BitVec.ofNat 24 (w 3), pinPeriod := BitVec.ofNat 32 (w 4), demoteMark := BitVec.ofNat 7 (w 5), retain := BitVec.ofNat 5 (w 6) }

/-- PROJ: the count, then an 8-byte entry for each projection (R543). -/
def projOk (len : Nat) (w : Nat → Nat) : Bool :=
  decide (1 ≤ w 0 ∧ w 0 ≤ 4096 ∧ 4 + 8 * w 0 ≤ len) && (List.range (w 0)).all fun k =>
    let a := w (1 + 2 * k)
    let b := w (2 + 2 * k)
    decide (1 ≤ a % 65536 ∧ a % 65536 ≤ 1024 ∧ 1 ≤ a / 65536 ∧ a / 65536 ≤ 1024 ∧ b < 4096)

def projOf (w : Nat → Nat) : List (Nat × Nat × Nat) :=
  (List.range (w 0)).map fun k => (64 * (w (1 + 2 * k) % 65536), 64 * (w (1 + 2 * k) / 65536), w (2 + 2 * k))

/-- PART: record words at the offsets of the page (R625); unlisted words are zero, listed ones in their limits. A partition without a
slower-tier window leaves `SLOW_SPACE` 0. -/
def partOk (w : Nat → Nat) : Bool :=
  ((List.range 128).all fun k =>
      if prtPWords.contains (4 * k) then prtLimit (4 * k) (w k) || (k == 0x1E && w k == 0 && w 0x22 == 0 && w 0x23 == 0) else w k == 0)
    && decide (w 0x20 % granule = 0) && decide (w 0x22 % granule = 0)

def partOf (w : Nat → Nat) : Prt :=
  let q := prtPWords.foldl (fun (q : Prt) off => q.setWord off (w (off / 4))) Prt.reset
  { q with
    tumOwn := q.tumConf, tumNext := none
    tbHbmLvl := (2 ^ 20 * q.tbHbmDepth.toNat : Nat), tbHngLvl := (2 ^ 20 * q.tbHngDepth.toNat : Nat)
    tbFabLvl := (2 ^ 20 * q.tbFabDepth.toNat : Nat) }

/-- POOL (R305, R544): words 0 to 2, eight seed addresses, then `SERVE_PART`, `SERVE_CAP`, `NOTE_CAP`. -/
def poolOk (w : Nat → Nat) (seed : Nat → Nat) (pages : List Prt) : Bool :=
  decide (w 1 < 256 ∧ 1 ≤ w 2 ∧ w 2 ≤ 8 ∧ w 0x23 < 64)
    && ((List.range 8).all fun j => decide (j < w 2) || seed j == 0)
    && (decide (32 ≤ w 0x23) || (nth pages (w 0x23) Prt.reset).tumOwn != 0)

def Pol.configured (q : Pol) (w : Nat → Nat) (seed : Nat → Nat) (cal : List CalGrp) : Pol :=
  { q with
    poolId := BitVec.ofNat 32 (w 0), group := BitVec.ofNat 8 (w 1), seedCnt := BitVec.ofNat 4 (w 2)
    seeds := (List.range 8).map seed
    servePart := BitVec.ofNat 6 (w 0x23), serveCap := BitVec.ofNat 32 (w 0x24), noteCap := BitVec.ofNat 32 (w 0x25), cal := cal }

/-- CAL: four FP32 estimates for each peer group (R329). -/
def calOf (w : Nat → Nat) : List CalGrp :=
  (List.range 256).map fun g => { latV := w (4 * g), bwV := w (4 * g + 1), latF := w (4 * g + 2), bwF := w (4 * g + 3) }

/-- LATCH: a `DOMAIN` code for each latch (R404); latches of domain 0x20 are the default. -/
def latchesOf (dom : Nat → Nat) : SMap Latch :=
  ((List.range 32768).filter fun n => dom n != 0x20).map fun n => (n, { Latch.fresh with domain := dom n })

/-- BLOBS: directory index, home partition, common mask (R547). -/
def blobsOf (n : Nat) (w : Nat → Nat) : List (Nat × Nat × Nat) :=
  (List.range n).map fun k => (w (2 * k) % 64, w (2 * k) / 256 % 32, w (2 * k + 1))

def blobsOk (n : Nat) (w : Nat → Nat) (comps : List Nat) : Bool :=
  let l := blobsOf n w
  ((List.range n).all fun k => decide (w (2 * k) / 64 % 4 = 0) && decide (w (2 * k) / 2 ^ 13 = 0))
    && l.length == comps.length && comps.all (fun c => (l.filter fun r => r.1 == c).length == 1)
    && (List.range 32).all fun p => decide ((l.filter fun r => bitN r.2.2 p).length ≤ 1)

/-- The least ramp limit of POWER word 3 + k: the largest load step on the rail (R564, R571). -/
def rampLeast (k : Nat) : Nat := nth [37, 37, 37, 37, 12, 8] k 0

/-- POWER: the limits of R571 on its 26 words. -/
def powerOk (w : Nat → Nat) : Bool :=
  decide (10 ≤ w 0 ∧ w 0 ≤ 500 ∧ 10 ≤ w 1 ∧ w 1 ≤ 10000 ∧ 1 ≤ w 2 ∧ w 2 ≤ 100)
    && ((List.range 6).all fun k => decide (rampLeast k ≤ w (3 + k)))
    && decide (w 9 < 128 ∧ w 10 < 128) && ([11, 12, 13, 14].all fun k => fin32 (w k))
    && decide (1 ≤ w 18 ∧ w 18 ≤ 60) && decide (w 19 < w 20 ∧ w 20 < w 21 ∧ w 21 ≤ 120)
    && fin32 (w 23) && lt32 0 (w 23) && decide (4 ≤ w 24 ∧ w 24 ≤ 7) && decide (1 ≤ w 25 ∧ w 25 ≤ 3600)

/-! ### The configuration as a whole (R544) -/

/-- The pages that the PART section of component i gives. -/
def State.cfgPages (s : State) (i : Nat) (x : Sect) : List Prt :=
  (List.range 32).map fun p => partOf fun k => s.sectWord i x (128 * p + k)

/-- Whether the configuration component at directory index i is accepted. -/
def State.cfgOk (s : State) (i : Nat) : Bool :=
  let l := s.sects i
  let w (ty : Nat) : Nat → Nat := s.sectWord i (sectOf l ty)
  let part := sectOf l 3
  let pages := s.cfgPages i part
  let s1 := s.modMgt fun g => { g with projTab := projOf (w 2) }
  sectsOk (s.bodyLen i) l
    && ([(1, 28), (3, 16384), (4, 0x98), (5, 4096), (6, 32768), (8, 104)].all fun (t : Nat × Nat) => decide (t.2 ≤ (sectOf l t.1).len))
    && devOk (w 1) && projOk (sectOf l 2).len (w 2)
    && ((List.range 32).all fun p => partOk fun k => s.sectWord i part (128 * p + k))
    && poolOk (w 4) (fun j => s.cfgNum i ((sectOf l 4).off + 12 + 16 * j) 16) pages
    && ((List.range 32768).all fun n => decide (s.cfgNum i ((sectOf l 6).off + n) 1 ≤ 0x20))
    && blobsOk ((sectOf l 7).len / 8) (w 7) (s.compsOf 4) && powerOk (w 8)
    && s1.configOk pages (s.cab.configured (w 1)) [512, 512, 512, 512]

/-- The kept fences change the partitions as when they were taken (R552, R584, R587). -/
def State.refence (s : State) : State :=
  let r := s.ras
  let s := s.dropTums ((List.range 128).filter fun t => r.fencePair.getLsbD (t / 2))
  (List.range 4).foldl (fun (s : State) q =>
    if r.fenceQ.getLsbD q then s.zeroShares q
    else if r.fenceShf.getLsbD (2 * q) || r.fenceShf.getLsbD (2 * q + 1) then s.halveShares q
    else s.placeHosts q) s

/-- The first periods of the pool pair's services, whose pinned-set refresh has a period of `pin` ms. -/
def State.firstDue (s : State) (pin : Nat) : SMap Nat :=
  [(perPhb, msTicks s.pol.phbPeriod.toNat), (perCal, msTicks s.pol.calPeriod.toNat), (perPin, msTicks pin),
    (perVisit, usTicks s.pol.visitWin.toNat)].foldl (fun m x => SMap.set 0 m x.1 (s.now + x.2)) s.mgt.dueAt

/-- The configuration of component i is applied to the registers (R546, R625, R330, R646). -/
def State.applyConfig (s : State) (i : Nat) : State :=
  let l := s.sects i
  let w (ty : Nat) : Nat → Nat := s.sectWord i (sectOf l ty)
  let s :=
    { s with
      -- the periods of the pool pair's services start here
      mgt := { s.mgt with
        dueAt := s.firstDue (w 1 4), projTab := projOf (w 2), blobRecs := blobsOf ((sectOf l 7).len / 8) (w 7)
        applied := true, applyWait := false }
      prt := s.cfgPages i (sectOf l 3)
      cab := s.cab.configured (w 1)
      pol := s.pol.configured (w 4) (fun j => s.cfgNum i ((sectOf l 4).off + 12 + 16 * j) 16) (calOf (w 5))
      latch := latchesOf fun n => s.cfgNum i ((sectOf l 6).off + n) 1
      pwr := { s.pwr with image := (List.range 26).map fun k => BitVec.ofNat 32 (w 8 k), thetaA := BitVec.ofNat 32 (w 8 11), tau := BitVec.ofNat 32 (w 8 14) } }
  let s := s.takeSnap.refence
  (parts.foldl (fun (s : State) p => s.newCharge p) s).takeRates

end Sys2Proof.Machine
end

