-- ==== Sys2Proof/Machine/Boot.lean ====
section
/-! DEFINITION. From reset to READY and beyond (R506–R509, R538–R551, R597): reset release, boot stages, verification of components,
HBM training, the wipe, boot-image blobs, and the commit engine's commit point (R361). -/

namespace Sys2Proof.Machine

open Sys2Proof

/-! ### Failure (R548, R549) -/

def State.bootFail (s : State) : State :=
  s.modMgt fun g => { g with bootStage := 0xE, xspiOwn := false, reading := false, verifying := false, applyWait := false }

/-- A component of the booted slot fails: the first failure of the preferred slot is kept, the other slot boots from SECFW, or the
device enters BOOT_FAIL. -/
def State.slotFail (s : State) (err idx : Nat) : State :=
  let g := s.mgt
  if g.bootFallback then s.bootFail
  else
    let s := s.modMgt fun g =>
      { g with
        bootFallback := true, bootErr := BitVec.ofNat 8 err, bootErrIdx := BitVec.ofNat 6 idx
        comp := 0, fwDone := 0, verifying := false, applyWait := false, coreLive := 0x10 }
    if s.slotOk (!g.bootSlot) then
      s.modMgt fun g => { g with bootStage := 3, bootSlot := !g.bootSlot, reading := true, imgSeq := BitVec.ofNat 32 (s.slotSeq (!g.bootSlot)) }
    else s.bootFail

/-- The kind counts of the booted slot (R541); which directory index a wrong count names is left open. A second slot with a wrong
count fails as the first. -/
def State.checkKinds (s : State) : State :=
  if s.kindsOk then s
  else
    let a := s.fresh
    let s := a.2.slotFail 7 (a.1 % 64)
    if s.mgt.bootStage ≠ 0xE ∧ s.kindsOk = false then s.slotFail 7 0 else s

/-- A component fails; a fallback slot is checked for its kinds first. -/
def State.compFail (s : State) (err idx : Nat) : State :=
  let s := s.slotFail err idx
  if s.mgt.bootStage ≠ 0xE ∧ s.kindsOk = false then s.slotFail 7 0 else s

/-! ### Stages (R546) -/

/-- `RESET_RELEASE`: `RST_N` is sampled high and the straps with it (R546, R597, R614, R615). -/
def execResetRelease (straps : Nat) (s : State) : Host.Outcome State Fault Refusal :=
  .next <|
    if s.side.rstN then s
    else (s.modSide fun d => { d with rstN := true, straps := BitVec.ofNat 2 straps, tapIr := .bypass, pinsOut := none }).startBoot

/-- SRAM repair at ROM (R583): rows that fail MBIST enter the list, then every row of the list is repaired. -/
def State.bootRepair (s : State) (mbist : List (Nat × Nat × Nat × Nat)) : State :=
  let rows := (mbist.filter fun r => sramKind r.1).map fun r => ({ kind := r.1, n := r.2.1, bank := r.2.2.1, row := r.2.2.2 } : ArrRow)
  let s := rows.foldl (fun (s : State) k => let r := s.enterRow k; if r.1 then r.2.exhausted k 6 [] else r.2) s
  (s.ras.repair.filter fun e => sramKind e.1.kind && !e.2).foldl (fun (s : State) e =>
    match s.ras.repairRow e.1 with
    | some r => { s with ras := r }
    | none => s.exhausted e.1 6 []) s

/-- Links begin to train (R546, R600, R610, R613); fenced ones stay off. -/
def State.trainLinks (s : State) : State :=
  { s with
    lnk := { s.lnk with lstate := 1 }
    hng := s.hng.map fun (h : Hng) => if h.lstate = 4 then h else { h with lstate := 1 }
    fab := { s.fab with ports := s.fab.ports.map fun (x : FabPort) => if x.lstate = 4 then x else { x with lstate := 1 } } }

/-- ROM ends. -/
def State.romEnd (s : State) (mbist : List (Nat × Nat × Nat × Nat)) : State :=
  ((s.applyFences.bootRepair mbist).trainLinks).modMgt fun g => { g with bootStage := 1 }

/-- PROBE ends (R503, R538, R546). -/
def State.probeEnd (s : State) (ok : Bool) : State :=
  if s.sec.lcState = 3 then s.modMgt fun g => { g with bootStage := 0xF }
  else if ok = false then State.bootFail (s.modMgt fun g => { g with bootErr := 1 })
  else
    { s with
      mgt := { s.mgt with bootStage := 2 }
      hbmStk := s.hbmStk.map fun (h : Hbm) => { h with st := 1 } }

/-- SLOT ends: both headers are read, the slot is chosen and its first read begins. -/
def State.slotEnd (s : State) (ok : Bool) : State :=
  if ok = false then State.bootFail (s.modMgt fun g => { g with bootErr := 1 })
  else
    match s.preferred with
    | none => State.bootFail (s.modMgt fun g => { g with bootErr := 2 })
    | some sl =>
      State.checkKinds (s.modMgt fun g =>
        { g with bootStage := 3, bootSlot := sl, imgSeq := BitVec.ofNat 32 (s.slotSeq sl), comp := 0, fwDone := 0, reading := true })

/-- READY (R546, R550): fused minimums rise for the components with `COMMIT`; a DEPLOYED device goes on to join its pool (R551). -/
def State.ready (s : State) : State :=
  let up (k : Nat) (m : Nat) : Nat :=
    (s.compsOf k).foldl (fun m i => if s.compCommit i then max m (s.compSvn i) else m) m
  let s1 :=
    { s with
      mgt := { s.mgt with bootStage := 7, readyAt := s.mgt.aclkCnt }
      sec := { s.sec with svnFw := BitVec.ofNat 8 (up 2 (up 1 s.sec.svnFw.toNat)), svnCfg := BitVec.ofNat 8 (up 3 s.sec.svnCfg.toNat) } }
  if s1.sec.lcState = 2 then State.poolWork (State.joinStart (s1.modMgt fun g => { g with bootStage := 8 })) else s1

/-- The configuration has been applied: READY once the wipe has ended. -/
def State.applyEnd (s : State) : State :=
  let s := s.applyConfig ((s.compsOf 3).headD 0)
  if s.sec.wipeDone then s.ready else s.modMgt fun g => { g with bootStage := 6 }

/-- `BOOT_STAGE_END` (R546): the timed stages. `ok`: whether the boot memory answered; `mbist`: the rows that failed MBIST, at ROM. -/
def execBootStageEnd (ok : Bool) (mbist : List (Nat × Nat × Nat × Nat)) (s : State) : Host.Outcome State Fault Refusal :=
  .next <|
    if s.side.rstN = false then s
    else if s.mgt.bootStage = 0 then s.romEnd mbist
    else if s.mgt.bootStage = 1 then s.probeEnd ok
    else if s.mgt.bootStage = 2 then s.slotEnd ok
    else if s.mgt.bootStage = 5 ∧ s.mgt.applyWait = true then s.applyEnd
    else s

/-! ### Components (R546, R548, R551) -/

/-- `COMPONENT_READ_END`: reads follow one another without gaps; a verification starts when the engine is free. -/
def execComponentReadEnd (s : State) : Host.Outcome State Fault Refusal :=
  .next <|
    if s.mgt.reading = false then s
    else if s.mgt.bootStage = 9 then s.modMgt fun g => { g with reading := false, verifying := true }
    else s.modMgt fun g => { g with comp := g.comp + 1, reading := decide (g.comp + 1 < 3), verifying := true }

/-- The first failure of a component at directory index i, or 0 (R552). -/
def State.compErr (s : State) (i : Nat) (digestOk sigOk : Bool) (least : Nat) : Nat :=
  if s.compOk i = false then 3
  else if digestOk = false then 4
  else if sigOk = false then 5
  else if s.compSvn i < least then 6
  else 0

/-- A firmware or configuration component has been verified. -/
def State.fwVerified (s : State) (digestOk sigOk : Bool) : State :=
  let k := s.mgt.fwDone + 1
  let i := (s.compsOf k).headD 0
  let e := s.compErr i digestOk sigOk (if k = 3 then s.sec.svnCfg.toNat else s.sec.svnFw.toNat)
  if e ≠ 0 then s.compFail e i
  else if k = 3 ∧ s.cfgOk i = false then s.compFail 8 i
  else
    s.modMgt fun g =>
      { g with
        fwDone := k, verifying := decide (k < g.comp)
        bootStage := if k = 3 then 5 else BitVec.ofNat 4 (3 + k)
        coreLive := if k = 2 then 0x3F else g.coreLive
        applyWait := decide (k = 3) }

/-- A blob's bytes with the allocated ID in `ADAPTER_ID` (R551). -/
def withAid (bs : List Byte) (aid : Nat) : List Byte := bs.take 8 ++ leBytes 3 aid ++ bs.drop 11

/-- A boot-image blob has been verified: checks 2 to 9 of R162, then the commit engine takes it. -/
def State.blobVerified (s : State) (digestOk sigOk : Bool) : State :=
  let i := s.mgt.comp
  let s := s.modMgt fun g => { g with verifying := false }
  if s.compErr i digestOk sigOk s.sec.svnCfg.toNat ≠ 0 then State.poolWork s.blobSkip
  else
    let bs := withAid (s.bodyBytes i) s.mgt.blobAid
    let s := s.modCab fun c => c.release (.resv s.mgt.blobResv)
    match s.takeBlob bs wardCommon false none true with
    | (some _, s) => State.poolWork s.blobSkip
    | (none, s) => s.modMgt fun g => { g with blobWait := true, blobResv := 0 }

/-- `COMPONENT_VERIFIED` (R548, R551). -/
def execComponentVerified (digestOk sigOk : Bool) (s : State) : Host.Outcome State Fault Refusal :=
  .next <|
    if s.mgt.verifying = false then s
    else if s.mgt.bootStage = 9 then s.blobVerified digestOk sigOk
    else s.fwVerified digestOk sigOk

/-! ### HBM training and the wipe (R506, R507, R546, R607) -/

/-- Post-package repair of the rows on the repair list (R582). -/
def State.hbmRepair (s : State) : State :=
  (s.ras.repair.filter fun e => e.1.kind == 5 && !e.2).foldl (fun (s : State) e =>
    match s.ras.repairRow e.1 with
    | some r => (State.modStk { s with ras := r } e.1.n fun h => { h with pprRows := satAdd h.pprRows 1 })
    | none => s.exhausted e.1 6 []) s

/-- `HBM_TRAINING_DONE`: `trained` has a bit for each stack. A stack that fails leaves no configuration (R552). -/
def execHbmTrainingDone (trained : Nat) (s : State) : Host.Outcome State Fault Refusal :=
  .next <|
    if s.mgt.hbmTrained ∨ (s.hbmStk.all fun h => h.st == 1) = false ∨ s.mgt.bootStage = 0xE then s
    else
      let s : State := { s with hbmStk := s.hbmStk.mapIdx fun k (h : Hbm) => { h with st := if bitN trained k then 2 else 4 } }
      if (List.range 8).all fun k => bitN trained k then
        State.hbmRepair (((List.range 8).foldl (fun (s : State) k => s.setAwake (domHbm k) true) s).modMgt fun g => { g with hbmTrained := true })
      else State.bootFail (s.modMgt fun g => { g with bootErr := if g.bootFallback then g.bootErr else 9 })

/-- A block that has not completed its wipe: logged, and fenced where it is not (R507). -/
def State.wipeMissed (s : State) (kind n : Nat) : State :=
  if kind ≠ 2 ∧ kind ≠ 3 then s.unserve (kind, n) 0xD 0 []
  else if s.ras.isFenced kind n then s.rasError kind n 2 0xD 0 0 0
  else s.fence kind n (kind, n) 0xD 0 []

/-- `WIPE_END`: the stores are zero; the device becomes READY once it is configured. -/
def execWipeEnd (unfinished : List (Nat × Nat)) (s : State) : Host.Outcome State Fault Refusal :=
  .next <|
    if s.mgt.hbmTrained = false ∨ s.sec.wipeDone = true then s
    else
      let s : State :=
        { s with
          hbm := [], shelf := []
          sec := { s.sec with wipeDone := true }
          hbmStk := s.hbmStk.map fun (h : Hbm) => { h with wrBytes := h.wrBytes + BitVec.ofNat 64 (2 ^ 36) } }
      let s := unfinished.foldl (fun (s : State) u => s.wipeMissed u.1 u.2) s
      if s.mgt.bootStage = 6 then s.ready else s

/-! ### The commit engine (R359, R361) -/

/-- A boot-image blob has not been committed. -/
def State.bootSkip (s : State) (b : Bool) : State := if b then State.poolWork s.blobSkip else s

/-- `COMMIT_CANDIDATE` (R358, R359): the engine, when free, takes the next candidate to its checks. -/
def execCommitCandidate (s : State) : Host.Outcome State Fault Refusal :=
  .next <|
    match s.cab.engine, s.cab.cands with
    | none, c :: rest =>
      let s := s.modCab fun b => { b with cands := rest }
      if s.upSession c = false then s.commitFail c .authFail
      else
        match s.commitCheck c with
        | (some st, s) => (s.commitFail c st).bootSkip c.boot
        | (none, s) =>
          let ep := match s.entry c.aid with | some e => nextEpoch e.curEpoch | none => c.target
          s.modCab fun b => { b with engine := some (c, ep) }
    | _, _ => s

/-- The common adapters of a boot-image blob and its fused minimum (R550, R551); the next blob follows. -/
def State.bootCommitted (s : State) (aid : Nat) : State :=
  let mask := (s.blobRec.map (·.2.2)).getD 0
  let s := match s.commonInfo aid with
    | some (w, ready, learn) =>
      if ready && w == wardCommon && !learn then
        (parts.filter fun p => bitN mask p).foldl (fun (s : State) p => s.modP p fun q => { q with common := aid }) s
      else s
    | none => s
  let s := if s.compCommit s.mgt.comp then s.modSec fun c => { c with svnCfg := BitVec.ofNat 8 (max c.svnCfg.toNat (s.compSvn s.mgt.comp)) } else s
  State.poolWork s.blobAdvance

/-- `COMMIT_POINT` (R361): the commit-record write is acknowledged. -/
def execCommitPoint (s : State) : Host.Outcome State Fault Refusal :=
  .next <|
    match s.cab.engine with
    | none => s
    | some (c, ep) =>
      let s := (s.modCab fun b => { b with engine := none }).hbmWork.commit c ep
      if c.boot then s.bootCommitted c.aid else s.movesGo

end Sys2Proof.Machine
end

