-- ==== Sys2Proof/Machine/Regs.lean ====
section
/-! DEFINITION. The management window (R621–R644, R424–R426, R466): the block map, the words that reads return, what writes do by
access code and precedence class, and the register commands. -/

namespace Sys2Proof.Machine

open Sys2Proof

/-! ### The block map (R621) -/

inductive Blk where
  | mgt | pwr | ras | sec | lnk | hng | prt | cab | shf | pol | lat | tum | hbm | fab
  deriving DecidableEq, Repr

/-- Blocks with base, instances and stride. -/
def blocks : List (Blk × Nat × Nat × Nat) :=
  [(.mgt, 0, 1, 0x10000), (.pwr, 0x10000, 1, 0x10000), (.ras, 0x20000, 1, 0x10000), (.sec, 0x30000, 1, 0x10000),
   (.lnk, 0x40000, 1, 0x10000), (.hng, 0x80000, 4, 0x10000), (.prt, 0x100000, 32, 0x1000), (.cab, 0x120000, 1, 0x10000),
   (.shf, 0x130000, 1, 0x10000), (.pol, 0x140000, 1, 0x10000), (.lat, 0x180000, 32768, 8), (.tum, 0x200000, 128, 0x400),
   (.hbm, 0x300000, 8, 0x10000), (.fab, 0x400000, 1, 0x10000)]

/-- A place in the window: block, instance, offset. -/
structure Place where
  blk : Blk
  k : Nat
  off : Nat
  deriving DecidableEq, Repr

def placeOf (a : Nat) : Option Place :=
  blocks.findSome? fun b =>
    if b.2.1 ≤ a ∧ a < b.2.1 + b.2.2.1 * b.2.2.2 then some ⟨b.1, (a - b.2.1) / b.2.2.2, (a - b.2.1) % b.2.2.2⟩ else none

/-- Whether a range of words lies inside one instance (R466, R622). -/
def inOneBlock (a n : Nat) : Bool :=
  a % 4 == 0 && match placeOf a, placeOf (a + 4 * n - 4) with
    | some x, some y => x.blk == y.blk && x.k == y.k && decide (y.off = x.off + 4 * n - 4)
    | _, _ => false

/-! ### What reads return -/

/-- Half `h` of a value of up to 96 bits: its words in ascending address (R623). -/
def half32 (v h : Nat) : Nat := v / 2 ^ (32 * h) % 2 ^ 32

def State.rdMgt (s : State) (o : Nat) : Nat :=
  let g := s.mgt
  if o = 0 then 0xB470 + at_ 0xA1 16
  else if o = 4 then 1 + at_ 1 8 + at_ 1 16 + at_ 1 20 + at_ blobMinorMax 24
  else if 8 ≤ o ∧ o < 0x10 then half32 g.devId.toNat ((o - 8) / 4)
  else if 0x10 ≤ o ∧ o < 0x18 then half32 g.aclkCnt.toNat ((o - 0x10) / 4)
  else if o = 0x18 then g.coreLive.toNat
  else if o = 0x1C then g.dscRetired.toNat
  else if o = 0x20 then g.wjOvf.toNat
  else if o = 0x40 then
    g.bootStage.toNat + at_ (b2n g.bootSlot) 4 + at_ (b2n g.bootFallback) 5 + at_ g.bootErr.toNat 8 + at_ g.bootErrIdx.toNat 16
      + at_ g.blobFail.toNat 24
  else if o = 0x44 then g.imgSeq.toNat
  else if 0x48 ≤ o ∧ o < 0x50 then half32 g.readyAt.toNat ((o - 0x48) / 4)
  else 0

def State.rdPwr (s : State) (o : Nat) : Nat :=
  let w := s.pwr
  if o = 0 then w.cclkMhz.toNat + at_ w.opPoint.toNat 16 + at_ w.govReason.toNat 20
  else if o = 4 then w.tIn.toNat + at_ w.tHot.toNat 16
  else if o = 8 then w.flow.toNat
  else if o = 0xC then w.pEst.toNat + at_ w.pCap.toNat 16
  else if o = 0x10 then w.thetaA.toNat
  else if o = 0x14 then w.tau.toNat
  else if 0x18 ≤ o ∧ o < 0x24 then half32 w.domAwake.toNat ((o - 0x18) / 4)
  else if o = 0x24 then w.tripCnt.toNat
  else if o = 0x28 then w.pdTarget.toNat + at_ w.pdPart.toNat 16 + at_ w.pdStage.toNat 24 + at_ (b2n w.pdTgtEn) 27
  else if o = 0x2C then w.pdRptH.toNat
  else if o = 0x30 then w.pllLock.toNat
  else if 0x100 ≤ o ∧ o < 0x100 + 104 then w.n ((o - 0x100) / 4)
  else 0

/-- Word k of a log record (R580). -/
def RasRec.word (r : RasRec) (k : Nat) : Nat :=
  if k < 2 then half32 r.lseq k
  else if k < 4 then half32 r.stamp (k - 2)
  else if k = 4 then r.kind + at_ r.index 8 + at_ r.sev 24
  else if k = 5 then r.etype + at_ r.part 8
  else half32 r.addr (k - 6)

def State.rdRas (s : State) (o : Nat) : Nat :=
  let r := s.ras
  if o = 0 then r.config.toNat + at_ r.fenceQ.toNat 8 + at_ r.fenceFab.toNat 16 + at_ r.fenceShf.toNat 24
  else if 8 ≤ o ∧ o < 0x10 then half32 r.fencePair.toNat ((o - 8) / 4)
  else if 0x10 ≤ o ∧ o < 0x18 then half32 r.lseqLast.toNat ((o - 0x10) / 4)
  else if o = 0x18 then r.ceSram.toNat
  else if o = 0x1C then r.ceHbm.toNat
  else if o = 0x20 then r.ueAll.toNat
  else if o = 0x24 then r.linkRetry.toNat
  else if o = 0x28 then r.ceThresh.toNat + at_ (min 65535 r.repair.length) 16
  else if o = 0x2C then b2n r.faultPend
  else if o = 0x30 then
    b2n r.injArm + at_ (b2n r.injType) 1 + at_ r.injKind.toNat 4 + at_ r.injIndex.toNat 12 + at_ (b2n r.injLost) 31
  else if o = 0x34 then r.injAddr.toNat
  else if 0x8000 ≤ o then
    match r.log.find? fun e => e.1 == (o - 0x8000) / 32 with
    | some e => e.2.word (o % 32 / 4)
    | none => 0
  else 0

def State.rdSec (s : State) (o : Nat) : Nat :=
  let c := s.sec
  if o = 0 then c.lcState.toNat + at_ c.lcXfers.toNat 4 + at_ (b2n c.wipeDone) 8
  else if o = 4 then c.svnFw.toNat + at_ c.svnCfg.toNat 8
  else if o = 8 then c.sessions.length + at_ s.pol.wards.length 15
  else if 0x10 ≤ o ∧ o < 0x18 then half32 c.sepochLast.toNat ((o - 0x10) / 4)
  else if o = 0x18 then c.authFails.toNat
  else 0

def State.rdLnk (s : State) (o : Nat) : Nat :=
  let l := s.lnk
  if o = 0 then l.lstate.toNat + at_ (b2n l.helloOk) 3
  else if o = 4 then l.rclBad.toNat
  else if o = 8 then l.noteLost.toNat
  else if o = 0xC then l.qUsed.toNat + at_ l.qUrg.toNat 16
  else if o = 0x10 then l.notes.length
  else if o = 0x14 then (List.range 4).foldl (fun n k => n + at_ (min 255 (nth l.crdHeld k 0)) (8 * k)) 0
  else if 0x18 ≤ o ∧ o < 0x20 then half32 l.hbPeriod.toNat ((o - 0x18) / 4)
  else 0

def State.rdHng (s : State) (n o : Nat) : Nat :=
  let h := s.getHng n
  if o = 0 then h.lstate.toNat + at_ h.laneRep.toNat 8 + at_ h.trainAtt.toNat 16
  else if o = 4 then h.hngBad.toNat
  else if o = 8 then h.lenMism.toNat
  else if o = 0xC then h.lnkRty.toNat
  else if 0x10 ≤ o ∧ o < 0x18 then half32 h.beatsIn.toNat ((o - 0x10) / 4)
  else if 0x18 ≤ o ∧ o < 0x20 then half32 h.beatsOut.toNat ((o - 0x18) / 4)
  else if o = 0x20 then h.hngOrph.toNat
  else 0

def State.rdFab (s : State) (o : Nat) : Nat :=
  if o = 0 then s.fab.live.toNat
  else if o = 4 then s.fab.hostTmo.toNat
  else if 0x100 ≤ o ∧ o < 0x200 then
    let x := s.getPort ((o - 0x100) / 32)
    let b := o % 32
    if b = 0 then x.lstate.toNat
    else if b = 4 then x.lnkRty.toNat
    else if 8 ≤ b ∧ b < 0x10 then half32 x.bytesTx.toNat ((b - 8) / 4)
    else if 0x10 ≤ b ∧ b < 0x18 then half32 x.bytesRx.toNat ((b - 0x10) / 4)
    else 0
  else 0

/-- The configuration words of a page. -/
def Prt.rdConf (q : Prt) (o : Nat) : Nat :=
  if o < 0x20 then bitsN q.tumConf.toNat (4 * o + 15) (4 * o) + at_ (b2n (q.lostTum.getLsbD (o / 4))) 31
  else if o = 0x20 then q.shares.toNat
  else if o = 0x24 then q.rowQuota.toNat
  else if o = 0x28 then q.drwQuota.toNat
  else if o = 0x2C then q.dscQuota.toNat
  else if o = 0x30 then q.visitCap.toNat + at_ (b2n q.lostVisit) 31
  else if o = 0x34 then q.vecWait.toNat
  else if o = 0x38 then q.gwMax.toNat
  else if o = 0x3C then q.jobSlice.toNat
  else if o = 0x40 then q.latWait.toNat
  else if o = 0x48 then q.tbHbmRate.toNat
  else if o = 0x4C then q.tbHbmDepth.toNat
  else if o = 0x50 then q.tbHngRate.toNat
  else if o = 0x54 then q.tbHngDepth.toNat
  else if o = 0x58 then q.tbFabRate.toNat
  else if o = 0x5C then q.tbFabDepth.toNat
  else if o = 0x60 then q.cabQuota.toNat
  else if o = 0x64 then q.dirQuota.toNat
  else if 0x68 ≤ o ∧ o < 0x78 then
    let k := (o - 0x68) / 4
    (nth q.shfShare k 0).toNat + at_ (nth q.shfHost k 0).toNat 16 + at_ (b2n (q.lostShf.getLsbD k)) 31
  else if o = 0x78 then q.slowSpace.toNat
  else if 0x80 ≤ o ∧ o < 0x88 then half32 q.slowBase.toNat ((o - 0x80) / 4)
  else if 0x88 ≤ o ∧ o < 0x90 then half32 q.slowSize.toNat ((o - 0x88) / 4)
  else 0

/-- A signed 64-bit value as a number. -/
def signed64 (i : Int) : Nat := (i % 2 ^ 64).toNat

/-- Vₚ of R490, in bytes: what a save of a partition writes at most, as its next step issue takes it. -/
def State.saveVolume (s : State) (q : Prt) : Nat :=
  2621440 * (tumsOf q.tumOwn).length + 65536 + 32 * q.rowQuota.toNat + 64 * q.drwQuota.toNat
    + granule * s.saveChargeOf q.visitCap.toNat q.gwMax.toNat

/-- `LANE_RATE` (R490, R637): ρₚ with 16 fraction bits, once the configuration is applied; what does not fit them is rounded either way. -/
def State.laneRate (s : State) (p : Nat) : Nat :=
  let a := 11376 * 65536 * s.saveVolume (s.getP p)
  let b := sumPrt s.prt fun q => s.saveVolume q
  if s.mgt.applied = false then 0
  else a / b + if a % b ≠ 0 ∧ Config.roundUp a b = true then 1 else 0

/-- The status words of a page. -/
def State.rdStat (s : State) (p o : Nat) : Nat :=
  let q := s.getP p
  if 0x200 ≤ o ∧ o < 0x208 then half32 q.engCycles.toNat ((o - 0x200) / 4)
  else if o = 0x208 then q.winCycles.toNat
  else if o = 0x20C then b2n q.saved
  else if 0x210 ≤ o ∧ o < 0x218 then half32 q.sseqNext.toNat ((o - 0x210) / 4)
  else if 0x218 ≤ o ∧ o < 0x220 then half32 q.jobRun.toNat ((o - 0x218) / 4)
  else if 0x220 ≤ o ∧ o < 0x228 then half32 (signed64 q.tbHbmLvl) ((o - 0x220) / 4)
  else if 0x228 ≤ o ∧ o < 0x230 then half32 (signed64 q.tbHngLvl) ((o - 0x228) / 4)
  else if 0x230 ≤ o ∧ o < 0x238 then half32 (signed64 q.tbFabLvl) ((o - 0x230) / 4)
  else if 0x238 ≤ o ∧ o < 0x240 then half32 q.oobRd.toNat ((o - 0x238) / 4)
  else if 0x240 ≤ o ∧ o < 0x248 then half32 q.oobWr.toNat ((o - 0x240) / 4)
  else if o = 0x248 then s.saveCharge p
  else if o = 0x24C then s.cabUse p
  else if o = 0x250 then s.dirUse p
  else if o = 0x254 then s.dscUse p
  else if o = 0x258 then s.laneRate p
  else if 0x260 ≤ o ∧ o < 0x270 then (nth q.shfHbase ((o - 0x260) / 4) 0).toNat
  else if 0x300 ≤ o ∧ o < 0x340 then (nth q.bound ((o - 0x300) / 4) 0).toNat
  else 0

def State.rdPrt (s : State) (p o : Nat) : Nat := if o < 0x200 then (s.getP p).rdConf o else s.rdStat p o

def State.rdCab (s : State) (o : Nat) : Nat :=
  let c := s.cab
  if o = 0 then c.cacheSize.toNat
  else if o = 4 then c.cacheDir.toNat
  else if o = 8 then c.exportSize.toNat
  else if o = 0xC then c.pinLimit.toNat
  else if o = 0x10 then c.pinPeriod.toNat
  else if o = 0x14 then c.demoteMark.toNat
  else if o = 0x18 then c.retain.toNat
  else if 0x20 ≤ o ∧ o < 0x28 then half32 c.useStamp.toNat ((o - 0x20) / 4)
  else if o = 0x28 then c.pinShort.toNat
  else if o = 0x2C then c.vtFull.toNat
  else if o = 0x34 then c.cacheExts.foldl (fun n e => n + e.len) s.noteGranules
  else if o = 0x38 then s.cachedUse
  else if o = 0x3C then (s.pol.notes.filter fun e => e.2.valid).length
  else if o = 0x40 then c.fragMiss.toNat
  else 0

def State.rdShf (s : State) (o : Nat) : Nat :=
  if 0x400 ≤ o then 0
  else
    let q := o / 0x100
    let x := nth s.shf q Shf.reset
    let b := o % 0x100
    if b = 0 then x.cap.toNat + at_ x.halfOk.toNat 16
    else if b = 4 then sumPrt s.prt fun g => (nth g.shfShare q 0).toNat
    else if 8 ≤ b ∧ b < 0x10 then half32 x.stgBytes.toNat ((b - 8) / 4)
    else 0

def State.rdPol (s : State) (o : Nat) : Nat :=
  let q := s.pol
  if o = 0 then q.poolId.toNat
  else if o = 4 then q.group.toNat + at_ q.servePart.toNat 8 + at_ q.seedCnt.toNat 16
  else if o = 8 then q.instId.toNat + at_ (b2n q.instValid) 16
  else if o = 0xC then q.viewNum.toNat
  else if o = 0x10 then q.serveCap.toNat
  else if o = 0x14 then q.noteCap.toNat
  else if o = 0x18 then q.phbPeriod.toNat
  else if o = 0x1C then q.peerDead.toNat
  else if o = 0x20 then q.lease.toNat
  else if o = 0x24 then q.tReq.toNat
  else if o = 0x28 then q.tGap.toNat
  else if o = 0x2C then q.retry.toNat
  else if o = 0x30 then q.hyst.toNat
  else if o = 0x34 then q.amort.toNat
  else if o = 0x38 then q.calPeriod.toNat
  else if o = 0x3C then q.probePeriod.toNat
  else if o = 0x40 then q.visitWin.toNat
  else if o = 0x44 then q.pubMinor.toNat
  else if o = 0x48 then q.gdHold.toNat
  else if o = 0x50 then q.rppBad.toNat
  else if 0x58 ≤ o ∧ o < 0x60 then half32 q.snapLast.toNat ((o - 0x58) / 4)
  else if o = 0x60 then (q.sess.filter fun x => !x.opening).length
  else if 0x100 ≤ o ∧ o < 0x180 then half32 (nth q.seeds ((o - 0x100) / 16) 0) (o % 16 / 4)
  else 0

def State.rdLat (s : State) (n o : Nat) : Nat := half32 ((s.latchAt n).word 0).toNat (o / 4)

/-- Pins of a tumbler that run a unit. -/
def State.pinBusy (s : State) (t : Nat) : Nat :=
  let l := parts.flatMap fun p => match (s.getP p).ctx with
    | some c => ((c.units.filter fun u => u.st == .running && pinTum u.pin == t).map fun u => u.pin % 16)
    | none => []
  l.eraseDups.foldl (fun n j => n + 2 ^ j) 0

def tumCode : TumState → Nat
  | .off => 0 | .idle => 1 | .run => 2 | .save => 3 | .restore => 4 | .fenced => 5

def State.rdTum (s : State) (t o : Nat) : Nat :=
  let x := s.tumOf t
  let own := parts.find? fun p => (s.getP p).tumOwn.getLsbD t
  if o = 0 then tumCode x.st + at_ (own.getD 0) 8 + at_ (b2n own.isSome) 13 + at_ (s.pinBusy t) 16
  else if 8 ≤ o ∧ o < 0x10 then half32 x.busy.toNat ((o - 8) / 4)
  else if o = 0x10 then x.units.toNat
  else if o = 0x14 then x.ce.toNat
  else 0

def State.rdHbm (s : State) (k o : Nat) : Nat :=
  let h := nth s.hbmStk k Hbm.reset
  if o = 0 then h.st.toNat + at_ h.pprRows.toNat 8
  else if o = 4 then h.temp.toNat
  else if o = 8 then h.ce.toNat
  else if o = 0xC then h.ue.toNat
  else if o = 0x10 then (s.poisoned.filter fun a => stackOf a == k).length
  else if 0x18 ≤ o ∧ o < 0x20 then half32 h.rdBytes.toNat ((o - 0x18) / 4)
  else if 0x20 ≤ o ∧ o < 0x28 then half32 h.wrBytes.toNat ((o - 0x20) / 4)
  else 0

/-- The word at an address; an address or offset that nothing lists reads zero (R622). -/
def State.rdWord (s : State) (a : Nat) : Nat :=
  match placeOf a with
  | none => 0
  | some x =>
    match x.blk with
    | .mgt => s.rdMgt x.off
    | .pwr => s.rdPwr x.off
    | .ras => s.rdRas x.off
    | .sec => s.rdSec x.off
    | .lnk => s.rdLnk x.off
    | .hng => s.rdHng x.k x.off
    | .prt => s.rdPrt x.k x.off
    | .cab => s.rdCab x.off
    | .shf => s.rdShf x.off
    | .pol => s.rdPol x.off
    | .lat => s.rdLat x.k x.off
    | .tum => s.rdTum x.k x.off
    | .hbm => s.rdHbm x.k x.off
    | .fab => s.rdFab x.off

/-! ### RC fields (R10, R12) -/

/-- A clearing read of an RC field of a hinge port leaves the events of its cycle. -/
def State.clearRc (s : State) (x : Place) (events : Nat) : State :=
  if x.blk ≠ .hng then s
  else if x.off = 4 then s.modHng x.k fun h => { h with hngBad := BitVec.ofNat 32 (sat32 events) }
  else if x.off = 8 then s.modHng x.k fun h => { h with lenMism := BitVec.ofNat 32 (sat32 events) }
  else s

/-- Read a range in one cycle; `events` came in that cycle to the fields of its words (R12, R623). -/
def State.rdRange (s : State) (a n : Nat) (events : List Nat) : List Nat × State :=
  ((List.range n).map fun i => s.rdWord (a + 4 * i),
    (List.range n).foldl (fun (s : State) i =>
      match placeOf (a + 4 * i) with
      | some x => s.clearRc x (nth events i 0)
      | none => s) s)

/-! ### What writes do (R10, R424–R426) -/

/-- The increment that meets a write of a COUNTER field. -/
def hwInc : HwUpdate → Nat
  | .inc n => n
  | _ => 0

/-- A counter of 32 bits after a write: the value and the increment, which it stops at. -/
def ctr32 (v : Nat) (hw : HwUpdate) : Word := satAdd (BitVec.ofNat 32 v) (hwInc hw)

/-- A counter of 64 bits after a write; it wraps. -/
def ctr64 (v : Nat) (hw : HwUpdate) : DWord := wrapAdd (BitVec.ofNat 64 v) (hwInc hw)

def State.wrPwr (s : State) (o v : Nat) (hw : HwUpdate) : State :=
  s.modPwr fun w =>
    if o = 0x24 then { w with tripCnt := ctr32 v hw }
    else if o = 0x28 then { w with pdTarget := BitVec.ofNat 16 v, pdPart := BitVec.ofNat 5 (v / 65536), pdTgtEn := bitN v 27 }
    else if o = 0x2C then { w with pdRptH := BitVec.ofNat 32 v }
    else w

/-- The `INJ` word (R632): `INJ_ARM` is HWCLR; a code out of range leaves `INJ_KIND`; a DEPLOYED device takes no double error. -/
def Ras.wrInj (r : Ras) (deployed : Bool) (v : Nat) (hw : HwUpdate) : Ras :=
  let k := bitsN v 11 4
  let fire := (hw == .fire || hw == .clear) && r.injArm
  let lost := r.injLost && !bitN v 31
  { r with
    injType := bitN v 1
    injKind := if k = 2 ∨ k = 3 ∨ k = 5 then BitVec.ofNat 8 k else r.injKind
    injIndex := BitVec.ofNat 16 (bitsN v 27 12)
    injArm := if fire then false else bitN v 0 && !(deployed && bitN v 1)
    injLost := if fire then true else lost || hw == .set }

def State.wrRas (s : State) (o v : Nat) (hw : HwUpdate) : State :=
  s.modRas fun r =>
    if o = 0x18 then { r with ceSram := ctr32 v hw }
    else if o = 0x1C then { r with ceHbm := ctr32 v hw }
    else if o = 0x20 then { r with ueAll := ctr32 v hw }
    else if o = 0x24 then { r with linkRetry := ctr32 v hw }
    else if o = 0x28 then (if v % 256 = 0 then r else { r with ceThresh := BitVec.ofNat 8 v })
    else if o = 0x2C then { r with faultPend := (r.faultPend && !bitN v 0) || hw == .set }
    else if o = 0x30 then r.wrInj (s.sec.lcState == 2) v hw
    else if o = 0x34 then { r with injAddr := BitVec.ofNat 32 v }
    else r

def State.wrSec (s : State) (o v : Nat) (hw : HwUpdate) : State :=
  s.modSec fun c => if o = 0x18 then { c with authFails := ctr32 v hw } else c

def State.wrLnk (s : State) (o v : Nat) (hw : HwUpdate) : State :=
  s.modLnk fun l =>
    if o = 4 then { l with rclBad := ctr32 v hw } else if o = 8 then { l with noteLost := ctr32 v hw } else l

def State.wrHng (s : State) (n o v : Nat) (hw : HwUpdate) : State :=
  s.modHng n fun h =>
    if o = 0xC then { h with lnkRty := ctr32 v hw } else if o = 0x20 then { h with hngOrph := ctr32 v hw } else h

def State.wrFab (s : State) (o v : Nat) (hw : HwUpdate) : State :=
  if o = 4 then
    s.modFab fun b => if 10 ≤ bitsN v 19 0 ∧ bitsN v 19 0 ≤ 1000000 then { b with hostTmo := BitVec.ofNat 20 v } else b
  else if 0x100 ≤ o ∧ o < 0x200 ∧ o % 32 = 4 then s.modPort ((o - 0x100) / 32) fun x => { x with lnkRty := ctr32 v hw }
  else s

/-- The words of a partition page that a plain write reaches: `BOUND`n. -/
def State.wrPrt (s : State) (p o v : Nat) : State :=
  if 0x300 ≤ o ∧ o < 0x340 then s.modP p fun q => { q with bound := modNth q.bound ((o - 0x300) / 4) fun _ => BitVec.ofNat 32 v } else s

def State.wrCab (s : State) (o v : Nat) (hw : HwUpdate) : State :=
  if o = 0x2C then s.modCab fun c => { c with vtFull := ctr32 v hw }
  else if o = 0x40 then s.modCab fun c => { c with fragMiss := ctr32 v hw }
  else if o = 0x30 ∧ bitN v 0 = true then (if hw = .set then s.align perPin (100000 * s.cab.pinPeriod.toNat) else s).pinTrigger
  else s

/-- A value of a timer in its range, or the old one (R627). -/
def inRange (lo hi v : Nat) (old : Word) : Word := if lo ≤ v ∧ v ≤ hi then BitVec.ofNat 32 v else old

def Pol.wrTimer (q : Pol) (o v : Nat) : Pol :=
  if o = 0x18 then { q with phbPeriod := inRange 1 100 v q.phbPeriod }
  else if o = 0x1C then { q with peerDead := inRange 2 10000 v q.peerDead }
  else if o = 0x20 then { q with lease := inRange 10 60000 v q.lease }
  else if o = 0x24 then { q with tReq := inRange 10 1000000 v q.tReq }
  else if o = 0x28 then { q with tGap := inRange 10 1000000 v q.tGap }
  else if o = 0x38 then { q with calPeriod := inRange 1 10000 v q.calPeriod }
  else if o = 0x3C then { q with probePeriod := inRange 10 60000 v q.probePeriod }
  else if o = 0x40 then { q with visitWin := inRange 1 10000 v q.visitWin }
  else if o = 0x48 then { q with gdHold := inRange 100 1000000 v q.gdHold }
  else q

def State.wrPol (s : State) (o v : Nat) (hw : HwUpdate) : State :=
  if o = 0x54 ∧ bitN v 0 = true then (if hw = .set then s.align perCal (100000 * s.pol.calPeriod.toNat) else s).calTrigger
  else
    s.modPol fun q =>
      if o = 0x2C then { q with retry := BitVec.ofNat 3 v }
      else if o = 0x30 then (if fin32 v && !lt32 v 0 && !lt32 0x40800000 v then { q with hyst := BitVec.ofNat 32 v } else q)
      else if o = 0x34 then (if 1 ≤ bitsN v 6 0 ∧ bitsN v 6 0 ≤ 64 then { q with amort := BitVec.ofNat 7 v } else q)
      else if o = 0x44 then (if bitsN v 7 0 ≤ blobMinorMax then { q with pubMinor := BitVec.ofNat 8 v } else q)
      else if o = 0x50 then { q with rppBad := ctr32 v hw }
      else q.wrTimer o v

def State.wrTum (s : State) (t o v : Nat) (hw : HwUpdate) : State :=
  if o = 0x10 then s.modTum t fun x => { x with units := ctr32 v hw }
  else if o = 0x14 then s.modTum t fun x => { x with ce := ctr32 v hw }
  else s

def State.wrHbm (s : State) (k o v : Nat) (hw : HwUpdate) : State :=
  if o = 8 then s.modStk k fun h => { h with ce := ctr32 v hw }
  else if o = 0xC then s.modStk k fun h => { h with ue := ctr32 v hw }
  else s

/-- Write a word; `set` beside a TRIGGER says that its periodic start falls into the same cycle (R640). P words, RO and RC fields, latch words and what no table lists take no write (R10, R622, R626, R642); either half of a
64-bit COUNTER neither (R426). -/
def State.wrWord (s : State) (x : Place) (v : Nat) (hw : HwUpdate) : State :=
  match x.blk with
  | .mgt => s
  | .pwr => s.wrPwr x.off v hw
  | .ras => s.wrRas x.off v hw
  | .sec => s.wrSec x.off v hw
  | .lnk => s.wrLnk x.off v hw
  | .hng => s.wrHng x.k x.off v hw
  | .prt => s.wrPrt x.k x.off v
  | .cab => s.wrCab x.off v hw
  | .shf => s
  | .pol => s.wrPol x.off v hw
  | .lat => s
  | .tum => s.wrTum x.k x.off v hw
  | .hbm => s.wrHbm x.k x.off v hw
  | .fab => s.wrFab x.off v hw

/-- Whether a 64-bit COUNTER field begins at a place. -/
def isCtr64 (x : Place) : Bool :=
  match x.blk with
  | .hng => x.off == 0x10 || x.off == 0x18
  | .fab => decide (0x100 ≤ x.off ∧ x.off < 0x200) && (x.off % 32 == 8 || x.off % 32 == 0x10)
  | .prt => x.off == 0x200 || x.off == 0x238 || x.off == 0x240
  | .shf => decide (x.off < 0x400) && x.off % 0x100 == 8
  | .tum => x.off == 8
  | .hbm => x.off == 0x18 || x.off == 0x20
  | _ => false

/-- Write a 64-bit COUNTER field by one access (R426). -/
def State.wrCtr (s : State) (x : Place) (v : Nat) (hw : HwUpdate) : State :=
  let c := ctr64 v hw
  match x.blk with
  | .hng => s.modHng x.k fun h => if x.off = 0x10 then { h with beatsIn := c } else { h with beatsOut := c }
  | .fab => s.modPort ((x.off - 0x100) / 32) fun q => if x.off % 32 = 8 then { q with bytesTx := c } else { q with bytesRx := c }
  | .prt => s.modP x.k fun q =>
      if x.off = 0x200 then { q with engCycles := c } else if x.off = 0x238 then { q with oobRd := c } else { q with oobWr := c }
  | .shf => { s with shf := modNth s.shf (x.off / 0x100) fun q => { q with stgBytes := c } }
  | .tum => s.modTum x.k fun t => { t with busy := c }
  | .hbm => s.modStk x.k fun h => if x.off = 0x18 then { h with rdBytes := c } else { h with wrBytes := c }
  | _ => s

/-- Write a range in ascending address; the hardware updates in `hw` meet the writes of its words, one for each, none where the list ends. -/
def State.wrRange (s : State) (a : Nat) (hw : List HwUpdate) : Nat → List Nat → State
  | 0, _ => s
  | _, [] => s
  | fuel + 1, v :: vs =>
    match placeOf a with
    | none => s
    | some x =>
      match isCtr64 x, vs with
      | true, u :: us => State.wrRange (s.wrCtr x (v + 2 ^ 32 * u) (nth hw 0 .none)) (a + 8) (hw.drop 2) fuel us
      | _, _ => State.wrRange (s.wrWord x v (nth hw 0 .none)) (a + 4) (hw.drop 1) fuel vs

/-! ### Commands -/

/-- The words of a page and of the CAB block that a table lists. -/
def prtListed (o : Nat) : Bool :=
  prtPWords.contains o || (o % 4 == 0 && decide ((0x200 ≤ o ∧ o < 0x25C) ∨ (0x260 ≤ o ∧ o < 0x270) ∨ (0x300 ≤ o ∧ o < 0x340)))
def cabListed (o : Nat) : Bool := o % 4 == 0 && decide (o ≤ 0x40) && o != 0x1C

def Place.isP (x : Place) : Bool :=
  match x.blk with
  | .prt => prtPWords.contains x.off
  | .cab => cabPWords.contains x.off
  | _ => false

def Place.listed (x : Place) : Bool :=
  match x.blk with
  | .prt => prtListed x.off
  | .cab => cabListed x.off
  | _ => true

/-- `REG_READ` (R465, R466); `events` came to the RC fields of its words in the cycle
of the read. -/
def execRegRead (f : RclFrame) (events : List Nat) (s : State) : Host.Outcome State Fault Refusal :=
  let a := f.pl 0 4
  let n := fld (f.word 4) 8 0
  .next <| s.serve 0x08 (if a + 4 * n ≤ 0x30000 then some .none else none) none f fun _ s =>
    if f.data.length ≠ 8 ∨ fld (f.word 4) 31 9 ≠ 0 ∨ n = 0 ∨ 256 < n ∨ inOneBlock a n = false then (.now .descInvalid [], s)
    else
      let r := s.rdRange a n events
      (.now .ok (bytes4 r.1), r.2)

/-- `REG_WRITE` (R465, R466, R626): plain words in ascending address, or P words as a `PART_SET`. What hardware does to
each word in the cycle of its write is in `hw`; a fence update of a P word is `clear` (R628). -/
def execRegWrite (f : RclFrame) (hw : List HwUpdate) (s : State) : Host.Outcome State Fault Refusal :=
  .next <| s.serve 0x09 none none f fun _ s =>
    let a := f.pl 0 4
    let n := fld (f.word 4) 8 0
    if f.data.length ≠ 8 + 4 * n ∨ fld (f.word 4) 31 9 ≠ 0 ∨ n = 0 ∨ 256 < n ∨ inOneBlock a n = false then (.now .descInvalid [], s)
    else
      let vs := (List.range n).map fun i => f.pl (8 + 4 * i) 4
      let l := (List.range n).filterMap fun i => (placeOf (a + 4 * i)).map fun x => (x, nth vs i 0)
      let met := (List.range n).filterMap fun i => if nth hw i .none = .clear then (placeOf (a + 4 * i)).map (·.off) else none
      if l.any fun e => e.1.isP then
        if l.any fun e => !e.1.isP && e.1.listed then (.now .descInvalid [], s)
        else
          let ps := l.filter fun e => e.1.isP
          let pairs := ps.map fun e => ({ off := e.1.off, cab := e.1.blk == .cab, v := e.2 } : ConfPair)
          let r := s.partSet ((ps.head?.map fun e => e.1.k).getD 0) pairs met
          (.now r.1 [], r.2)
      else (.now .ok [], s.wrRange a hw n vs)

/-- `AMOSWAP.D` of a core to a latch word (R408): the operation in bits [3:0], the `SET_DOMAIN` operand in [13:8], and no other bit. -/
def State.coreSwap (s : State) (core n v : Nat) : State :=
  let op := if v / 16 % 16 ≠ 0 ∨ 2 ^ 14 ≤ v then 15 else v % 16
  (s.latchOp (.core core) n op (v / 256 % 64)).2

/-- A write of a management core (R408, R624, R626): core 4 reaches the SEC block only. An `AMOSWAP.D` acts on latch words alone. -/
def execRegisterWrite (core addr v : Nat) (acc : CoreWrite) (hw : List HwUpdate) (s : State) : Host.Outcome State Fault Refusal :=
  .next <|
    match placeOf addr with
    | none => s
    | some x =>
      if s.coreUp core = false ∨ addr % (if acc = .word then 4 else 8) ≠ 0 ∨ (core = 4 ∧ x.blk ≠ .sec) then s
      else
        match acc with
        | .word => s.wrWord x (v % 2 ^ 32) (nth hw 0 .none)
        | .dword => s.wrRange addr hw 2 [half32 v 0, half32 v 1]
        | .swap => if x.blk = .lat then s.coreSwap core x.k v else s

/-- `INJ_ARM` (R632): a write of the `INJ` word. -/
def execInjArm (v : Nat) (hw : HwUpdate) (s : State) : Host.Outcome State Fault Refusal := .next (s.wrRas 0x30 v hw)

/-- `FAULT_PEND` (R592): a W1C write; a `FAULT` in the same cycle leaves it set. -/
def execFaultPend (v : Nat) (hw : HwUpdate) (s : State) : Host.Outcome State Fault Refusal := .next (s.wrRas 0x2C v hw)

/-- `WRITE_LOST` (R425): a W1C write of bit 31 of an HWCLR word; a new loss in the same cycle leaves it set. -/
def execWriteLost (addr v : Nat) (hw : HwUpdate) (s : State) : Host.Outcome State Fault Refusal :=
  .next <|
    match placeOf addr with
    | none => s
    | some x =>
      if x.blk = .ras ∧ x.off = 0x30 then
        s.modRas fun r => { r with injLost := (r.injLost && !bitN v 31) || hw == .set }
      else if x.blk = .prt ∧ hwclrWord x.off = true ∧ x.off % 4 = 0 then
        s.modP x.k fun q => let q := q.clearLost x.off v; if hw = .set then q.setLost x.off else q
      else s

/-- `HNG_BAD` (R12): a clearing read; `events` came in its cycle. -/
def execHngBad (port events : Nat) (s : State) : Host.Outcome State Fault Refusal :=
  .next (State.clearRc { s with rcRet := (s.getHng port).hngBad } ⟨.hng, port, 4⟩ events)

/-- `LEN_MISM` (R12). -/
def execLenMism (port events : Nat) (s : State) : Host.Outcome State Fault Refusal :=
  .next (State.clearRc { s with rcRet := (s.getHng port).lenMism } ⟨.hng, port, 8⟩ events)

end Sys2Proof.Machine
end

