-- ==== Sys2Proof/Machine/Side.lean ====
section
/-! DEFINITION. The side ports (R589, R597, R598, R615, R616, R618): reset input, brown-out, the I3C target and the test access
port. -/

namespace Sys2Proof.Machine

open Sys2Proof

/-- `RST_N` is asserted (R597, R598): everything but the fuses, the log, the repair list and the fences is reset; the latched
`THERMTRIP_N` ends. -/
def State.assertReset (s : State) : State :=
  let s := s.deviceReset
  { s with side := { s.side with rstN := false }, pwr := { s.pwr with thermtrip := false } }

def execRstNAssert (s : State) : Host.Outcome State Fault Refusal := .next s.assertReset

/-- A rail falls below its brown-out level: as an assertion of `RST_N` (R589, R597). Loss of VAON clears the log, the repair list and the
fences, and `LSEQ` restarts (R580, R584). -/
def execBrownOut (vaon : Bool) (s : State) : Host.Outcome State Fault Refusal :=
  .next (if vaon then { s.assertReset with ras := Ras.reset } else s.assertReset)

/-! ### I3C target (R615, R616) -/

/-- The word that a read returns at an address: only MGT, PWR and RAS return theirs. -/
def State.i3cWord (s : State) (a : Nat) : Nat := if a < 0x30000 then s.rdWord a else 0

/-- `I3C_READ`: 4 to 256 bytes in whole words. What an address that is no multiple of 4 returns is not stated: free words. -/
def execI3cRead (addr n : Nat) (s : State) : Host.Outcome State Fault Refusal :=
  .next <|
    if n % 4 ≠ 0 ∨ n = 0 ∨ 256 < n then s
    else if addr % 4 = 0 then
      s.modSide fun d => { d with i3cData := (List.range (n / 4)).map fun i => BitVec.ofNat 32 (s.i3cWord (addr + 4 * i)) }
    else
      (List.range (n / 4)).foldl (fun (s : State) _ =>
        let w := s.fresh
        w.2.modSide fun d => { d with i3cData := d.i3cData ++ [BitVec.ofNat 32 w.1] }) (s.modSide fun d => { d with i3cData := [] })

/-- `SETDASA`: the target at its static address, 0x3A plus the straps, takes a dynamic address; it answers there until it has one. -/
def execSetdasa (sa addr : Nat) (s : State) : Host.Outcome State Fault Refusal :=
  .next (if s.side.dynAddr.isNone ∧ sa = 0x3A + s.side.straps.toNat then s.modSide fun d => { d with dynAddr := some addr } else s)

/-- `ENTDAA`: a target without a dynamic address takes one. -/
def execEntdaa (addr : Nat) (s : State) : Host.Outcome State Fault Refusal :=
  .next (if s.side.dynAddr.isNone then s.modSide fun d => { d with dynAddr := some addr } else s)

/-! ### Test access port (R618) -/

/-- What `IDCODE` returns. -/
def State.idWord (s : State) : Nat := 1 + at_ s.mgt.jep.toNat 1 + at_ 0xB470 12 + at_ 1 28

def State.tapBypass (s : State) : State := s.modSide fun d => { d with tapIr := .bypass, tapDr := 0, pinsOut := none }

def execBypass (s : State) : Host.Outcome State Fault Refusal := .next s.tapBypass

def execIdcode (s : State) : Host.Outcome State Fault Refusal :=
  .next (s.modSide fun d => { d with tapIr := .idcode, tapDr := s.idWord, pinsOut := none })

/-- `SAMPLE/PRELOAD` takes effect while `RST_N` is low: the pins are sampled. -/
def execSamplePreload (pins : Nat) (s : State) : Host.Outcome State Fault Refusal :=
  .next (if s.side.rstN then s.tapBypass
    else s.modSide fun d => { d with tapIr := .samplePreload, tapDr := pins, pinsIn := pins, pinsOut := none })

/-- `EXTEST` takes effect while `RST_N` is low: the boundary register drives the pins. -/
def execExtest (pins : Nat) (s : State) : Host.Outcome State Fault Refusal :=
  .next (if s.side.rstN then s.tapBypass else s.modSide fun d => { d with tapIr := .extest, tapDr := pins, pinsOut := some pins })

end Sys2Proof.Machine
end

