-- ==== Sys2Proof/Machine/Dispatch.lean ====
section
/-! DEFINITION. The dispatch: one arm for each command, each one call of its meaning. -/

namespace Sys2Proof.Machine

open Sys2Proof

def exec (i : Instr) (s : State) : Host.Outcome State Fault Refusal :=
  match i with
  | .hello f => Sys2Proof.Machine.execHello f s
  | .spdm f => Sys2Proof.Machine.execSpdm f s
  | .getVersion f => Sys2Proof.Machine.execGetVersion f s
  | .getCapabilities f => Sys2Proof.Machine.execGetCapabilities f s
  | .negotiateAlgorithms f => Sys2Proof.Machine.execNegotiateAlgorithms f s
  | .getDigests f => Sys2Proof.Machine.execGetDigests f s
  | .getCertificate f => Sys2Proof.Machine.execGetCertificate f s
  | .challenge f => Sys2Proof.Machine.execChallenge f s
  | .getMeasurements f => Sys2Proof.Machine.execGetMeasurements f s
  | .sessionOpen f c => Sys2Proof.Machine.execSessionOpen f c s
  | .sessionClose f => Sys2Proof.Machine.execSessionClose f s
  | .lifecycle f c => Sys2Proof.Machine.execLifecycle f c s
  | .regRead f events => Sys2Proof.Machine.execRegRead f events s
  | .regWrite f hw => Sys2Proof.Machine.execRegWrite f hw s
  | .latch f => Sys2Proof.Machine.execLatch f s
  | .nop ag n => Sys2Proof.Machine.execNop ag n s
  | .acq ag n => Sys2Proof.Machine.execAcq ag n s
  | .rel ag n => Sys2Proof.Machine.execRel ag n s
  | .relFix ag n => Sys2Proof.Machine.execRelFix ag n s
  | .breakLatch ag n => Sys2Proof.Machine.execBreakLatch ag n s
  | .setDomain ag n d => Sys2Proof.Machine.execSetDomain ag n d s
  | .logRead f => Sys2Proof.Machine.execLogRead f s
  | .calRead f => Sys2Proof.Machine.execCalRead f s
  | .wardJobs f => Sys2Proof.Machine.execWardJobs f s
  | .descCreate f => Sys2Proof.Machine.execDescCreate f s
  | .descDestroy f => Sys2Proof.Machine.execDescDestroy f s
  | .alloc f => Sys2Proof.Machine.execAlloc f s
  | .allocFree f => Sys2Proof.Machine.execAllocFree f s
  | .adapterAlloc f => Sys2Proof.Machine.execAdapterAlloc f s
  | .rangeReq m => Sys2Proof.Machine.execRangeReq m s
  | .adapterFree f => Sys2Proof.Machine.execAdapterFree f s
  | .adapterQuery f => Sys2Proof.Machine.execAdapterQuery f s
  | .adapterUpload f pl => Sys2Proof.Machine.execAdapterUpload f pl s
  | .commonSet f => Sys2Proof.Machine.execCommonSet f s
  | .commonSetClear f => Sys2Proof.Machine.execCommonSetClear f s
  | .pinList f => Sys2Proof.Machine.execPinList f s
  | .jobOpen f => Sys2Proof.Machine.execJobOpen f s
  | .jobClose f => Sys2Proof.Machine.execJobClose f s
  | .jobKill f => Sys2Proof.Machine.execJobKill f s
  | .jobQuery f => Sys2Proof.Machine.execJobQuery f s
  | .stepSubmit f => Sys2Proof.Machine.execStepSubmit f s
  | .partSet f fenced => Sys2Proof.Machine.execPartSet f fenced s
  | .rangeMove f => Sys2Proof.Machine.execRangeMove f s
  | .rangeMoveCancel f => Sys2Proof.Machine.execRangeMoveCancel f s
  | .rangeReclaim f => Sys2Proof.Machine.execRangeReclaim f s
  | .poolQuery f => Sys2Proof.Machine.execPoolQuery f s
  | .powerDown f => Sys2Proof.Machine.execPowerDown f s
  | .powerDownStageEnd => Sys2Proof.Machine.execPowerDownStageEnd s
  | .credit f => Sys2Proof.Machine.execCredit f s
  | .malformedFrame f k => Sys2Proof.Machine.execMalformedFrame f k s
  | .rows p => Sys2Proof.Machine.execRows p s
  | .sort p => Sys2Proof.Machine.execSort p s
  | .shrink p => Sys2Proof.Machine.execShrink p s
  | .expand p => Sys2Proof.Machine.execExpand p s
  | .shrinkExpand p => Sys2Proof.Machine.execShrinkExpand p s
  | .gradExpand p => Sys2Proof.Machine.execGradExpand p s
  | .gradShrink p => Sys2Proof.Machine.execGradShrink p s
  | .poolSum p => Sys2Proof.Machine.execPoolSum p s
  | .poolMean p => Sys2Proof.Machine.execPoolMean p s
  | .gradShip p => Sys2Proof.Machine.execGradShip p s
  | .optStep p => Sys2Proof.Machine.execOptStep p s
  | .quantPublish p => Sys2Proof.Machine.execQuantPublish p s
  | .stat p => Sys2Proof.Machine.execStat p s
  | .latchAcq p => Sys2Proof.Machine.execLatchAcq p s
  | .latchWait p => Sys2Proof.Machine.execLatchWait p s
  | .latchRel p => Sys2Proof.Machine.execLatchRel p s
  | .fence p => Sys2Proof.Machine.execFence p s
  | .copy p => Sys2Proof.Machine.execCopy p s
  | .endProg p => Sys2Proof.Machine.execEndProg p s
  | .stepIssue p => Sys2Proof.Machine.execStepIssue p s
  | .reservation p => Sys2Proof.Machine.execReservation p s
  | .runStart p => Sys2Proof.Machine.execRunStart p s
  | .unitStart p u => Sys2Proof.Machine.execUnitStart p u s
  | .unitComplete p u => Sys2Proof.Machine.execUnitComplete p u s
  | .stagingStreamEnd p q => Sys2Proof.Machine.execStagingStreamEnd p q s
  | .writeAck id => Sys2Proof.Machine.execWriteAck id s
  | .responseEgress port => Sys2Proof.Machine.execResponseEgress port s
  | .stepDone p => Sys2Proof.Machine.execStepDone p s
  | .saveComplete p => Sys2Proof.Machine.execSaveComplete p s
  | .rowVector port v => Sys2Proof.Machine.execRowVector port v s
  | .l1Exit fabric n => Sys2Proof.Machine.execL1Exit fabric n s
  | .linkInactive port => Sys2Proof.Machine.execLinkInactive port s
  | .linkRetryLimit kind n => Sys2Proof.Machine.execLinkRetryLimit kind n s
  | .commandLinkRetrain => Sys2Proof.Machine.execCommandLinkRetrain s
  | .hostReadData xid bytes => Sys2Proof.Machine.execHostReadData xid bytes s
  | .hostWriteCompletion xid => Sys2Proof.Machine.execHostWriteCompletion xid s
  | .hostTmo xid => Sys2Proof.Machine.execHostTmo xid s
  | .rppHello m => Sys2Proof.Machine.execRppHello m s
  | .helloAck m => Sys2Proof.Machine.execHelloAck m s
  | .joinReq m => Sys2Proof.Machine.execJoinReq m s
  | .joinAck m => Sys2Proof.Machine.execJoinAck m s
  | .leave m => Sys2Proof.Machine.execLeave m s
  | .view m => Sys2Proof.Machine.execView m s
  | .viewAck m => Sys2Proof.Machine.execViewAck m s
  | .viewPull m => Sys2Proof.Machine.execViewPull m s
  | .phb m => Sys2Proof.Machine.execPhb m s
  | .redirect m => Sys2Proof.Machine.execRedirect m s
  | .rangeGrant m => Sys2Proof.Machine.execRangeGrant m s
  | .exportReq m => Sys2Proof.Machine.execExportReq m s
  | .exportGrant m => Sys2Proof.Machine.execExportGrant m s
  | .noteReq m => Sys2Proof.Machine.execNoteReq m s
  | .noteRep m => Sys2Proof.Machine.execNoteRep m s
  | .fetchReq m => Sys2Proof.Machine.execFetchReq m s
  | .fetchData m => Sys2Proof.Machine.execFetchData m s
  | .visitRows m => Sys2Proof.Machine.execVisitRows m s
  | .visitDelta m => Sys2Proof.Machine.execVisitDelta m s
  | .gdReq m => Sys2Proof.Machine.execGdReq m s
  | .gdGrant m => Sys2Proof.Machine.execGdGrant m s
  | .gdData m => Sys2Proof.Machine.execGdData m s
  | .gdCommit m => Sys2Proof.Machine.execGdCommit m s
  | .probe m => Sys2Proof.Machine.execProbe m s
  | .probeEcho m => Sys2Proof.Machine.execProbeEcho m s
  | .slowRd m => Sys2Proof.Machine.execSlowRd m s
  | .slowData m => Sys2Proof.Machine.execSlowData m s
  | .slowWr m => Sys2Proof.Machine.execSlowWr m s
  | .slowAck m => Sys2Proof.Machine.execSlowAck m s
  | .pubNotice m => Sys2Proof.Machine.execPubNotice m s
  | .invalidate m => Sys2Proof.Machine.execInvalidate m s
  | .evictNotice m => Sys2Proof.Machine.execEvictNotice m s
  | .retireAck m => Sys2Proof.Machine.execRetireAck m s
  | .moveBegin m => Sys2Proof.Machine.execMoveBegin m s
  | .moveData m => Sys2Proof.Machine.execMoveData m s
  | .moveCommit m => Sys2Proof.Machine.execMoveCommit m s
  | .moveAbort m => Sys2Proof.Machine.execMoveAbort m s
  | .rppFrameDiscard m tagOk => Sys2Proof.Machine.execRppFrameDiscard m tagOk s
  | .tReqExpiry r => Sys2Proof.Machine.execTReqExpiry r s
  | .peerDead inst => Sys2Proof.Machine.execPeerDead inst s
  | .lease inst => Sys2Proof.Machine.execLease inst s
  | .quarantineExpiry inst => Sys2Proof.Machine.execQuarantineExpiry inst s
  | .joinRetry => Sys2Proof.Machine.execJoinRetry s
  | .gdHold aid slot => Sys2Proof.Machine.execGdHold aid slot s
  | .phbPeriod => Sys2Proof.Machine.execPhbPeriod s
  | .calPeriod => Sys2Proof.Machine.execCalPeriod s
  | .probePeriod grp => Sys2Proof.Machine.execProbePeriod grp s
  | .pinPeriod => Sys2Proof.Machine.execPinPeriod s
  | .visitWin => Sys2Proof.Machine.execVisitWin s
  | .demotion p => Sys2Proof.Machine.execDemotion p s
  | .commitCandidate => Sys2Proof.Machine.execCommitCandidate s
  | .commitPoint => Sys2Proof.Machine.execCommitPoint s
  | .vecWait p u => Sys2Proof.Machine.execVecWait p u s
  | .latWait p => Sys2Proof.Machine.execLatWait p s
  | .ticketExpiry t => Sys2Proof.Machine.execTicketExpiry t s
  | .heartbeat => Sys2Proof.Machine.execHeartbeat s
  | .winCyclesDecay => Sys2Proof.Machine.execWinCyclesDecay s
  | .regulatorRefill p => Sys2Proof.Machine.execRegulatorRefill p s
  | .governorPeriod r => Sys2Proof.Machine.execGovernorPeriod r s
  | .vSettle => Sys2Proof.Machine.execVSettle s
  | .sensorSample temp n => Sys2Proof.Machine.execSensorSample temp n s
  | .idleHold d => Sys2Proof.Machine.execIdleHold d s
  | .wakeAdmit => Sys2Proof.Machine.execWakeAdmit s
  | .wakeComplete d => Sys2Proof.Machine.execWakeComplete d s
  | .pdWait => Sys2Proof.Machine.execPdWait s
  | .sramCorrected kind n bank row word => Sys2Proof.Machine.execSramCorrected kind n bank row word s
  | .sramUncorrected kind n bank row word readers => Sys2Proof.Machine.execSramUncorrected kind n bank row word readers s
  | .hbmCorrected addr line row => Sys2Proof.Machine.execHbmCorrected addr line row s
  | .hbmUncorrected addr line row readers => Sys2Proof.Machine.execHbmUncorrected addr line row readers s
  | .logicFault kind n part => Sys2Proof.Machine.execLogicFault kind n part s
  | .managementCoreFault c => Sys2Proof.Machine.execManagementCoreFault c s
  | .securityCoreFault => Sys2Proof.Machine.execSecurityCoreFault s
  | .rstNAssert => Sys2Proof.Machine.execRstNAssert s
  | .brownOut vaon => Sys2Proof.Machine.execBrownOut vaon s
  | .resetRelease straps => Sys2Proof.Machine.execResetRelease straps s
  | .componentVerified digestOk sigOk => Sys2Proof.Machine.execComponentVerified digestOk sigOk s
  | .hbmTrainingDone trained => Sys2Proof.Machine.execHbmTrainingDone trained s
  | .wipeEnd unfinished => Sys2Proof.Machine.execWipeEnd unfinished s
  | .i3cRead addr n => Sys2Proof.Machine.execI3cRead addr n s
  | .setdasa sa addr => Sys2Proof.Machine.execSetdasa sa addr s
  | .entdaa addr => Sys2Proof.Machine.execEntdaa addr s
  | .bypass => Sys2Proof.Machine.execBypass s
  | .idcode => Sys2Proof.Machine.execIdcode s
  | .samplePreload pins => Sys2Proof.Machine.execSamplePreload pins s
  | .extest pins => Sys2Proof.Machine.execExtest pins s
  | .pinRefresh => Sys2Proof.Machine.execPinRefresh s
  | .calNow => Sys2Proof.Machine.execCalNow s
  | .injArm v hw => Sys2Proof.Machine.execInjArm v hw s
  | .faultPend v hw => Sys2Proof.Machine.execFaultPend v hw s
  | .writeLost addr v hw => Sys2Proof.Machine.execWriteLost addr v hw s
  | .hngBad port events => Sys2Proof.Machine.execHngBad port events s
  | .lenMism port events => Sys2Proof.Machine.execLenMism port events s
  | .registerWrite core addr v acc hw => Sys2Proof.Machine.execRegisterWrite core addr v acc hw s
  | .linkTrainingEnd kind n trained lanes => Sys2Proof.Machine.execLinkTrainingEnd kind n trained lanes s
  | .bootStageEnd ok mbist => Sys2Proof.Machine.execBootStageEnd ok mbist s
  | .componentReadEnd => Sys2Proof.Machine.execComponentReadEnd s
  | .issueHoldRelease => Sys2Proof.Machine.execIssueHoldRelease s

end Sys2Proof.Machine
end

