-- ==== Sys2Proof/Safety.lean ====
section
/-! DEFINITION. What a safe run is, and the conditions and effects that statements speak of: the checks that every RCL
command passes before its own, and a response that has left or waits for a credit. -/

namespace Sys2Proof.Machine

open Sys2Proof

/-- An outcome that goes on. -/
def goesOn (o : Host.Outcome State Fault Refusal) : Bool :=
  match o with
  | .next _ => true
  | _ => false

/-- The sparse memories are in their canonical form. -/
def State.memWf (s : State) : Bool := Memory.wf s.hbm && Memory.wf s.shelf && Memory.wf s.flash

/-- Where a command waits (R471): 0 for the step submissions of VC3, 1 a shared entry, 2 one of the 64 urgent entries;
3 says that its queue is full. -/
def State.entryFor (s : State) (row : CmdRow) (urgent : Bool) : Nat :=
  if row.vc = 3 then 0
  else if s.lnk.qUsed.toNat < 4032 then 1
  else if urgent ∧ s.lnk.qUrg.toNat < 64 then 2
  else 3

/-- The state in which a command's own checks begin: its frames are received and its queue entry is taken. -/
def State.entered (s : State) (row : CmdRow) (urgent : Bool) (f : RclFrame) : State :=
  { s with
    lnk := { s.lnk.received f with
             qUsed := if s.entryFor row urgent = 1 then s.lnk.qUsed + 1 else s.lnk.qUsed
             qUrg := if s.entryFor row urgent = 2 then s.lnk.qUrg + 1 else s.lnk.qUrg } }

/-- A message of a command code arrives on an active link under a credit, keeps the frame rules, may be served now, finds
room in its queue and has the authority of its row (R459–R461, R470 checks 1 to 5, R471). `auth` and `urgent` replace the
row's where the defining rule sets them. -/
def State.admits (s : State) (code : Nat) (f : RclFrame) (auth : Option Auth := none) (urgent : Option Bool := none) : Bool :=
  match cmdRow code with
  | none => false
  | some row =>
    s.lnk.lstate == 2 && f.opc == code && nth s.lnk.hostCrd f.vc 0 != 0
    && f.major == 1 && !f.badField
    && f.first && f.seg == 0 && (f.frames == 1 || row.multi) && f.last == (f.frames == 1)
    && s.bootCheck code row f == none
    && f.vc == row.vc
    && s.entryFor row (urgent.getD row.urgent) != 3
    && (row.vc == 3 || s.serviceUp 0 1)
    && authOk (auth.getD row.auth) f (s.sessOf f)
    && s.lnk.out.length == 4

/-- The session a frame names, as the meaning of its command sees it. -/
def State.callerOf (s : State) (code : Nat) (f : RclFrame) (urgent : Option Bool := none) : Caller :=
  { idx := f.session, sess := s.sessOf f
    q := match cmdRow code with
      | some row => s.entryFor row (urgent.getD row.urgent)
      | none => 0 }

/-- The state in which the own checks of an admitted command begin: its frames received, its queue entry taken. -/
def State.begun (s : State) (code : Nat) (f : RclFrame) (urgent : Option Bool := none) : State :=
  match cmdRow code with
  | some row => s.entered row (urgent.getD row.urgent) f
  | none => s

/-- A frame without what its leaving fills in: the credits it carries and its stamp. -/
def OutFrame.bare (fr : OutFrame) : OutFrame := { fr with crd := [], stamp := 0 }

/-- A frame has left for the host or waits on its channel for a credit. -/
def Lnk.delivers (l : Lnk) (fr : OutFrame) : Prop :=
  (∃ g ∈ l.sent, g.bare = fr.bare) ∨ ∃ g ∈ nth l.out fr.vc [], g.bare = fr.bare

/-- Every frame of a command's response (R457, R459, R463) with this status, hint and payload has left or waits for a
credit; it carries the command's tag and session on the command's channel. -/
def State.answers (t : State) (f : RclFrame) (st : Status) (data : List Byte) (hint : Nat := 0) : Prop :=
  ∃ q took, ∀ fr ∈ respFrames f.vc f.w1 f.session (statusCode st) hint q took data, t.lnk.delivers fr

/-- The issued step of partition p has macro-instruction i behind it: reached, complete, and the program position past it. -/
def State.passed (s : State) (p i : Nat) : Prop :=
  ∃ c, s.ctxOf p = some c ∧ (nth c.recs i freshRec).reached = true ∧ (nth c.recs i freshRec).done = true ∧ i < c.pc

/-- `t` is `s` but for the command link: nothing outside it has changed. -/
def State.onlyLink (s t : State) : Prop := { t with lnk := s.lnk } = s

/-! ### Messages of the pool -/

/-- A whole message of a type that is acted on at once (R311, R337–R341, R553): the device is booted, its sub-port is on and awake, the pool
pair runs where the type is its work, the header is good and names this member, the sender's session is open where the type needs one, the
view is not a later one, and no other item or frame waits for the pair. -/
def State.hears (s : State) (m : RppMsg) (ty : Nat) : Bool :=
  m.type == ty && s.booted && decide (s.pwr.pdStage.toNat < 5) && (s.rppPort m).all (fun k => s.awake (domFab k)) && s.rppOk m
    && !(s.hearing m).waitsView m && (rppHw ty || s.serviceUp 2 3) && s.pol.work.isEmpty && s.pol.heldMsgs.isEmpty
    && (match m.pl with | .part _ => false | .cont => false | _ => true)

/-- What follows the handler of a message: the rest of the pair's turn, fills that can go on, the pool service's work. -/
def State.afterMsg (ty : Nat) (s : State) : State :=
  if rppHw ty then s.afterFrame else (State.runWork 8 s).serveFills.poolWork

/-- A frame has left for a peer, or waits for its sub-port's domain (R52) or, on the session, for a credit (R338). -/
def State.outgoing (s : State) (peer : Nat) (m : RppMsg) : Prop :=
  (peer, m) ∈ s.pol.sent ∨ (∃ k, (k, peer, m) ∈ s.fab.frames) ∨ ∃ x ∈ s.pol.sess, x.inst = peer ∧ m ∈ x.wait

/-- Every frame of a message, in this member's view, has left for a peer or waits to leave. -/
def State.told (s : State) (peer ty tag : Nat) (st : Status) (aid ep : Nat) (pl : RppPl) : Prop :=
  ∀ f ∈ (s.rppMsg peer ty tag st aid ep pl).frames, s.outgoing peer f

/-- A message is answered `REDIRECT` with this member's view number, on the channel that it came on (R338, R341). -/
def State.redirected (s : State) (m : RppMsg) : Prop :=
  s.outgoing m.peer ((s.rppMsg m.peer 0x0A m.tag .ok m.aid m.epoch (.num s.pol.viewNum.toNat)).onVc m.vc)

/-- The pool pair runs and has nothing else to do. -/
def State.poolIdle (s : State) : Bool := s.serviceUp 2 3 && s.pol.work.isEmpty && s.pol.heldMsgs.isEmpty

/-- A request's tag is new to the sender's session (R342). -/
def State.newTag (s : State) (m : RppMsg) : Bool :=
  (s.pol.session m.peer).all fun x => !x.busyTags.contains m.tag && !(x.doneTags.any fun e => e.1 == m.tag)

/-- Two states that differ at most in what the sessions remember of their tags. -/
def State.butSess (s t : State) : Prop := { s with pol := { s.pol with sess := t.pol.sess } } = t

/-! ### Exact values -/

/-- The rational number that a dyadic value stands for. -/
def Dy.val (d : Dy) : Rat := (d.int : Rat) * (2 : Rat) ^ d.e

/-- The value of sign S, exponent E and mantissa M of a format with `mb` mantissa bits (R55). -/
def fieldVal (mb bias S E M : Nat) : Rat :=
  (-1 : Rat) ^ S * (if E = 0 then (2 : Rat) ^ (1 - (bias : Int)) * ((M : Rat) / 2 ^ mb) else (2 : Rat) ^ ((E : Int) - bias) * (1 + (M : Rat) / 2 ^ mb))

end Sys2Proof.Machine
end

