-- ==== Sys2Proof/Certificates/Slice0/Obligations.lean ====
section
/-! DEFINITION. The statements about the block, each a proposition of its own, from the numbered rules of spec/. -/

open Sys2Proof Sys2Proof.Machine

/-- The first state after reset release has the values that the Reset columns of the register tables give where they are not zero, in every
instance of each block (R404, R625, R629–R643): versions, clock, awake domains, thresholds, limits, timers, sequence numbers, Shelf capacity, latch words. The reset state's memories are in the canonical form (the model's, log entry 4). -/
def Obligations.ResetValues : Prop :=
  State.reset.memWf = true ∧ ∀ straps, ∃ t, exec (.resetRelease straps) State.reset = .next t
    ∧ (∀ e ∈ [(0x00000, 0x00A1B470), (0x00004, 0x00110101), (0x10000, 1800), (0x10018, 0), (0x1001C, 0), (0x10020, 0xF0000000), (0x20028, 2),
        (0x120010, 1000), (0x120014, 90), (0x120018, 8), (0x140018, 2), (0x14001C, 20), (0x140020, 200), (0x140024, 2000), (0x140028, 500),
        (0x14002C, 2), (0x140030, 0x3E800000), (0x140034, 4), (0x140038, 10), (0x14003C, 100), (0x140040, 20), (0x140048, 2000),
        (0x400004, 1000)], t.rdWord e.1 = e.2)
    ∧ (∀ p < 32, ∀ e ∈ [(0x34, 10000), (0x3C, 10), (0x40, 10000), (0x210, 1), (0x214, 0)], t.rdWord (0x100000 + 0x1000 * p + e.1) = e.2)
    ∧ (∀ q < 4, t.rdWord (0x130000 + 0x100 * q) = 0x30200)
    ∧ (∀ n < 32768, t.rdWord (0x180000 + 8 * n) = 0x200000 ∧ t.rdWord (0x180000 + 8 * n + 4) = 0)
    ∧ (∀ i, (t.slot i).tag = 1 ∧ (t.slot i).desc = none)

/-- A step takes the command at the front of the queue and executes it with the rest of the queue; on an empty queue one ACLK edge passes
(the model's choice, log entry 2): it counts while `RST_N` is high, and each awake domain in use at the edge is noted as last used then. -/
def Obligations.StepTakesTheFront : Prop :=
  (∀ (s : State) (c : Instr) (rest : List Instr), step { s with pending := c :: rest } = exec c { s with pending := rest })
  ∧ (∀ s : State, s.pending = [] → ∃ t, step s = .next t
      ∧ t.mgt.aclkCnt = (if s.side.rstN = true then s.mgt.aclkCnt + 1 else s.mgt.aclkCnt)
      ∧ { t with mgt := s.mgt, pwr := s.pwr } = s ∧ t.mgt = { s.mgt with aclkCnt := t.mgt.aclkCnt }
      ∧ t.pwr = { s.pwr with lastUse := t.pwr.lastUse }
      ∧ ∀ d < 92, t.now ≠ 0 → SMap.get 0 t.pwr.lastUse d = if t.awake d && t.domUsed d then t.now else SMap.get 0 s.pwr.lastUse d)

/-- No command stops the block: every command answers a next state, in every state (the model's choice for events that the state does not
have, log entry 1). -/
def Obligations.EveryCommandGoesOn : Prop :=
  ∀ (c : Instr) (s : State), ∃ t, exec c s = .next t

/-- The memories: a byte reads as it was written and no other byte changes, over one byte and over a run of bytes, and two memories in the
canonical form that read alike are equal. -/
def Obligations.MemoriesReadAsWritten : Prop :=
  ∀ m : Memory, m.wf = true →
    (∀ a b k, (m.write a b).read k = if k = a then b else m.read k)
    ∧ (∀ a bs k, (m.writeN a bs).read k = if a ≤ k ∧ k < a + bs.length then nth bs (k - a) 0 else m.read k)
    ∧ (∀ a n bs, n = bs.length → (m.writeN a bs).readN a n = bs)
    ∧ (∀ n : Memory, n.wf = true → (∀ k, m.read k = n.read k) → m = n)

/-- Every step keeps HBM and the Shelf in their canonical form and never writes the boot memory, whatever command stands at the front
of the queue (R506, R539; the form is the model's, log entry 4). -/
def Obligations.EveryStepKeepsTheMemories : Prop :=
  ∀ s t : State, s.memWf = true → step s = .next t → t.memWf = true ∧ t.flash = s.flash

/-- Elements and scales decode as the tables say (R55, R56): the value of a code of each element format, of a finite FP32 or BF16 pattern
and of an E8M0 scale; specials are no such values: they read as R78 replaces them, counted. The UE5M3 scale codes have the values of R57. -/
def Obligations.ElementsAndScalesDecode : Prop :=
  (∀ fmt eb mb bias S E M : Nat, (fmt, eb, mb, bias) ∈ [(2, 4, 3, 7), (3, 5, 2, 15), (4, 2, 3, 1), (5, 3, 2, 3), (6, 2, 1, 1)] →
    S < 2 → E < 2 ^ eb → M < 2 ^ mb →
    let r := elem fmt (S * 2 ^ (eb + mb) + E * 2 ^ mb + M)
    (¬(fmt = 2 ∧ E = 15 ∧ M = 7) → ¬(fmt = 3 ∧ E = 31) → r.2 = 0 ∧ r.1.val = fieldVal mb bias S E M)
    ∧ (fmt = 2 → E = 15 → M = 7 → r = (Dy.zero, 1))
    ∧ (fmt = 3 → E = 31 → M ≠ 0 → r = (Dy.zero, 1))
    ∧ (fmt = 3 → E = 31 → M = 0 → r.2 = 1 ∧ r.1.val = if S = 0 then 57344 else -57344))
  ∧ (∀ S E M : Nat, S < 2 → E < 256 → M < 2 ^ 23 →
    let w := S * 2 ^ 31 + E * 2 ^ 23 + M
    (E ≠ 255 → isNan w = false ∧ isInf w = false ∧ (dyIeee w).val = fieldVal 23 127 S E M)
    ∧ (E = 255 → isInf w = decide (M = 0) ∧ isNan w = decide (M ≠ 0)))
  ∧ (∀ S E M : Nat, S < 2 → E < 256 → M < 2 ^ 7 →
    let w := wide (S * 2 ^ 15 + E * 2 ^ 7 + M)
    (E ≠ 255 → isNan w = false ∧ isInf w = false ∧ (dyIeee w).val = fieldVal 7 127 S E M)
    ∧ (E = 255 → isInf w = decide (M = 0) ∧ isNan w = decide (M ≠ 0)))
  ∧ (∀ c < 255, ∃ d, e8m0 c = some d ∧ d.val = (2 : Rat) ^ ((c : Int) - 127)) ∧ e8m0 255 = none
  ∧ (∀ e m : Nat, e < 32 → m < 8 → 8 * e + m ≠ 255 →
    (ue5m3 (8 * e + m)).val = if e = 0 then (m : Rat) * (2 : Rat) ^ (-17 : Int) else (1 + (m : Rat) / 8) * (2 : Rat) ^ ((e : Int) - 15))

/-- The activation quantizer (R79, R81): a block of any values gets a scale that is no special, and elements that are none and are finite; a
block of zeros gets scale 0 and zero elements, any other the exponent of its largest magnitude, shifted by the offset and clamped. -/
def Obligations.QuantizerWritesNoSpecials : Prop :=
  ∀ (fmt : Nat) (k : Int) (xs : List Nat), fmt ∈ [2, 3, 4, 5, 6] →
    let r := quantBlock fmt k xs
    r.1.length = xs.length ∧ r.2.1 ≤ 254 ∧ r.2.2.n = xs.length
      ∧ (∀ c ∈ r.1, (elem fmt c).2 = 0 ∧ c < 2 ^ (1 + (efmt fmt).eb + (efmt fmt).mb))
      ∧ ((∀ x ∈ xs, mag32 x = 0) → r.2.1 = 0 ∧ ∀ c ∈ r.1, c = 0)
      ∧ (∀ a, a ∈ xs → mag32 a ≠ 0 → (∀ x ∈ xs, mag32 x ≤ mag32 a) →
        ((r.2.1 : Nat) : Int) = max (-127) (min 127 ((expo32 a : Int) - 127 - (efmt fmt).emax + k)) + 127)

/-- `HELLO` from a host of protocol version 1 starts the link session and reports versions, identity, life-cycle state
and `READY` (R464); the first one starts the period of the heartbeats (R476), and nothing else outside the command link changes. -/
def Obligations.HelloStartsTheLink : Prop :=
  ∀ (s : State) (f : RclFrame), s.admits 0x01 f = true → f.data.length = 4 → fld (f.word 0) 31 16 = 0 →
    fld (f.word 0) 7 0 = 1 →
    ∃ t, exec (.hello f) s = .next t ∧ t.answers f .ok (helloReply s) ∧ t.lnk.helloOk = true ∧ t.lnk.hbOn = true
      ∧ { t with lnk := s.lnk, mgt := s.mgt } = s ∧ { t.mgt with dueAt := s.mgt.dueAt } = s.mgt
      ∧ t.mgt.dueAt = if s.lnk.hbOn = true then s.mgt.dueAt else SMap.set 0 s.mgt.dueAt perHeartbeat (s.now + 100000)

/-- Each SPDM request of R510, as `SPDM` or under its own name, is answered on a link whose security core runs: the
response code, then a body that spec/ does not lay out (a free value). The codes are the model's, PRESUMED from SPDM 1.3
(log entry 3). Only `GET_VERSION` and `NEGOTIATE_ALGORITHMS` change state beyond the link: what the exchange has reached. -/
def Obligations.SpdmRequestsAnswered : Prop :=
  ∀ (s : State) (f : RclFrame) (req rsp : Nat) (i : Instr),
    (req, rsp, i) ∈ [(0x84, 0x04, Instr.getVersion f), (0xE1, 0x61, .getCapabilities f),
      (0xE3, 0x63, .negotiateAlgorithms f), (0x81, 0x01, .getDigests f), (0x82, 0x02, .getCertificate f),
      (0x83, 0x03, .challenge f), (0xE0, 0x60, .getMeasurements f)] →
    f.pl 1 1 = req → s.admits 0x02 f = true → s.sec.coreFault = false → 4 ≤ f.data.length →
    (req = 0x84 ∨ s.sec.spdmVer = true) → (req = 0x84 ∨ req = 0xE1 ∨ req = 0xE3 ∨ s.sec.spdmAlg = true) →
    ∀ c ∈ [i, .spdm f], ∃ t, exec c s = .next t
      ∧ t.answers f .ok ([if req = 0x84 then 0x10 else 0x13, BitVec.ofNat 8 rsp, 0, 0] ++ Config.spdmBody req s.freeCtr)
      ∧ { t with lnk := s.lnk, freeCtr := s.freeCtr, sec := s.sec } = s
      ∧ t.sec = { s.sec with spdmVer := t.sec.spdmVer, spdmAlg := t.sec.spdmAlg }
      ∧ t.sec.spdmVer = true
      ∧ t.sec.spdmAlg = (if req = 0x84 then false else if req = 0xE3 then true else s.sec.spdmAlg)

/-- `SESSION_OPEN` of a request that is no claim: when every check of R515 passes the session and its ticket exist with the
indices that check 7 reserved, `SEPOCH` is one more than the last (R513, R522), the ticket ends once the requested
lifetime has passed (R422) and the open counter of the key is recorded; nothing beyond the link and the SEC block changes. -/
def Obligations.SessionOpenCreatesSessionAndTicket : Prop :=
  ∀ (s : State) (f : RclFrame) (c : Crypto) (si ti : Nat), s.admits 0x03 f = true → openCheck1 f = true →
    (openPl f).claim = false → s.sec.lcState ≠ 3 → ((openPl f).kind = 2 → s.sec.lcState = 2) → s.sec.coreFault = false →
    c.sigOk = true → ((openPl f).kind = 1 → s.rootOk (openPl f) c = true) →
    ((openPl f).kind = 2 → s.wardOf c.digest = some (openPl f).ward) →
    (∀ e ∈ s.sec.openCtr, e.1 = c.digest → e.2 < (openPl f).ctr) → c.kemOk = true → s.openIdx = some (si, ti) →
    ∃ t, exec (.sessionOpen f c) s = .next t
      ∧ t.answers f .ok (bytes4 [si + at_ ti 16, (openPl f).ward] ++ leBytes 8 (s.sec.sepochLast + 1).toNat ++ c.confirm)
      ∧ { t with lnk := s.lnk, sec := s.sec } = s
      ∧ t.sec = { s.sec with
          sepochLast := s.sec.sepochLast + 1
          sessions := SMap.insert s.sec.sessions si
            { operator := (openPl f).kind == 1, ward := (openPl f).ward, ticket := ti, sepoch := (s.sec.sepochLast + 1).toNat, upCtr := 0 }
          lastSession := some si
          tickets := SMap.insert s.sec.tickets ti
            { ward := (openPl f).ward, list := if (openPl f).listMode then some (openPl f).list else none
              sepoch := (s.sec.sepochLast + 1).toNat, expiry := s.now + msTicks (openPl f).life, parts := (openPl f).parts
              budget := (openPl f).budget, session := si }
          lastTicket := ti
          openCtr := (c.digest, (openPl f).ctr) :: s.sec.openCtr.filter fun e => e.1 != c.digest }

/-- A session ends, with its ticket, by `SESSION_CLOSE` from itself or from an OPERATOR session, when its ticket's lifetime has run out, and
with a life-cycle transition or a reset (R520); the first two leave everything else as it was but the link. A `SESSION_CLOSE` that names no open
session is answered DESC_INVALID and changes nothing. -/
def Obligations.SessionsEnd : Prop :=
  (∀ (s : State) (f : RclFrame) (x : Session), s.admits 0x04 f = true → f.data.length = 4 → fld (f.word 0) 31 16 = 0 →
    s.sec.coreFault = false → s.sec.sessions.find? (fun e => e.1 == fld (f.word 0) 15 0) = some (fld (f.word 0) 15 0, x) →
    (fld (f.word 0) 15 0 = f.session ∨ (s.sessOf f).any (·.operator) = true) →
    ∃ t, exec (.sessionClose f) s = .next t ∧ t.answers f .ok [] ∧ { t with lnk := s.lnk, sec := s.sec } = s
      ∧ t.sec = { s.sec with sessions := SMap.erase s.sec.sessions (fld (f.word 0) 15 0)
                             tickets := SMap.erase s.sec.tickets x.ticket })
  ∧ (∀ (s : State) (f : RclFrame), s.admits 0x04 f = true → f.data.length = 4 → fld (f.word 0) 31 16 = 0 → s.sec.coreFault = false →
    SMap.has s.sec.sessions (fld (f.word 0) 15 0) = false →
    ∃ t, exec (.sessionClose f) s = .next t ∧ t.answers f .descInvalid [] ∧ s.onlyLink t)
  ∧ (∀ (s : State) (k : Nat) (tk : Ticket) (x : Session), s.sec.tickets.find? (fun e => e.1 == k) = some (k, tk) →
    tk.expiry ≤ s.now → s.sec.sessions.find? (fun e => e.1 == tk.session) = some (tk.session, x) →
    exec (.ticketExpiry k) s = .next { s with
      sec := { s.sec with sessions := SMap.erase s.sec.sessions tk.session, tickets := SMap.erase s.sec.tickets x.ticket } })
  ∧ (∀ (s t : State) (f : RclFrame) (c : Crypto), exec (.lifecycle f c) s = .next t → t.sec.lcState ≠ s.sec.lcState →
    t.sec.sessions = [] ∧ t.sec.tickets = [])
  ∧ (∀ (s : State) (vaon : Bool), ∀ c ∈ [Instr.rstNAssert, .brownOut vaon],
    ∃ t, exec c s = .next t ∧ t.sec.sessions = [] ∧ t.sec.tickets = [])

/-- `LIFECYCLE` of a transition that R504 lists, with both signatures good: the device starts over in the new state with the
OPERATOR root of its request (a device that is decommissioned keeps its own: the model's choice, log entry 77), no session and no ticket, a transition between OPERATIONAL and DEPLOYED counted, the RAS log, repair list and
fences cleared (R505, R580) and every memory at its reset contents. -/
def Obligations.LifecycleMovesTheDevice : Prop :=
  ∀ (s : State) (f : RclFrame) (c : Crypto), s.admits 0x05 f = true → f.data.length = 0x12E8 → fld (f.word 0) 31 2 = 0 →
    f.word 4 = 0 → fld (f.word 0x10) 31 4 = 0 → f.word 0x14 = 0 → (fld (f.word 0) 1 0 ≠ 2 → f.pl 0x18 48 = 0) →
    lcStep s.sec.lcState.toNat (fld (f.word 0) 1 0) = true → f.pl 8 8 = s.mgt.devId.toNat → s.sec.coreFault = false →
    fld (f.word 0x10) 3 0 = s.sec.lcXfers.toNat →
    (lcCounts s.sec.lcState.toNat (fld (f.word 0) 1 0) = true → s.sec.lcXfers.toNat ≠ 15) → c.sigOk = true →
    ∃ t, exec (.lifecycle f c) s = .next t ∧ t.sec.lcState = BitVec.ofNat 2 (fld (f.word 0) 1 0)
      ∧ t.sec.lcXfers = (if lcCounts s.sec.lcState.toNat (fld (f.word 0) 1 0) then s.sec.lcXfers + 1 else s.sec.lcXfers)
      ∧ t.sec.opRoot = (if fld (f.word 0) 1 0 = 2 then f.pl 0x18 48 else if fld (f.word 0) 1 0 = 3 then s.sec.opRoot else 0)
      ∧ t.sec.sessions = [] ∧ t.sec.tickets = [] ∧ t.ras = Ras.reset ∧ t.hbm = [] ∧ t.shelf = [] ∧ t.flash = s.flash
      ∧ t.pending = s.pending

/-- Whatever the operation and its outcome, a latch operation (R405) touches the one latch word it names and the word it returns: everything
else keeps its value, and every other latch. `LATCH` performs one latch operation for the host (R465, R473) and answers with its status and
the latch word; beyond the link only that latch and the returned word change. -/
def Obligations.LatchOperationsTouchOneLatch : Prop :=
  (∀ (s : State) (ag : Agent) (n d : Nat) (t : State),
      ∀ i ∈ [Instr.nop ag n, .acq ag n, .rel ag n, .relFix ag n, .breakLatch ag n, .setDomain ag n d], exec i s = .next t →
        { t with latch := s.latch, latchRet := s.latchRet } = s
        ∧ ∀ m, m ≠ n → t.latchAt m = s.latchAt m)
  ∧ (∀ (s : State) (f : RclFrame), s.admits 0x0A f = true → f.data.length = 8 → fld (f.word 0) 31 15 = 0 →
      fld (f.word 4) 7 4 = 0 → fld (f.word 4) 31 14 = 0 →
      let r := s.latchOp .host (fld (f.word 0) 14 0) (fld (f.word 4) 3 0) (fld (f.word 4) 13 8)
      ∃ t, exec (.latch f) s = .next t ∧ t.answers f r.1 (leBytes 8 r.2.latchRet.toNat)
        ∧ t.latch = r.2.latch ∧ t.latchRet = r.2.latchRet ∧ { t with lnk := s.lnk, latch := s.latch, latchRet := s.latchRet } = s)

/-- The latch operations (R405) by an agent that the latch admits: what each operation returns and what it leaves in the latch, by the
state that it finds; each acquisition that succeeds counts; a latch that leaves HELD loses its owner fields and `BRK`, which one that is not
HELD reads as 0; only management cores and the host may BREAK and SET_DOMAIN; reserved operations and domains are turned away. -/
def Obligations.LatchTable : Prop :=
  (∀ (s : State) (ag : Agent) (n d : Nat) (o : OwnerKind × Nat × BitVec 16), s.ownerOf ag = some o → n < 32768 →
    (s.latchAt n).admits ag = true →
    let l := s.latchAt n
    let priv := match ag with | .context _ => false | _ => true
    let put (l' : Latch) (st : Status) : Host.Outcome State Fault Refusal :=
      .next { s with latch := SMap.set Latch.fresh s.latch n l', latchRet := l'.word (statusCode st) }
    exec (.nop ag n) s = put l .ok
    ∧ (l.st = .free → exec (.acq ag n) s = put (l.take o false) .ok)
    ∧ (l.st = .broken → exec (.acq ag n) s = put (l.take o true) .brokenLatch)
    ∧ (l.st = .held → exec (.acq ag n) s = put l .latchHeld)
    ∧ (l.heldBy o = true → exec (.rel ag n) s = put (l.leave (if l.brk then .broken else .free)) .ok)
    ∧ (l.heldBy o = true → exec (.relFix ag n) s = put (l.leave .free) .ok)
    ∧ (l.heldBy o = false → exec (.rel ag n) s = put l .descInvalid ∧ exec (.relFix ag n) s = put l .descInvalid)
    ∧ (priv = true → l.st = .held → exec (.breakLatch ag n) s = put (l.leave .broken) .ok)
    ∧ (priv = true → l.st ≠ .held → exec (.breakLatch ag n) s = put l .ok)
    ∧ (priv = true → d ≤ 0x20 → l.st ≠ .held → exec (.setDomain ag n d) s = put { l with domain := d } .ok)
    ∧ (priv = true → d ≤ 0x20 → l.st = .held → exec (.setDomain ag n d) s = put l .latchHeld)
    ∧ (0x20 < d → exec (.setDomain ag n d) s = put l .descInvalid)
    ∧ (priv = false → exec (.breakLatch ag n) s = put l .descInvalid ∧ exec (.setDomain ag n d) s = put l .descInvalid)
    ∧ (∀ op, 6 ≤ op → Host.Outcome.next (s.latchOp ag n op d).2 = put l .descInvalid ∧ (s.latchOp ag n op d).1 = .descInvalid)
    ∧ (∀ op, SMap.wf Latch.fresh s.latch = true → (l.st ≠ .held → l.brk = false) → ((s.latchOp ag n op d).2.latchAt n).st ≠ .held → ((s.latchOp ag n op d).2.latchAt n).brk = false))
  ∧ (∀ (l : Latch) (o : OwnerKind × Nat × BitVec 16) (b : Bool) (st : LatchState),
    l.take o b = { st := .held, brk := b, domain := l.domain, okind := o.1, oid := o.2.1, osav := false, osseq := o.2.2, cnt := l.cnt + 1 }
    ∧ l.leave st = { st := st, brk := false, domain := l.domain, okind := .none, oid := 0, osav := false, osseq := 0, cnt := l.cnt })
  ∧ (∀ (s : State) (c p : Nat) (o : OwnerKind × Nat × BitVec 16),
    (c ≤ 5 → c ≠ 4 → s.ownerOf (.core c) = some (.core, c, 0)) ∧ s.ownerOf .host = some (.host, 0, 0)
    ∧ (s.ownerOf (.context p) = some o → o.1 = .context ∧ o.2.1 = p ∧ ∃ x ∈ (s.getP p).ctx, o.2.2 = BitVec.ofNat 16 x.sub.sseq))

/-- `REG_READ` of a range inside one block instance (R466) answers the words in ascending order as they read when the command is served (on
a command link that has taken the command's frame and queue entry); of the rest only the clearing fields of the range change, each to the
events of its cycle (R12). `REG_WRITE` of words that are no P words is answered OK (R466, R626) and writes each as a core's store would; a
context bound (`BOUND`n, R636) becomes the word written. One of P words alone is a `PART_SET`: here the share, quota, limit and wait words
of a page that leave a configuration the device accepts (R374), none of them cleared by a fence in that cycle (R628). -/
def Obligations.RegistersAreReadAndWrittenOverTheLink : Prop :=
  (∀ (s : State) (f : RclFrame) (ev : List Nat),
      s.admits 0x08 f (if f.pl 0 4 + 4 * fld (f.word 4) 8 0 ≤ 0x30000 then some .none else none) = true →
      f.data.length = 8 → fld (f.word 4) 31 9 = 0 → 1 ≤ fld (f.word 4) 8 0 → fld (f.word 4) 8 0 ≤ 256 →
      inOneBlock (f.pl 0 4) (fld (f.word 4) 8 0) = true →
      ∃ t, exec (.regRead f ev) s = .next t
        ∧ t.answers f .ok (bytes4 ((List.range (fld (f.word 4) 8 0)).map fun i => (s.begun 0x08 f).rdWord (f.pl 0 4 + 4 * i)))
        ∧ { t with lnk := s.lnk, hng := s.hng } = s ∧ t.hng.length = s.hng.length
        ∧ (∀ k < s.hng.length, { t.getHng k with hngBad := (s.getHng k).hngBad, lenMism := (s.getHng k).lenMism } = s.getHng k)
        ∧ (∀ i < fld (f.word 4) 8 0, ∀ k < s.hng.length,
            (placeOf (f.pl 0 4 + 4 * i) = some ⟨.hng, k, 4⟩ → (t.getHng k).hngBad = BitVec.ofNat 32 (sat32 (nth ev i 0)))
            ∧ (placeOf (f.pl 0 4 + 4 * i) = some ⟨.hng, k, 8⟩ → (t.getHng k).lenMism = BitVec.ofNat 32 (sat32 (nth ev i 0))))
        ∧ ((∀ i < fld (f.word 4) 8 0, ∀ x, placeOf (f.pl 0 4 + 4 * i) = some x → ¬(x.blk = .hng ∧ (x.off = 4 ∨ x.off = 8))) → t.hng = s.hng))
  ∧ (∀ (s : State) (f : RclFrame) (hw : List HwUpdate), s.admits 0x09 f = true → f.data.length = 8 + 4 * fld (f.word 4) 8 0 →
      fld (f.word 4) 31 9 = 0 → 1 ≤ fld (f.word 4) 8 0 → fld (f.word 4) 8 0 ≤ 256 → inOneBlock (f.pl 0 4) (fld (f.word 4) 8 0) = true →
      (∀ i < fld (f.word 4) 8 0, ∀ x, placeOf (f.pl 0 4 + 4 * i) = some x → x.isP = false) →
      ∃ t, exec (.regWrite f hw) s = .next t ∧ t.answers f .ok []
        ∧ { t with lnk := s.lnk } = { (s.begun 0x09 f).wrRange (f.pl 0 4) hw (fld (f.word 4) 8 0)
              ((List.range (fld (f.word 4) 8 0)).map fun i => f.pl (8 + 4 * i) 4) with lnk := s.lnk }
        ∧ (∀ p n, p < 32 → n < 16 → f.pl 0 4 = 0x100300 + 0x1000 * p + 4 * n → fld (f.word 4) 8 0 = 1 →
            { t with lnk := s.lnk } = { s with prt := modNth s.prt p fun q => { q with bound := modNth q.bound n fun _ => BitVec.ofNat 32 (f.pl 8 4) } }))
  ∧ (∀ (s : State) (f : RclFrame) (hw : List HwUpdate) (p off : Nat), s.admits 0x09 f = true → f.data.length = 8 + 4 * fld (f.word 4) 8 0 →
      fld (f.word 4) 31 9 = 0 → 1 ≤ fld (f.word 4) 8 0 → p < 32 → f.pl 0 4 = 0x100000 + 0x1000 * p + off → off % 4 = 0 → 0x20 ≤ off →
      off + 4 * fld (f.word 4) 8 0 ≤ 0x44 → (∀ i < fld (f.word 4) 8 0, nth hw i .none ≠ .clear) → (∀ q ∈ s.prt, q.tumNext = none) →
      (∀ t ∈ tumsOf (s.getP p).tumOwn, s.ras.fencePair.getLsbD (t / 2) = false) →
      let set (q : Prt) : Prt := (List.range (fld (f.word 4) 8 0)).foldl (fun q i => q.setWord (off + 4 * i) (f.pl (8 + 4 * i) 4)) q
      s.configOk (modNth s.prt p set) s.cab (s.shf.map fun x => x.cap.toNat) = true →
      ∃ t, exec (.regWrite f hw) s = .next t ∧ t.answers f .ok [] ∧ { t with lnk := s.lnk } = { s with prt := modNth s.prt p set })

/-- The commands that only report (R465): `LOG_READ` (R362), `CAL_READ` (R330), `WARD_JOBS` (R391), `JOB_QUERY` (R380),
`POOL_QUERY` (R308, R315) and `ADAPTER_QUERY` (R154, R156) answer with what the state holds and change nothing beyond the command link. -/
def Obligations.QueriesReportAndChangeNothing : Prop :=
  ∀ (s : State) (f : RclFrame),
    (s.admits 0x0B f = true → f.data.length = 12 → fld (f.word 8) 31 7 = 0 → 1 ≤ fld (f.word 8) 6 0 → fld (f.word 8) 6 0 ≤ 64 →
      ∃ t, exec (.logRead f) s = .next t ∧ s.onlyLink t
        ∧ t.answers f .ok (((s.cab.log.filter fun r => decide (f.pl 0 8 ≤ r.lseq)).take (fld (f.word 8) 6 0)).flatMap CommitRec.bytes))
    ∧ (∀ x, s.admits 0x0C f = true → f.data.length = 8 →
        s.pol.snaps.find? (fun y => y.id == if f.pl 0 8 = 0 then s.pol.snapLast.toNat else f.pl 0 8) = some x →
      ∃ t, exec (.calRead f) s = .next t ∧ s.onlyLink t
        ∧ t.answers f .ok (leBytes 8 x.id ++ leBytes 8 x.stamp ++ (List.range 256).flatMap fun g =>
            bytes4 [(nth x.grps g ⟨0, 0, 0, 0⟩).latV, (nth x.grps g ⟨0, 0, 0, 0⟩).bwV, (nth x.grps g ⟨0, 0, 0, 0⟩).latF,
              (nth x.grps g ⟨0, 0, 0, 0⟩).bwF]))
    ∧ (s.admits 0x0D f = true → f.data.length = 4 → fld (f.word 0) 31 12 = 0 →
      ∃ t, exec (.wardJobs f) s = .next t ∧ s.onlyLink t
        ∧ t.answers f .ok (((s.mgt.wardJobs.drop (fld (f.word 0) 11 0)).take 256).flatMap fun e => bytes4 [e.1, e.2.1, e.2.2, 0]))
    ∧ (∀ p j, s.admits 0x23 f = true → f.data.length = 8 → s.jobOf (f.pl 0 8) = some (p, j) →
        (s.callerOf 0x23 f).mayActFor j.ward = true →
      ∃ t, exec (.jobQuery f) s = .next t ∧ s.onlyLink t
        ∧ t.answers f .ok (leBytes 8 (jobCode j.st + at_ j.queue.length 8
            + at_ (min (((s.getP p).ctx.map fun c => if c.job = j.num then c.npre else 0).getD 0) 255) 13) ++ leBytes 8 j.last))
    ∧ (s.admits 0x32 f = true → f.data.length = 0 →
      ∃ t, exec (.poolQuery f) s = .next t ∧ s.onlyLink t ∧ t.answers f .ok (poolReply s))
    ∧ (∀ e, s.admits 0x1A f = true → f.data.length = 4 → fld (f.word 0) 31 24 = 0 → fld (f.word 0) 23 0 ≠ 0 →
        s.entry (fld (f.word 0) 23 0) = some e → (s.sessOf f).any (fun x => x.operator || e.ward == x.ward) = true →
      ∃ t, exec (.adapterQuery f) s = .next t ∧ s.onlyLink t ∧ t.answers f .ok (s.entryBytes e ++ e.vtabBytes))

/-- `DESC_CREATE` whose image passes every check of R109 and finds a free slot under the quota: the handle of the slot the free list gives
(R115) and the flags of R104 and R110 are answered, the slot holds the descriptor without a reference, each auxiliary descriptor is
referenced once (R102); nothing beyond the link and the descriptor table changes. `DESC_DESTROY` of a live handle without references, of a
descriptor without auxiliary ones, while no freed allocation waits: the slot is free with the next tag (R115), every handle that named it is
stale (R117, R119), and nothing else but the link changes. -/
def Obligations.DescriptorsAreCreatedAndDestroyed : Prop :=
  (∀ (s : State) (f : RclFrame) (d0 : Desc) (i tag : Nat), s.admits 0x10 f = true → f.data.length = 128 → fld (f.word 0) 31 5 = 0 →
      ((f.data.drop 4).take 28).all (· == 0) = true →
      d0 = { part := fld (f.word 0) 4 0, words := wordsOf (f.data.drop 32) 24, overlap := false, misaligned := false } →
      d0.check1 = true → d0.check2 = true → (∀ h ∈ [d0.scaleH, d0.pscaleH, d0.escH], s.handle h ≠ .stale) → s.check4 d0 = true →
      (d0.aligned = true → d0.base % 64 = 0 ∧ ∀ k < d0.rank, d0.stride k % 64 = 0) →
      s.inGrant d0.part d0.space d0.base d0.footprint = true → s.freeSlot = some (i, tag) → s.dscUse d0.part < (s.getP d0.part).dscQuota.toNat →
      let d := { d0 with overlap := d0.overlaps, misaligned := d0.misaligns }
      ∃ t, exec (.descCreate f) s = .next t
        ∧ t.answers f .ok (bytes4 [(BitVec.ofNat 32 (2 ^ 18 * tag + i)).toNat, b2n d.overlap + at_ (b2n d.misaligned) 1])
        ∧ { t with lnk := s.lnk, desc := s.desc } = s
        ∧ t.desc = (d.aux.foldl State.addRef
            (s.setSlot i { tag := tag, desc := some d, dead := false, refs := 0, retired := false })).desc)
  ∧ (∀ (s : State) (f : RclFrame) (i : Nat) (d : Desc), s.admits 0x11 f = true → f.data.length = 4 → s.handle (f.word 0) = .live i d →
      (s.slot i).refs = 0 → (s.slot i).tag < 0x3FFF → d.aux = [] → (∀ a ∈ s.allocs, a.2.freed = false) →
      ∃ t, exec (.descDestroy f) s = .next t ∧ t.answers f .ok [] ∧ { t with lnk := s.lnk, desc := s.desc } = s
        ∧ t.slot i = { tag := (s.slot i).tag + 1, desc := none, dead := false, refs := 0, retired := (s.slot i).retired }
        ∧ (∀ j, j ≠ i → t.slot j = s.slot j)
        ∧ t.handle (f.word 0) = .stale)

/-- `ALLOC` (R467) reserves the lowest free range of HBM under the partition's quota, or registers a range of the host space that no other
partition's registered range overlaps, and answers the allocation's number and base. `ALLOC_FREE` (R108) of an allocation in which no
descriptor lies, while no other freed allocation waits: the allocation and its range of the Cabinet are gone, and nothing else but the link
changes. -/
def Obligations.RangesAreAllocatedAndFreed : Prop :=
  (∀ (s : State) (f : RclFrame), s.admits 0x12 f = true → f.data.length = 24 → fld (f.word 0) 7 5 = 0 → fld (f.word 0) 31 11 = 0 →
      f.word 4 = 0 → f.pl 8 8 ≠ 0 → f.pl 8 8 % granule = 0 →
      (∀ g, fld (f.word 0) 10 8 = 0 → f.pl 16 8 = 0 →
        s.cabUse (fld (f.word 0) 4 0) + f.pl 8 8 / granule ≤ (s.getP (fld (f.word 0) 4 0)).cabQuota.toNat →
        lowestFree (f.pl 8 8 / granule) s.cab.exportBase 0 s.cab.extents = some g →
        ∃ t, exec (.alloc f) s = .next t ∧ t.answers f .ok (leBytes 8 s.allocNext ++ leBytes 8 (gAddr g))
          ∧ { t with lnk := s.lnk } = { s with
                allocs := SMap.insert s.allocs s.allocNext
                  { part := fld (f.word 0) 4 0, space := 0, base := gAddr g, size := f.pl 8 8, freed := false }
                allocNext := s.allocNext + 1
                cab := { s.cab with extents := addExtent ⟨g, f.pl 8 8 / granule, fld (f.word 0) 4 0, .alloc s.allocNext⟩ s.cab.extents } })
      ∧ (fld (f.word 0) 10 8 = 2 → f.pl 16 8 % granule = 0 → f.pl 16 8 + f.pl 8 8 ≤ 2 ^ 56 →
        (∀ e ∈ s.allocs, e.2.space = 2 → e.2.part ≠ fld (f.word 0) 4 0 →
          e.2.base + e.2.size ≤ f.pl 16 8 ∨ f.pl 16 8 + f.pl 8 8 ≤ e.2.base) →
        ∃ t, exec (.alloc f) s = .next t ∧ t.answers f .ok (leBytes 8 s.allocNext ++ leBytes 8 (f.pl 16 8))
          ∧ { t with lnk := s.lnk } = { s with
                allocs := SMap.insert s.allocs s.allocNext
                  { part := fld (f.word 0) 4 0, space := 2, base := f.pl 16 8, size := f.pl 8 8, freed := false }
                allocNext := s.allocNext + 1 }))
  ∧ (∀ (s : State) (f : RclFrame) (a : Alloc), s.admits 0x13 f = true → f.data.length = 4 →
      s.allocs.find? (fun e => e.1 == f.pl 0 4) = some (f.pl 0 4, a) → (s.allocs.map (·.1)).Pairwise (· < ·) →
      (∀ e ∈ s.allocs, e.2.freed = false) →
      (∀ e ∈ s.desc, ∀ d, e.2.desc = some d → d.liesIn a.part a.space a.base a.size = false) →
      ∃ t, exec (.allocFree f) s = .next t ∧ t.answers f .ok []
        ∧ { t with lnk := s.lnk } = { s with allocs := SMap.erase s.allocs (f.pl 0 4), cab := s.cab.release (.alloc (f.pl 0 4)) })

/-- `ADAPTER_ALLOC` (R141, R149, R521): the lowest free ID of the ranges this member holds is answered, its entry is EMPTY and bound to the
sender's ward, COMMON for an OPERATOR; where the ranges hold no free ID it waits as a long command for a further range, and ends with TIMEOUT
where no registrar can be asked. `ADAPTER_FREE` (R142, R157) of an adapter that is neither frozen nor in a commit answers OK; the adapter is
RETIRING or gone, and no partition keeps it as common adapter (R166); one without versions, where nothing else waits to be reclaimed, is gone
at once with its master area and contributions and its last epoch is kept (R142). While a candidate of it is in the commit engine the free
waits for that commit. -/
def Obligations.AdapterIdsAreTakenAndFreed : Prop :=
  (∀ (s : State) (f : RclFrame) (x : Session) (i : Nat), s.admits 0x18 f = true → f.data.length = 4 → fld (f.word 0) 31 5 = 0 →
    s.pwr.powering = false → s.sessOf f = some x → s.dirUse (fld (f.word 0) 4 0) < (s.getP (fld (f.word 0) 4 0)).dirQuota.toNat →
    s.freeDirIdx = some i →
    (∀ a, s.ownRanges.findSome? s.freeIdIn = some a →
      ∃ t, exec (.adapterAlloc f) s = .next t ∧ t.answers f .ok (leBytes 4 a)
        ∧ { t with lnk := s.lnk } = { s with cab := { s.cab with dir := s.cab.dir ++
              [Entry.fresh i a (if x.operator then wardCommon else x.ward) s.me (fld (f.word 0) 4 0) (SMap.get 0 s.cab.lastEpoch a) true] } })
    ∧ (s.ownRanges.findSome? s.freeIdIn = none → (s.registrar = none ∨ s.lostSeat = true) → s.lnk.nextLong ≠ 0 →
      (∀ l ∈ s.lnk.longs, l.id < s.lnk.nextLong) →
      ∃ t, exec (.adapterAlloc f) s = .next t ∧ t.answers f .timeout [] ∧ s.onlyLink t ∧ t.lnk.longs = s.lnk.longs))
  ∧ (∀ (s : State) (f : RclFrame) (e : Entry), s.admits 0x19 f = true → f.data.length = 4 → fld (f.word 0) 31 24 = 0 →
    fld (f.word 0) 23 0 ≠ 0 → s.entry (fld (f.word 0) 23 0) = some e → (s.sessOf f).any (fun x => x.operator || e.ward == x.ward) = true →
    e.owned = true → e.state ≠ .retiring → e.frozen = false →
    ((∀ c ∈ s.cab.engine, c.1.aid ≠ fld (f.word 0) 23 0) →
      ∃ t, exec (.adapterFree f) s = .next t ∧ t.answers f .ok [] ∧ (∀ p, (t.getP p).common ≠ fld (f.word 0) 23 0)
        ∧ (∀ e', t.entry (fld (f.word 0) 23 0) = some e' → e'.state = .retiring ∧ e'.contribs = [])
        ∧ (e.vtab = [] → (∀ x ∈ s.cab.dir, x.state ≠ .retiring ∧ ∀ v ∈ x.vtab, v.vstate ≠ .retiring) →
          { t with lnk := s.lnk } = { s with
            prt := s.prt.map fun q => if q.common = fld (f.word 0) 23 0 then { q with common := 0 } else q
            cab := { s.cab with
              dir := s.cab.dir.filter fun x => x.aid != fld (f.word 0) 23 0
              lastEpoch := SMap.set 0 s.cab.lastEpoch (fld (f.word 0) 23 0) e.curEpoch
              extents := s.cab.extents.filter fun x => match x.obj with
                | .master a => a != fld (f.word 0) 23 0
                | .contrib a _ => a != fld (f.word 0) 23 0
                | _ => true } }))
    ∧ ((∃ c ∈ s.cab.engine, c.1.aid = fld (f.word 0) 23 0) →
      ∃ t, exec (.adapterFree f) s = .next t ∧ t.answers f .ok []
        ∧ { t with lnk := s.lnk } = { s with cab := { s.cab with
              dir := updFirst s.cab.dir (fun x => x.aid == fld (f.word 0) 23 0) fun x => { x with freePending := true } } }))

/-- `COMMON_SET` (R150) makes a READY, published adapter of the ward COMMON the common adapter of a partition, with `CLEAR` it takes it away;
`PIN_LIST` (R289) replaces the operator's list of pinned adapters. Each answers OK and changes nothing else but the link. A refresh of the
pinned set, when its period ends (R289) or by a write of 1 to `PIN_REFRESH` (R640), on a booted device without common adapters whose pool pair
has nothing else to do: an adapter of the list whose current version is in the cache and fits `PIN_LIMIT` is pinned, every other entry is not,
and none is counted short (R290, R291). While a refresh runs, the period lets one more follow and the write has no effect. A period that ends
is taken once, and only a late start sends a notice, `SERVICE_LAG` (R475). -/
def Obligations.CommonAndPinnedAdaptersAreSet : Prop :=
  (∀ (s : State) (f : RclFrame),
      (s.admits 0x1C f = true → bit (f.word 0) 8 = false → f.data.length = 8 → fld (f.word 0) 7 5 = 0 → fld (f.word 0) 31 9 = 0 →
        fld (f.word 4) 31 24 = 0 → fld (f.word 4) 23 0 ≠ 0 → s.commonInfo (fld (f.word 4) 23 0) = some (wardCommon, true, false) →
        ∃ t, exec (.commonSet f) s = .next t ∧ t.answers f .ok []
          ∧ { t with lnk := s.lnk } = { s with prt := modNth s.prt (fld (f.word 0) 4 0) fun q => { q with common := fld (f.word 4) 23 0 } })
      ∧ (s.admits 0x1C f = true → bit (f.word 0) 8 = true → f.data.length = 8 → fld (f.word 0) 7 5 = 0 → fld (f.word 0) 31 9 = 0 →
        f.word 4 = 0 →
        ∃ t, exec (.commonSetClear f) s = .next t ∧ t.answers f .ok []
          ∧ { t with lnk := s.lnk } = { s with prt := modNth s.prt (fld (f.word 0) 4 0) fun q => { q with common := 0 } })
      ∧ (∀ l : List Nat, s.admits 0x1D f = true → f.data = bytes4 l → l.length ≤ 262144 → (∀ a ∈ l, a < 2 ^ 24) →
        ∃ t, exec (.pinList f) s = .next t ∧ t.answers f .ok []
          ∧ { t with lnk := s.lnk } = { s with cab := { s.cab with pinList := l } }))
  ∧ (∀ s : State, s.booted = true → s.serviceUp 2 3 = true → s.pol.work = [] → s.pol.heldMsgs = [] →
      (∀ (a : Nat) (n : NoteRec), s.cab.pinBusy = false → (∀ q ∈ s.prt, q.common = 0) → s.cab.pinList = [a] →
        (s.entry a).any (·.owned) = false → s.mine a = false → s.fillRec a = some n → n.bminor ≤ blobMinorMax → s.holds a n.epoch = true →
        s.pinAsking = false → ceilDiv (n.blen * 64) granule ≤ min s.cab.pinLimit.toNat s.cab.cacheSize.toNat →
        let cab : Cab := { s.cab with
          dir := updFirst (s.cab.dir.map fun e => { e with pinned := e.pinned && a == e.aid }) (fun e => e.aid == a)
            fun e => { e with pinned := true, pinEpoch := n.epoch }
          pinShort := 0, pinBusy := false, pinAsk := false }
        exec .pinRefresh s = .next { s with cab := cab }
        ∧ (s.due perPin = true → ∃ t, exec .pinPeriod s = .next t ∧ { t with lnk := s.lnk, freeCtr := s.freeCtr, mgt := s.mgt } = { s with cab := cab }
            ∧ t.mgt = (s.align perPin (100000 * s.cab.pinPeriod.toNat)).mgt ∧ (s.dueOf perPin = s.now → t.lnk = s.lnk ∧ t.freeCtr = s.freeCtr)))
      ∧ (s.cab.pinBusy = true → exec .pinRefresh s = .next s
        ∧ (s.due perPin = true → ∃ t, exec .pinPeriod s = .next t
            ∧ { t with lnk := s.lnk, freeCtr := s.freeCtr, mgt := s.mgt } = { s with cab := { s.cab with pinAgain := some (s.cab.pinAgain.getD s.now) } }
            ∧ t.mgt = (s.align perPin (100000 * s.cab.pinPeriod.toNat)).mgt))
      ∧ (s.due perPin = false → exec .pinPeriod s = .next s))

/-- `ADAPTER_UPLOAD` of a published blob that passes every check of R162, with room in the cache region for the transfer and in the charged
space for the blob, is accepted (R163): its response waits (R472) as a long command, the use counter of the session moves to the upload's
(R528), the blob lies in HBM where it is charged, the entry has the blob's shape, and a candidate of the adapter, to be its next epoch, is with
the commit engine. A `LEARN` blob becomes the master area, charged and marked for its target epoch, and what lies in HBM for the candidate is the
version published from it (R163). -/
def Obligations.UploadHandsACandidateToTheEngine : Prop :=
  ∀ (s : State) (f : RclFrame) (pl : Plain) (x : Session) (e : Entry) (b g : Nat),
    let rd := listReader pl.blob
    let h := rd.hdr
    let projs := (List.range h.nproj).map fun i => (rd.mrec (2 * i)).proj
    let recs := (List.range (2 * h.nproj)).map rd.mrec
    let n := s.cab.nextResv
    let len := ceilDiv (f.pl 0x10 8) granule
    let up := addExtent ⟨b, len, 32, .resv n⟩ s.cab.extents
    s.admits 0x1B f = true → s.sessOf f = some x → 80 ≤ f.data.length → s.sec.lcState = 2 → s.pwr.powering = false →
    (s.lnk.longs.filter fun l => match l.kind with | .upload .. => true | _ => false).length < 16 → s.sec.coreFault = false →
    s.cacheFit len s.cab.extents = some b →
    uploadCheck1 f pl x s.mgt.devId.toNat = true → f.pl 4 3 ≠ 0 →
    0x80 ≤ pl.blob.length → h.magic = 0x54424C42 → h.major = 1 → h.minor ≤ blobMinorMax → uploadCheck3 h rd pl.blob.length s.mgt.projTab = true →
    s.entry h.aid = some e → e.ward = (if x.operator then wardCommon else x.ward) → e.owned = true → (e.state = .empty ∨ e.state = .ready) →
    h.ward = e.ward → (s.shapeFixed e = true → e.sameShape h projs = true) → (∀ r ∈ recs, uploadCheck7 h rd r (s.shape r.proj) = true) →
    (∀ r ∈ recs, r.nesc ≤ (mkMat h r (s.shape r.proj)).nblk / 64) → e.frozen = false → e.home ≠ 32 →
    let e1 := if s.shapeFixed e then e else e.shaped h projs
    let taken (t : State) : Prop :=
      t.lnk.longs = s.lnk.longs ++ [{ id := s.lnk.nextLong, tag := f.w1, session := f.session, vc := f.vc
                                      urgent := (s.callerOf 0x1B f).q == 2, ward := x.ward, took := s.now, kind := .upload (f.pl 4 3) n }]
      ∧ t.sec = { s.sec with sessions := SMap.insert s.sec.sessions f.session { x with upCtr := f.pl 8 8 } }
      ∧ t.cab.cands.length = s.cab.cands.length + 1 ∧ t.prt = s.prt ∧ t.pol = s.pol
    let cand (blen esc : Nat) : Candidate :=
      { aid := e.aid, kind := 1, target := nextEpoch e.curEpoch, part := e.home, sseq := 0, base := g, blen := blen, esc := esc, tau := h.tau
        resv := n + 1, up := some s.lnk.nextLong, boot := false, sat := 0, since := s.now }
    (h.learn = false → s.cabUse e.home + ceilDiv pl.blob.length granule ≤ (s.getP e.home).cabQuota.toNat →
      lowestFree (ceilDiv pl.blob.length granule) s.cab.exportBase 0 up = some g →
      ∃ t, exec (.adapterUpload f pl) s = .next t ∧ taken t ∧ t.hbm = Memory.writeN s.hbm (gAddr g) pl.blob
        ∧ cand pl.blob.length (min (recs.foldl (fun k r => k + r.nesc) 0) 65535) ∈ t.cab.cands
        ∧ t.cab.dir = updFirst s.cab.dir (fun y => y.aid == e.aid) fun _ => e1)
    ∧ (∀ (gm esc : Nat) (pb : List Byte) (c : Cnt), h.learn = true →
      let shapes := projs.map s.shape
      let m := (rd.master h s.mgt.projTab).padded h.rank shapes
      let mlen := ceilDiv (s.masterBytes h.rank h.opt.kind projs) granule
      let plen := ceilDiv (pubSize e1 shapes) granule
      s.cab.extentOf (.master e.aid) = none → s.cabUse e.home + mlen + plen ≤ (s.getP e.home).cabQuota.toNat →
      lowestFree mlen s.cab.exportBase 0 up = some gm →
      lowestFree plen s.cab.exportBase 0 (addExtent ⟨gm, mlen, e.home, .master e.aid⟩ up) = some g →
      publishBlob e1 m shapes h.alpha h.tau h.tau (nextEpoch e.curEpoch) s.pol.pubMinor.toNat = (some pb, esc, c) →
      ∃ t, exec (.adapterUpload f pl) s = .next t ∧ taken t ∧ t.hbm = Memory.writeN s.hbm (gAddr g) pb ∧ cand pb.length esc ∈ t.cab.cands
        ∧ t.cab.dir = updFirst s.cab.dir (fun y => y.aid == e.aid) fun _ =>
            { e1 with master := some m, badMaster := false, dirty := true, target := nextEpoch e.curEpoch })

/-- `JOB_OPEN` that R378 admits answers the next job number of its partition (R379); the first job of a partition without jobs runs at once
(R385). `JOB_CLOSE` of a job that has not ended answers OK and leaves it closed (R384). `STEP_SUBMIT` (R381, R427, R428) to an open job with
room puts the submission record at the end of the job's queue under the partition's next sequence number, which it answers; nothing else but
the link changes. -/
def Obligations.JobsOpenCloseAndTakeSteps : Prop :=
  ((∀ (s : State) (f : RclFrame), s.admits 0x20 f = true → f.data.length = 8 → fld (f.word 0) 7 5 = 0 → fld (f.word 0) 31 16 = 0 →
      fld (f.word 0) 11 8 ≤ 1 → fld (f.word 0) 15 12 ≤ 3 → fld (f.word 4) 31 20 = 0 → s.pwr.powering = false →
      s.pol.servePart.toNat ≠ fld (f.word 0) 4 0 → (s.getP (fld (f.word 0) 4 0)).tumOwn ≠ 0 →
      (s.callerOf 0x20 f).mayActFor (fld (f.word 4) 19 0) = true → fld (f.word 0) 4 0 < s.prt.length →
      ((s.getP (fld (f.word 0) 4 0)).jobs.filter fun j => j.st != .ended).length < 64 →
      ∃ t, exec (.jobOpen f) s = .next t
        ∧ t.answers f .ok (leBytes 8 (jobId (fld (f.word 0) 4 0) (s.getP (fld (f.word 0) 4 0)).jobNext))
        ∧ ((s.getP (fld (f.word 0) 4 0)).jobs = [] →
            (t.getP (fld (f.word 0) 4 0)).jobs = [
              { num := (s.getP (fld (f.word 0) 4 0)).jobNext, learner := fld (f.word 0) 11 8 == 1, prio := fld (f.word 0) 15 12
                ward := fld (f.word 4) 19 0, st := .running, closed := false, queue := [], last := 0, since := s.now }]
            ∧ (t.getP (fld (f.word 0) 4 0)).jobNext = (s.getP (fld (f.word 0) 4 0)).jobNext + 1))
    ∧ (∀ (s : State) (f : RclFrame) (p : Nat) (j : Job), s.admits 0x21 f = true → f.data.length = 8 → s.jobOf (f.pl 0 8) = some (p, j) →
      (s.callerOf 0x21 f).mayActFor j.ward = true → j.st ≠ .ended →
      ∃ t, exec (.jobClose f) s = .next t ∧ t.answers f .ok [] ∧ ∃ j', (t.getP p).job j.num = some j' ∧ j'.closed = true))
  ∧ (∀ (s : State) (f : RclFrame) (p : Nat) (j : Job), s.admits 0x24 f = true → f.data.length = 32 → f.pl 0x18 8 = 0 →
      s.pwr.powering = false → s.jobOf (f.pl 0 8) = some (p, j) → (s.callerOf 0x24 f).mayActFor j.ward = true → j.st ≠ .ended →
      j.closed = false → j.queue.length < 16 →
      ∃ t, exec (.stepSubmit f) s = .next t ∧ t.answers f .ok (leBytes 8 (s.getP p).sseqNext.toNat)
        ∧ { t with lnk := s.lnk } = { s with prt := modNth s.prt p fun q =>
            { q with
              jobs := updFirst q.jobs (fun x => x.num == j.num) fun x =>
                { x with
                  queue := x.queue ++ [{ sseq := (s.getP p).sseqNext.toNat, progH := f.word 8, rptH := f.word 0xC, ofsH := f.word 0x10,
                                         htag := f.word 0x14 }]
                  last := (s.getP p).sseqNext.toNat }
              sseqNext := q.sseqNext + 1 } })

/-- `JOB_KILL` (R384) of a job that has not ended. Where no issued or saved step is the job's and no vector waits at a port, it answers OK,
the job has ended with an empty queue and each step it had queued waits for a final report with cause KILLED; a job that has ended is answered
DESC_INVALID. -/
def Obligations.JobKillEndsTheJob : Prop :=
  ∀ (s : State) (f : RclFrame) (p : Nat) (j : Job), s.admits 0x22 f = true → f.data.length = 8 → s.jobOf (f.pl 0 8) = some (p, j) →
    (s.callerOf 0x22 f).mayActFor j.ward = true →
    (j.st ≠ .ended → ((s.getP p).jobs.map (·.num)).Nodup → (∀ k < 4, (s.getHng k).held = []) → (∀ c ∈ (s.getP p).ctx, c.job ≠ j.num) →
      (∀ c ∈ (s.getP p).svCtx, c.job ≠ j.num) →
      ∃ t, exec (.jobKill f) s = .next t ∧ t.answers f .ok []
        ∧ (∃ j', (t.getP p).job j.num = some j' ∧ j'.st = .ended ∧ j'.closed = true ∧ j'.queue = [])
        ∧ (t.getP p).finals = (s.getP p).finals ++ j.queue.map fun x =>
            { freshCtx j.num (if j.learner then .learner else .generator) x .ending with torn := true, cause := 5, resume := .load })
    ∧ (j.st = .ended → ∃ t, exec (.jobKill f) s = .next t ∧ t.answers f .descInvalid [] ∧ s.onlyLink t)

/-- `PART_SET` (R469, R627) of pairs that are P words and leave a configuration that the device accepts is applied as one whole and answers
OK: here share, quota, limit, wait and regulator words and the tier quotas of a page, with words of the CAB block, on a device where no
tumbler is being reassigned and no tumbler of the partition is fenced; nothing else changes but the link. Pairs of which one is no P word are
answered DESC_INVALID, a configuration that R374 does not admit NO_CAPACITY, and nothing changes; a word that a fence clears in the same cycle
(R628) is answered NO_CAPACITY and remembered in `WRITE_LOST`. -/
def Obligations.PartSetAppliesTheConfiguration : Prop :=
  ∀ (s : State) (f : RclFrame) (pairs : List ConfPair) (fenced : List Nat), s.admits 0x25 f = true → f.data.length = 8 + 8 * pairs.length →
    fld (f.word 4) 7 0 = pairs.length → pairs ≠ [] → fld (f.word 0) 31 5 = 0 → fld (f.word 4) 31 8 = 0 →
    (∀ i < pairs.length, fld (f.word (8 + 8 * i)) 31 17 = 0) →
    pairs = ((List.range pairs.length).map fun i =>
      { off := 4 * fld (f.word (8 + 8 * i)) 15 0, cab := bit (f.word (8 + 8 * i)) 16, v := f.pl (12 + 8 * i) 4 }) →
    let p := fld (f.word 0) 4 0
    let mine := pairs.filter fun x => !x.cab
    ((∀ x ∈ pairs, x.off ∈ if x.cab then cabPWords else prtPWords.filter fun o => decide (0x20 ≤ o ∧ o < 0x68)) →
      (∀ x ∈ mine, ¬(x.off ∈ fenced ∧ hwclrWord x.off = true)) →
      (∀ q ∈ s.prt, q.tumNext = none) → (∀ t ∈ tumsOf (s.getP p).tumOwn, s.ras.fencePair.getLsbD (t / 2) = false) →
      let set (q : Prt) : Prt := mine.foldl (fun q x => q.setWord x.off x.v) q
      let cab := (pairs.filter (·.cab)).foldl (fun c x => c.setWord x.off x.v) s.cab
      (s.configOk (modNth s.prt p set) cab (s.shf.map fun x => x.cap.toNat) = true →
        ∃ t, exec (.partSet f fenced) s = .next t ∧ t.answers f .ok [] ∧ { t with lnk := s.lnk } = { s with prt := modNth s.prt p set, cab := cab })
      ∧ (p < s.prt.length → s.configOk (modNth s.prt p set) cab (s.shf.map fun x => x.cap.toNat) = false →
        ∃ t, exec (.partSet f fenced) s = .next t ∧ t.answers f .noCapacity [] ∧ s.onlyLink t))
    ∧ ((∃ x ∈ pairs, x.off ∉ (if x.cab then cabPWords else prtPWords)) →
      ∃ t, exec (.partSet f fenced) s = .next t ∧ t.answers f .descInvalid [] ∧ s.onlyLink t)
    ∧ ((∀ x ∈ pairs, x.off ∈ if x.cab then cabPWords else prtPWords) → (∃ x ∈ mine, x.off ∈ fenced ∧ hwclrWord x.off = true) →
      ∃ t, exec (.partSet f fenced) s = .next t ∧ t.answers f .noCapacity []
        ∧ { t with lnk := s.lnk } = { s with prt := modNth s.prt p fun q => mine.foldl (fun q x => q.setLost x.off) q })

/-- The range commands (R317, R318, R320). `RANGE_MOVE` of a range held here to another member, at a member that is not the registrar, begins
a move and waits for its end as a long command; the registrar's own move is shown MOVING in a view to come (R315). With `CANCEL` a move that
has not been committed ends, is answered OK, and its entries are no longer frozen. `RANGE_RECLAIM` of a LOST range at a registrar that reaches
a majority of seeds, while a view is being agreed on, puts the range, FREE, into the next view and is answered OK; of a range that is not LOST
it is answered DESC_INVALID. -/
def Obligations.RangeCommandsMoveAndReclaim : Prop :=
  ∀ (s : State) (f : RclFrame),
    (s.admits 0x30 f = true → bit (f.word 4) 8 = false → f.data.length = 8 → fld (f.word 4) 7 5 = 0 → fld (f.word 4) 31 9 = 0 →
      s.canMove (fld (f.word 0) 15 0) (fld (f.word 0) 31 16) = true →
      (s.isRegistrar = false ∨ s.pol.pend.isSome = true) →
      ∃ t, exec (.rangeMove f) s = .next t
        ∧ t.pol.moves = s.pol.moves ++ [{ range := fld (f.word 0) 15 0, peer := fld (f.word 0) 31 16, part := fld (f.word 4) 4 0, source := true,
                                          st := .begin, long := some s.lnk.nextLong, cmd := true, got := [], last := [], abort := none }]
        ∧ t.lnk.longs.map (·.id) = s.lnk.longs.map (·.id) ++ [s.lnk.nextLong]
        ∧ t.cab = s.cab ∧ t.prt = s.prt ∧ t.pol.ranges = s.pol.ranges
        ∧ (s.isRegistrar = true → s.changing (fld (f.word 0) 15 0) = false → ∃ v ∈ t.pol.nextView, (fld (f.word 0) 15 0, { state := .moving, inst := s.me }) ∈ v.ranges))
    ∧ (∀ m, s.admits 0x30 f none (some true) = true → bit (f.word 4) 8 = true → f.data.length = 8 → fld (f.word 4) 7 5 = 0 →
      fld (f.word 4) 31 9 = 0 → s.pol.moves.find? (fun x => x.source && x.range == fld (f.word 0) 15 0) = some m → m.st ≠ .commit →
      s.isRegistrar = false → s.changing (fld (f.word 0) 15 0) = false →
      ∃ t, exec (.rangeMoveCancel f) s = .next t ∧ t.answers f .ok []
        ∧ (∀ x ∈ t.pol.moves, x.source = true → x.range ≠ fld (f.word 0) 15 0)
        ∧ (∀ e ∈ t.cab.dir, e.owned = true → e.aid / 256 = fld (f.word 0) 15 0 → e.frozen = false))
    ∧ (s.admits 0x31 f = true → f.data.length = 4 → fld (f.word 0) 31 16 = 0 →
      ((SMap.get freeRange s.pol.ranges (fld (f.word 0) 15 0)).state = .lost → s.isRegistrar = true → s.lostSeat = false → s.pol.pend.isSome = true →
        ∃ t, exec (.rangeReclaim f) s = .next t ∧ t.answers f .ok []
          ∧ { t with lnk := s.lnk } = { s with pol := { s.pol with nextView := s.pol.nextView ++ [{ noChange with ranges := [(fld (f.word 0) 15 0, freeRange)] }] } })
      ∧ ((SMap.get freeRange s.pol.ranges (fld (f.word 0) 15 0)).state ≠ .lost →
        ∃ t, exec (.rangeReclaim f) s = .next t ∧ t.answers f .descInvalid [] ∧ s.onlyLink t))

/-- `POWER_DOWN` (R572) is accepted on a device that serves: its response waits and stage 1 begins as each partition stops; where no step is
issued or saved, the queued steps of every job wait for final reports with cause KILLED and nothing else changes but the link and the power
block. On an UNSERVICEABLE device without gradient drawers and without a target it goes to stage 3 at once (R586). A stage whose condition
holds ends and the next one begins: stage 1 once no step stands, stage 2 once nothing is being shipped, stage 3 once neither the commit engine
nor a move is busy or its wait has run out, stage 4 once the pool has been left, stage 5 once the response has gone, with the I3C interrupt of
R619; where a step still stands stage 1 does not end. The wait of stage 3 that runs out with no move left lets the stage end (R573). -/
def Obligations.PowerDownGoesThroughItsStages : Prop :=
  (∀ (s : State) (f : RclFrame), s.admits 0x33 f = true → f.data.length = 0 → s.pwr.powering = false →
    (s.ras.unserviceable = false → ∃ t, exec (.powerDown f) s = .next t ∧ t.pwr.pdStage = 1)
    ∧ (s.ras.unserviceable = false → (∀ q ∈ s.prt, q.ctx = none ∧ q.svCtx = none) → s.prt.length = 32 →
      ∃ t, exec (.powerDown f) s = .next t ∧ { t with lnk := s.lnk, pwr := s.pwr, prt := s.prt } = s
        ∧ t.pwr = { s.pwr with powering := true, pdLong := some s.lnk.nextLong, pdLists := [], pdStage := 1, pdDue := s.now }
        ∧ (∃ c ∈ t.lnk.longs, c.id = s.lnk.nextLong ∧ c.kind = .powerDown ∧ c.tag = f.w1)
        ∧ t.prt = s.prt.map fun q =>
            { q with
              finals := q.finals ++ q.jobs.flatMap fun j => j.queue.map fun x =>
                { freshCtx j.num (if j.learner then .learner else .generator) x .ending with torn := true, cause := 5, resume := .load }
              jobs := q.jobs.map fun j => { j with queue := [] } })
    ∧ (s.ras.unserviceable = true → s.cab.grads = [] → s.pwr.pdTgtEn = false →
      ∃ t, exec (.powerDown f) s = .next t ∧ { t with lnk := s.lnk, pwr := s.pwr } = s
        ∧ t.pwr = { s.pwr with powering := true, pdLong := some s.lnk.nextLong, pdLists := [], pdStage := 3, pdDue := s.now + 100000000 * s.pwr.n 25 }))
  ∧ (∀ s : State, s.pwr.pdStage = 1 →
    ((∀ q ∈ s.prt, q.ctx = none ∧ q.svCtx = none) → s.cab.grads = [] →
      exec .powerDownStageEnd s = .next { s with pwr := { s.pwr with pdStage := 2, pdDue := s.now } })
    ∧ ((∃ q ∈ s.prt, q.ctx ≠ none ∨ q.svCtx ≠ none) → exec .powerDownStageEnd s = .next s))
  ∧ (∀ s : State, s.pwr.pdStage = 2 → (∀ e ∈ s.pwr.pdLists, e.2.kind ≠ 3) → s.pwr.pdTgtEn = false →
    exec .powerDownStageEnd s = .next { s with pwr := { s.pwr with pdStage := 3, pdDue := s.now + 100000000 * s.pwr.n 25 } })
  ∧ (∀ s : State, s.pwr.pdStage = 3 →
    (s.pwr.pdWaited = true ∨ (s.cab.engine = none ∧ s.cab.cands = [] ∧ ∀ m ∈ s.pol.moves, m.source = false)) →
    (∀ e ∈ s.cab.dir, e.master = none ∧ e.contribs = []) → (∀ i d, s.handle s.pwr.pdRptH ≠ .live i d) → s.pol.instValid = false →
    exec .powerDownStageEnd s = .next { s with pwr := { s.pwr with pdStage := 4, pdDue := s.now + msTicks s.pol.lease.toNat } })
  ∧ (∀ s : State, s.pwr.pdStage = 4 → (s.pwr.pdDue ≤ s.now ∨ ∀ r ∈ s.pol.reqs, r.kind ≠ .leave) →
    ∃ t, exec .powerDownStageEnd s = .next t ∧ t.pwr.pdStage = 5 ∧ t.fab.live = 0 ∧ t.mgt.xspiOwn = false
      ∧ ∀ d < 92, t.awake d = false)
  ∧ (∀ s : State, s.pwr.pdStage = 5 → (∀ fr ∈ nth s.lnk.out 0 [], fr.opc ≠ 0x40) →
    ∃ t, exec .powerDownStageEnd s = .next t ∧ { t with lnk := s.lnk, pwr := s.pwr, side := s.side } = s
      ∧ t.pwr = { s.pwr with pdStage := 6 } ∧ t.side = { s.side with ibi := s.side.ibi ++ [3] } ∧ t.lnk.lstate = 0)
  ∧ (∀ s : State, s.pwr.pdStage = 3 → s.pwr.pdDue ≤ s.now → (∀ m ∈ s.pol.moves, m.source = false) →
    exec .pdWait s = .next { s with pwr := { s.pwr with pdWaited := true } })

/-- `CREDIT` (R458, R462) adds the credits it carries to those that the device holds, on each of the four channels; a grant of the first
credits of a channel is remembered. A malformed frame (R460) that is discarded is counted, and one with a reserved field set is answered
DESC_INVALID, one of another major version FORMAT_UNSUPPORTED. -/
def Obligations.CreditsAndMalformedFrames : Prop :=
  (∀ (s : State) (f : RclFrame), s.lnk.lstate = 2 → f.opc = 0 → f.len = 0 →
    ∃ t, exec (.credit f) s = .next t ∧ s.onlyLink t
      ∧ t.lnk.crdMin = s.lnk.crdMin.mapIdx fun n b => b || decide (minCredit n ≤ nth (s.lnk.crdHeld.mapIdx fun n c => c + f.crd n) n 0)
      ∧ (s.lnk.out = [[], [], [], []] → s.lnk.notes = [] → t.lnk.crdHeld = s.lnk.crdHeld.mapIdx fun n c => c + f.crd n))
  ∧ (∀ (s : State) (f : RclFrame) (k : FrameFault), s.lnk.lstate = 2 → f.silent k = true ∨ nth s.lnk.hostCrd f.vc 0 = 0 →
    exec (.malformedFrame f k) s = .next { s with lnk := { s.lnk with rclBad := satAdd s.lnk.rclBad 1 } })
  ∧ (∀ (s : State) (f : RclFrame) (k : FrameFault), s.lnk.lstate = 2 → s.lnk.out.length = 4 → f.silent k = false →
    nth s.lnk.hostCrd f.vc 0 ≠ 0 → (f.major ≠ 1 ∨ f.badField = true) →
    ∃ t, exec (.malformedFrame f k) s = .next t ∧ s.onlyLink t
      ∧ t.answers f (if f.major ≠ 1 then .formatUnsupported else .descInvalid) [])

/-- A forward or gradient macro-instruction at the program position of a running step of a job (R197–R199, R214, R239, R240, R431) is reached
with the placement that runs as one with it, and the position passes it; what can then go on goes on. At another macro-instruction the
command finds nothing. -/
def Obligations.MacrosAreReachedInOrder : Prop :=
  ∀ (s : State) (p op : Nat) (i : Instr) (c : Ctx),
    (op, i) ∈ [(0x10, Instr.shrink p), (0x11, .expand p), (0x12, .shrinkExpand p), (0x20, .gradExpand p), (0x21, .gradShrink p)] →
    s.ctxOf p = some c →
    (c.phase = .run → c.role ≠ .serve → c.pc < c.prog.length → (c.mi c.pc).op = op → c.pc < c.recs.length →
      ∃ (u : State) (c' : Ctx), exec i s = .next (u.pump p) ∧ { u with prt := s.prt } = s ∧ u.ctxOf p = some c'
        ∧ (∀ q, q ≠ p → u.getP q = s.getP q)
        ∧ (nth c'.recs c.pc freshRec).reached = true ∧ c.pc < c'.pc
        ∧ (∀ j, c.placeOf c.pc = some j → j < c.recs.length → (nth c'.recs j freshRec).reached = true ∧ j < c'.pc))
    ∧ (c.phase ≠ .run ∨ (c.mi c.pc).op ≠ op → exec i s = .next s)

/-- The macro-instructions that end at their place (R415, R429, R441, R443): `FENCE` completes when earlier writes are visible and waits
until then; `STAT` commits each of its pairs that has 4,096 elements, by the rule of R83, and keeps the counts of the others; `END` is passed;
`LATCH_REL` lets go the latch that its gate acquired, by REL or RELFIX, once earlier writes are visible. -/
def Obligations.FencesStatsAndLatchesComplete : Prop :=
  ∀ (s : State) (p : Nat) (c : Ctx) (i : Nat), i < c.recs.length →
    (s.serialAt p 0x43 = some (c, i) →
      (s.quiet p c i = true → ∃ u : State, exec (.fence p) s = .next (u.pump p) ∧ u.passed p i ∧ { u with prt := s.prt } = s)
      ∧ (s.quiet p c i = false → exec (.fence p) s = .next s))
    ∧ (s.serialAt p 0x38 = some (c, i) → (s.stat.map fun e => (e.1, e.2.1)).Nodup →
      ((c.mi i).flag = false ∨ (nth c.recs i freshRec).reached = true) →
      ∃ u : State, exec (.stat p) s = .next (u.pump p) ∧ u.passed p i
        ∧ (∀ e ∈ s.stat, e.2.2.1 < 4096 ∨ (e.1, e.2.1) ∉ s.statPairs c i → e ∈ u.stat)
        ∧ (∀ e ∈ s.stat, 4096 ≤ e.2.2.1 → (e.1, e.2.1) ∈ s.statPairs c i → (∀ x ∈ u.stat, (x.1, x.2.1) ≠ (e.1, e.2.1))
          ∧ ∀ d j, s.entry e.1 = some d → d.projs.findIdx? (· == e.2.1) = some j →
            ∃ d', u.entry e.1 = some d' ∧ nth d'.statoff j 0 = offCode (statCommit (offVal (nth d.statoff j 0)) e.2.2.1 e.2.2.2.1 e.2.2.2.2)))
    ∧ (s.ctxOf p = some c → c.phase = .run → c.role ≠ .serve → c.pc < c.prog.length → (c.mi c.pc).op = 0x4F →
      exec (.endProg p) s = .next { s with prt := modNth s.prt p fun q =>
        { q with ctx := some { c with recs := modNth c.recs c.pc fun r => { r with reached := true, done := true }, pc := c.pc + 1 } } })
    ∧ (s.ctxOf p = some c → c.phase = .run →
      (List.range c.prog.length).find? (fun k => (c.mi k).op == 0x41 && (nth c.recs k freshRec).reached && !(nth c.recs k freshRec).done
        && s.quiet p c k) = some i →
      ∃ (u : State) (c' : Ctx), exec (.latchRel p) s = .next (u.pump p) ∧ u.ctxOf p = some c' ∧ (nth c'.recs i freshRec).done = true
        ∧ ((∃ g ∈ c.gate, g.latch = fld (c.mi i).op0 14 0 ∧ ∃ b, g.done = .acquired b) →
            u.latch = (s.latchOp (.context p) (fld (c.mi i).op0 14 0) (if (c.mi i).flag then 3 else 2) 0).2.latch)
        ∧ ((∀ g ∈ c.gate, g.latch = fld (c.mi i).op0 14 0 → ∀ b, g.done ≠ .acquired b) → u.latch = s.latch))

/-- `POOL_SUM` and `POOL_MEAN` (R251, R252) at their place: without a drawer to reduce they complete; else they begin with the first drawer, and
each further command adds the reduction of one drawer's partials to its gradient drawer, matrix by matrix, and takes up the next or
completes. `GRAD_SHIP` (R254–R260): with no gradient drawer to ship it completes; while a shipment has no status it waits, and completes
when all have one. A drawer of a Celat adapter that this member, its owner at step issue, can take is written into a contribution slot of the
adapter at once (R256, R257): its record says OK and the drawer is gone; one of another format gets FORMAT_UNSUPPORTED and is kept (R260). -/
def Obligations.GradientsAreReducedAndShipped : Prop :=
  (∀ (s : State) (p op : Nat) (mean : Bool) (x : Instr) (c : Ctx) (i : Nat),
      (op, mean, x) ∈ [(0x22, false, Instr.poolSum p), (0x23, true, .poolMean p)] → s.serialAt p op = some (c, i) → i < c.recs.length →
      let r := nth c.recs i freshRec
      (r.reached = false → c.reduced = [] → ∃ u : State, exec x s = .next (u.pump p) ∧ u.passed p i ∧ { u with prt := s.prt } = s)
      ∧ (r.reached = false → c.reduced ≠ [] →
        ∃ (t : State) (c' : Ctx), exec x s = .next t ∧ { t with prt := s.prt, cab := s.cab } = s ∧ t.ctxOf p = some c'
          ∧ nth c'.recs i freshRec = { r with reached := true })
      ∧ (∀ k g, r.reached = true → (c.reduced)[r.pos]? = some k → (∀ sl ∈ (c.drw k).slots, c.posOk sl = true) →
        s.cab.grads.find? (fun g => g.part == p && g.aid == (c.drw k).aid && g.base == (c.drw k).epoch) = some g →
        g.data = [] ∨ g.data.length = 2 * (c.drw k).projs.length →
        ∃ (u : State) (c' : Ctx) (g' : GradDrawer),
          exec x s = .next (if r.pos + 1 < c.reduced.length then u.homeWrite p c (r.pos + 1) else u.serialDone p i)
          ∧ { u with prt := s.prt, cab := s.cab } = s ∧ u.ctxOf p = some c' ∧ (nth c'.recs i freshRec).pos = r.pos + 1
          ∧ u.cab.grads.find? (fun g => g.part == p && g.aid == (c.drw k).aid && g.base == (c.drw k).epoch) = some g'
          ∧ ∀ m, m < 2 * (c.drw k).projs.length →
              let ps := c.parts.filter fun y => y.drw == k && y.proj == nth (c.drw k).projs (m / 2) 0 && y.isB == (m % 2 == 1)
              nth g'.data m [] = if ps = [] then nth g.data m [] else
                (gradAdd (nth g.data m [])
                  (poolMat ps (m % 2 == 1) (((s.wmat (c.drw k) ((c.drw k).projs.headD 0) true).map (·.2.2.alphaR)).getD 0)
                    (if mean = false then 0 else if (c.mi i).flag then (c.drw k).slots.length else (c.drw k).nvec)).1).1))
  ∧ (∀ (s : State) (p : Nat) (c : Ctx) (i : Nat), s.serialAt p 0x24 = some (c, i) → i < c.recs.length →
      ((nth c.recs i freshRec).reached = true → (∀ r ∈ c.lists, r.kind = 3 → r.status ≠ .deferred) →
        ∃ u : State, exec (.gradShip p) s = .next (u.pump p) ∧ u.passed p i ∧ { u with prt := s.prt } = s)
      ∧ ((nth c.recs i freshRec).reached = true → (∃ r ∈ c.lists, r.kind = 3 ∧ r.status = .deferred) → exec (.gradShip p) s = .next s)
      ∧ ((nth c.recs i freshRec).reached = false → (c.mi i).flag = false → (∀ g ∈ s.cab.grads, g.part ≠ p) →
        (∀ r ∈ c.lists, r.kind = 3 → r.status ≠ .deferred) →
        ∃ u : State, exec (.gradShip p) s = .next (u.pump p) ∧ u.passed p i ∧ u.cab = s.cab)
      ∧ (∀ g e k a v, (nth c.recs i freshRec).reached = false → (c.mi i).flag = false →
        s.cab.grads.filter (fun g => g.part == p) = [g] → (∀ r ∈ c.lists, r.kind = 3 → r.status ≠ .deferred) →
        g.celat = true → s.shipOwner p c.sub.sseq g.aid = some s.me → s.entry g.aid = some e → e.owned = true → e.learn = true → e.state = .ready →
        e.master.isSome = true → (e.slot g.base).any (fun v => v.vstate == .current || v.vstate == .retained) = true → e.frozen = false →
        (List.range 16).find? (fun i => !(e.slotsUsed.contains i)) = some k → s.charge e.home (s.contribLen e) (.contrib g.aid k) = (some a, v) →
        (∀ x ∈ e.keysNow ++ e.keysPrev, x ≠ { sseq := c.sub.sseq, inst := s.me, part := p, idx := 0 }) →
        ∃ (u : State) (c' : Ctx) (e' : Entry), exec (.gradShip p) s = .next (u.pump p) ∧ u.passed p i ∧ u.ctxOf p = some c'
          ∧ c'.lists = c.lists ++ [{ listRec g.aid .ok 3 g.base with mi := i }]
          ∧ (∀ x ∈ u.cab.grads, x.part = p → x.aid = g.aid → x.base ≠ g.base)
          ∧ u.entry g.aid = some e' ∧ ∃ x ∈ e'.contribs, x.slot = k ∧ x.written = true ∧ x.data = g.data)
      ∧ (∀ g, (nth c.recs i freshRec).reached = false → (c.mi i).flag = false → s.cab.grads.filter (fun g => g.part == p) = [g] →
        (∀ r ∈ c.lists, r.kind = 3 → r.status ≠ .deferred) → g.celat = false → (∀ e ∈ s.pwr.pdLists, e.1 ≠ p) →
        ∃ (u : State) (c' : Ctx), exec (.gradShip p) s = .next (u.pump p) ∧ u.passed p i ∧ u.ctxOf p = some c' ∧ u.cab = s.cab
          ∧ c'.lists = c.lists ++ [{ listRec g.aid .formatUnsupported 3 g.base with mi := i }]))

/-- `OPT_STEP` (R262–R266) and `QUANT_PUBLISH` (R267–R270) at their place work through their lists: an adapter that the macro-instruction
passes by gets its record; an open update advances by one tile of the master, and at the last element the round ends, the master's step count
rises and the record says OK; an adapter to publish is charged, its new blob lands in HBM and a candidate is with the commit engine. Past the
list's end `OPT_STEP` completes, and `QUANT_PUBLISH` once every commit has ended. -/
def Obligations.LearnersUpdateAndPublish : Prop :=
  ∀ (s : State) (p : Nat) (c : Ctx) (i : Nat), i < c.recs.length → (nth c.recs i freshRec).reached = true →
    let pos := (nth c.recs i freshRec).pos
    let l := (nth c.recs i freshRec).list
    (s.serialAt p 0x30 = some (c, i) →
      (l[pos]? = none → ∃ u : State, exec (.optStep p) s = .next (u.pump p) ∧ u.passed p i ∧ { u with prt := s.prt } = s)
      ∧ (∀ aid x, l[pos]? = some aid → c.lists.any (·.openOpt aid) = false → s.optPass p aid = some x →
        ∃ (t : State) (c' : Ctx), exec (.optStep p) s = .next t ∧ { t with prt := s.prt } = s ∧ t.ctxOf p = some c' ∧ c'.lists = c.lists ++ [{ x with mi := i }]
          ∧ (nth c'.recs i freshRec).pos = pos + 1)
      ∧ (∀ aid e m r, l[pos]? = some aid → c.lists.any (·.openOpt aid) = true → s.entry aid = some e → e.master = some m → e.round = some r →
        let tile := optTile e m r (e.projs.map s.shape) r.mark (r.mark + optTileSize)
        (r.mark + optTileSize < m.size →
          ∃ t, exec (.optStep p) s = .next t ∧ t.entry aid = some { e with
            master := some tile.1, round := some { r with mark := r.mark + optTileSize } })
        ∧ (m.size ≤ r.mark + optTileSize →
          ∃ (t : State) (c' : Ctx), exec (.optStep p) s = .next t ∧ t.entry aid = some { e with
              master := some { tile.1 with opt := { m.opt with t := m.opt.t + 1 } }, round := none, target := r.target, dirty := true }
            ∧ t.ctxOf p = some c' ∧ (nth c'.recs i freshRec).pos = pos + 1
            ∧ ∃ x ∈ c'.lists, x.aid = aid ∧ x.kind = 1 ∧ x.status = .ok ∧ x.epoch = r.target)))
    ∧ (s.serialAt p 0x31 = some (c, i) →
      (l[pos]? = none → (∀ x ∈ c.lists, x.kind = 2 → x.status ≠ .deferred) →
        ∃ u : State, exec (.quantPublish p) s = .next (u.pump p) ∧ u.passed p i ∧ { u with prt := s.prt } = s)
      ∧ (l[pos]? = none → (∃ x ∈ c.lists, x.kind = 2 ∧ x.status = .deferred) → exec (.quantPublish p) s = .next s)
      ∧ (∀ aid e m g v bs, l[pos]? = some aid → badEntry aid = none → s.entry aid = some e → e.master = some m → e.owned = true → e.home = p →
        e.badMaster = false → e.dirty = true → e.round = none → e.frozen = false →
        s.charge p (ceilDiv (pubSize e (e.projs.map s.shape)) granule) (.resv s.cab.nextResv) = (some g, v) →
        (publishBlob e m (e.projs.map s.shape) e.alpha e.tau e.tau e.target s.pol.pubMinor.toNat).1 = some bs →
        ∃ (t : State) (c' : Ctx) (x : Candidate), exec (.quantPublish p) s = .next t ∧ t.hbm = Memory.writeN s.hbm (gAddr g) bs
          ∧ x ∈ t.cab.cands ∧ t.cab.cands.length = s.cab.cands.length + 1 ∧ x.aid = aid ∧ x.kind = 2 ∧ x.target = e.target ∧ x.base = g ∧ x.blen = bs.length ∧ x.since = s.now
          ∧ t.ctxOf p = some c' ∧ (nth c'.recs i freshRec).pos = pos + 1
          ∧ ∃ y ∈ c'.lists, y.aid = aid ∧ y.kind = 2 ∧ y.status = .deferred ∧ y.epoch = e.target))

/-- Issue (R432, R433): `STEP_ISSUE` of a partition whose running job has a queued step, no other step in its place, its last `STEP_DONE` gone and
2 µs since the last issue takes the step at the head of the queue into its load. At its sampling point (`ROWS`) the step leaves its job's queue,
`USE_STAMP` counts it, and what it takes at issue is sampled: tickets, common adapter, quotas, directory, notice records, bounds. `ROWS` then
copies a table whose rows are well formed and in the device's memory: every ticket is checked and charged (R524), and each row whose
adapter is known is checked against what was sampled (R177); once the notices that were asked for are there, the others. What can then go on
goes on. -/
def Obligations.StepsAreIssued : Prop :=
  ∀ (s : State) (p : Nat),
    (∀ j x rest, s.issueHeld = false → (∀ f ∈ s.lnk.notes, f.opc = 0x60 → leAt f.data 6 1 % 32 ≠ p) → (s.getP p).running = some j →
      (s.getP p).ctx = none → (∀ c ∈ (s.getP p).svCtx, c.job ≠ j.num) → j.queue = x :: rest →
      (∀ t0, (s.getP p).lastIssue = some t0 → t0 + 200 ≤ s.now) →
      ∃ u : State, exec (.stepIssue p) s = .next (u.resumeIssue p) ∧ { u with prt := s.prt } = s ∧ (∀ q, q ≠ p → u.getP q = s.getP q)
        ∧ u.ctxOf p = some { freshCtx j.num (if j.learner then .learner else .generator) x .load with phaseAt := s.now }
        ∧ { u.getP p with ctx := none } = s.getP p)
    ∧ (∀ c : Ctx, s.ctxOf p = some c → c.phase = .sample → s.issueHeld = false → (∀ m ∈ c.prog, m.bsrc < 3) →
      ∃ (u : State) (c' : Ctx), exec (.rows p) s = .next ((State.issueGo p 7 u).releaseHeld p) ∧ u.ctxOf p = some c' ∧ c'.phase = .table
        ∧ c'.phaseAt = s.now ∧ c'.rows = c.rows ∧ c'.sub = c.sub
        ∧ c'.samp = { stale := s.staleMIs p c.prog, tickets := s.sec.tickets, common := (s.getP p).common, rowQuota := (s.getP p).rowQuota.toNat
                      drwQuota := (s.getP p).drwQuota.toNat, dir := s.cab.dir, notes := s.pol.notes }
        ∧ c'.bounds = c.prog.map (fun m => match m.bsrc with
            | 1 => m.bval.toNat + 1
            | 2 => (nth (s.getP p).bound m.bval.toNat 0).toNat + 1
            | _ => 0)
        ∧ (u.getP p).lastIssue = some s.now ∧ { u.cab with extents := s.cab.extents } = { s.cab with useStamp := wrapAdd s.cab.useStamp 1 }
        ∧ { u with prt := s.prt, cab := s.cab } = s
        ∧ ∀ j, (u.getP p).job c.job = some j → ∀ x ∈ j.queue, x.sseq ≠ c.sub.sseq)
    ∧ (∀ (c : Ctx) d n rs, s.ctxOf p = some c → c.phase = .table → s.rowsDesc c = .ok d → d.space < 2 → (d.space = 1 ∨ s.hbmAwake = true) →
      (∀ m ∈ c.prog, m.bsrc < 3) → s.dOf c.sub.ofsH = none →
      n = (if nth c.bounds (rowsIdx c.prog) 0 = 0 then d.size 1 else nth c.bounds (rowsIdx c.prog) 0 - 1) →
      n ≤ c.samp.rowQuota → n ≤ 262144 → n ≤ d.size 1 →
      (List.range n).map (fun i => rowOf (c.role == .learner) c.sub.sseq ((List.range 8).map fun k => (s.u32 (s.view c tagRows) d k [i]).1))
        = rs.map some →
      rs.foldl (fun k r => k + r.len) 0 ≤ 1048576 → (∀ r ∈ rs, r.vacant = false → s.ras.fenceQ.getLsbD r.port = false) →
      let t := s.ticketRows p c rs
      ∃ (u : State) (c' : Ctx), exec (.rows p) s = .next ((State.issueGo p 7 u).releaseHeld p) ∧ u.ctxOf p = some c' ∧ c'.phase = .notice
        ∧ c'.rows = t.1.map (fun r => if (s.needNote { c with rows := t.1 }).contains r.aid then r else s.checkRow c r) ∧ u.sec = t.2.sec)
    ∧ (∀ c : Ctx, s.ctxOf p = some c → c.phase = .notice → c.noteWait = [] → s.needNote c = [] →
      ∃ u : State, exec (.rows p) s = .next ((State.issueGo p 7 u).releaseHeld p) ∧ { u with prt := s.prt } = s
        ∧ u.ctxOf p = some { c with rows := oneEpoch (c.rows.map (s.checkRow c)), phase := .sort })

/-- `SORT` (R184–R190): the rows that are served form one drawer for each adapter, in ascending adapter order and at most as many as the
`DRW_QUOTA` of the sampling point; each row names its adapter's drawer, and the step stands at the checks of its macro-instructions. -/
def Obligations.SortFormsTheDrawers : Prop :=
  ∀ (s : State) (p : Nat) (c : Ctx), s.ctxOf p = some c → c.phase = .sort → (∀ r ∈ c.rows, r.drawer = none) →
    ∃ (u : State) (c' : Ctx), exec (.sort p) s = .next ((State.issueGo p 7 u).releaseHeld p) ∧ u.ctxOf p = some c' ∧ c'.phase = .check
      ∧ (c'.drawers.map (·.aid)).Pairwise (· < ·) ∧ c'.drawers.length ≤ c.samp.drwQuota
      ∧ c'.rows.length = c.rows.length
      ∧ ∀ r ∈ c'.rows, ∀ k, r.drawer = some k → (c'.drw k).aid = r.aid ∧ k < c'.drawers.length

/-- The gate of a step (R410–R413): `LATCH_ACQ` takes a free latch and `LATCH_WAIT` passes one, a latch that is held keeps the step at its
gate from then on, a broken one is taken and reported; the step then goes on to its sampling point. A latch whose `DOMAIN` no longer admits the
partition refuses the step with DESC_INVALID (the model's choice, log entry 72). A gate macro-instruction that has waited for its limit refuses
the step with LATCH_HELD, and vectors held for it go on; one that has not, or has no limit, waits on. -/
def Obligations.GatesTakeTheirLatches : Prop :=
  ∀ (s : State) (p : Nat) (c : Ctx) (g : GateItem), s.ctxOf p = some c → c.phase = .gate →
    (c.gate = [g] → g.done = .pending → g.latch < 32768 →
      let l := s.latchAt g.latch
      let take := (s.latchOp (.context p) g.latch 1 0).2.latch
      let mine : Instr := if g.wait then .latchWait p else .latchAcq p
      let other : Instr := if g.wait then .latchAcq p else .latchWait p
      let passes (d : GateDone) (m : SMap Latch) : Prop :=
        ∃ (u : State) (c' : Ctx), exec mine s = .next (u.resumeIssue p) ∧ u.latch = m ∧ u.ctxOf p = some c' ∧ c'.phase = .sample
          ∧ c'.gate = [{ g with done := d }]
      (g.wait = false → l.st = .free → l.admits (.context p) = true → passes (.acquired false) take)
      ∧ (g.wait = true → l.st = .free → passes .passed s.latch)
      ∧ (l.st = .broken → l.admits (.context p) = true → passes (.acquired true) take)
      ∧ (l.st = .held → ∃ t, exec mine s = .next t ∧ { t with prt := s.prt } = s
          ∧ t.ctxOf p = some { c with gate := [{ g with since := some (g.since.getD s.now) }] })
      ∧ (l.st = .broken ∨ (l.st = .free ∧ g.wait = false) → l.admits (.context p) = false →
        ∃ (u : State) (c' : Ctx), exec mine s = .next (u.releaseHeld p) ∧ u.ctxOf p = some c' ∧ c'.refused = some (.descInvalid, g.idx)
          ∧ c'.phase = .ending)
      ∧ exec other s = .next s)
    ∧ (c.gate.find? (fun g => g.done == .pending) = some g →
      (g.limit = 0 ∨ g.since = none ∨ (∃ t0, g.since = some t0 ∧ s.now < t0 + usTicks g.limit) → exec (.latWait p) s = .next s)
      ∧ (∀ t0, g.limit ≠ 0 → g.since = some t0 → t0 + usTicks g.limit ≤ s.now →
        ∃ (u : State) (c' : Ctx), exec (.latWait p) s = .next (u.releaseHeld p) ∧ u.ctxOf p = some c'
          ∧ c'.refused = some (.latchHeld, g.idx) ∧ c'.phase = .ending))

/-- From the reservation to the run (R34, R387–R389, R397, R483): a waiting step that nothing holds back obtains its reservation, the regulators
are charged, and the domains it uses are awake or asked to wake; a restored step whose tumblers are no longer those of its save is torn down,
another obtains its reservation without a second charge. When every domain is awake the step runs with its units listed, placed and waiting,
and its program begins after `SORT`; a restored step goes on with the units it had. A unit that has waited for hinge vectors for longer than
`VEC_WAIT` (R213) tears its step down with that cause; until then it waits on. -/
def Obligations.StepsReserveAndRun : Prop :=
  ∀ (s : State) (p : Nat) (c : Ctx), s.ctxOf p = some c →
    (c.phase = .reserve → s.issueHeld = false → s.arbBlocked p = false → s.arbPassed p = false → (s.getP p).levelsOk = true →
      ∃ (t : State) (c' : Ctx), exec (.reservation p) s = .next t ∧ t.ctxOf p = some c' ∧ c' = { c with phase := .wake }
        ∧ (∀ d ∈ s.stepDoms p c, s.awake d = true ∨ ∃ w ∈ t.pwr.wakes, w.dom = d)
        ∧ (t.getP p).tbHbmLvl = (if (s.getP p).rate 0 = 0 then (s.getP p).tbHbmLvl else (s.getP p).tbHbmLvl - (s.hbmCharge p c : Int))
        ∧ (t.getP p).tbHngLvl = (if (s.getP p).rate 1 = 0 then (s.getP p).tbHngLvl else (s.getP p).tbHngLvl - (s.hngCharge c : Int))
        ∧ (t.getP p).tbFabLvl = (if (s.getP p).rate 2 = 0 then (s.getP p).tbFabLvl else (s.getP p).tbFabLvl - (s.fabCharge p c : Int)))
    ∧ (c.phase = .reserve → (s.getP p).levelsOk = false → exec (.reservation p) s = .next s)
    ∧ (c.phase = .restore → s.issueHeld = false → s.arbBlocked p = false → s.arbPassed p = false → (s.getP p).tumOwn ≠ c.saveMask →
      ∃ (u : State) (c' : Ctx), exec (.reservation p) s = .next (u.releaseHeld p) ∧ u.ctxOf p = some c' ∧ c'.torn = true ∧ c'.cause = 4)
    ∧ (c.phase = .restore → s.issueHeld = false → s.arbBlocked p = false → s.arbPassed p = false → (s.getP p).tumOwn = c.saveMask →
      (∀ t ∈ tumsOf (s.getP p).tumOwn, (s.tumOf t).st ≠ .fenced) → c.resume ≠ .reserve →
      ∃ t, exec (.reservation p) s = .next t ∧ t.ctxOf p = some { c with phase := .wake } ∧ (t.getP p).tbHbmLvl = (s.getP p).tbHbmLvl
        ∧ (∀ d ∈ s.stepDoms p c, s.awake d = true ∨ ∃ w ∈ t.pwr.wakes, w.dom = d)
        ∧ ∀ n ∈ tumsOf (s.getP p).tumOwn, (t.tumOf n).st = .restore)
    ∧ (c.phase = .wake → (∀ d ∈ s.stepDoms p c, s.awake d = true) → ((s.getP p).saved = false ∨ (s.getP p).svCtx ≠ none) → c.role ≠ .serve →
      ∃ (u : State) (c' : Ctx), exec (.runStart p) s = .next (u.pump p) ∧ { u with prt := s.prt } = s ∧ u.ctxOf p = some c'
        ∧ c'.phase = .run ∧ c'.units = s.listUnits p c ∧ c'.streams = s.listStreams c (s.listUnits p c)
        ∧ (c.prog.findIdx? fun m => m.op == 2).getD 0 < c'.pc)
    ∧ (c.phase = .wake → (∀ d ∈ s.stepDoms p c, s.awake d = true) → (s.getP p).saved = true → (s.getP p).svCtx = none → c.resume = .run →
      ∃ (u : State) (c' : Ctx), exec (.runStart p) s = .next (((u.releaseHeld p).pump p).flushQueued) ∧ u.ctxOf p = some c' ∧ c'.phase = .run
        ∧ c'.units = c.units ∧ (u.getP p).saved = false)
    ∧ (∀ u w, c.units.find? (fun x => x.id == u) = some w → c.phase = .run → (s.getP p).vecWait ≠ 0 → w.st = .waiting →
      (nth c.recs w.mi freshRec).reached = true → c.vecsHere w = false →
      (∀ t0, (nth c.recs w.mi freshRec).since = some t0 → t0 + usTicks (s.getP p).vecWait.toNat ≤ s.now →
        ∃ (v : State) (c' : Ctx), exec (.vecWait p u) s = .next (v.releaseHeld p) ∧ v.ctxOf p = some c' ∧ c'.torn = true ∧ c'.cause = 2
          ∧ c'.phase = .ending ∧ c'.units = [] ∧ c'.sub = c.sub)
      ∧ ((∀ t0, (nth c.recs w.mi freshRec).since = some t0 → s.now < t0 + usTicks (s.getP p).vecWait.toNat) → exec (.vecWait p u) s = .next s))

/-- Units and staging (R296, R487, R489, R493): a unit whose conditions hold and that needs no host memory runs on its tumbler, where no line
it reads is poisoned; a running unit completes, its tumbler counts it, and its results are kept: lanes of a vector, or a partial of a
gradient; the staging stream of a die ends with its layer's bytes counted. -/
def Obligations.UnitsRunAndComplete : Prop :=
  ∀ (s : State) (p u : Nat) (c : Ctx) (w : WUnit), s.ctxOf p = some c → c.phase = .run →
    (c.units.find? (fun x => x.id == u) = some w → s.ras.poison = [] → s.unitReady p c w = true → c.room w = true →
      (∀ v ∈ c.units, v.id < w.id → pinTum v.pin = pinTum w.pin → s.unitReady p c v = true → c.room v = true) → s.loadRngs c w = [] →
      ∃ (t : State) (c' : Ctx) (x : WUnit), exec (.unitStart p u) s = .next t ∧ t.ctxOf p = some c' ∧ c'.units.find? (fun x => x.id == u) = some x
        ∧ x.st = .running ∧ (t.tumOf (pinTum w.pin)).st = .run ∧ t.hbm = s.hbm ∧ t.writes = s.writes)
    ∧ (c.units.find? (fun x => x.id == u) = some w → w.st = .running → s.outRngs c w = [] →
      ∃ (t : State) (c' : Ctx) (x : WUnit), exec (.unitComplete p u) s = .next (t.pump p) ∧ t.ctxOf p = some c'
        ∧ c'.units.find? (fun x => x.id == u) = some x ∧ x.st = .done ∧ (t.tumOf (pinTum w.pin)).units = satAdd (s.tumOf (pinTum w.pin)).units 1
        ∧ (∀ g, (s.unitOut c w).part = some g → c'.parts = c.parts ++ [g])
        ∧ (∀ x ∈ (s.unitOut c w).vecs, c.posOk x.1 = true → (w.o0, x.2.2.1) ∈ (c'.acc w.mi x.1 x.2.1).lanes))
    ∧ (∀ q x, s.ras.poison = [] → c.headStream q = some x → s.blobHere (c.drw x.drw) = true → (x.started || c.bufFree x) = true → q < s.shf.length →
      ∃ (t : State) (c' : Ctx), exec (.stagingStreamEnd p q) s = .next t ∧ t.ctxOf p = some c' ∧ { x with started := true, done := true } ∈ c'.streams
        ∧ t.shf = modNth s.shf q fun h => { h with stgBytes := wrapAdd h.stgBytes (s.streamBytes (c.drw x.drw) x.layer) })

/-- A memory's acknowledgement (R416) makes a pending write to HBM or the Shelf visible: its bytes stand in that memory, it waits no longer, and
what waited for it goes on. `COPY` (R125, R442) of a dense FP32 vector in device memory to another of the same length that it does not overlap: each element leaves
as one write of the destination, in order, with the source's bytes; the macro-instruction is then done. -/
def Obligations.WritesAndCopiesMoveBytes : Prop :=
  (∀ (s : State) (id : Nat) (w : PWrite), s.writes.find? (fun x => x.id == id) = some w → w.space < 2 → w.key = 0 →
      ∃ u : State, exec (.writeAck id) s = .next (match w.tag with | .step p n _ => u.settleWrite p n id | _ => u)
        ∧ u.writes = s.writes.filter (fun x => x.id != id) ∧ { u with hbm := s.hbm, shelf := s.shelf, writes := s.writes, hbmStk := s.hbmStk, ras := s.ras, pwr := s.pwr } = s
        ∧ u.hbm = (if w.space = 0 then Memory.writeN s.hbm w.addr w.bytes else s.hbm)
        ∧ u.shelf = (if w.space = 0 then s.shelf else Memory.writeN s.shelf w.addr w.bytes))
  ∧ (∀ (s : State) (p i : Nat) (c : Ctx) (a b : Desc), s.ctxOf p = some c → c.phase = .run →
      (List.range c.prog.length).find? (fun i => (c.mi i).op == 0x48 && (nth c.recs i freshRec).reached && !(nth c.recs i freshRec).done) = some i →
      s.readsReady p c i none = true → s.dOf (c.mi i).op0 = some a → s.dOf (c.mi i).op1 = some b → nth c.bounds i 0 = 0 →
      (c.mi i).iform = 0 → (c.mi i).ih = 0 → (c.mi i).flag = false →
      (∀ d ∈ [a, b], d.fmt = 0 ∧ d.rank = 1 ∧ d.blkAxis = 0 ∧ d.paged = false ∧ d.space < 2 ∧ d.scaleH = 0 ∧ d.pscaleH = 0 ∧ d.escH = 0) → a.size 0 = b.size 0 →
      (a.space ≠ b.space ∨ a.base + 4 * a.size 0 ≤ b.base ∨ b.base + 4 * b.size 0 ≤ a.base) → i < c.recs.length →
      ∃ (u : State) (c' : Ctx), exec (.copy p) s = .next (u.pump p) ∧ u.ctxOf p = some c' ∧ (nth c'.recs i freshRec).done = true
        ∧ u.writes = s.writes ++ (List.range (a.size 0)).map fun k =>
            { id := s.nextWrite + k, space := b.space, addr := b.base + 4 * k
              bytes := (List.range 4).map fun n => s.view c i a.space (a.base + 4 * k + n)
              tag := .step p c.sub.sseq i, drw := 0xFFFF, key := 0, ew := 32, page := 0 })

/-- The end of a step (R385, R393, R455, R477): a step that has nothing left to do marks its report written; once the report is visible and VC2
has credit the `STEP_DONE` goes to the link and the step's place is free; a serve step only ends. A save first sends the interim report
with one more pre-emption counted; once that is visible the copy of its row table lies in its control slot (R394), the step stands saved without page pins (R229) and its job has stopped. -/
def Obligations.StepsEndAndSave : Prop :=
  ∀ (s : State) (p : Nat) (c : Ctx), s.ctxOf p = some c →
    (s.complete p c = true ∨ s.ended p c = true → (s.getP p).finals = [] → c.role ≠ .serve →
      (c.written = false → (∀ v ∈ c.vecs, v.answered = true) →
        ∃ t, exec (.stepDone p) s = .next t ∧ t.ctxOf p = some { c with written := true } ∧ t.lnk = s.lnk)
      ∧ (c.written = true → s.lnk.canSend 2 = true → (∀ w ∈ s.writes, w.tag ≠ .report p c.sub.sseq) → (∀ k < 4, (s.getHng k).held = []) →
        (s.getP p).svCtx = none →
        ∃ t, exec (.stepDone p) s = .next t ∧ t.ctxOf p = none ∧ t.lnk = ((s.releaseStep p c).notice 0x60 (s.finalHeader p c)).lnk))
    ∧ (s.complete p c = true ∨ s.ended p c = true → (s.getP p).finals = [] → c.role = .serve →
      exec (.stepDone p) s = .next (s.releaseStep p c) ∧ (s.releaseStep p c).ctxOf p = none)
    ∧ (c.phase = .saving → s.stepWrites p c.sub.sseq = false →
      (c.leaving = false →
        ∃ t, exec (.saveComplete p) s = .next t ∧ t.ctxOf p = some { c with npre := c.npre + 1, leaving := true })
      ∧ (c.leaving = true → (∀ w ∈ s.writes, w.tag ≠ .save p) → s.pwr.powering = false →
        ∃ (u : State) (x : Ctx) (e : DWord), exec (.saveComplete p) s = .next (((u.stopRunning p c.job .preempted).chooseJob p).releaseHeld p)
          ∧ (u.getP p).saved = true ∧ u.ctxOf p = none ∧ (u.getP p).svCtx = some x ∧ x.phase = .saved ∧ x.saveMask = (s.getP p).tumOwn
          ∧ x.sub = c.sub ∧ x.units = c.units ∧ x.pages = [] ∧ u.hbm = Memory.writeN s.hbm (saveRows p) (c.rows.flatMap Row.entry)
          ∧ u.lnk = (s.notice 0x60 ({ c with eng := e }.header p false false)).lnk))

/-- The hinge ports (R180, R181, R222, R494, R602, R603, R606): a vector of no step gives its credits back, is answered +0 with WARD_FAULT and
counted an orphan; one of a step that
may not be checked yet is held with its credits, and one beyond its 64 credits is discarded and counted; one that fails the tag check counts a
tag fault; one that passes is kept, quantized, with its step. The response that became ready first leaves behind its header, with `DELTA_VALID`. -/
def Obligations.VectorsAndResponsesPass : Prop :=
  ∀ (s : State) (port : Nat) (v : RowVec), port < 4 → port < s.hng.length →
    ((s.getHng port).lstate = 2 ∨ (s.getHng port).lstate = 3 → v.rowPart = v.part → v.reserved = false → s.awake (domCommon port) = true →
      (s.vecFor v.part v.sseq = .orphan →
        ∃ t, exec (.rowVector port v) s = .next t ∧ { t with hng := s.hng } = s
          ∧ t.getHng port = { (s.getHng port).giveBack v.part v.beats with
              beatsIn := wrapAdd (s.getHng port).beatsIn v.beats, hngOrph := satAdd (s.getHng port).hngOrph 1
              egress := (s.getHng port).egress ++ [{ part := v.part, sseq := v.sseq, slot := v.slot, off := v.off, proj := v.proj, status := .wardFault,
                                                     zero := true, placed := false, ofmt := 0, data := [] }] })
      ∧ (s.vecFor v.part v.sseq = .hold →
        (SMap.get 0 (s.getHng port).crdUsed v.part + v.beats ≤ 64 →
          ∃ t, exec (.rowVector port v) s = .next t ∧ { t with hng := s.hng } = s ∧ (t.getHng port).held = (s.getHng port).held ++ [v]
            ∧ SMap.get 0 (t.getHng port).crdUsed v.part = SMap.get 0 (s.getHng port).crdUsed v.part + v.beats)
        ∧ (64 < SMap.get 0 (s.getHng port).crdUsed v.part + v.beats →
          ∃ t, exec (.rowVector port v) s = .next t ∧ { t with hng := s.hng } = s ∧ (t.getHng port).held = (s.getHng port).held
            ∧ (t.getHng port).hngBad = satAdd (s.getHng port).hngBad
                (SMap.get 0 (s.getHng port).crdUsed v.part + v.beats - max (SMap.get 0 (s.getHng port).crdUsed v.part) 64)
            ∧ (t.getHng port).crdRet = ((s.getHng port).giveBack v.part (64 - SMap.get 0 (s.getHng port).crdUsed v.part)).crdRet))
      ∧ (∀ c : Ctx, s.vecFor v.part v.sseq = .check → s.ctxOf v.part = some c → c.refused = none →
        (c.rows.length ≤ v.slot →
          ∃ (u : State) (c' : Ctx), exec (.rowVector port v) s = .next (u.pump v.part) ∧ u.ctxOf v.part = some c' ∧ c'.tagFault = sat32 (c.tagFault + 1))
        ∧ (c.tagBad port v = false → (c.row v.slot).settled = false → (c.row v.slot).status = .ok →
          ∃ (u : State) (c' : Ctx) (x : Vec), exec (.rowVector port v) s = .next (u.pump v.part) ∧ u.ctxOf v.part = some c'
            ∧ c'.arrived v.slot v.off v.proj = some x ∧ c'.tagFault = c.tagFault
            ∧ (u.getHng port).crdRet = ((s.getHng port).giveBack v.part v.beats).crdRet)))
    ∧ (∀ r rest, (s.getHng port).egress = r :: rest → (s.getHng port).lstate = 2 →
      ∃ t, exec (.responseEgress port) s = .next t ∧ { t with hng := s.hng } = s
        ∧ t.getHng port = { s.getHng port with
            egress := rest, sent := (s.getHng port).sent ++ [{ r with sseq := r.sseq % 256 }]
            beatsOut := wrapAdd (s.getHng port).beatsOut r.beats, deltaValid := true, outHdr := r.words })

/-- Links that go down or wake: a hinge link that goes inactive (R590) loses its held vectors, the responses that have not left and its credits,
`DELTA_VALID` falls, a response that had begun to leave stays incomplete (R224), and vectors that came by it are answered no more (R231), on
no other port; an exit from L1 (R563, R601, R610) requests the wake of the link's domain; a command link that is down trains again when its
10 ms are over (R613). A link whose retries reach their limit (R600) leaves its active state to retrain and counts one more uncorrected error;
the end of a training that succeeds makes the link active: a hinge port awake with the lanes it repaired, a sub-port live, the command link
with the credits of R461 granted afresh. -/
def Obligations.LinksGoDownWakeAndTrain : Prop :=
  (∀ s : State,
      (∀ port, port < 4 → port < s.hng.length → (s.getHng port).lstate = 2 ∨ (s.getHng port).lstate = 3 →
        ∃ t, exec (.linkInactive port) s = .next t ∧ { t with hng := s.hng, prt := s.prt, freeCtr := s.freeCtr } = s
          ∧ ((s.getHng port).egress = [] →
            t.getHng port = { s.getHng port with lstate := 0, held := [], crdUsed := [], deltaValid := false })
          ∧ (∀ r rest, (s.getHng port).egress = r :: rest → ∃ k, k < r.beats
            ∧ t.getHng port = { s.getHng port with
                lstate := 0, held := [], crdUsed := [], deltaValid := false, egress := [], beatsOut := wrapAdd (s.getHng port).beatsOut k
                cut := if k = 0 then (s.getHng port).cut else (s.getHng port).cut ++ [({ r with sseq := r.sseq % 256 }, k)] })
          ∧ (∀ p, p < s.prt.length → ∀ c, s.ctxOf p = some c → t.ctxOf p = some { c with
              vecs := c.vecs.map fun v => if (c.row v.slot).port = port then { v with answered := true } else v })
          ∧ ∀ k, k ≠ port → t.getHng k = s.getHng k)
      ∧ (∀ fabric n d, (fabric = true ∧ n < 8 ∧ (s.getPort n).lstate = 3 ∧ d = domFab n)
          ∨ (fabric = false ∧ n < 4 ∧ (s.getHng n).lstate = 3 ∧ d = domCommon n) →
        s.awake d = false → s.fencedDom d = false → (∀ w ∈ s.pwr.wakes, w.dom ≠ d) →
        exec (.l1Exit fabric n) s = .next { s with pwr := { s.pwr with wakes := s.pwr.wakes ++ [{ dom := d, at_ := s.now, admitted := none }] } })
      ∧ (s.side.rstN = true → s.lnk.lstate = 0 → 1 ≤ s.mgt.bootStage.toNat → s.pwr.pdStage.toNat ≠ 6 →
        (s.due perRetrain = true →
          exec .commandLinkRetrain s = .next { s with lnk := { s.lnk with lstate := 1 }, mgt := (s.align perRetrain 1000000).mgt })
        ∧ (s.due perRetrain = false → exec .commandLinkRetrain s = .next s)))
  ∧ (∀ s : State,
      (∀ n, n < 4 → n < s.hng.length → (s.getHng n).lstate = 2 ∨ (s.getHng n).lstate = 3 →
        ∃ t, exec (.linkRetryLimit 4 n) s = .next t ∧ (t.getHng n).lstate = 1 ∧ (t.getHng n).retrained = true ∧ (t.getHng n).held = []
          ∧ t.ras.ueAll = satAdd s.ras.ueAll 1)
      ∧ (∀ n, n < 8 → n < s.fab.ports.length → (s.getPort n).lstate = 2 ∨ (s.getPort n).lstate = 3 →
        ∃ t, exec (.linkRetryLimit 6 n) s = .next t ∧ (t.getPort n).lstate = 1 ∧ (t.getPort n).retrained = true
          ∧ t.fab.live.getLsbD n = false ∧ t.ras.ueAll = satAdd s.ras.ueAll 1)
      ∧ (s.lnk.lstate = 2 →
        ∃ t, exec (.linkRetryLimit 9 0) s = .next t ∧ t.lnk.lstate = 0 ∧ t.lnk.helloOk = false ∧ t.lnk.longs = s.lnk.longs)
      ∧ (∀ n lanes, n < 4 → n < s.hng.length → (s.getHng n).lstate = 1 → (s.getHng n).retrained = false →
        ∃ t, exec (.linkTrainingEnd 4 n true lanes) s = .next t ∧ (t.getHng n).lstate = 2 ∧ t.awake (domCommon n) = true
          ∧ (t.getHng n).trainAtt = satAdd (s.getHng n).trainAtt 1 ∧ (t.getHng n).laneRep = BitVec.ofNat 8 lanes)
      ∧ (∀ n lanes, n < 8 → n < s.fab.ports.length → (s.getPort n).lstate = 1 → (s.getPort n).retrained = false →
        ∃ u : State, exec (.linkTrainingEnd 6 n true lanes) s = .next u.fabGo.heldGo ∧ (u.getPort n).lstate = 2 ∧ u.fab.live.getLsbD n = true
          ∧ u.awake (domFab n) = true)
      ∧ (∀ lanes, s.lnk.lstate = 1 → s.lnk.crdHeld = [0, 0, 0, 0] →
        ∃ t, exec (.linkTrainingEnd 9 0 true lanes) s = .next t ∧ s.onlyLink t ∧ t.lnk.lstate = 2 ∧ t.lnk.hostCrd = grantCredits))

/-- The data of a host read reach the step that asked for them, cut or filled with zeros to the length it asked for (R611); a piece of a
slower-tier read waits for the other pieces (R303). The access is then no longer on its way. A completion makes a write visible in host
memory: the write is no longer pending (R611). An access that waited for the field `HOST_TMO` (R612) since it left is given up and counted as an
uncorrected error; an access of a step ends the step; one that still waits for its sub-port's domain has not left. -/
def Obligations.HostAccessesComplete : Prop :=
  (∀ (s : State) (xid : Nat) (bytes : List Byte) (x : Xfer),
      s.fab.xfers.find? (fun y => y.xid == xid && y.write.isNone && y.got.isNone) = some x →
      (∀ p n tag c, x.use = .step p n tag → s.ctxOf p = some c → c.sub.sseq = n →
        ∃ u : State, exec (.hostReadData xid bytes) s = .next ((u.resumeIssue p).pump p)
          ∧ u.fab.xfers = s.fab.xfers.filter (fun y => y.xid != xid) ∧ { u with fab := s.fab, prt := s.prt } = s
          ∧ u.ctxOf p = some { c with
              host := updFirst c.host (fun g => g.tag == tag && g.space == x.space && g.addr == x.addr && g.len == x.len && g.data.isNone)
                fun g => { g with data := some ((bytes ++ List.replicate (x.len - bytes.length) 0).take x.len) } })
      ∧ (∀ p aid ep y, x.use = .slowRead p aid ep → y ∈ s.fab.xfers → y.use = x.use → y.xid ≠ xid → y.got = none →
        ∃ t, exec (.hostReadData xid bytes) s = .next t ∧ { t with fab := s.fab } = s
          ∧ t.fab.xfers = s.fab.xfers.map fun y => if y.xid = xid then { y with got := some (bytes.take x.len) } else y)
      ∧ (∀ p aid ep, x.use = .slowRead p aid ep → (∀ y ∈ s.fab.xfers, y.use = x.use → y.xid ≠ xid → y.got.isSome = true) →
        let data := (insSort (fun (a b : Xfer) => decide (a.addr < b.addr)) (((s.fab.xfers.map fun y =>
          if y.xid = xid then { y with got := some (bytes.take x.len) } else y)).filter fun y => y.use == x.use)).flatMap fun y => y.got.getD []
        ∃ u : State, { u with fab := s.fab } = s ∧ (∀ y ∈ u.fab.xfers, y.use ≠ x.use)
          ∧ exec (.hostReadData xid bytes) s = .next (u.promotionEnd aid ep
              (Config.opened p aid ep (granule * (((s.entry aid).bind fun e => e.slot ep).bind (·.slowLoc)).getD 0) data))))
  ∧ (∀ (s : State) (xid : Nat) (x : Xfer),
      (∀ id w, s.fab.xfers.find? (fun y => y.xid == xid && y.write.isSome) = some x → x.use = .write id →
        s.writes.find? (fun w => w.id == id) = some w → 2 ≤ w.space →
        ∃ u : State, u.fab.xfers = s.fab.xfers.filter (fun y => y.xid != xid) ∧ u.writes = s.writes.filter (fun w => w.id != id)
          ∧ { u with fab := s.fab, writes := s.writes } = s
          ∧ exec (.hostWriteCompletion xid) s =
              .next (match w.tag with | .step p n _ => u.settleWrite p n id | _ => u))
      ∧ (∀ p aid ep, s.fab.xfers.find? (fun y => y.xid == xid && y.write.isSome) = some x → x.use = .slowWrite p aid ep →
        (∀ y ∈ s.fab.xfers, y.use = x.use → y.xid = xid) →
        ∃ u : State, u.fab.xfers = s.fab.xfers.filter (fun y => y.xid != xid) ∧ { u with fab := s.fab } = s
          ∧ exec (.hostWriteCompletion xid) s = .next (u.demoted aid ep))
      ∧ (∀ id w, s.fab.xfers.find? (fun y => y.xid == xid && y.got.isNone) = some x → x.t0 + usTicks s.fab.hostTmo.toNat ≤ s.now →
        (∀ y ∈ s.fab.waiting, y.xid ≠ xid) → x.use = .write id → s.writes.find? (fun w => w.id == id) = some w → w.tag = .other →
        exec (.hostTmo xid) s = .next { s with
          ras := { s.ras with ueAll := satAdd s.ras.ueAll 1 }
          fab := { s.fab with xfers := s.fab.xfers.filter fun y => !(y.xid == xid) }
          writes := s.writes.filter fun w => w.id != id })
      ∧ (∀ p n tag, s.fab.xfers.find? (fun y => y.xid == xid && y.got.isNone) = some x →
        x.t0 + usTicks s.fab.hostTmo.toNat ≤ s.now → (∀ y ∈ s.fab.waiting, y.xid ≠ xid) → x.use = .step p n tag →
        exec (.hostTmo xid) s = .next (State.hostError { s with
          ras := { s.ras with ueAll := satAdd s.ras.ueAll 1 }
          fab := { s.fab with xfers := s.fab.xfers.filter fun y => !(y.xid == xid) } } x p n))
      ∧ (s.fab.xfers.find? (fun y => y.xid == xid && y.got.isNone) = some x →
        (s.now < x.t0 + usTicks s.fab.hostTmo.toNat ∨ ∃ y ∈ s.fab.waiting, y.xid = xid) → exec (.hostTmo xid) s = .next s))

/-- Sessions, joining and views (R306–R312, R337, R341, R346): what each message of the pool's membership leaves, before the work that follows any
message. A `HELLO` that is right opens a session and is acknowledged; its `HELLO_ACK` opens the other end. A `JOIN_REQ` is named the
registrar, or proposes the member under the lowest free instance ID; `JOIN_ACK` gives this device its ID and view. `LEAVE` proposes the removal.
A next `VIEW` is installed, an old one acknowledged again; `VIEW_ACK` is counted, and the one that makes a majority of seeds installs the
view; `VIEW_PULL` is answered with the whole view. `PHB` is a sign of life. A `REDIRECT` asks the owner that the view names; one on another
channel than the message that it answers is discarded and counted (R339). -/
def Obligations.MembersJoinAndViewsSpread : Prop :=
  ∀ (s : State) (m : RppMsg),
    let v := s.hearing m
    (s.hears m 1 = true → s.helloStatus m = .ok → s.pol.sess.length < 8192 →
      ∃ (u : State) (x : RppSess), exec (.rppHello m) s = .next (u.afterMsg 1) ∧ u.pol.session m.peer = some x ∧ x.opening = false
        ∧ u.told m.peer 2 m.tag .ok m.aid m.epoch s.helloPl)
    ∧ (s.hears m 1 = true → s.helloStatus m ≠ .ok →
      ∃ u : State, exec (.rppHello m) s = .next (u.afterMsg 1) ∧ u.told m.peer 2 m.tag (s.helloStatus m) m.aid m.epoch s.helloPl)
    ∧ (∀ r, s.hears m 2 = true → s.reqOf m.peer m.tag = some r → r.kind = .hello → m.status = .ok → s.helloStatus m = .ok → m.unjd = false →
      ∃ u : State, exec (.helloAck m) s = .next (u.afterMsg 2) ∧ (∀ x ∈ u.pol.sess, x.inst = m.peer → x.opening = false)
        ∧ ∀ y ∈ u.pol.reqs, y.id ≠ r.id)
    ∧ (∀ major minor bm pool dev addr group serves att, s.hears m 3 = true → m.pl = .join major minor bm pool dev addr group serves att →
      s.pol.instValid = true →
      (∀ r x, v.isRegistrar = false → v.registrar = some r → s.member r = some x →
        ∃ u : State, exec (.joinReq m) s = .next (u.afterMsg 3) ∧ u.told m.peer 0x0A m.tag .ok m.aid m.epoch (.pairs [(x.inst, x.addr)]))
      ∧ (∀ i, v.isRegistrar = true → v.majority = true → s.newTag m = true → m.major = 1 → major = 1 → pool = s.pol.poolId.toNat → att = true →
          s.sec.coreFault = false → freeInst s.instsTaken 65536 0 = some i →
        ∃ u : State, exec (.joinReq m) s = .next (u.afterMsg 3)
          ∧ u.butSess (State.propose (v.modPol fun q => { q with joins := q.joins ++ [(m.peer, m.tag, i)] })
              { noChange with
                add := [{ inst := i, devId := dev, addr := addr, group := group, rppMinor := minor, blobMinor := bm, serves := serves }]
                del := (s.pol.members.filter fun x => x.devId == dev && x.inst != s.me).map (·.inst) })))
    ∧ (∀ r i vw, s.hears m 4 = true → s.reqOf m.peer m.tag = some r → r.kind = .join → m.status = .ok → m.pl = .joinAck i vw →
      ∃ u : State, exec (.joinAck m) s = .next (State.afterMsg 4 (if u.mgt.bootStage = 8 then u.blobStart else u))
        ∧ u.pol.instId = BitVec.ofNat 16 i ∧ u.pol.instValid = true ∧ u.pol.viewNum = BitVec.ofNat 32 vw.num)
    ∧ (s.hears m 5 = true → v.isRegistrar = true → v.majority = true → s.newTag m = true →
      ∃ u : State, exec (.leave m) s = .next (u.afterMsg 5)
        ∧ u.butSess ((v.reply m m.peer 7 .ok (.num s.pol.viewNum.toNat)).propose { noChange with del := [m.peer] }))
    ∧ (∀ vw, s.hears m 6 = true → m.pl = .view vw → s.pol.instValid = true →
      (vw.full = false → vw.num = s.pol.viewNum.toNat + 1 →
        ∃ u : State, exec (.view m) s = .next (u.afterMsg 6) ∧ u.pol.viewNum = BitVec.ofNat 32 vw.num
          ∧ u.pol.members = (s.pol.members.filter fun x => !vw.del.contains x.inst && !(vw.add.any fun a => a.inst == x.inst)) ++ vw.add)
      ∧ (vw.num ≤ s.pol.viewNum.toNat →
        ∃ u : State, exec (.view m) s = .next (u.afterMsg 6) ∧ u.pol.viewNum = s.pol.viewNum ∧ u.pol.members = s.pol.members
          ∧ u.told m.peer 7 m.tag .ok m.aid m.epoch (.num s.pol.viewNum.toNat)))
    ∧ (∀ n pv, s.hears m 7 = true → m.pl = .num n → s.pol.pend = some pv → pv.num ≤ n → m.peer ∉ s.pol.pendAcks →
      (2 * (s.seedMembers.filter fun i => (s.pol.pendAcks ++ [m.peer]).contains i).length ≤ s.pol.seedCnt.toNat →
        ∃ u : State, exec (.viewAck m) s = .next (u.afterMsg 7) ∧ u.pol.pendAcks = s.pol.pendAcks ++ [m.peer] ∧ u.pol.pend = some pv)
      ∧ (s.pol.seedCnt.toNat < 2 * (s.seedMembers.filter fun i => (s.pol.pendAcks ++ [m.peer]).contains i).length →
        v.isRegistrar = true → v.majority = true → s.pol.nextView = [] → pv.full = false → pv.add = [] → pv.del = [] →
        ∃ u : State, exec (.viewAck m) s = .next (u.afterMsg 7) ∧ u.pol.viewNum = BitVec.ofNat 32 pv.num ∧ u.pol.pend = none
          ∧ u.pol.ranges = pv.ranges.foldl (fun t r => SMap.set freeRange t r.1 r.2) s.pol.ranges))
    ∧ (s.hears m 8 = true → v.isRegistrar = true ∨ v.registrar = some m.peer →
      ∃ u : State, exec (.viewPull m) s = .next (u.afterMsg 8) ∧ u.told m.peer 6 m.tag .ok m.aid m.epoch (.view s.fullView))
    ∧ (s.hears m 9 = true →
      exec (.phb m) s = .next (v.afterMsg 9) ∧ v.unreach m.peer = false
        ∧ SMap.get (0, 0) v.pol.quiet m.peer = (s.now + msTicks s.pol.peerDead.toNat, s.now + msTicks s.pol.lease.toNat))
    ∧ (∀ r p sseq mi ship o, s.hears m 0x0A = true → s.reqOf m.peer m.tag = some r → r.kind = .gd p sseq mi ship → r.redirects < 2 →
      m.vc = r.msg.vc → s.ownerOfAid r.msg.aid = some o → o ≠ s.me → r.id < s.pol.nextReq →
      ∃ u : State, exec (.redirect m) s = .next (u.afterMsg 0x0A) ∧ (∀ y ∈ u.pol.reqs, y.id ≠ r.id)
        ∧ ∃ y ∈ u.pol.reqs, y.peer = o ∧ y.kind = r.kind ∧ y.redirects = r.redirects + 1)
    ∧ (∀ r, s.hears m 0x0A = true → s.reqOf m.peer m.tag = some r → m.vc ≠ r.msg.vc →
      exec (.redirect m) s = .next (State.afterMsg 0x0A { v with pol := { v.pol with rppBad := satAdd v.pol.rppBad 1 } }))

/-- Ranges, windows and probes (R141, R300, R302, R316, R321, R329): what each message leaves, before the work that follows any message. -/
def Obligations.RangesAndWindowsAreGranted : Prop :=
  ∀ (s : State) (m : RppMsg),
    let v := s.hearing m
    (∀ k, s.hears m 0x0B = true → v.isRegistrar = true → v.majority = true → s.newTag m = true →
      lowestRange s.rangesBusy s.pol.ranges 65536 0 = some k →
      ∃ u : State, exec (.rangeReq m) s = .next (u.afterMsg 0x0B)
        ∧ u.butSess (State.propose (v.modPol fun q => { q with grants := q.grants ++ [(m.peer, m.tag, k)] })
            { noChange with ranges := [(k, { state := .held, inst := m.peer })] })
        ∧ (2 ≤ s.pol.seedCnt.toNat → (s.pol.members.map (·.inst)).Nodup → u.pol.grants = s.pol.grants ++ [(m.peer, m.tag, k)]
          ∧ ∃ w ∈ u.pol.nextView ++ u.pol.pend.toList, (k, ({ state := .held, inst := m.peer } : RangeEnt)) ∈ w.ranges))
    ∧ (s.hears m 0x0B = true → v.isRegistrar = true → v.majority = true → s.newTag m = true →
      lowestRange s.rangesBusy s.pol.ranges 65536 0 = none →
      ∃ u : State, exec (.rangeReq m) s = .next (u.afterMsg 0x0B) ∧ u.told m.peer 0x0C m.tag .idExhausted m.aid m.epoch .none)
    ∧ (s.hears m 0x0B = true → v.isRegistrar = false → ∃ u : State, exec (.rangeReq m) s = .next (u.afterMsg 0x0B) ∧ u.redirected m)
    ∧ (∀ r long k, s.hears m 0x0C = true → s.reqOf m.peer m.tag = some r → r.kind = .range long → m.status = .ok → m.pl = .num k →
      exec (.rangeGrant m) s = .next (((v.dropReq r.id).rangeFor long k).afterMsg 0x0C))
    ∧ (∀ bytes b, s.hears m 0x0D = true → m.pl = .num bytes → s.newTag m = true → bytes ≠ 0 →
      lowestFree (ceilDiv bytes granule) s.cab.cacheBase s.cab.exportBase (s.cab.extents.filter fun e => e.part == 33) = some b →
      ∃ u : State, exec (.exportReq m) s = .next (u.afterMsg 0x0D)
        ∧ u.pol.exports = s.pol.exports ++ [{ inst := m.peer, base := granule * (b - s.cab.exportBase), bytes := bytes }]
        ∧ u.cab = { s.cab with extents := addExtent ⟨b, ceilDiv bytes granule, 33, .window m.peer⟩ s.cab.extents }
        ∧ u.told m.peer 0x0E m.tag .ok m.aid m.epoch (.window (granule * (b - s.cab.exportBase)) bytes))
    ∧ (∀ r p base n, s.hears m 0x0E = true → s.reqOf m.peer m.tag = some r → r.kind = .winReq p → m.status = .ok → m.pl = .window base n →
      p < s.prt.length →
      ∃ u : State, exec (.exportGrant m) s = .next (u.afterMsg 0x0E) ∧ (u.getP p).slowAt = base + 1 ∧ ∀ y ∈ u.pol.reqs, y.id ≠ r.id)
    ∧ (∀ off len, s.hears m 0x1C = true → m.pl = .window off len →
      (s.inWindow m.peer off len = true →
        ∃ u : State, exec (.slowRd m) s = .next (u.afterMsg 0x1C)
          ∧ u.told m.peer 0x1D m.tag .ok m.aid m.epoch (.data 0 (Memory.readN s.hbm (gAddr s.cab.exportBase + off) len) true))
      ∧ (s.inWindow m.peer off len = false → exec (.slowRd m) s = .next (v.afterMsg 0x1C)))
    ∧ (∀ r p aid ep bs ok, s.hears m 0x1D = true → s.reqOf m.peer m.tag = some r → r.kind = .slowRd p aid ep → m.pl = .data r.buf.length bs ok →
      (m.last = false → ∃ u : State, exec (.slowData m) s = .next (u.afterMsg 0x1D) ∧ ∃ y ∈ u.pol.reqs, y.id = r.id ∧ y.buf = r.buf ++ bs)
      ∧ (m.last = true → exec (.slowData m) s = .next (((v.dropReq r.id).promotionEnd aid ep
          (Config.opened p aid ep (granule * (((s.entry aid).bind fun e => e.slot ep).bind (·.slowLoc)).getD 0) (r.buf ++ bs))).afterMsg 0x1D)))
    ∧ (∀ off bs ok, s.hears m 0x1E = true → m.pl = .data off bs ok → s.inWindow m.peer off bs.length = true →
      ∃ u : State, exec (.slowWr m) s = .next (u.afterMsg 0x1E) ∧ u.hbm = Memory.writeN s.hbm (gAddr s.cab.exportBase + off) bs
        ∧ (m.last = true → u.told m.peer 0x1F m.tag .ok m.aid m.epoch .none))
    ∧ (∀ r p aid ep, s.hears m 0x1F = true → s.reqOf m.peer m.tag = some r → r.kind = .slowWr p aid ep → m.status = .ok →
      exec (.slowAck m) s = .next (((v.dropReq r.id).demoted aid ep).afterMsg 0x1F))
    ∧ (s.hears m 0x1A = true →
      ∃ u : State, exec (.probe m) s = .next (u.afterMsg 0x1A) ∧ u.outgoing m.peer (u.rppMsg m.peer 0x1B m.tag .ok 0 0 .none).long)
    ∧ (∀ r grp d, s.hears m 0x1B = true → s.reqOf m.peer m.tag = some r → r.kind = .probe grp → grp < s.pol.cal.length →
      ∃ u : State, exec (.probeEcho m) s = .next (u.afterMsg 0x1B) ∧ (∀ y ∈ u.pol.reqs, y.id ≠ r.id)
        ∧ (nth u.pol.cal grp d).latV = estNext (nth s.pol.cal grp d).latV (nsOf (s.now - r.t0))
        ∧ (nth u.pol.cal grp d).latF = estNext (nth s.pol.cal grp d).latF (nsOf (s.now - r.t0)))

/-- Notices, fills, visits and gradients (R256–R259, R323, R324, R331–R336): what each message leaves, before the work that follows any message.
A request for adapters of ranges held elsewhere is redirected. -/
def Obligations.AdaptersAreServedToThePool : Prop :=
  ∀ (s : State) (m : RppMsg),
    (∀ es : List Entry, s.hears m 0x10 = true → m.pl = .aids (es.map (·.aid)) → s.allMine (es.map (·.aid)) = true → s.newTag m = true →
      (∀ e ∈ es, s.entry e.aid = some e ∧ e.owned = true) →
      ∃ u : State, exec (.noteReq m) s = .next (u.afterMsg 0x10)
        ∧ u.told m.peer 0x11 m.tag (if (es.map s.recordOf).all (·.valid) then .ok else .adapterUnknown) m.aid m.epoch (.notes (es.map s.recordOf)))
    ∧ (∀ l, s.hears m 0x10 = true → m.pl = .aids l → s.allMine l = false →
      ∃ u : State, exec (.noteReq m) s = .next (u.afterMsg 0x10) ∧ u.redirected m)
    ∧ (∀ r p aids l c, s.hears m 0x11 = true → s.reqOf m.peer m.tag = some r → r.kind = .note p aids → p < 32 → m.pl = .notes l →
      (∀ n ∈ l, n.aid ∈ aids) → m.last = true → s.ctxOf p = some c → (∃ a ∈ aids, a ∈ c.noteWait) →
      ∃ (u : State) (c' : Ctx), exec (.noteRep m) s = .next ((u.resumeIssue p).afterMsg 0x11) ∧ u.ctxOf p = some c'
        ∧ c'.noteOut = c.noteOut ++ l.filter (fun n => c.noteWait.contains n.aid)
        ∧ c'.noteDead = c.noteDead ++ aids.filter (fun a => !(l.any fun n => n.aid == a) && c.noteWait.contains a)
        ∧ c'.noteWait = c.noteWait.filter (fun a => !aids.contains a) ∧ ∀ y ∈ u.pol.reqs, y.id ≠ r.id)
    ∧ (∀ a ep e x, s.hears m 0x12 = true → m.pl = .pairs [(a, ep)] → s.mine a = true → s.newTag m = true → s.entry a = some e → e.owned = true →
      e.state ≠ .empty → e.slot ep = some x → x.damaged = false → x.bminor ≤ ((s.pol.session m.peer).map (·.blobMinor)).getD 0 → x.slow = false →
      ∃ u : State, exec (.fetchReq m) s = .next (u.afterMsg 0x12)
        ∧ u.pol.fetchQ = s.pol.fetchQ ++ [{ peer := m.peer, tag := m.tag, seg := 0, left := [(a, ep, 0)] }]
        ∧ ∃ e' x', u.entry a = some e' ∧ e'.slot ep = some x' ∧ x'.refs = x.refs + 1)
    ∧ (∀ r pairs ep off bs ok e x, s.hears m 0x13 = true → s.reqOf m.peer m.tag = some r → r.kind = .fetch pairs →
      pairs.find? (fun y => y.1 == m.aid) = some (m.aid, ep) → m.epoch = ep → m.status = .ok → m.pl = .data off bs ok → s.entry m.aid = some e →
      e.slot ep = some x → x.vstate = .filling → off = x.got → (x.fitted off bs).1 = true → x.got + bs.length < (x.fitted off bs).2.blen →
      ∃ (u : State) (e' : Entry) (x' : VSlot), exec (.fetchData m) s = .next (u.afterMsg 0x13) ∧ u.hbm = Memory.writeN s.hbm (gAddr x.loc + off) bs
        ∧ u.entry m.aid = some e' ∧ e'.slot ep = some x' ∧ x'.got = x.got + bs.length ∧ x'.blen = (x.fitted off bs).2.blen)
    ∧ (∀ l, s.hears m 0x14 = true → m.pl = .visit l → s.allMine (l.map (·.aid)) = true → s.newTag m = true →
      (s.pol.servePart.toNat < 32 →
        ∃ u : State, exec (.visitRows m) s = .next (u.afterMsg 0x14) ∧ u.pol.serveQ = s.pol.serveQ ++ l.map fun r => (m.peer, m.tag, r))
      ∧ (32 ≤ s.pol.servePart.toNat →
        ∃ u : State, exec (.visitRows m) s = .next (u.afterMsg 0x14)
          ∧ u.told m.peer 0x15 m.tag .noCapacity m.aid m.epoch (.visit (l.map fun r => { r with vecs := [] }))))
    ∧ (∀ r p mi k x sent (c : Ctx), s.hears m 0x15 = true → s.reqOf m.peer m.tag = some r → r.kind = .visit p c.sub.sseq x.proj mi [k] →
      m.pl = .visit [x] → r.msg.pl = .visit sent → (∃ y ∈ sent, y.aid = x.aid ∧ y.epoch = x.epoch ∧ y.first = x.first) → (x.aid, x.first) ∉ r.ans → m.status = .ok →
      s.ctxOf p = some c → c.torn = false → (c.drw k).aid = x.aid →
      ∃ (u : State) (c' : Ctx), exec (.visitDelta m) s = .next ((u.pump p).afterMsg 0x15) ∧ u.ctxOf p = some c' ∧ c'.ret = c.ret ++ [(visitKey mi k, x)])
    ∧ (∀ key, s.hears m 0x16 = true → m.pl = .gdReq key → s.mine m.aid = true → s.newTag m = true →
      (∀ (e : Entry) (x : VSlot) (i b : Nat), s.entry m.aid = some e → e.owned = true → e.learn = true → e.state = .ready → e.master.isSome = true →
        e.slot m.epoch = some x → (x.vstate = .current ∨ x.vstate = .retained) → e.frozen = false →
        (List.range 16).find? (fun i => !(e.slotsUsed.contains i)) = some i →
        s.cabUse e.home + s.contribLen e ≤ (s.getP e.home).cabQuota.toNat → lowestFree (s.contribLen e) s.cab.exportBase 0 s.cab.extents = some b →
        ∃ u : State, exec (.gdReq m) s = .next (u.afterMsg 0x16) ∧ u.told m.peer 0x17 m.tag .ok m.aid m.epoch (.num i)
          ∧ u.cab = { s.cab with
              extents := addExtent ⟨b, s.contribLen e, e.home, .contrib m.aid i⟩ s.cab.extents
              dir := updFirst s.cab.dir (fun y => y.aid == m.aid) fun y =>
                { y with contribs := y.contribs ++ [{ slot := i, key := key, base := m.epoch, src := m.peer
                                                      due := s.now + usTicks s.pol.gdHold.toNat, written := false, data := [] }] } })
      ∧ (s.entry m.aid = none →
        ∃ u : State, exec (.gdReq m) s = .next (u.afterMsg 0x16) ∧ u.cab = s.cab ∧ u.told m.peer 0x17 m.tag .adapterUnknown m.aid m.epoch .none)
      ∧ (∀ e : Entry, s.entry m.aid = some e → e.owned = true → e.learn = true → e.state = .ready → e.master.isSome = true → e.slot m.epoch = none →
        ∃ u : State, exec (.gdReq m) s = .next (u.afterMsg 0x16) ∧ u.cab = s.cab ∧ u.told m.peer 0x17 m.tag .versionGone m.aid m.epoch .none))
    ∧ (∀ r p sseq mi ship slot key g, s.hears m 0x17 = true → s.reqOf m.peer m.tag = some r → r.kind = .gd p sseq mi ship →
      r.msg.pl = .gdReq key → m.status = .ok → m.pl = .num slot →
      s.cab.grads.find? (fun g => g.part == p && g.aid == r.msg.aid && g.base == r.msg.epoch) = some g →
      s.shipLive p sseq r.msg.aid r.msg.epoch = true →
      ∃ (u : State) (y : PReq), exec (.gdGrant m) s = .next (u.afterMsg 0x17) ∧ y ∈ u.pol.reqs ∧ y.peer = m.peer ∧ y.kind = .gdWrite p sseq mi ship slot
        ∧ y.msg.pl = .gdData slot key g.data)
    ∧ (∀ slot key mats (e : Entry), s.hears m 0x18 = true → m.pl = .gdData slot key mats → s.mine m.aid = true → s.newTag m = true →
      s.entry m.aid = some e →
      (key ∉ e.keysNow → key ∉ e.keysPrev → (∃ c ∈ e.contribs, c.slot = slot ∧ c.key = key ∧ c.written = false) →
        ∃ u : State, exec (.gdData m) s = .next (u.afterMsg 0x18) ∧ u.told m.peer 0x19 m.tag .ok m.aid m.epoch .none
          ∧ u.cab = { s.cab with dir := updFirst s.cab.dir (fun y => y.aid == m.aid) fun y =>
              { y with
                contribs := updFirst y.contribs (fun c => c.slot == slot && c.key == key) fun c => { c with written := true, data := mats }
                keysNow := y.keysNow ++ [key] } })
      ∧ (key ∈ e.keysNow ∨ key ∈ e.keysPrev →
        ∃ u : State, exec (.gdData m) s = .next (u.afterMsg 0x18) ∧ u.told m.peer 0x19 m.tag .ok m.aid m.epoch .none ∧ u.cab = s.cab)
      ∧ (key ∉ e.keysNow → key ∉ e.keysPrev → (∀ c ∈ e.contribs, c.slot ≠ slot) →
        ∃ u : State, exec (.gdData m) s = .next (u.afterMsg 0x18) ∧ u.told m.peer 0x19 m.tag .timeout m.aid m.epoch .none ∧ u.cab = s.cab))
    ∧ (∀ r p sseq mi ship slot, s.hears m 0x19 = true → s.reqOf m.peer m.tag = some r → r.kind = .gdWrite p sseq mi ship slot → m.status = .ok →
      ∃ u : State, exec (.gdCommit m) s = .next (u.afterMsg 0x19)
        ∧ ∀ g ∈ u.cab.grads, g.part = p → g.aid = r.msg.aid → g.base ≠ r.msg.epoch)

/-- Versions and range moves (R317, R318, R323, R363–R366), and frames that are discarded (R339): what each message leaves, before the work
that follows any message. -/
def Obligations.VersionsAndMovesSpread : Prop :=
  ∀ (s : State) (m : RppMsg),
    let v := s.hearing m
    (∀ n, s.hears m 0x20 = true → m.pl = .notes [n] →
      (∀ o, s.ownerOfAid n.aid = some m.peer → s.note n.aid = some o → precedes o.epoch n.epoch = true →
        ∃ u : State, exec (.pubNotice m) s = .next (u.afterMsg 0x20)
          ∧ u.note n.aid = some { o with epoch := n.epoch, blen := n.blen, bminor := n.bminor, lbytes := n.lbytes, valid := true }
          ∧ ∀ e, s.entry n.aid = some e → e.owned = false → precedes e.curEpoch n.epoch = true →
              u.entry n.aid = some { e with curEpoch := n.epoch, unknown := false })
      ∧ (s.ownerOfAid n.aid ≠ some m.peer → exec (.pubNotice m) s = .next (v.afterMsg 0x20)))
    ∧ (∀ n l, s.hears m 0x21 = true → m.pl = .batch n l →
      ∃ u : State, exec (.invalidate m) s = .next (u.afterMsg 0x21)
        ∧ u.pol.rx = s.pol.rx ++ [{ owner := m.peer, num := n, pairs := l, steps := s.issuedSteps, whole := m.last, told := false }]
        ∧ ∀ a ep e x, (a, ep) ∈ l → s.entry a = some e → e.owned = false → e.slot ep = some x → x.refs ≠ 0 →
            ∃ e' x', u.entry a = some e' ∧ e'.slot ep = some x' ∧ x'.inval = true)
    ∧ (∀ n l, n ≠ 0 → m.pl = .batch n l → (SMap.has s.pol.acks m.peer = false ∨ precedes (SMap.get 0 s.pol.acks m.peer) n = true) →
      (s.hears m 0x22 = true → ∃ u : State, exec (.evictNotice m) s = .next (u.afterMsg 0x22) ∧ SMap.get 0 u.pol.acks m.peer = n)
      ∧ (s.hears m 0x23 = true → ∃ u : State, exec (.retireAck m) s = .next (u.afterMsg 0x23) ∧ SMap.get 0 u.pol.acks m.peer = n))
    ∧ (∀ k p es lasts, s.hears m 0x30 = true → m.pl = .moveBegin k p es lasts → s.newTag m = true → (∀ e ∈ es, ∀ x ∈ e.vtab, x.bminor ≤ blobMinorMax) →
      s.dirUse p + es.length ≤ (s.getP p).dirQuota.toNat →
      s.cabUse p + es.foldl (fun n e => (s.moveLens e).foldl (fun n x => n + x.2) n) 0 ≤ (s.getP p).cabQuota.toNat →
      ∃ u : State, exec (.moveBegin m) s = .next (u.afterMsg 0x30) ∧ u.told m.peer 0x30 m.tag .ok m.aid m.epoch (.num k)
        ∧ u.pol.moves = s.pol.moves ++ [{ range := k, peer := m.peer, part := p, source := false, st := .transfer, long := none, cmd := false, got := [],
                                               last := lasts, abort := none }])
    ∧ (∀ k n, s.hears m 0x30 = true → m.pl = .pairs [(k, n)] → v.isRegistrar = true →
      exec (.moveBegin m) s = .next ((v.showMoving k m.peer).afterMsg 0x30))
    ∧ (∀ r k n, s.hears m 0x30 = true → m.pl = .num n → s.reqOf m.peer m.tag = some r → r.kind = .moveBegin k → m.status = .ok →
      ∃ u : State, exec (.moveBegin m) s = .next ((u.moveGo k).afterMsg 0x30)
        ∧ u.pol.moves = updFirst s.pol.moves (fun x => x.source && x.range == k) fun x => { x with st := .freeze })
    ∧ (∀ k e blobs x, s.hears m 0x31 = true → m.pl = .moveData k e blobs → s.newTag m = true →
      s.pol.moves.find? (fun x => !x.source && x.range == k && x.peer == m.peer) = some x →
      (∃ u : State, exec (.moveData m) s = .next (u.afterMsg 0x31) ∧ match v.moveLand x e blobs with
        | some w => u.told m.peer 0x31 m.tag .ok m.aid m.epoch (.num k) ∧ u.cab = w.cab ∧ u.hbm = w.hbm
        | none => u.told m.peer 0x31 m.tag .noCapacity m.aid m.epoch (.num k) ∧ u.cab = s.cab ∧ u.hbm = s.hbm)
      ∧ ∀ (y : VSlot) (b : Nat), e.vtab = [y] → e.master = none → e.contribs = [] →
        s.cabUse x.part + ceilDiv y.blen granule ≤ (s.getP x.part).cabQuota.toNat →
        lowestFree (ceilDiv y.blen granule) s.cab.exportBase 0 s.cab.extents = some b →
        ∃ u : State, exec (.moveData m) s = .next (u.afterMsg 0x31) ∧ u.told m.peer 0x31 m.tag .ok m.aid m.epoch (.num k)
          ∧ u.hbm = Memory.writeN s.hbm (gAddr b) (nth blobs 0 (0, [])).2
          ∧ u.cab.extents = addExtent ⟨b, ceilDiv y.blen granule, x.part, .moved x.range (movedNo e.aid 0)⟩ s.cab.extents
          ∧ u.pol.moves = updFirst s.pol.moves (fun z => !z.source && z.range == x.range) fun z =>
              { z with got := z.got ++ [({ e with vtab := [{ y with loc := b }] }, [])] })
    ∧ (∀ r k n, s.hears m 0x31 = true → m.pl = .num n → s.reqOf m.peer m.tag = some r → r.kind = .moveData k → m.status = .ok →
      exec (.moveData m) s = .next (((v.dropReq r.id).moveGo k).afterMsg 0x31))
    ∧ (∀ k target, s.hears m 0x32 = true → m.pl = .pairs [(k, target)] → v.isRegistrar = true → v.majority = true → s.newTag m = true →
      ((SMap.get freeRange s.pol.ranges k).state = .held ∨ (SMap.get freeRange s.pol.ranges k).state = .moving) → (SMap.get freeRange s.pol.ranges k).inst = m.peer → (s.member target).isSome = true →
      ∃ u : State, exec (.moveCommit m) s = .next (u.afterMsg 0x32)
        ∧ u.butSess ((v.propose { noChange with ranges := [(k, { state := .held, inst := target })] }).reply m m.peer 0x32 .ok (.num k)))
    ∧ (∀ k x, s.hears m 0x33 = true → m.pl = .num k → x ∈ s.pol.moves → x.source = false → x.range = k → x.peer = m.peer →
      v.isRegistrar = false → s.changing k = false →
      ∃ u : State, exec (.moveAbort m) s = .next (u.afterMsg 0x33) ∧ (∀ y ∈ u.pol.moves, y.source = true ∨ y.range ≠ k)
        ∧ ∀ e ∈ u.cab.extents, ∀ n, e.obj ≠ .moved k n)
    ∧ (∀ k, s.hears m 0x33 = true → m.pl = .num k → v.isRegistrar = true → s.pol.pend = none → (SMap.get freeRange s.pol.ranges k).inst = m.peer →
      ((SMap.get freeRange s.pol.ranges k).state = .held ∨ (SMap.get freeRange s.pol.ranges k).state = .moving) → m.tag ≠ 0 →
      ∃ u : State, exec (.moveAbort m) s = .next (u.afterMsg 0x33) ∧ u.told m.peer 0x33 m.tag .ok m.aid m.epoch .none
        ∧ ∀ w ∈ u.pol.nextView, ∀ x ∈ w.ranges, x.1 = k → x.2 = { state := .held, inst := m.peer })
    ∧ (∀ tagOk, (m.bad = true ∨ tagOk = false →
        exec (.rppFrameDiscard m tagOk) s = .next ((s.fabCount (s.rppPort m) false (32 + m.len)).modPol fun q => { q with rppBad := satAdd q.rppBad 1 }))
      ∧ (m.bad = false → tagOk = true → exec (.rppFrameDiscard m tagOk) s = .next s))

/-- The pool's timers (R259, R310–R312, R329, R330, R334, R342, R364, R557, R640): each has its effect when it is due and none before. -/
def Obligations.PoolTimersExpire : Prop :=
  ∀ s : State,
    (∀ r x, s.pol.reqs.find? (fun x => x.id == r && x.kind != .oneWay) = some x →
      (s.now < x.due → exec (.tReqExpiry r) s = .next s)
      ∧ (x.due ≤ s.now → x.resends < s.pol.retry.toNat → x.queued = false → (s.pol.reqs.map (·.id)).Nodup →
        ∃ u : State, exec (.tReqExpiry r) s = .next u.poolWork ∧ (∀ f ∈ x.msg.frames, u.outgoing x.peer f)
          ∧ ∃ y ∈ u.pol.reqs, y.id = r ∧ y.resends = x.resends + 1 ∧ y.due = s.now + usTicks s.pol.tReq.toNat)
      ∧ (x.due ≤ s.now → x.resends < s.pol.retry.toNat → x.queued = true → (s.pol.reqs.map (·.id)).Nodup →
        ∃ u : State, exec (.tReqExpiry r) s = .next u.poolWork ∧ { u with pol := s.pol } = s ∧ u.pol.sent = s.pol.sent
          ∧ ∃ y ∈ u.pol.reqs, y.id = r ∧ y.resends = x.resends + 1 ∧ y.due = s.now + usTicks s.pol.tReq.toNat)
      ∧ (x.due ≤ s.now → s.pol.retry.toNat ≤ x.resends →
        exec (.tReqExpiry r) s = .next (s.failReq x
          (if s.unreach x.peer || (x.peer < 65536 && (s.member x.peer).isNone) then .ownerUnreachable else .timeout)).poolWork))
    ∧ (∀ inst, s.sessOpen inst = true → s.unreach inst = false →
      (s.now < (SMap.get (0, 0) s.pol.quiet inst).1 → exec (.peerDead inst) s = .next s)
      ∧ ((SMap.get (0, 0) s.pol.quiet inst).1 ≤ s.now → (∀ x ∈ s.pol.moves, x.peer ≠ inst) → (∀ r ∈ s.pol.reqs, r.peer ≠ inst) →
        ∃ u : State, exec (.peerDead inst) s = .next u.poolWork ∧ u.unreach inst = true ∧ { u with pol := s.pol } = s))
    ∧ (∀ inst, s.isRegistrar = true → s.majority = true → inst ≠ s.me → (s.member inst).isSome = true →
      (∀ x ∈ s.pol.nextView ++ s.pol.pend.toList, inst ∉ x.del) → (SMap.get (0, 0) s.pol.quiet inst).2 ≤ s.now →
      exec (.lease inst) s = .next (s.propose { noChange with del := [inst] }).poolWork)
    ∧ (∀ inst, exec (.quarantineExpiry inst) s = .next { s with pol := { s.pol with
        quarantine := s.pol.quarantine.filter fun x => !(x.1 == inst && decide (x.2 ≤ s.now)) } })
    ∧ (∀ a rest, s.mgt.bootStage = 8 → s.pol.instValid = false → (∀ r ∈ s.pol.reqs, r.kind ≠ .join) → s.serviceUp 2 3 = true → s.pol.joinDue ≤ s.now →
      s.sec.lcState = 2 → s.sec.coreFault = false → s.poolOfOne = false →
      (s.pol.seeds.take s.pol.seedCnt.toNat).filter (· != s.pol.addr) = a :: rest →
      ∃ u : State, exec .joinRetry s = .next u.poolWork ∧ ∃ y ∈ u.pol.reqs, y.kind = .join ∧ y.peer = 65536 + a)
    ∧ (s.mgt.bootStage = 8 → s.pol.instValid = false → (∀ r ∈ s.pol.reqs, r.kind ≠ .join) → s.serviceUp 2 3 = true → s.pol.joinDue ≤ s.now →
      s.sec.lcState = 2 → s.sec.coreFault = false → s.poolOfOne = true →
      ∃ u : State, exec .joinRetry s = .next u.poolWork ∧ u.pol.instId = 0 ∧ u.pol.instValid = true)
    ∧ (∀ aid slot e c, s.entry aid = some e → e.contribs.find? (fun c => c.slot == slot && !c.written) = some c →
      (s.now < c.due → exec (.gdHold aid slot) s = .next s)
      ∧ (c.due ≤ s.now → ∃ u : State, exec (.gdHold aid slot) s = .next u.movesGo
          ∧ u.entry aid = some { e with contribs := e.contribs.filter fun c => c.slot != slot } ∧ ∀ x ∈ u.cab.extents, x.obj ≠ .contrib aid slot))
    ∧ (s.pol.instValid = true → s.pwr.pdStage.toNat < 5 →
      (s.due perPhb = false → exec .phbPeriod s = .next s)
      ∧ (s.due perPhb = true → s.poolIdle = true → (∀ r ∈ s.pol.reqs, r.kind ≠ .oneWay) → s.pol.sess.length < 8192 →
        ∃ u : State, exec .phbPeriod s = .next (State.runWork 15 u) ∧ u.pol.work = [.batch, .acks, .windows, .views, .sessions, .moves, .blobs]
          ∧ u.mgt = (s.align perPhb (100000 * s.pol.phbPeriod.toNat)).mgt
          ∧ ∀ i ∈ s.others, s.sessOpen i = true → u.told i 9 0 .ok 0 0 .none))
    ∧ (s.booted = true →
      let snap : Pol := { s.pol with
        snapLast := s.pol.snapLast + 1
        snaps := (s.pol.snaps ++ [({ id := (s.pol.snapLast + 1).toNat, stamp := s.now, grps := s.pol.cal } : Snap)]).drop (s.pol.snaps.length + 1 - 64) }
      (s.poolIdle = true → exec .calNow s = .next { s with pol := snap })
      ∧ (s.due perCal = false → exec .calPeriod s = .next s)
      ∧ (s.due perCal = true → s.poolIdle = true →
        ∃ t, exec .calPeriod s = .next t ∧ { t with lnk := s.lnk, freeCtr := s.freeCtr, mgt := s.mgt } = { s with pol := snap }
          ∧ t.mgt = (s.align perCal (100000 * s.pol.calPeriod.toNat)).mgt ∧ (s.dueOf perCal = s.now → t.lnk = s.lnk)))
    ∧ (∀ grp, s.pol.instValid = true → s.now < SMap.get 0 s.pol.groupAt grp → exec (.probePeriod grp) s = .next s)
    ∧ (∀ grp, s.pol.instValid = true → SMap.get 0 s.pol.groupAt grp ≤ s.now → s.poolIdle = true →
      (∃ x ∈ s.pol.members, x.group = grp ∧ x.inst ≠ s.me) → s.pol.reqs = [] →
      ∃ t, exec (.probePeriod grp) s = .next t ∧ ∃ y ∈ t.pol.reqs, y.kind = .probe grp ∧ ∃ x ∈ s.pol.members, x.group = grp ∧ y.peer = x.inst)
    ∧ (s.due perVisit = false → exec .visitWin s = .next s)
    ∧ (∀ r e x, s.pol.servePart.toNat < s.prt.length → (s.getP s.pol.servePart.toNat).ctx = none → s.pol.servePart.toNat < 32 → s.issueHeld = false →
      s.due perVisit = true → s.pol.serveQ = [r] → (s.getP s.pol.servePart.toNat).tumOwn = 0 → r.2.2.vecs.length ≤ s.pol.serveCap.toNat →
      s.entry r.2.2.aid = some e → e.owned = true → e.state ≠ .empty → e.slot r.2.2.epoch = some x → x.damaged = false → x.slow = false →
      ∃ t, exec .visitWin s = .next t ∧ t.pol.serveQ = [] ∧ t.ctxOf s.pol.servePart.toNat = none)
    ∧ (∀ r e x, s.pol.servePart.toNat < s.prt.length → (s.getP s.pol.servePart.toNat).ctx = none → s.pol.servePart.toNat < 32 → s.issueHeld = false →
      s.due perVisit = true → s.pol.serveQ = [r] → (s.getP s.pol.servePart.toNat).tumOwn ≠ 0 → r.2.2.vecs.length ≤ s.pol.serveCap.toNat → s.entry r.2.2.aid = some e → e.owned = true → e.state ≠ .empty →
      e.slot r.2.2.epoch = some x → x.damaged = false → x.slow = false →
      (((s.align perVisit (100 * s.pol.visitWin.toNat)).newCharge s.pol.servePart.toNat).reserveStage s.pol.servePart.toNat []
        [servePath r.2.2.key]).1.isSome = true →
      ∃ (t : State) (c : Ctx), exec .visitWin s = .next t ∧ t.pol.serveQ = [] ∧ t.ctxOf s.pol.servePart.toNat = some c ∧ c.role = .serve
        ∧ c.phase = .reserve ∧ c.drawers.length = 1 ∧ (c.drw 0).served = [r.2.2] ∧ t.cab.useStamp = wrapAdd s.cab.useStamp 1)

/-- A corrected error (R578) is counted: one of SRAM in `CE_SRAM`, one of HBM in `CE_HBM` and in its stack; the first of a row is logged with
severity CORRECTED, without a notice; none ends a step. A row whose corrected errors reach `CE_THRESH` (R583) enters the repair list: one of
the Shelf is repaired at once by a spare, one of a pair waits. An uncorrected error of a store or of HBM that no step reads (R581, R582): it is
counted, the injection it was is disarmed, the next log record names it, and the `FAULT` is pending; an HBM line that no object holds is
poisoned. -/
def Obligations.ErrorsAreCountedAndLogged : Prop :=
  (∀ s : State,
      (∀ kind n bank row word, sramKind kind = true → s.ras.injects kind n word false = false →
        (∀ e ∈ s.ras.rowCe, e.1 = { kind := kind, n := n, bank := bank, row := row } → e.2 + 1 < s.ras.ceThresh.toNat) → 1 < s.ras.ceThresh.toNat →
        ∃ t, exec (.sramCorrected kind n bank row word) s = .next t ∧ t.ras.ceSram = satAdd s.ras.ceSram 1 ∧ t.prt = s.prt
          ∧ { t with ras := s.ras, tum := s.tum } = s
          ∧ t.ras.lseqLast = (if s.ras.rowCe.any (fun e => e.1 == { kind := kind, n := n, bank := bank, row := row }) then s.ras.lseqLast
              else s.ras.lseqLast + 1))
      ∧ (∀ kind n bank row word cnt, kind = 2 ∨ kind = 3 → s.ras.injects kind n word false = false →
        let k : ArrRow := { kind := kind, n := n, bank := bank, row := row }
        s.ras.rowCe.find? (fun e => e.1 == k) = some (k, cnt) → s.ras.ceThresh.toNat ≤ cnt + 1 → (∀ e ∈ s.ras.repair, e.1 ≠ k) →
        s.ras.repair.length < 65535 → s.ras.sparesUsed k < 16 →
        ∃ t, exec (.sramCorrected kind n bank row word) s = .next t ∧ t.ras.ceSram = satAdd s.ras.ceSram 1
          ∧ t.ras.repair = s.ras.repair ++ [(k, kind == 3)])
      ∧ (∀ addr line row, stackOf addr < s.hbmStk.length →
        ∃ t, exec (.hbmCorrected addr line row) s = .next t ∧ t.ras.ceHbm = satAdd s.ras.ceHbm 1
          ∧ (nth t.hbmStk (stackOf addr) Hbm.reset).ce = satAdd (nth s.hbmStk (stackOf addr) Hbm.reset).ce 1
          ∧ { t with ras := s.ras, hbmStk := s.hbmStk } = s))
  ∧ (∀ s : State, (∀ q ∈ s.prt, q.ctx = none) →
      (∀ kind n bank row word readers, sramKind kind = true → s.ras.injects kind n word true = true →
        ∃ t, exec (.sramUncorrected kind n bank row word readers) s = .next t ∧ t.ras.ueAll = satAdd s.ras.ueAll 1 ∧ t.ras.injArm = false
          ∧ t.ras.lseqLast = s.ras.lseqLast + 1 ∧ t.ras.faultPend = true ∧ t.ras.repair = s.ras.repair)
      ∧ (∀ addr line row readers, addr < sysBase → s.cab.holding (addr / 64 * 64) = none → s.ras.repair.length < 65535 →
        ∃ t, exec (.hbmUncorrected addr line row readers) s = .next t ∧ t.ras.ueAll = satAdd s.ras.ueAll 1
          ∧ (∃ x ∈ t.ras.poison, x.1 = addr / 64 * 64) ∧ t.ras.lseqLast = s.ras.lseqLast + 1 ∧ t.ras.faultPend = true))

/-- A logic fault (R581, R584) of a tumbler pair that no step uses fences the pair: its tumblers are FENCED and leave every mask, its
domain is off for good, and issue is held while the device keeps a declared configuration. The end of the hold (R585) lets issue go on and
marks the `FAULT` pending. -/
def Obligations.LogicFaultsFenceAndHoldIssue : Prop :=
  (∀ (s : State) (n part : Nat), n < 64 → (∀ q ∈ s.prt, q.ctx = none) → s.ras.fencePair.getLsbD n = false →
    s.ras.unserviceable = false →
    ({ s.ras with fencePair := s.ras.fencePair ||| BitVec.ofNat 64 (2 ^ n) } : Ras).configCode ≠ 0xFF →
    ∃ t, exec (.logicFault 2 n part) s = .next t ∧ t.ras.fencePair = s.ras.fencePair ||| BitVec.ofNat 64 (2 ^ n) ∧ t.ras.hold = true
      ∧ t.ras.ueAll = satAdd s.ras.ueAll 1 ∧ t.awake n = false ∧ t.fencedDom n = true
      ∧ (t.tumOf (2 * n)).st = .fenced ∧ (t.tumOf (2 * n + 1)).st = .fenced
      ∧ (∀ q ∈ t.prt, q.tumOwn.getLsbD (2 * n) = false ∧ q.tumOwn.getLsbD (2 * n + 1) = false))
  ∧ (∀ s : State, s.ras.hold = true → s.ras.fences ≠ [] →
    ∃ t, exec .issueHoldRelease s = .next t ∧ t.ras.hold = false ∧ t.ras.fences = [] ∧ t.ras.faultPend = true
      ∧ t.ras.log = s.ras.log ∧ t.prt = s.prt)

/-- The governor (R560, R565–R568): a period takes the power and the hottest temperature into its registers and never raises the frequency at
once; a coolant flow below its limit forces point 7. When the regulators have settled (R560) the frequency rises to the point that waited. A
sensor (R569) at the trip threshold forces point 7 and counts a trip; at the shutdown threshold the thermal-trip output is set and the
device starts over from its boot with its memories cleared; below the thresholds nothing but the record that it was warm changes, and when the
next sample may come. A period or a sample before its time is none. -/
def Obligations.GovernorAndSensorsSetThePoint : Prop :=
  ((∀ (s : State) (r : Sensors), s.mgt.applied = true → s.coreUp 5 = true → s.pwr.fallback = false →
      s.due perGovernor = true →
      ∃ t, exec (.governorPeriod r) s = .next t ∧ t.mgt = (s.align perGovernor 100000).mgt ∧ t.pwr.pEst = BitVec.ofNat 16 (min 65535 r.power)
        ∧ t.pwr.tHot = BitVec.ofNat 16 (min 65535 r.hot) ∧ s.pwr.opPoint.toNat ≤ t.pwr.opPoint.toNat
        ∧ ∀ fl, r.flow = some fl → lt32 (fQ8 fl) (s.pwr.n 23) = true → t.pwr.opPoint = 7 ∧ t.pwr.rise = none)
    ∧ (∀ (s : State) (r : Sensors), s.due perGovernor = false → exec (.governorPeriod r) s = .next s)
    ∧ (∀ (s : State) (j why t0 : Nat), s.pwr.rise = some (j, why) → s.pwr.settling = some t0 → t0 + usTicks (s.pwr.n 0) ≤ s.now → j < 8 →
      s.pwr.opPoint.toNat ≠ j →
      ∃ t, exec .vSettle s = .next t ∧ t.pwr.opPoint = BitVec.ofNat 3 j ∧ t.pwr.cclkMhz = BitVec.ofNat 16 (pointMhz j)
        ∧ t.pwr.rise = none ∧ { t with pwr := s.pwr, lnk := s.lnk } = s))
  ∧ (∀ (s : State) (temp n : Nat), s.side.rstN = true → s.due (perSensor n) = false → exec (.sensorSample temp n) s = .next s)
  ∧ (∀ (s : State) (temp n : Nat), s.side.rstN = true → s.due (perSensor n) = true →
      ((s.pwr.n 21 = 0 ∨ temp < 256 * s.pwr.n 21) → s.pwr.n 20 ≠ 0 → 256 * s.pwr.n 20 ≤ temp → s.pwr.trip = false →
        ∃ t, exec (.sensorSample temp n) s = .next t ∧ t.pwr.trip = true ∧ t.pwr.opPoint = 7 ∧ t.pwr.tripCnt = satAdd s.pwr.tripCnt 1)
      ∧ (s.pwr.n 21 ≠ 0 → 256 * s.pwr.n 21 ≤ temp →
        ∃ t, exec (.sensorSample temp n) s = .next t ∧ t.pwr.thermtrip = true ∧ t.mgt.bootStage = 0 ∧ t.hbm = [] ∧ t.shelf = []
          ∧ t.flash = s.flash ∧ t.side.rstN = true)
      ∧ ((s.pwr.n 21 = 0 ∨ temp < 256 * s.pwr.n 21) → (s.pwr.n 20 = 0 ∨ temp < 256 * s.pwr.n 20) →
        ∃ t, exec (.sensorSample temp n) s = .next t ∧ { t with pwr := { t.pwr with warm := s.pwr.warm } } = s.align (perSensor n) 100))

/-- A management core that faults (R42, R409, R555) is no longer live and every latch it held is BROKEN, every other latch as before;
after core 5 the always-on domain takes over the operating point. The security core's fault (R533) stops its services and is logged. -/
def Obligations.CoreFaultsStopServices : Prop :=
  (∀ (s : State) (c : Nat), c < 6 → c ≠ 4 → s.coreUp c = true → (s.latch.map (·.1)).Nodup →
    ∃ t, exec (.managementCoreFault c) s = .next t ∧ t.coreUp c = false ∧ (c = 5 → t.pwr.fallback = true)
      ∧ ∀ n, t.latchAt n = if (s.latchAt n).st = .held ∧ (s.latchAt n).okind = .core ∧ (s.latchAt n).oid = c
          then (s.latchAt n).leave .broken else s.latchAt n)
  ∧ (∀ s : State, s.sec.coreFault = false →
    ∃ t, exec .securityCoreFault s = .next t ∧ t.sec = { s.sec with coreFault := true } ∧ t.coreUp 4 = false
      ∧ t.ras.lseqLast = s.ras.lseqLast + 1)

/-- A heartbeat period that ends (R476) is counted; with credit the heartbeat goes out and the skip count is 0 again, without it the skip is
counted and nothing goes. The regulators and the windowed cycles of a partition (R387, R389): a refill adds a microsecond of each rate, up
to the depth, to each level of the named partition alone, at the rates and depths that are configured by then (R376); a decay halves every
partition's windowed cycles. What is not due has no effect. -/
def Obligations.HeartbeatsRefillsAndDecays : Prop :=
  (∀ s : State, s.lnk.hbOn = true → s.coreUp 5 = true →
      (s.due perHeartbeat = false → exec .heartbeat s = .next s)
      ∧ (s.due perHeartbeat = true → s.lnk.canSend 0 = true → s.lnk.out.length = 4 →
        ∃ t, exec .heartbeat s = .next t ∧ (s.spend perHeartbeat 100000).onlyLink t ∧ t.lnk.hbPeriod = s.lnk.hbPeriod + 1 ∧ t.lnk.hbSkip = 0
          ∧ t.lnk.delivers (noticeFrame 0 0x66 (leBytes 8 (s.lnk.hbPeriod + 1).toNat ++ leBytes 8 s.now
            ++ bytes4 [s.lnk.qUsed.toNat, s.pwr.cclkMhz.toNat, s.mgt.coreLive.toNat, s.lnk.hbSkip.toNat])))
      ∧ (s.due perHeartbeat = true → s.lnk.canSend 0 = false →
        exec .heartbeat s = .next { s.spend perHeartbeat 100000 with lnk := { s.lnk with hbPeriod := s.lnk.hbPeriod + 1, hbSkip := s.lnk.hbSkip + 1 } }))
  ∧ (∀ s : State,
      (∀ p, s.due (perRefill p) = false → exec (.regulatorRefill p) s = .next s)
      ∧ (∀ p, s.due (perRefill p) = true → exec (.regulatorRefill p) s = .next { s.spend (perRefill p) 100 with prt := modNth s.prt p fun q =>
        { q with
          tbHbmLvl := min (q.tbHbmLvl + 1000 * q.tbHbmRate.toNat) (1048576 * q.tbHbmDepth.toNat)
          tbHngLvl := min (q.tbHngLvl + 1000 * q.tbHngRate.toNat) (1048576 * q.tbHngDepth.toNat)
          tbFabLvl := min (q.tbFabLvl + 1000 * q.tbFabRate.toNat) (1048576 * q.tbFabDepth.toNat)
          effTb := q.rates } })
      ∧ (s.due perDecay = false → exec .winCyclesDecay s = .next s)
      ∧ (s.due perDecay = true → ∃ t, exec .winCyclesDecay s = .next t ∧ { t with prt := s.prt } = s.spend perDecay 100000
        ∧ ∀ p, p < s.prt.length → (t.getP p).winCycles.toNat = (s.getP p).winCycles.toNat / 2
          ∧ { t.getP p with winCycles := (s.getP p).winCycles } = s.getP p))

/-- The switched domains (R562–R564): one that nothing has used for `IDLE_HOLD` goes idle, its tumblers OFF, and none before; the wake that is
admitted keeps the load of its rail within the ramp limit of the window; a wake that has taken its time leaves its domain awake: tumblers IDLE,
a port, stack or sub-port active, and what waited for it (R52, R563) goes on. -/
def Obligations.DomainsIdleAndWake : Prop :=
  ∀ s : State,
    (∀ d, d < 92 → s.awake d = true → s.domUsed d = false → (∀ w ∈ s.pwr.wakes, w.dom ≠ d) →
      (s.now < SMap.get 0 s.pwr.lastUse d + usTicks (s.pwr.n 1) → exec (.idleHold d) s = .next s)
      ∧ (SMap.get 0 s.pwr.lastUse d + usTicks (s.pwr.n 1) ≤ s.now →
      ∃ t, exec (.idleHold d) s = .next t ∧ t.awake d = false ∧ (∀ e, e ≠ d → t.awake e = s.awake e)
        ∧ (d < 64 → SMap.wf Tum.reset s.tum = true → (t.tumOf (2 * d)).st = .off ∧ (t.tumOf (2 * d + 1)).st = .off)))
    ∧ (∀ w, s.admissible = some w →
      ∃ t, exec .wakeAdmit s = .next t ∧ { t with pwr := s.pwr } = s ∧ (∃ x ∈ t.pwr.wakes, x.dom = w.dom ∧ x.admitted = some s.now)
        ∧ t.pwr.ramp = s.inRamp ++ [(w.dom, s.now)]
        ∧ ((t.pwr.ramp.filter fun x => domRail x.1 == domRail w.dom).map fun x => domLoad x.1).sum ≤ s.pwr.n (3 + domRail w.dom))
    ∧ (∀ w, (s.pwr.wakes.filter fun x => x.admitted.isNone) = [w] → (∀ q, domDie w.dom = some q → s.awake (domCommon q) = true) →
      ((s.inRamp.filter fun x => domRail x.1 == domRail w.dom).map fun x => domLoad x.1).sum + domLoad w.dom ≤ s.pwr.n (3 + domRail w.dom) →
      exec .wakeAdmit s = .next { s with pwr := { s.pwr with
        wakes := updFirst s.pwr.wakes (fun y => y.dom == w.dom) fun y => { y with admitted := some s.now }
        ramp := s.inRamp ++ [(w.dom, s.now)] } })
    ∧ (∀ d w t0, d < 92 → s.pwr.wakes.find? (fun w => w.dom == d) = some w → w.admitted = some t0 → t0 + domTime d ≤ s.now →
      let v : State := State.setAwake { s with pwr := { s.pwr with wakes := s.pwr.wakes.filter fun y => y.dom != d } } d true
      v.awake d = true
      ∧ (d < 64 → (∀ e ∈ s.ras.repair, e.1.kind = 2 → e.1.n = d → e.2 = true) →
        ∃ t, exec (.wakeComplete d) s = .next t ∧ { t with tum := s.tum } = { v with tum := s.tum }
          ∧ (SMap.wf Tum.reset s.tum = true → ∀ k < 2, t.tumOf (2 * d + k) =
              if (s.tumOf (2 * d + k)).st = .off then { s.tumOf (2 * d + k) with st := .idle } else s.tumOf (2 * d + k)))
      ∧ (64 ≤ d → d < 72 → exec (.wakeComplete d) s = .next v)
      ∧ (72 ≤ d → d < 76 → d - 72 < s.hng.length → (s.getHng (d - 72)).lstate = 3 →
        ∃ u : State, exec (.wakeComplete d) s = .next ((u.getHng (d - 72)).turns.foldl (fun (s : State) p => s.releaseHeld p) u)
          ∧ u = { v with hng := modNth s.hng (d - 72) fun h => { h with lstate := 2 } })
      ∧ (76 ≤ d → d < 84 → d - 76 < s.hbmStk.length → (nth s.hbmStk (d - 76) Hbm.reset).st = 3 →
        ∃ u : State, exec (.wakeComplete d) s = .next (parts.foldl (fun (s : State) p =>
            if (s.ctxOf p).any (fun c => [Phase.load, .table, .check].contains c.phase) then s.resumeIssue p else s) u)
          ∧ u = { v with hbmStk := modNth s.hbmStk (d - 76) fun h => { h with st := 2 } })
      ∧ (84 ≤ d → d - 84 < s.fab.ports.length → (s.getPort (d - 84)).lstate = 3 →
        ∃ u : State, exec (.wakeComplete d) s = .next u.fabGo.heldGo
          ∧ u = { v with fab := { s.fab with ports := modNth s.fab.ports (d - 84) fun x => { x with lstate := 2 } } }))

/-- The boot's first stages (R546, R597): `RESET_RELEASE` samples the straps and starts the boot from ROM; when ROM ends the links begin to
train; when PROBE ends the HBM stacks train, or a DECOMMISSIONED device stops, or a boot memory without an answer stops the boot; when SLOT
ends the preferred slot's first component is read, or no slot is well formed and the boot fails; when the configuration has been applied the
device waits for the wipe, or is READY where the wipe has ended. -/
def Obligations.BootStagesFollowOneAnother : Prop :=
  ∀ s : State,
    (∀ straps, s.side.rstN = false →
      ∃ t, exec (.resetRelease straps) s = .next t ∧ t.side.rstN = true ∧ t.side.straps = BitVec.ofNat 2 straps ∧ t.mgt.bootStage = 0
        ∧ t.mgt.coreLive = 0x10 ∧ t.mgt.xspiOwn = true ∧ { t with side := s.side, mgt := s.mgt, sec := s.sec, pwr := s.pwr } = s)
    ∧ (s.side.rstN = true →
      (s.mgt.bootStage = 0 → ∀ ok mbist,
        ∃ t, exec (.bootStageEnd ok mbist) s = .next t ∧ t.mgt.bootStage = 1 ∧ t.lnk.lstate = 1 ∧ ∀ h ∈ t.hng, h.lstate = 4 ∨ h.lstate = 1)
      ∧ (s.mgt.bootStage = 1 → ∀ ok mbist,
        ∃ t, exec (.bootStageEnd ok mbist) s = .next t ∧ { t with mgt := s.mgt, hbmStk := s.hbmStk } = s
          ∧ t.mgt.bootStage = (if s.sec.lcState = 3 then 0xF else if ok = false then 0xE else 2)
          ∧ (s.sec.lcState ≠ 3 → ok = true → ∀ h ∈ t.hbmStk, h.st = 1))
      ∧ (s.mgt.bootStage = 2 → ∀ mbist,
        (∀ sl, s.preferred = some sl → ({ s with mgt := { s.mgt with bootSlot := sl } } : State).kindsOk = true →
          ∃ t, exec (.bootStageEnd true mbist) s = .next t ∧ { t with mgt := s.mgt } = s ∧ t.mgt.bootStage = 3 ∧ t.mgt.bootSlot = sl
            ∧ t.mgt.reading = true ∧ t.mgt.imgSeq = BitVec.ofNat 32 (s.slotSeq sl))
        ∧ (s.preferred = none →
          ∃ t, exec (.bootStageEnd true mbist) s = .next t ∧ { t with mgt := s.mgt } = s ∧ t.mgt.bootStage = 0xE ∧ t.mgt.bootErr = 2))
      ∧ (s.mgt.bootStage = 5 → s.mgt.applyWait = true → ∀ ok mbist,
        (s.sec.wipeDone = false → ∃ t, exec (.bootStageEnd ok mbist) s = .next t ∧ t.mgt.bootStage = 6 ∧ t.mgt.applied = true)
        ∧ (s.sec.wipeDone = true → s.sec.lcState ≠ 2 → ∃ t, exec (.bootStageEnd ok mbist) s = .next t ∧ t.mgt.bootStage = 7 ∧ t.mgt.applied = true
            ∧ t.mgt.readyAt = s.mgt.aclkCnt)))

/-- The components of the booted slot (R546, R548, R552): a read that ends starts the component's verification and the next read; a
verified firmware component lets its stage pass, a configuration that is accepted (R544) is to be applied; one whose digest fails in the second slot stops the boot. -/
def Obligations.ComponentsAreVerified : Prop :=
  ∀ s : State,
    (s.mgt.reading = true → s.mgt.bootStage ≠ 9 →
      exec .componentReadEnd s = .next { s with mgt := { s.mgt with
        comp := s.mgt.comp + 1, reading := decide (s.mgt.comp + 1 < 3), verifying := true } })
    ∧ (s.mgt.reading = true → s.mgt.bootStage = 9 →
      exec .componentReadEnd s = .next { s with mgt := { s.mgt with reading := false, verifying := true } })
    ∧ (s.mgt.verifying = true → s.mgt.bootStage ≠ 9 → s.mgt.fwDone < 2 →
      s.compOk ((s.compsOf (s.mgt.fwDone + 1)).headD 0) = true →
      s.sec.svnFw.toNat ≤ s.compSvn ((s.compsOf (s.mgt.fwDone + 1)).headD 0) →
      exec (.componentVerified true true) s = .next { s with mgt := { s.mgt with
        fwDone := s.mgt.fwDone + 1, verifying := decide (s.mgt.fwDone + 1 < s.mgt.comp), bootStage := BitVec.ofNat 4 (4 + s.mgt.fwDone)
        coreLive := if s.mgt.fwDone = 1 then 0x3F else s.mgt.coreLive, applyWait := false } })
    ∧ (s.mgt.verifying = true → s.mgt.bootStage ≠ 9 → s.mgt.fwDone = 2 → s.compOk ((s.compsOf 3).headD 0) = true →
      s.sec.svnCfg.toNat ≤ s.compSvn ((s.compsOf 3).headD 0) → s.cfgOk ((s.compsOf 3).headD 0) = true →
      exec (.componentVerified true true) s = .next { s with mgt := { s.mgt with
        fwDone := 3, verifying := decide (3 < s.mgt.comp), bootStage := 5, applyWait := true } })
    ∧ (∀ sig, s.mgt.verifying = true → s.mgt.bootStage ≠ 9 → s.mgt.bootFallback = true →
      s.compOk ((s.compsOf (s.mgt.fwDone + 1)).headD 0) = true →
      ∃ t, exec (.componentVerified false sig) s = .next t ∧ { t with mgt := s.mgt } = s ∧ t.mgt.bootStage = 0xE)

/-- HBM training and the wipe (R506, R546, R552, R607): stacks that have all trained are READY and their domains awake; one that has not
trained stops the boot; the wipe leaves HBM and the Shelf empty, and a configured device that is not DEPLOYED becomes READY. -/
def Obligations.TrainingAndWipeEnd : Prop :=
  ∀ s : State,
    (s.mgt.hbmTrained = false → (∀ h ∈ s.hbmStk, h.st = 1) → s.mgt.bootStage ≠ 0xE →
      ((∀ e ∈ s.ras.repair, e.1.kind = 5 → e.2 = true) → s.hbmStk.length = 8 →
        ∃ t, exec (.hbmTrainingDone 0xFF) s = .next t ∧ t.mgt.hbmTrained = true ∧ (∀ h ∈ t.hbmStk, h.st = 2)
          ∧ (∀ k < 8, t.awake (domHbm k) = true))
      ∧ ∀ m k, k < 8 → bitN m k = false →
        ∃ t, exec (.hbmTrainingDone m) s = .next t ∧ t.mgt.bootStage = 0xE ∧ t.mgt.hbmTrained = false)
    ∧ (s.mgt.hbmTrained = true → s.sec.wipeDone = false → s.sec.lcState ≠ 2 →
      ∃ t, exec (.wipeEnd []) s = .next t ∧ t.hbm = [] ∧ t.shelf = [] ∧ t.sec.wipeDone = true
        ∧ t.mgt.bootStage = (if s.mgt.bootStage = 6 then 7 else s.mgt.bootStage)
        ∧ (s.mgt.bootStage = 6 → t.mgt.readyAt = s.mgt.aclkCnt))

/-- The I3C target and the test access port (R615, R616, R618): a read of 4 to 256 bytes in whole words at an aligned address returns the
words of the MGT, PWR and RAS blocks and 0 elsewhere; a target without a dynamic address takes one, by `SETDASA` at its static address;
each TAP instruction takes effect, `SAMPLE/PRELOAD` and `EXTEST` only while `RST_N` is low and as `BYPASS` otherwise. Nothing outside the
side ports changes. -/
def Obligations.SidePortsAnswer : Prop :=
  ∀ s : State,
    (∀ addr n, addr % 4 = 0 → n % 4 = 0 → 4 ≤ n → n ≤ 256 →
      exec (.i3cRead addr n) s = .next { s with side := { s.side with
        i3cData := (List.range (n / 4)).map fun i => BitVec.ofNat 32 (if addr + 4 * i < 0x30000 then s.rdWord (addr + 4 * i) else 0) } })
    ∧ (∀ sa addr, s.side.dynAddr = none → sa = 0x3A + s.side.straps.toNat →
      exec (.setdasa sa addr) s = .next { s with side := { s.side with dynAddr := some addr } })
    ∧ (∀ sa addr, s.side.dynAddr ≠ none ∨ sa ≠ 0x3A + s.side.straps.toNat → exec (.setdasa sa addr) s = .next s)
    ∧ (∀ addr, s.side.dynAddr = none → exec (.entdaa addr) s = .next { s with side := { s.side with dynAddr := some addr } })
    ∧ exec .bypass s = .next { s with side := { s.side with tapIr := .bypass, tapDr := 0, pinsOut := none } }
    ∧ exec .idcode s = .next { s with side := { s.side with
        tapIr := .idcode, tapDr := 1 + 2 * s.mgt.jep.toNat + 2 ^ 12 * 0xB470 + 2 ^ 28, pinsOut := none } }
    ∧ (∀ pins, s.side.rstN = false →
      exec (.samplePreload pins) s = .next { s with side := { s.side with
        tapIr := .samplePreload, tapDr := pins, pinsIn := pins, pinsOut := none } }
      ∧ exec (.extest pins) s = .next { s with side := { s.side with tapIr := .extest, tapDr := pins, pinsOut := some pins } })
    ∧ (∀ pins, s.side.rstN = true → ∀ c ∈ [Instr.samplePreload pins, .extest pins], exec c s = exec .bypass s)

/-- An assertion of `RST_N` (R597) and a brown-out (R589) leave every volatile part of the device as at reset: no command waits for a
response, no descriptor, no session, no bytes in any memory; the fuses stay, and the log, the repair list and the fences stay but for a loss of
VAON, which clears them too (R580, R584). The latched `THERMTRIP_N` ends (R598). -/
def Obligations.ResetAndBrownOut : Prop :=
  ∀ (s : State) (vaon : Bool), ∀ c ∈ [Instr.rstNAssert, .brownOut vaon],
    ∃ t, exec c s = .next t ∧ t.side.rstN = false ∧ t.pwr.thermtrip = false ∧ t.hbm = [] ∧ t.shelf = [] ∧ t.desc = [] ∧ t.writes = []
      ∧ t.lnk.longs = [] ∧ t.sec.sessions = [] ∧ t.sec.tickets = [] ∧ t.cab.dir = [] ∧ t.flash = s.flash ∧ t.pending = s.pending
      ∧ t.sec.lcState = s.sec.lcState ∧ t.mgt.devId = s.mgt.devId
      ∧ (if c = .brownOut true then t.ras = Ras.reset
         else t.ras.log = s.ras.log ∧ t.ras.repair = s.ras.repair ∧ t.ras.fencePair = s.ras.fencePair ∧ t.ras.fenceQ = s.ras.fenceQ
           ∧ t.ras.fenceShf = s.ras.fenceShf ∧ t.ras.fenceFab = s.ras.fenceFab ∧ t.ras.lseqLast = s.ras.lseqLast)

/-- Register stores and the fields that software shares with hardware (R425, R592, R624, R632): an aligned store of a live core to a
partition bound changes that bound alone; `FAULT_PEND` is cleared by writing 1 unless a fault comes in the same cycle; `INJ` arms an
injection, but no double error on a DEPLOYED device; `WRITE_LOST` of `INJ` is cleared by writing 1 to bit 31 unless a loss comes again. A 64-bit
counter is written by one access (R426); an `AMOSWAP.D` to a latch word is a latch operation, with a reserved bit set an invalid one (R408). -/
def Obligations.RegisterWritesTakeEffect : Prop :=
  ∀ s : State,
    (∀ core p n v hw, core < 6 → core ≠ 4 → s.coreUp core = true → p < 32 → n < 16 →
      exec (.registerWrite core (0x100000 + 0x1000 * p + 0x300 + 4 * n) v .word hw) s =
        .next { s with prt := modNth s.prt p fun q => { q with bound := modNth q.bound n fun _ => BitVec.ofNat 32 (v % 2 ^ 32) } })
    ∧ (∀ core p v hw, core < 6 → core ≠ 4 → s.coreUp core = true → p < 32 →
      exec (.registerWrite core (0x100000 + 0x1000 * p + 0x200) v .dword [hw]) s =
        .next { s with prt := modNth s.prt p fun q => { q with engCycles := wrapAdd (BitVec.ofNat 64 v) (hwInc hw) } })
    ∧ (∀ core n v hw, core < 6 → core ≠ 4 → s.coreUp core = true → n < 32768 →
      (v / 16 % 16 = 0 → v < 2 ^ 14 →
        exec (.registerWrite core (0x180000 + 8 * n) v .swap hw) s = .next (s.latchOp (.core core) n (v % 16) (v / 256 % 64)).2)
      ∧ (v / 16 % 16 ≠ 0 ∨ 2 ^ 14 ≤ v → (s.latchAt n).admits (.core core) = true →
        exec (.registerWrite core (0x180000 + 8 * n) v .swap hw) s = .next { s with
          latch := SMap.set Latch.fresh s.latch n (s.latchAt n), latchRet := (s.latchAt n).word (statusCode .descInvalid) }))
    ∧ (∀ core addr v acc hw, s.coreUp core = false → exec (.registerWrite core addr v acc hw) s = .next s)
    ∧ (∀ v hw, ∃ t, exec (.faultPend v hw) s = .next t ∧ { t with ras := { t.ras with faultPend := s.ras.faultPend } } = s
        ∧ t.ras.faultPend = ((s.ras.faultPend && !bitN v 0) || hw == .set))
    ∧ (∀ v, exec (.injArm v .none) s = .next { s with ras := { s.ras with
        injArm := bitN v 0 && !(s.sec.lcState == 2 && bitN v 1), injType := bitN v 1
        injKind := if bitsN v 11 4 = 2 ∨ bitsN v 11 4 = 3 ∨ bitsN v 11 4 = 5 then BitVec.ofNat 8 (bitsN v 11 4) else s.ras.injKind
        injIndex := BitVec.ofNat 16 (bitsN v 27 12), injLost := s.ras.injLost && !bitN v 31 } })
    ∧ (∀ v hw, exec (.writeLost 0x20030 v hw) s = .next { s with ras := { s.ras with injLost := (s.ras.injLost && !bitN v 31) || hw == .set } })

/-- The clearing reads (R12) of the fields `HNG_BAD` and `LEN_MISM` of a hinge port, the only two of that kind: the read returns what the field
held before the cycle, and the field then holds exactly the events of the cycle, which the next read returns; of two reads in one cycle the
second returns 0. No other field and no other port changes. -/
def Obligations.ClearingReadsLeaveTheCycle : Prop :=
  ∀ (s : State) (port ev ev' : Nat), port < s.hng.length →
    (∃ t u : State, exec (.hngBad port ev) s = .next t ∧ t.rcRet = (s.getHng port).hngBad ∧ { t with hng := s.hng, rcRet := s.rcRet } = s
      ∧ t.hng = modNth s.hng port (fun h => { h with hngBad := BitVec.ofNat 32 (sat32 ev) })
      ∧ exec (.hngBad port ev') t = .next u ∧ u.rcRet = BitVec.ofNat 32 (sat32 ev) ∧ (ev = 0 → u.rcRet = 0))
    ∧ (∃ t u : State, exec (.lenMism port ev) s = .next t ∧ t.rcRet = (s.getHng port).lenMism ∧ { t with hng := s.hng, rcRet := s.rcRet } = s
      ∧ t.hng = modNth s.hng port (fun h => { h with lenMism := BitVec.ofNat 32 (sat32 ev) })
      ∧ exec (.lenMism port ev') t = .next u ∧ u.rcRet = BitVec.ofNat 32 (sat32 ev) ∧ (ev = 0 → u.rcRet = 0))

/-- The commit engine (R358–R361): when it is free it takes the first candidate, whose checks hold, under the adapter's next epoch; at the
commit point the record with the next log number is in the commit log, the adapter is READY at the new epoch, and the engine is free.
Demotion (R300): a partition at or below its mark demotes nothing; above it, the copy of its one blob that can be demoted leaves for the
HOST window at the lowest free range, which the version's slot keeps. -/
def Obligations.VersionsAreCommittedAndDemoted : Prop :=
  ((∀ (s : State) (c : Candidate) (rest : List Candidate) (e : Entry), s.cab.engine = none → s.cab.cands = c :: rest → s.upSession c = true →
      s.entry c.aid = some e → e.owned = true → (e.state = .empty ∨ e.state = .ready) → e.frozen = false →
      (c.kind = 2 → c.target = nextEpoch e.curEpoch) → e.vtab.length < 32 →
      exec .commitCandidate s = .next { s with cab := { s.cab with cands := rest, engine := some (c, nextEpoch e.curEpoch) } })
    ∧ (∀ (s : State) (c : Candidate) (ep : Nat) (e : Entry) (x : Extent), s.cab.engine = some (c, ep) → c.boot = false →
      s.entry c.aid = some e → s.cab.extentOf (.resv c.resv) = some x → e.freePending = false → s.cab.log.length < 258048 →
      (s.cab.dir.map (·.aid)).Nodup →
      ∃ u : State, exec .commitPoint s = .next u.movesGo ∧ u.cab.engine = none ∧ u.cab.lseqNext = s.cab.lseqNext + 1
        ∧ u.cab.log = s.cab.log ++ [{ aid := c.aid, kind := c.kind, epoch := ep, prev := e.curEpoch, publisher := s.me, part := c.part
                                      blob := gAddr x.base, blen := c.blen, lseq := s.cab.lseqNext, sseq := c.sseq, esc := c.esc }]
        ∧ ∃ e', u.entry c.aid = some e' ∧ e'.curEpoch = ep ∧ e'.state = .ready))
  ∧ (∀ (s : State) (p : Nat), s.poolIdle = true →
      (100 * (s.cabUse p - s.leavingUse p) ≤ (s.getP p).cabQuota.toNat * s.cab.demoteMark.toNat → exec (.demotion p) s = .next s)
      ∧ (∀ e v o, (s.getP p).cabQuota.toNat * s.cab.demoteMark.toNat < 100 * (s.cabUse p - s.leavingUse p) → s.demotable p = [(e, v)] →
        v.slowLoc = none → s.slowFit p v.blen = some o → (s.getP p).slowSpace = 2 →
        ∃ t, exec (.demotion p) s = .next t ∧ t.cab = (s.modSlot e.aid v.epoch fun v => { v with slowLoc := some o }).cab
          ∧ ∃ x ∈ t.fab.xfers, x.use = .slowWrite p e.aid v.epoch ∧ x.space = 2 ∧ x.addr = (s.getP p).slowBase.toNat + granule * o))
end

