-- ==== Sys2Proof/Laws/State.lean ====
section
/-! SUPPORT. One lemma for each field under each update of State, true by rfl: later proofs unfold no record update. -/

namespace Sys2Proof.Machine

open Sys2Proof

/-! `State.modP` -/

@[simp] theorem State.modP_pending (s : State) (p : Nat) (f : Prt → Prt) : (s.modP p f).pending = s.pending := rfl
@[simp] theorem State.modP_mgt (s : State) (p : Nat) (f : Prt → Prt) : (s.modP p f).mgt = s.mgt := rfl
@[simp] theorem State.modP_pwr (s : State) (p : Nat) (f : Prt → Prt) : (s.modP p f).pwr = s.pwr := rfl
@[simp] theorem State.modP_ras (s : State) (p : Nat) (f : Prt → Prt) : (s.modP p f).ras = s.ras := rfl
@[simp] theorem State.modP_sec (s : State) (p : Nat) (f : Prt → Prt) : (s.modP p f).sec = s.sec := rfl
@[simp] theorem State.modP_lnk (s : State) (p : Nat) (f : Prt → Prt) : (s.modP p f).lnk = s.lnk := rfl
@[simp] theorem State.modP_hng (s : State) (p : Nat) (f : Prt → Prt) : (s.modP p f).hng = s.hng := rfl
@[simp] theorem State.modP_fab (s : State) (p : Nat) (f : Prt → Prt) : (s.modP p f).fab = s.fab := rfl
@[simp] theorem State.modP_prt (s : State) (p : Nat) (f : Prt → Prt) : (s.modP p f).prt = modNth s.prt p f := rfl
@[simp] theorem State.modP_cab (s : State) (p : Nat) (f : Prt → Prt) : (s.modP p f).cab = s.cab := rfl
@[simp] theorem State.modP_shf (s : State) (p : Nat) (f : Prt → Prt) : (s.modP p f).shf = s.shf := rfl
@[simp] theorem State.modP_pol (s : State) (p : Nat) (f : Prt → Prt) : (s.modP p f).pol = s.pol := rfl
@[simp] theorem State.modP_tum (s : State) (p : Nat) (f : Prt → Prt) : (s.modP p f).tum = s.tum := rfl
@[simp] theorem State.modP_hbmStk (s : State) (p : Nat) (f : Prt → Prt) : (s.modP p f).hbmStk = s.hbmStk := rfl
@[simp] theorem State.modP_latch (s : State) (p : Nat) (f : Prt → Prt) : (s.modP p f).latch = s.latch := rfl
@[simp] theorem State.modP_latchRet (s : State) (p : Nat) (f : Prt → Prt) : (s.modP p f).latchRet = s.latchRet := rfl
@[simp] theorem State.modP_rcRet (s : State) (p : Nat) (f : Prt → Prt) : (s.modP p f).rcRet = s.rcRet := rfl
@[simp] theorem State.modP_arb (s : State) (p : Nat) (f : Prt → Prt) : (s.modP p f).arb = s.arb := rfl
@[simp] theorem State.modP_desc (s : State) (p : Nat) (f : Prt → Prt) : (s.modP p f).desc = s.desc := rfl
@[simp] theorem State.modP_allocs (s : State) (p : Nat) (f : Prt → Prt) : (s.modP p f).allocs = s.allocs := rfl
@[simp] theorem State.modP_allocNext (s : State) (p : Nat) (f : Prt → Prt) : (s.modP p f).allocNext = s.allocNext := rfl
@[simp] theorem State.modP_hbm (s : State) (p : Nat) (f : Prt → Prt) : (s.modP p f).hbm = s.hbm := rfl
@[simp] theorem State.modP_shelf (s : State) (p : Nat) (f : Prt → Prt) : (s.modP p f).shelf = s.shelf := rfl
@[simp] theorem State.modP_flash (s : State) (p : Nat) (f : Prt → Prt) : (s.modP p f).flash = s.flash := rfl
@[simp] theorem State.modP_writes (s : State) (p : Nat) (f : Prt → Prt) : (s.modP p f).writes = s.writes := rfl
@[simp] theorem State.modP_nextWrite (s : State) (p : Nat) (f : Prt → Prt) : (s.modP p f).nextWrite = s.nextWrite := rfl
@[simp] theorem State.modP_side (s : State) (p : Nat) (f : Prt → Prt) : (s.modP p f).side = s.side := rfl
@[simp] theorem State.modP_stat (s : State) (p : Nat) (f : Prt → Prt) : (s.modP p f).stat = s.stat := rfl
@[simp] theorem State.modP_freeCtr (s : State) (p : Nat) (f : Prt → Prt) : (s.modP p f).freeCtr = s.freeCtr := rfl

/-! `State.modLnk` -/

@[simp] theorem State.modLnk_pending (s : State) (f : Lnk → Lnk) : (s.modLnk f).pending = s.pending := rfl
@[simp] theorem State.modLnk_mgt (s : State) (f : Lnk → Lnk) : (s.modLnk f).mgt = s.mgt := rfl
@[simp] theorem State.modLnk_pwr (s : State) (f : Lnk → Lnk) : (s.modLnk f).pwr = s.pwr := rfl
@[simp] theorem State.modLnk_ras (s : State) (f : Lnk → Lnk) : (s.modLnk f).ras = s.ras := rfl
@[simp] theorem State.modLnk_sec (s : State) (f : Lnk → Lnk) : (s.modLnk f).sec = s.sec := rfl
@[simp] theorem State.modLnk_lnk (s : State) (f : Lnk → Lnk) : (s.modLnk f).lnk = f s.lnk := rfl
@[simp] theorem State.modLnk_hng (s : State) (f : Lnk → Lnk) : (s.modLnk f).hng = s.hng := rfl
@[simp] theorem State.modLnk_fab (s : State) (f : Lnk → Lnk) : (s.modLnk f).fab = s.fab := rfl
@[simp] theorem State.modLnk_prt (s : State) (f : Lnk → Lnk) : (s.modLnk f).prt = s.prt := rfl
@[simp] theorem State.modLnk_cab (s : State) (f : Lnk → Lnk) : (s.modLnk f).cab = s.cab := rfl
@[simp] theorem State.modLnk_shf (s : State) (f : Lnk → Lnk) : (s.modLnk f).shf = s.shf := rfl
@[simp] theorem State.modLnk_pol (s : State) (f : Lnk → Lnk) : (s.modLnk f).pol = s.pol := rfl
@[simp] theorem State.modLnk_tum (s : State) (f : Lnk → Lnk) : (s.modLnk f).tum = s.tum := rfl
@[simp] theorem State.modLnk_hbmStk (s : State) (f : Lnk → Lnk) : (s.modLnk f).hbmStk = s.hbmStk := rfl
@[simp] theorem State.modLnk_latch (s : State) (f : Lnk → Lnk) : (s.modLnk f).latch = s.latch := rfl
@[simp] theorem State.modLnk_latchRet (s : State) (f : Lnk → Lnk) : (s.modLnk f).latchRet = s.latchRet := rfl
@[simp] theorem State.modLnk_rcRet (s : State) (f : Lnk → Lnk) : (s.modLnk f).rcRet = s.rcRet := rfl
@[simp] theorem State.modLnk_arb (s : State) (f : Lnk → Lnk) : (s.modLnk f).arb = s.arb := rfl
@[simp] theorem State.modLnk_desc (s : State) (f : Lnk → Lnk) : (s.modLnk f).desc = s.desc := rfl
@[simp] theorem State.modLnk_allocs (s : State) (f : Lnk → Lnk) : (s.modLnk f).allocs = s.allocs := rfl
@[simp] theorem State.modLnk_allocNext (s : State) (f : Lnk → Lnk) : (s.modLnk f).allocNext = s.allocNext := rfl
@[simp] theorem State.modLnk_hbm (s : State) (f : Lnk → Lnk) : (s.modLnk f).hbm = s.hbm := rfl
@[simp] theorem State.modLnk_shelf (s : State) (f : Lnk → Lnk) : (s.modLnk f).shelf = s.shelf := rfl
@[simp] theorem State.modLnk_flash (s : State) (f : Lnk → Lnk) : (s.modLnk f).flash = s.flash := rfl
@[simp] theorem State.modLnk_writes (s : State) (f : Lnk → Lnk) : (s.modLnk f).writes = s.writes := rfl
@[simp] theorem State.modLnk_nextWrite (s : State) (f : Lnk → Lnk) : (s.modLnk f).nextWrite = s.nextWrite := rfl
@[simp] theorem State.modLnk_side (s : State) (f : Lnk → Lnk) : (s.modLnk f).side = s.side := rfl
@[simp] theorem State.modLnk_stat (s : State) (f : Lnk → Lnk) : (s.modLnk f).stat = s.stat := rfl
@[simp] theorem State.modLnk_freeCtr (s : State) (f : Lnk → Lnk) : (s.modLnk f).freeCtr = s.freeCtr := rfl

/-! `State.modCab` -/

@[simp] theorem State.modCab_pending (s : State) (f : Cab → Cab) : (s.modCab f).pending = s.pending := rfl
@[simp] theorem State.modCab_mgt (s : State) (f : Cab → Cab) : (s.modCab f).mgt = s.mgt := rfl
@[simp] theorem State.modCab_pwr (s : State) (f : Cab → Cab) : (s.modCab f).pwr = s.pwr := rfl
@[simp] theorem State.modCab_ras (s : State) (f : Cab → Cab) : (s.modCab f).ras = s.ras := rfl
@[simp] theorem State.modCab_sec (s : State) (f : Cab → Cab) : (s.modCab f).sec = s.sec := rfl
@[simp] theorem State.modCab_lnk (s : State) (f : Cab → Cab) : (s.modCab f).lnk = s.lnk := rfl
@[simp] theorem State.modCab_hng (s : State) (f : Cab → Cab) : (s.modCab f).hng = s.hng := rfl
@[simp] theorem State.modCab_fab (s : State) (f : Cab → Cab) : (s.modCab f).fab = s.fab := rfl
@[simp] theorem State.modCab_prt (s : State) (f : Cab → Cab) : (s.modCab f).prt = s.prt := rfl
@[simp] theorem State.modCab_cab (s : State) (f : Cab → Cab) : (s.modCab f).cab = f s.cab := rfl
@[simp] theorem State.modCab_shf (s : State) (f : Cab → Cab) : (s.modCab f).shf = s.shf := rfl
@[simp] theorem State.modCab_pol (s : State) (f : Cab → Cab) : (s.modCab f).pol = s.pol := rfl
@[simp] theorem State.modCab_tum (s : State) (f : Cab → Cab) : (s.modCab f).tum = s.tum := rfl
@[simp] theorem State.modCab_hbmStk (s : State) (f : Cab → Cab) : (s.modCab f).hbmStk = s.hbmStk := rfl
@[simp] theorem State.modCab_latch (s : State) (f : Cab → Cab) : (s.modCab f).latch = s.latch := rfl
@[simp] theorem State.modCab_latchRet (s : State) (f : Cab → Cab) : (s.modCab f).latchRet = s.latchRet := rfl
@[simp] theorem State.modCab_rcRet (s : State) (f : Cab → Cab) : (s.modCab f).rcRet = s.rcRet := rfl
@[simp] theorem State.modCab_arb (s : State) (f : Cab → Cab) : (s.modCab f).arb = s.arb := rfl
@[simp] theorem State.modCab_desc (s : State) (f : Cab → Cab) : (s.modCab f).desc = s.desc := rfl
@[simp] theorem State.modCab_allocs (s : State) (f : Cab → Cab) : (s.modCab f).allocs = s.allocs := rfl
@[simp] theorem State.modCab_allocNext (s : State) (f : Cab → Cab) : (s.modCab f).allocNext = s.allocNext := rfl
@[simp] theorem State.modCab_hbm (s : State) (f : Cab → Cab) : (s.modCab f).hbm = s.hbm := rfl
@[simp] theorem State.modCab_shelf (s : State) (f : Cab → Cab) : (s.modCab f).shelf = s.shelf := rfl
@[simp] theorem State.modCab_flash (s : State) (f : Cab → Cab) : (s.modCab f).flash = s.flash := rfl
@[simp] theorem State.modCab_writes (s : State) (f : Cab → Cab) : (s.modCab f).writes = s.writes := rfl
@[simp] theorem State.modCab_nextWrite (s : State) (f : Cab → Cab) : (s.modCab f).nextWrite = s.nextWrite := rfl
@[simp] theorem State.modCab_side (s : State) (f : Cab → Cab) : (s.modCab f).side = s.side := rfl
@[simp] theorem State.modCab_stat (s : State) (f : Cab → Cab) : (s.modCab f).stat = s.stat := rfl
@[simp] theorem State.modCab_freeCtr (s : State) (f : Cab → Cab) : (s.modCab f).freeCtr = s.freeCtr := rfl

/-! `State.modPol` -/

@[simp] theorem State.modPol_pending (s : State) (f : Pol → Pol) : (s.modPol f).pending = s.pending := rfl
@[simp] theorem State.modPol_mgt (s : State) (f : Pol → Pol) : (s.modPol f).mgt = s.mgt := rfl
@[simp] theorem State.modPol_pwr (s : State) (f : Pol → Pol) : (s.modPol f).pwr = s.pwr := rfl
@[simp] theorem State.modPol_ras (s : State) (f : Pol → Pol) : (s.modPol f).ras = s.ras := rfl
@[simp] theorem State.modPol_sec (s : State) (f : Pol → Pol) : (s.modPol f).sec = s.sec := rfl
@[simp] theorem State.modPol_lnk (s : State) (f : Pol → Pol) : (s.modPol f).lnk = s.lnk := rfl
@[simp] theorem State.modPol_hng (s : State) (f : Pol → Pol) : (s.modPol f).hng = s.hng := rfl
@[simp] theorem State.modPol_fab (s : State) (f : Pol → Pol) : (s.modPol f).fab = s.fab := rfl
@[simp] theorem State.modPol_prt (s : State) (f : Pol → Pol) : (s.modPol f).prt = s.prt := rfl
@[simp] theorem State.modPol_cab (s : State) (f : Pol → Pol) : (s.modPol f).cab = s.cab := rfl
@[simp] theorem State.modPol_shf (s : State) (f : Pol → Pol) : (s.modPol f).shf = s.shf := rfl
@[simp] theorem State.modPol_pol (s : State) (f : Pol → Pol) : (s.modPol f).pol = f s.pol := rfl
@[simp] theorem State.modPol_tum (s : State) (f : Pol → Pol) : (s.modPol f).tum = s.tum := rfl
@[simp] theorem State.modPol_hbmStk (s : State) (f : Pol → Pol) : (s.modPol f).hbmStk = s.hbmStk := rfl
@[simp] theorem State.modPol_latch (s : State) (f : Pol → Pol) : (s.modPol f).latch = s.latch := rfl
@[simp] theorem State.modPol_latchRet (s : State) (f : Pol → Pol) : (s.modPol f).latchRet = s.latchRet := rfl
@[simp] theorem State.modPol_rcRet (s : State) (f : Pol → Pol) : (s.modPol f).rcRet = s.rcRet := rfl
@[simp] theorem State.modPol_arb (s : State) (f : Pol → Pol) : (s.modPol f).arb = s.arb := rfl
@[simp] theorem State.modPol_desc (s : State) (f : Pol → Pol) : (s.modPol f).desc = s.desc := rfl
@[simp] theorem State.modPol_allocs (s : State) (f : Pol → Pol) : (s.modPol f).allocs = s.allocs := rfl
@[simp] theorem State.modPol_allocNext (s : State) (f : Pol → Pol) : (s.modPol f).allocNext = s.allocNext := rfl
@[simp] theorem State.modPol_hbm (s : State) (f : Pol → Pol) : (s.modPol f).hbm = s.hbm := rfl
@[simp] theorem State.modPol_shelf (s : State) (f : Pol → Pol) : (s.modPol f).shelf = s.shelf := rfl
@[simp] theorem State.modPol_flash (s : State) (f : Pol → Pol) : (s.modPol f).flash = s.flash := rfl
@[simp] theorem State.modPol_writes (s : State) (f : Pol → Pol) : (s.modPol f).writes = s.writes := rfl
@[simp] theorem State.modPol_nextWrite (s : State) (f : Pol → Pol) : (s.modPol f).nextWrite = s.nextWrite := rfl
@[simp] theorem State.modPol_side (s : State) (f : Pol → Pol) : (s.modPol f).side = s.side := rfl
@[simp] theorem State.modPol_stat (s : State) (f : Pol → Pol) : (s.modPol f).stat = s.stat := rfl
@[simp] theorem State.modPol_freeCtr (s : State) (f : Pol → Pol) : (s.modPol f).freeCtr = s.freeCtr := rfl

/-! `State.modSec` -/

@[simp] theorem State.modSec_pending (s : State) (f : Sec → Sec) : (s.modSec f).pending = s.pending := rfl
@[simp] theorem State.modSec_mgt (s : State) (f : Sec → Sec) : (s.modSec f).mgt = s.mgt := rfl
@[simp] theorem State.modSec_pwr (s : State) (f : Sec → Sec) : (s.modSec f).pwr = s.pwr := rfl
@[simp] theorem State.modSec_ras (s : State) (f : Sec → Sec) : (s.modSec f).ras = s.ras := rfl
@[simp] theorem State.modSec_sec (s : State) (f : Sec → Sec) : (s.modSec f).sec = f s.sec := rfl
@[simp] theorem State.modSec_lnk (s : State) (f : Sec → Sec) : (s.modSec f).lnk = s.lnk := rfl
@[simp] theorem State.modSec_hng (s : State) (f : Sec → Sec) : (s.modSec f).hng = s.hng := rfl
@[simp] theorem State.modSec_fab (s : State) (f : Sec → Sec) : (s.modSec f).fab = s.fab := rfl
@[simp] theorem State.modSec_prt (s : State) (f : Sec → Sec) : (s.modSec f).prt = s.prt := rfl
@[simp] theorem State.modSec_cab (s : State) (f : Sec → Sec) : (s.modSec f).cab = s.cab := rfl
@[simp] theorem State.modSec_shf (s : State) (f : Sec → Sec) : (s.modSec f).shf = s.shf := rfl
@[simp] theorem State.modSec_pol (s : State) (f : Sec → Sec) : (s.modSec f).pol = s.pol := rfl
@[simp] theorem State.modSec_tum (s : State) (f : Sec → Sec) : (s.modSec f).tum = s.tum := rfl
@[simp] theorem State.modSec_hbmStk (s : State) (f : Sec → Sec) : (s.modSec f).hbmStk = s.hbmStk := rfl
@[simp] theorem State.modSec_latch (s : State) (f : Sec → Sec) : (s.modSec f).latch = s.latch := rfl
@[simp] theorem State.modSec_latchRet (s : State) (f : Sec → Sec) : (s.modSec f).latchRet = s.latchRet := rfl
@[simp] theorem State.modSec_rcRet (s : State) (f : Sec → Sec) : (s.modSec f).rcRet = s.rcRet := rfl
@[simp] theorem State.modSec_arb (s : State) (f : Sec → Sec) : (s.modSec f).arb = s.arb := rfl
@[simp] theorem State.modSec_desc (s : State) (f : Sec → Sec) : (s.modSec f).desc = s.desc := rfl
@[simp] theorem State.modSec_allocs (s : State) (f : Sec → Sec) : (s.modSec f).allocs = s.allocs := rfl
@[simp] theorem State.modSec_allocNext (s : State) (f : Sec → Sec) : (s.modSec f).allocNext = s.allocNext := rfl
@[simp] theorem State.modSec_hbm (s : State) (f : Sec → Sec) : (s.modSec f).hbm = s.hbm := rfl
@[simp] theorem State.modSec_shelf (s : State) (f : Sec → Sec) : (s.modSec f).shelf = s.shelf := rfl
@[simp] theorem State.modSec_flash (s : State) (f : Sec → Sec) : (s.modSec f).flash = s.flash := rfl
@[simp] theorem State.modSec_writes (s : State) (f : Sec → Sec) : (s.modSec f).writes = s.writes := rfl
@[simp] theorem State.modSec_nextWrite (s : State) (f : Sec → Sec) : (s.modSec f).nextWrite = s.nextWrite := rfl
@[simp] theorem State.modSec_side (s : State) (f : Sec → Sec) : (s.modSec f).side = s.side := rfl
@[simp] theorem State.modSec_stat (s : State) (f : Sec → Sec) : (s.modSec f).stat = s.stat := rfl
@[simp] theorem State.modSec_freeCtr (s : State) (f : Sec → Sec) : (s.modSec f).freeCtr = s.freeCtr := rfl

/-! `State.modRas` -/

@[simp] theorem State.modRas_pending (s : State) (f : Ras → Ras) : (s.modRas f).pending = s.pending := rfl
@[simp] theorem State.modRas_mgt (s : State) (f : Ras → Ras) : (s.modRas f).mgt = s.mgt := rfl
@[simp] theorem State.modRas_pwr (s : State) (f : Ras → Ras) : (s.modRas f).pwr = s.pwr := rfl
@[simp] theorem State.modRas_ras (s : State) (f : Ras → Ras) : (s.modRas f).ras = f s.ras := rfl
@[simp] theorem State.modRas_sec (s : State) (f : Ras → Ras) : (s.modRas f).sec = s.sec := rfl
@[simp] theorem State.modRas_lnk (s : State) (f : Ras → Ras) : (s.modRas f).lnk = s.lnk := rfl
@[simp] theorem State.modRas_hng (s : State) (f : Ras → Ras) : (s.modRas f).hng = s.hng := rfl
@[simp] theorem State.modRas_fab (s : State) (f : Ras → Ras) : (s.modRas f).fab = s.fab := rfl
@[simp] theorem State.modRas_prt (s : State) (f : Ras → Ras) : (s.modRas f).prt = s.prt := rfl
@[simp] theorem State.modRas_cab (s : State) (f : Ras → Ras) : (s.modRas f).cab = s.cab := rfl
@[simp] theorem State.modRas_shf (s : State) (f : Ras → Ras) : (s.modRas f).shf = s.shf := rfl
@[simp] theorem State.modRas_pol (s : State) (f : Ras → Ras) : (s.modRas f).pol = s.pol := rfl
@[simp] theorem State.modRas_tum (s : State) (f : Ras → Ras) : (s.modRas f).tum = s.tum := rfl
@[simp] theorem State.modRas_hbmStk (s : State) (f : Ras → Ras) : (s.modRas f).hbmStk = s.hbmStk := rfl
@[simp] theorem State.modRas_latch (s : State) (f : Ras → Ras) : (s.modRas f).latch = s.latch := rfl
@[simp] theorem State.modRas_latchRet (s : State) (f : Ras → Ras) : (s.modRas f).latchRet = s.latchRet := rfl
@[simp] theorem State.modRas_rcRet (s : State) (f : Ras → Ras) : (s.modRas f).rcRet = s.rcRet := rfl
@[simp] theorem State.modRas_arb (s : State) (f : Ras → Ras) : (s.modRas f).arb = s.arb := rfl
@[simp] theorem State.modRas_desc (s : State) (f : Ras → Ras) : (s.modRas f).desc = s.desc := rfl
@[simp] theorem State.modRas_allocs (s : State) (f : Ras → Ras) : (s.modRas f).allocs = s.allocs := rfl
@[simp] theorem State.modRas_allocNext (s : State) (f : Ras → Ras) : (s.modRas f).allocNext = s.allocNext := rfl
@[simp] theorem State.modRas_hbm (s : State) (f : Ras → Ras) : (s.modRas f).hbm = s.hbm := rfl
@[simp] theorem State.modRas_shelf (s : State) (f : Ras → Ras) : (s.modRas f).shelf = s.shelf := rfl
@[simp] theorem State.modRas_flash (s : State) (f : Ras → Ras) : (s.modRas f).flash = s.flash := rfl
@[simp] theorem State.modRas_writes (s : State) (f : Ras → Ras) : (s.modRas f).writes = s.writes := rfl
@[simp] theorem State.modRas_nextWrite (s : State) (f : Ras → Ras) : (s.modRas f).nextWrite = s.nextWrite := rfl
@[simp] theorem State.modRas_side (s : State) (f : Ras → Ras) : (s.modRas f).side = s.side := rfl
@[simp] theorem State.modRas_stat (s : State) (f : Ras → Ras) : (s.modRas f).stat = s.stat := rfl
@[simp] theorem State.modRas_freeCtr (s : State) (f : Ras → Ras) : (s.modRas f).freeCtr = s.freeCtr := rfl

/-! `State.modPwr` -/

@[simp] theorem State.modPwr_pending (s : State) (f : Pwr → Pwr) : (s.modPwr f).pending = s.pending := rfl
@[simp] theorem State.modPwr_mgt (s : State) (f : Pwr → Pwr) : (s.modPwr f).mgt = s.mgt := rfl
@[simp] theorem State.modPwr_pwr (s : State) (f : Pwr → Pwr) : (s.modPwr f).pwr = f s.pwr := rfl
@[simp] theorem State.modPwr_ras (s : State) (f : Pwr → Pwr) : (s.modPwr f).ras = s.ras := rfl
@[simp] theorem State.modPwr_sec (s : State) (f : Pwr → Pwr) : (s.modPwr f).sec = s.sec := rfl
@[simp] theorem State.modPwr_lnk (s : State) (f : Pwr → Pwr) : (s.modPwr f).lnk = s.lnk := rfl
@[simp] theorem State.modPwr_hng (s : State) (f : Pwr → Pwr) : (s.modPwr f).hng = s.hng := rfl
@[simp] theorem State.modPwr_fab (s : State) (f : Pwr → Pwr) : (s.modPwr f).fab = s.fab := rfl
@[simp] theorem State.modPwr_prt (s : State) (f : Pwr → Pwr) : (s.modPwr f).prt = s.prt := rfl
@[simp] theorem State.modPwr_cab (s : State) (f : Pwr → Pwr) : (s.modPwr f).cab = s.cab := rfl
@[simp] theorem State.modPwr_shf (s : State) (f : Pwr → Pwr) : (s.modPwr f).shf = s.shf := rfl
@[simp] theorem State.modPwr_pol (s : State) (f : Pwr → Pwr) : (s.modPwr f).pol = s.pol := rfl
@[simp] theorem State.modPwr_tum (s : State) (f : Pwr → Pwr) : (s.modPwr f).tum = s.tum := rfl
@[simp] theorem State.modPwr_hbmStk (s : State) (f : Pwr → Pwr) : (s.modPwr f).hbmStk = s.hbmStk := rfl
@[simp] theorem State.modPwr_latch (s : State) (f : Pwr → Pwr) : (s.modPwr f).latch = s.latch := rfl
@[simp] theorem State.modPwr_latchRet (s : State) (f : Pwr → Pwr) : (s.modPwr f).latchRet = s.latchRet := rfl
@[simp] theorem State.modPwr_rcRet (s : State) (f : Pwr → Pwr) : (s.modPwr f).rcRet = s.rcRet := rfl
@[simp] theorem State.modPwr_arb (s : State) (f : Pwr → Pwr) : (s.modPwr f).arb = s.arb := rfl
@[simp] theorem State.modPwr_desc (s : State) (f : Pwr → Pwr) : (s.modPwr f).desc = s.desc := rfl
@[simp] theorem State.modPwr_allocs (s : State) (f : Pwr → Pwr) : (s.modPwr f).allocs = s.allocs := rfl
@[simp] theorem State.modPwr_allocNext (s : State) (f : Pwr → Pwr) : (s.modPwr f).allocNext = s.allocNext := rfl
@[simp] theorem State.modPwr_hbm (s : State) (f : Pwr → Pwr) : (s.modPwr f).hbm = s.hbm := rfl
@[simp] theorem State.modPwr_shelf (s : State) (f : Pwr → Pwr) : (s.modPwr f).shelf = s.shelf := rfl
@[simp] theorem State.modPwr_flash (s : State) (f : Pwr → Pwr) : (s.modPwr f).flash = s.flash := rfl
@[simp] theorem State.modPwr_writes (s : State) (f : Pwr → Pwr) : (s.modPwr f).writes = s.writes := rfl
@[simp] theorem State.modPwr_nextWrite (s : State) (f : Pwr → Pwr) : (s.modPwr f).nextWrite = s.nextWrite := rfl
@[simp] theorem State.modPwr_side (s : State) (f : Pwr → Pwr) : (s.modPwr f).side = s.side := rfl
@[simp] theorem State.modPwr_stat (s : State) (f : Pwr → Pwr) : (s.modPwr f).stat = s.stat := rfl
@[simp] theorem State.modPwr_freeCtr (s : State) (f : Pwr → Pwr) : (s.modPwr f).freeCtr = s.freeCtr := rfl

/-! `State.modMgt` -/

@[simp] theorem State.modMgt_pending (s : State) (f : Mgt → Mgt) : (s.modMgt f).pending = s.pending := rfl
@[simp] theorem State.modMgt_mgt (s : State) (f : Mgt → Mgt) : (s.modMgt f).mgt = f s.mgt := rfl
@[simp] theorem State.modMgt_pwr (s : State) (f : Mgt → Mgt) : (s.modMgt f).pwr = s.pwr := rfl
@[simp] theorem State.modMgt_ras (s : State) (f : Mgt → Mgt) : (s.modMgt f).ras = s.ras := rfl
@[simp] theorem State.modMgt_sec (s : State) (f : Mgt → Mgt) : (s.modMgt f).sec = s.sec := rfl
@[simp] theorem State.modMgt_lnk (s : State) (f : Mgt → Mgt) : (s.modMgt f).lnk = s.lnk := rfl
@[simp] theorem State.modMgt_hng (s : State) (f : Mgt → Mgt) : (s.modMgt f).hng = s.hng := rfl
@[simp] theorem State.modMgt_fab (s : State) (f : Mgt → Mgt) : (s.modMgt f).fab = s.fab := rfl
@[simp] theorem State.modMgt_prt (s : State) (f : Mgt → Mgt) : (s.modMgt f).prt = s.prt := rfl
@[simp] theorem State.modMgt_cab (s : State) (f : Mgt → Mgt) : (s.modMgt f).cab = s.cab := rfl
@[simp] theorem State.modMgt_shf (s : State) (f : Mgt → Mgt) : (s.modMgt f).shf = s.shf := rfl
@[simp] theorem State.modMgt_pol (s : State) (f : Mgt → Mgt) : (s.modMgt f).pol = s.pol := rfl
@[simp] theorem State.modMgt_tum (s : State) (f : Mgt → Mgt) : (s.modMgt f).tum = s.tum := rfl
@[simp] theorem State.modMgt_hbmStk (s : State) (f : Mgt → Mgt) : (s.modMgt f).hbmStk = s.hbmStk := rfl
@[simp] theorem State.modMgt_latch (s : State) (f : Mgt → Mgt) : (s.modMgt f).latch = s.latch := rfl
@[simp] theorem State.modMgt_latchRet (s : State) (f : Mgt → Mgt) : (s.modMgt f).latchRet = s.latchRet := rfl
@[simp] theorem State.modMgt_rcRet (s : State) (f : Mgt → Mgt) : (s.modMgt f).rcRet = s.rcRet := rfl
@[simp] theorem State.modMgt_arb (s : State) (f : Mgt → Mgt) : (s.modMgt f).arb = s.arb := rfl
@[simp] theorem State.modMgt_desc (s : State) (f : Mgt → Mgt) : (s.modMgt f).desc = s.desc := rfl
@[simp] theorem State.modMgt_allocs (s : State) (f : Mgt → Mgt) : (s.modMgt f).allocs = s.allocs := rfl
@[simp] theorem State.modMgt_allocNext (s : State) (f : Mgt → Mgt) : (s.modMgt f).allocNext = s.allocNext := rfl
@[simp] theorem State.modMgt_hbm (s : State) (f : Mgt → Mgt) : (s.modMgt f).hbm = s.hbm := rfl
@[simp] theorem State.modMgt_shelf (s : State) (f : Mgt → Mgt) : (s.modMgt f).shelf = s.shelf := rfl
@[simp] theorem State.modMgt_flash (s : State) (f : Mgt → Mgt) : (s.modMgt f).flash = s.flash := rfl
@[simp] theorem State.modMgt_writes (s : State) (f : Mgt → Mgt) : (s.modMgt f).writes = s.writes := rfl
@[simp] theorem State.modMgt_nextWrite (s : State) (f : Mgt → Mgt) : (s.modMgt f).nextWrite = s.nextWrite := rfl
@[simp] theorem State.modMgt_side (s : State) (f : Mgt → Mgt) : (s.modMgt f).side = s.side := rfl
@[simp] theorem State.modMgt_stat (s : State) (f : Mgt → Mgt) : (s.modMgt f).stat = s.stat := rfl
@[simp] theorem State.modMgt_freeCtr (s : State) (f : Mgt → Mgt) : (s.modMgt f).freeCtr = s.freeCtr := rfl

/-! `State.modFab` -/

@[simp] theorem State.modFab_pending (s : State) (f : Fab → Fab) : (s.modFab f).pending = s.pending := rfl
@[simp] theorem State.modFab_mgt (s : State) (f : Fab → Fab) : (s.modFab f).mgt = s.mgt := rfl
@[simp] theorem State.modFab_pwr (s : State) (f : Fab → Fab) : (s.modFab f).pwr = s.pwr := rfl
@[simp] theorem State.modFab_ras (s : State) (f : Fab → Fab) : (s.modFab f).ras = s.ras := rfl
@[simp] theorem State.modFab_sec (s : State) (f : Fab → Fab) : (s.modFab f).sec = s.sec := rfl
@[simp] theorem State.modFab_lnk (s : State) (f : Fab → Fab) : (s.modFab f).lnk = s.lnk := rfl
@[simp] theorem State.modFab_hng (s : State) (f : Fab → Fab) : (s.modFab f).hng = s.hng := rfl
@[simp] theorem State.modFab_fab (s : State) (f : Fab → Fab) : (s.modFab f).fab = f s.fab := rfl
@[simp] theorem State.modFab_prt (s : State) (f : Fab → Fab) : (s.modFab f).prt = s.prt := rfl
@[simp] theorem State.modFab_cab (s : State) (f : Fab → Fab) : (s.modFab f).cab = s.cab := rfl
@[simp] theorem State.modFab_shf (s : State) (f : Fab → Fab) : (s.modFab f).shf = s.shf := rfl
@[simp] theorem State.modFab_pol (s : State) (f : Fab → Fab) : (s.modFab f).pol = s.pol := rfl
@[simp] theorem State.modFab_tum (s : State) (f : Fab → Fab) : (s.modFab f).tum = s.tum := rfl
@[simp] theorem State.modFab_hbmStk (s : State) (f : Fab → Fab) : (s.modFab f).hbmStk = s.hbmStk := rfl
@[simp] theorem State.modFab_latch (s : State) (f : Fab → Fab) : (s.modFab f).latch = s.latch := rfl
@[simp] theorem State.modFab_latchRet (s : State) (f : Fab → Fab) : (s.modFab f).latchRet = s.latchRet := rfl
@[simp] theorem State.modFab_rcRet (s : State) (f : Fab → Fab) : (s.modFab f).rcRet = s.rcRet := rfl
@[simp] theorem State.modFab_arb (s : State) (f : Fab → Fab) : (s.modFab f).arb = s.arb := rfl
@[simp] theorem State.modFab_desc (s : State) (f : Fab → Fab) : (s.modFab f).desc = s.desc := rfl
@[simp] theorem State.modFab_allocs (s : State) (f : Fab → Fab) : (s.modFab f).allocs = s.allocs := rfl
@[simp] theorem State.modFab_allocNext (s : State) (f : Fab → Fab) : (s.modFab f).allocNext = s.allocNext := rfl
@[simp] theorem State.modFab_hbm (s : State) (f : Fab → Fab) : (s.modFab f).hbm = s.hbm := rfl
@[simp] theorem State.modFab_shelf (s : State) (f : Fab → Fab) : (s.modFab f).shelf = s.shelf := rfl
@[simp] theorem State.modFab_flash (s : State) (f : Fab → Fab) : (s.modFab f).flash = s.flash := rfl
@[simp] theorem State.modFab_writes (s : State) (f : Fab → Fab) : (s.modFab f).writes = s.writes := rfl
@[simp] theorem State.modFab_nextWrite (s : State) (f : Fab → Fab) : (s.modFab f).nextWrite = s.nextWrite := rfl
@[simp] theorem State.modFab_side (s : State) (f : Fab → Fab) : (s.modFab f).side = s.side := rfl
@[simp] theorem State.modFab_stat (s : State) (f : Fab → Fab) : (s.modFab f).stat = s.stat := rfl
@[simp] theorem State.modFab_freeCtr (s : State) (f : Fab → Fab) : (s.modFab f).freeCtr = s.freeCtr := rfl

/-! `State.modSide` -/

@[simp] theorem State.modSide_pending (s : State) (f : Side → Side) : (s.modSide f).pending = s.pending := rfl
@[simp] theorem State.modSide_mgt (s : State) (f : Side → Side) : (s.modSide f).mgt = s.mgt := rfl
@[simp] theorem State.modSide_pwr (s : State) (f : Side → Side) : (s.modSide f).pwr = s.pwr := rfl
@[simp] theorem State.modSide_ras (s : State) (f : Side → Side) : (s.modSide f).ras = s.ras := rfl
@[simp] theorem State.modSide_sec (s : State) (f : Side → Side) : (s.modSide f).sec = s.sec := rfl
@[simp] theorem State.modSide_lnk (s : State) (f : Side → Side) : (s.modSide f).lnk = s.lnk := rfl
@[simp] theorem State.modSide_hng (s : State) (f : Side → Side) : (s.modSide f).hng = s.hng := rfl
@[simp] theorem State.modSide_fab (s : State) (f : Side → Side) : (s.modSide f).fab = s.fab := rfl
@[simp] theorem State.modSide_prt (s : State) (f : Side → Side) : (s.modSide f).prt = s.prt := rfl
@[simp] theorem State.modSide_cab (s : State) (f : Side → Side) : (s.modSide f).cab = s.cab := rfl
@[simp] theorem State.modSide_shf (s : State) (f : Side → Side) : (s.modSide f).shf = s.shf := rfl
@[simp] theorem State.modSide_pol (s : State) (f : Side → Side) : (s.modSide f).pol = s.pol := rfl
@[simp] theorem State.modSide_tum (s : State) (f : Side → Side) : (s.modSide f).tum = s.tum := rfl
@[simp] theorem State.modSide_hbmStk (s : State) (f : Side → Side) : (s.modSide f).hbmStk = s.hbmStk := rfl
@[simp] theorem State.modSide_latch (s : State) (f : Side → Side) : (s.modSide f).latch = s.latch := rfl
@[simp] theorem State.modSide_latchRet (s : State) (f : Side → Side) : (s.modSide f).latchRet = s.latchRet := rfl
@[simp] theorem State.modSide_rcRet (s : State) (f : Side → Side) : (s.modSide f).rcRet = s.rcRet := rfl
@[simp] theorem State.modSide_arb (s : State) (f : Side → Side) : (s.modSide f).arb = s.arb := rfl
@[simp] theorem State.modSide_desc (s : State) (f : Side → Side) : (s.modSide f).desc = s.desc := rfl
@[simp] theorem State.modSide_allocs (s : State) (f : Side → Side) : (s.modSide f).allocs = s.allocs := rfl
@[simp] theorem State.modSide_allocNext (s : State) (f : Side → Side) : (s.modSide f).allocNext = s.allocNext := rfl
@[simp] theorem State.modSide_hbm (s : State) (f : Side → Side) : (s.modSide f).hbm = s.hbm := rfl
@[simp] theorem State.modSide_shelf (s : State) (f : Side → Side) : (s.modSide f).shelf = s.shelf := rfl
@[simp] theorem State.modSide_flash (s : State) (f : Side → Side) : (s.modSide f).flash = s.flash := rfl
@[simp] theorem State.modSide_writes (s : State) (f : Side → Side) : (s.modSide f).writes = s.writes := rfl
@[simp] theorem State.modSide_nextWrite (s : State) (f : Side → Side) : (s.modSide f).nextWrite = s.nextWrite := rfl
@[simp] theorem State.modSide_side (s : State) (f : Side → Side) : (s.modSide f).side = f s.side := rfl
@[simp] theorem State.modSide_stat (s : State) (f : Side → Side) : (s.modSide f).stat = s.stat := rfl
@[simp] theorem State.modSide_freeCtr (s : State) (f : Side → Side) : (s.modSide f).freeCtr = s.freeCtr := rfl

/-! `State.modHng` -/

@[simp] theorem State.modHng_pending (s : State) (n : Nat) (f : Hng → Hng) : (s.modHng n f).pending = s.pending := rfl
@[simp] theorem State.modHng_mgt (s : State) (n : Nat) (f : Hng → Hng) : (s.modHng n f).mgt = s.mgt := rfl
@[simp] theorem State.modHng_pwr (s : State) (n : Nat) (f : Hng → Hng) : (s.modHng n f).pwr = s.pwr := rfl
@[simp] theorem State.modHng_ras (s : State) (n : Nat) (f : Hng → Hng) : (s.modHng n f).ras = s.ras := rfl
@[simp] theorem State.modHng_sec (s : State) (n : Nat) (f : Hng → Hng) : (s.modHng n f).sec = s.sec := rfl
@[simp] theorem State.modHng_lnk (s : State) (n : Nat) (f : Hng → Hng) : (s.modHng n f).lnk = s.lnk := rfl
@[simp] theorem State.modHng_hng (s : State) (n : Nat) (f : Hng → Hng) : (s.modHng n f).hng = modNth s.hng n f := rfl
@[simp] theorem State.modHng_fab (s : State) (n : Nat) (f : Hng → Hng) : (s.modHng n f).fab = s.fab := rfl
@[simp] theorem State.modHng_prt (s : State) (n : Nat) (f : Hng → Hng) : (s.modHng n f).prt = s.prt := rfl
@[simp] theorem State.modHng_cab (s : State) (n : Nat) (f : Hng → Hng) : (s.modHng n f).cab = s.cab := rfl
@[simp] theorem State.modHng_shf (s : State) (n : Nat) (f : Hng → Hng) : (s.modHng n f).shf = s.shf := rfl
@[simp] theorem State.modHng_pol (s : State) (n : Nat) (f : Hng → Hng) : (s.modHng n f).pol = s.pol := rfl
@[simp] theorem State.modHng_tum (s : State) (n : Nat) (f : Hng → Hng) : (s.modHng n f).tum = s.tum := rfl
@[simp] theorem State.modHng_hbmStk (s : State) (n : Nat) (f : Hng → Hng) : (s.modHng n f).hbmStk = s.hbmStk := rfl
@[simp] theorem State.modHng_latch (s : State) (n : Nat) (f : Hng → Hng) : (s.modHng n f).latch = s.latch := rfl
@[simp] theorem State.modHng_latchRet (s : State) (n : Nat) (f : Hng → Hng) : (s.modHng n f).latchRet = s.latchRet := rfl
@[simp] theorem State.modHng_rcRet (s : State) (n : Nat) (f : Hng → Hng) : (s.modHng n f).rcRet = s.rcRet := rfl
@[simp] theorem State.modHng_arb (s : State) (n : Nat) (f : Hng → Hng) : (s.modHng n f).arb = s.arb := rfl
@[simp] theorem State.modHng_desc (s : State) (n : Nat) (f : Hng → Hng) : (s.modHng n f).desc = s.desc := rfl
@[simp] theorem State.modHng_allocs (s : State) (n : Nat) (f : Hng → Hng) : (s.modHng n f).allocs = s.allocs := rfl
@[simp] theorem State.modHng_allocNext (s : State) (n : Nat) (f : Hng → Hng) : (s.modHng n f).allocNext = s.allocNext := rfl
@[simp] theorem State.modHng_hbm (s : State) (n : Nat) (f : Hng → Hng) : (s.modHng n f).hbm = s.hbm := rfl
@[simp] theorem State.modHng_shelf (s : State) (n : Nat) (f : Hng → Hng) : (s.modHng n f).shelf = s.shelf := rfl
@[simp] theorem State.modHng_flash (s : State) (n : Nat) (f : Hng → Hng) : (s.modHng n f).flash = s.flash := rfl
@[simp] theorem State.modHng_writes (s : State) (n : Nat) (f : Hng → Hng) : (s.modHng n f).writes = s.writes := rfl
@[simp] theorem State.modHng_nextWrite (s : State) (n : Nat) (f : Hng → Hng) : (s.modHng n f).nextWrite = s.nextWrite := rfl
@[simp] theorem State.modHng_side (s : State) (n : Nat) (f : Hng → Hng) : (s.modHng n f).side = s.side := rfl
@[simp] theorem State.modHng_stat (s : State) (n : Nat) (f : Hng → Hng) : (s.modHng n f).stat = s.stat := rfl
@[simp] theorem State.modHng_freeCtr (s : State) (n : Nat) (f : Hng → Hng) : (s.modHng n f).freeCtr = s.freeCtr := rfl

/-! `State.modStk` -/

@[simp] theorem State.modStk_pending (s : State) (k : Nat) (f : Hbm → Hbm) : (s.modStk k f).pending = s.pending := rfl
@[simp] theorem State.modStk_mgt (s : State) (k : Nat) (f : Hbm → Hbm) : (s.modStk k f).mgt = s.mgt := rfl
@[simp] theorem State.modStk_pwr (s : State) (k : Nat) (f : Hbm → Hbm) : (s.modStk k f).pwr = s.pwr := rfl
@[simp] theorem State.modStk_ras (s : State) (k : Nat) (f : Hbm → Hbm) : (s.modStk k f).ras = s.ras := rfl
@[simp] theorem State.modStk_sec (s : State) (k : Nat) (f : Hbm → Hbm) : (s.modStk k f).sec = s.sec := rfl
@[simp] theorem State.modStk_lnk (s : State) (k : Nat) (f : Hbm → Hbm) : (s.modStk k f).lnk = s.lnk := rfl
@[simp] theorem State.modStk_hng (s : State) (k : Nat) (f : Hbm → Hbm) : (s.modStk k f).hng = s.hng := rfl
@[simp] theorem State.modStk_fab (s : State) (k : Nat) (f : Hbm → Hbm) : (s.modStk k f).fab = s.fab := rfl
@[simp] theorem State.modStk_prt (s : State) (k : Nat) (f : Hbm → Hbm) : (s.modStk k f).prt = s.prt := rfl
@[simp] theorem State.modStk_cab (s : State) (k : Nat) (f : Hbm → Hbm) : (s.modStk k f).cab = s.cab := rfl
@[simp] theorem State.modStk_shf (s : State) (k : Nat) (f : Hbm → Hbm) : (s.modStk k f).shf = s.shf := rfl
@[simp] theorem State.modStk_pol (s : State) (k : Nat) (f : Hbm → Hbm) : (s.modStk k f).pol = s.pol := rfl
@[simp] theorem State.modStk_tum (s : State) (k : Nat) (f : Hbm → Hbm) : (s.modStk k f).tum = s.tum := rfl
@[simp] theorem State.modStk_hbmStk (s : State) (k : Nat) (f : Hbm → Hbm) : (s.modStk k f).hbmStk = modNth s.hbmStk k f := rfl
@[simp] theorem State.modStk_latch (s : State) (k : Nat) (f : Hbm → Hbm) : (s.modStk k f).latch = s.latch := rfl
@[simp] theorem State.modStk_latchRet (s : State) (k : Nat) (f : Hbm → Hbm) : (s.modStk k f).latchRet = s.latchRet := rfl
@[simp] theorem State.modStk_rcRet (s : State) (k : Nat) (f : Hbm → Hbm) : (s.modStk k f).rcRet = s.rcRet := rfl
@[simp] theorem State.modStk_arb (s : State) (k : Nat) (f : Hbm → Hbm) : (s.modStk k f).arb = s.arb := rfl
@[simp] theorem State.modStk_desc (s : State) (k : Nat) (f : Hbm → Hbm) : (s.modStk k f).desc = s.desc := rfl
@[simp] theorem State.modStk_allocs (s : State) (k : Nat) (f : Hbm → Hbm) : (s.modStk k f).allocs = s.allocs := rfl
@[simp] theorem State.modStk_allocNext (s : State) (k : Nat) (f : Hbm → Hbm) : (s.modStk k f).allocNext = s.allocNext := rfl
@[simp] theorem State.modStk_hbm (s : State) (k : Nat) (f : Hbm → Hbm) : (s.modStk k f).hbm = s.hbm := rfl
@[simp] theorem State.modStk_shelf (s : State) (k : Nat) (f : Hbm → Hbm) : (s.modStk k f).shelf = s.shelf := rfl
@[simp] theorem State.modStk_flash (s : State) (k : Nat) (f : Hbm → Hbm) : (s.modStk k f).flash = s.flash := rfl
@[simp] theorem State.modStk_writes (s : State) (k : Nat) (f : Hbm → Hbm) : (s.modStk k f).writes = s.writes := rfl
@[simp] theorem State.modStk_nextWrite (s : State) (k : Nat) (f : Hbm → Hbm) : (s.modStk k f).nextWrite = s.nextWrite := rfl
@[simp] theorem State.modStk_side (s : State) (k : Nat) (f : Hbm → Hbm) : (s.modStk k f).side = s.side := rfl
@[simp] theorem State.modStk_stat (s : State) (k : Nat) (f : Hbm → Hbm) : (s.modStk k f).stat = s.stat := rfl
@[simp] theorem State.modStk_freeCtr (s : State) (k : Nat) (f : Hbm → Hbm) : (s.modStk k f).freeCtr = s.freeCtr := rfl

/-! `State.modCtx` -/

@[simp] theorem State.modCtx_pending (s : State) (p : Nat) (f : Ctx → Ctx) : (s.modCtx p f).pending = s.pending := rfl
@[simp] theorem State.modCtx_mgt (s : State) (p : Nat) (f : Ctx → Ctx) : (s.modCtx p f).mgt = s.mgt := rfl
@[simp] theorem State.modCtx_pwr (s : State) (p : Nat) (f : Ctx → Ctx) : (s.modCtx p f).pwr = s.pwr := rfl
@[simp] theorem State.modCtx_ras (s : State) (p : Nat) (f : Ctx → Ctx) : (s.modCtx p f).ras = s.ras := rfl
@[simp] theorem State.modCtx_sec (s : State) (p : Nat) (f : Ctx → Ctx) : (s.modCtx p f).sec = s.sec := rfl
@[simp] theorem State.modCtx_lnk (s : State) (p : Nat) (f : Ctx → Ctx) : (s.modCtx p f).lnk = s.lnk := rfl
@[simp] theorem State.modCtx_hng (s : State) (p : Nat) (f : Ctx → Ctx) : (s.modCtx p f).hng = s.hng := rfl
@[simp] theorem State.modCtx_fab (s : State) (p : Nat) (f : Ctx → Ctx) : (s.modCtx p f).fab = s.fab := rfl
@[simp] theorem State.modCtx_prt (s : State) (p : Nat) (f : Ctx → Ctx) : (s.modCtx p f).prt = modNth s.prt p fun q => { q with ctx := q.ctx.map f } := rfl
@[simp] theorem State.modCtx_cab (s : State) (p : Nat) (f : Ctx → Ctx) : (s.modCtx p f).cab = s.cab := rfl
@[simp] theorem State.modCtx_shf (s : State) (p : Nat) (f : Ctx → Ctx) : (s.modCtx p f).shf = s.shf := rfl
@[simp] theorem State.modCtx_pol (s : State) (p : Nat) (f : Ctx → Ctx) : (s.modCtx p f).pol = s.pol := rfl
@[simp] theorem State.modCtx_tum (s : State) (p : Nat) (f : Ctx → Ctx) : (s.modCtx p f).tum = s.tum := rfl
@[simp] theorem State.modCtx_hbmStk (s : State) (p : Nat) (f : Ctx → Ctx) : (s.modCtx p f).hbmStk = s.hbmStk := rfl
@[simp] theorem State.modCtx_latch (s : State) (p : Nat) (f : Ctx → Ctx) : (s.modCtx p f).latch = s.latch := rfl
@[simp] theorem State.modCtx_latchRet (s : State) (p : Nat) (f : Ctx → Ctx) : (s.modCtx p f).latchRet = s.latchRet := rfl
@[simp] theorem State.modCtx_rcRet (s : State) (p : Nat) (f : Ctx → Ctx) : (s.modCtx p f).rcRet = s.rcRet := rfl
@[simp] theorem State.modCtx_arb (s : State) (p : Nat) (f : Ctx → Ctx) : (s.modCtx p f).arb = s.arb := rfl
@[simp] theorem State.modCtx_desc (s : State) (p : Nat) (f : Ctx → Ctx) : (s.modCtx p f).desc = s.desc := rfl
@[simp] theorem State.modCtx_allocs (s : State) (p : Nat) (f : Ctx → Ctx) : (s.modCtx p f).allocs = s.allocs := rfl
@[simp] theorem State.modCtx_allocNext (s : State) (p : Nat) (f : Ctx → Ctx) : (s.modCtx p f).allocNext = s.allocNext := rfl
@[simp] theorem State.modCtx_hbm (s : State) (p : Nat) (f : Ctx → Ctx) : (s.modCtx p f).hbm = s.hbm := rfl
@[simp] theorem State.modCtx_shelf (s : State) (p : Nat) (f : Ctx → Ctx) : (s.modCtx p f).shelf = s.shelf := rfl
@[simp] theorem State.modCtx_flash (s : State) (p : Nat) (f : Ctx → Ctx) : (s.modCtx p f).flash = s.flash := rfl
@[simp] theorem State.modCtx_writes (s : State) (p : Nat) (f : Ctx → Ctx) : (s.modCtx p f).writes = s.writes := rfl
@[simp] theorem State.modCtx_nextWrite (s : State) (p : Nat) (f : Ctx → Ctx) : (s.modCtx p f).nextWrite = s.nextWrite := rfl
@[simp] theorem State.modCtx_side (s : State) (p : Nat) (f : Ctx → Ctx) : (s.modCtx p f).side = s.side := rfl
@[simp] theorem State.modCtx_stat (s : State) (p : Nat) (f : Ctx → Ctx) : (s.modCtx p f).stat = s.stat := rfl
@[simp] theorem State.modCtx_freeCtr (s : State) (p : Nat) (f : Ctx → Ctx) : (s.modCtx p f).freeCtr = s.freeCtr := rfl

/-! `State.fresh` -/

@[simp] theorem State.fresh_pending (s : State) : s.fresh.2.pending = s.pending := rfl
@[simp] theorem State.fresh_mgt (s : State) : s.fresh.2.mgt = s.mgt := rfl
@[simp] theorem State.fresh_pwr (s : State) : s.fresh.2.pwr = s.pwr := rfl
@[simp] theorem State.fresh_ras (s : State) : s.fresh.2.ras = s.ras := rfl
@[simp] theorem State.fresh_sec (s : State) : s.fresh.2.sec = s.sec := rfl
@[simp] theorem State.fresh_lnk (s : State) : s.fresh.2.lnk = s.lnk := rfl
@[simp] theorem State.fresh_hng (s : State) : s.fresh.2.hng = s.hng := rfl
@[simp] theorem State.fresh_fab (s : State) : s.fresh.2.fab = s.fab := rfl
@[simp] theorem State.fresh_prt (s : State) : s.fresh.2.prt = s.prt := rfl
@[simp] theorem State.fresh_cab (s : State) : s.fresh.2.cab = s.cab := rfl
@[simp] theorem State.fresh_shf (s : State) : s.fresh.2.shf = s.shf := rfl
@[simp] theorem State.fresh_pol (s : State) : s.fresh.2.pol = s.pol := rfl
@[simp] theorem State.fresh_tum (s : State) : s.fresh.2.tum = s.tum := rfl
@[simp] theorem State.fresh_hbmStk (s : State) : s.fresh.2.hbmStk = s.hbmStk := rfl
@[simp] theorem State.fresh_latch (s : State) : s.fresh.2.latch = s.latch := rfl
@[simp] theorem State.fresh_latchRet (s : State) : s.fresh.2.latchRet = s.latchRet := rfl
@[simp] theorem State.fresh_rcRet (s : State) : s.fresh.2.rcRet = s.rcRet := rfl
@[simp] theorem State.fresh_arb (s : State) : s.fresh.2.arb = s.arb := rfl
@[simp] theorem State.fresh_desc (s : State) : s.fresh.2.desc = s.desc := rfl
@[simp] theorem State.fresh_allocs (s : State) : s.fresh.2.allocs = s.allocs := rfl
@[simp] theorem State.fresh_allocNext (s : State) : s.fresh.2.allocNext = s.allocNext := rfl
@[simp] theorem State.fresh_hbm (s : State) : s.fresh.2.hbm = s.hbm := rfl
@[simp] theorem State.fresh_shelf (s : State) : s.fresh.2.shelf = s.shelf := rfl
@[simp] theorem State.fresh_flash (s : State) : s.fresh.2.flash = s.flash := rfl
@[simp] theorem State.fresh_writes (s : State) : s.fresh.2.writes = s.writes := rfl
@[simp] theorem State.fresh_nextWrite (s : State) : s.fresh.2.nextWrite = s.nextWrite := rfl
@[simp] theorem State.fresh_side (s : State) : s.fresh.2.side = s.side := rfl
@[simp] theorem State.fresh_stat (s : State) : s.fresh.2.stat = s.stat := rfl
@[simp] theorem State.fresh_freeCtr (s : State) : s.fresh.2.freeCtr = s.freeCtr + 1 := rfl

/-! `State.freshB` -/

@[simp] theorem State.freshB_pending (s : State) : s.freshB.2.pending = s.pending := rfl
@[simp] theorem State.freshB_mgt (s : State) : s.freshB.2.mgt = s.mgt := rfl
@[simp] theorem State.freshB_pwr (s : State) : s.freshB.2.pwr = s.pwr := rfl
@[simp] theorem State.freshB_ras (s : State) : s.freshB.2.ras = s.ras := rfl
@[simp] theorem State.freshB_sec (s : State) : s.freshB.2.sec = s.sec := rfl
@[simp] theorem State.freshB_lnk (s : State) : s.freshB.2.lnk = s.lnk := rfl
@[simp] theorem State.freshB_hng (s : State) : s.freshB.2.hng = s.hng := rfl
@[simp] theorem State.freshB_fab (s : State) : s.freshB.2.fab = s.fab := rfl
@[simp] theorem State.freshB_prt (s : State) : s.freshB.2.prt = s.prt := rfl
@[simp] theorem State.freshB_cab (s : State) : s.freshB.2.cab = s.cab := rfl
@[simp] theorem State.freshB_shf (s : State) : s.freshB.2.shf = s.shf := rfl
@[simp] theorem State.freshB_pol (s : State) : s.freshB.2.pol = s.pol := rfl
@[simp] theorem State.freshB_tum (s : State) : s.freshB.2.tum = s.tum := rfl
@[simp] theorem State.freshB_hbmStk (s : State) : s.freshB.2.hbmStk = s.hbmStk := rfl
@[simp] theorem State.freshB_latch (s : State) : s.freshB.2.latch = s.latch := rfl
@[simp] theorem State.freshB_latchRet (s : State) : s.freshB.2.latchRet = s.latchRet := rfl
@[simp] theorem State.freshB_rcRet (s : State) : s.freshB.2.rcRet = s.rcRet := rfl
@[simp] theorem State.freshB_arb (s : State) : s.freshB.2.arb = s.arb := rfl
@[simp] theorem State.freshB_desc (s : State) : s.freshB.2.desc = s.desc := rfl
@[simp] theorem State.freshB_allocs (s : State) : s.freshB.2.allocs = s.allocs := rfl
@[simp] theorem State.freshB_allocNext (s : State) : s.freshB.2.allocNext = s.allocNext := rfl
@[simp] theorem State.freshB_hbm (s : State) : s.freshB.2.hbm = s.hbm := rfl
@[simp] theorem State.freshB_shelf (s : State) : s.freshB.2.shelf = s.shelf := rfl
@[simp] theorem State.freshB_flash (s : State) : s.freshB.2.flash = s.flash := rfl
@[simp] theorem State.freshB_writes (s : State) : s.freshB.2.writes = s.writes := rfl
@[simp] theorem State.freshB_nextWrite (s : State) : s.freshB.2.nextWrite = s.nextWrite := rfl
@[simp] theorem State.freshB_side (s : State) : s.freshB.2.side = s.side := rfl
@[simp] theorem State.freshB_stat (s : State) : s.freshB.2.stat = s.stat := rfl
@[simp] theorem State.freshB_freeCtr (s : State) : s.freshB.2.freeCtr = s.freeCtr + 1 := rfl

/-! `State.putWrite` -/

@[simp] theorem State.putWrite_pending (s : State) (sp a : Nat) (bs : List Byte) (t : WriteTag) (d k e g : Nat) : (s.putWrite sp a bs t d k e g).pending = s.pending := rfl
@[simp] theorem State.putWrite_mgt (s : State) (sp a : Nat) (bs : List Byte) (t : WriteTag) (d k e g : Nat) : (s.putWrite sp a bs t d k e g).mgt = s.mgt := rfl
@[simp] theorem State.putWrite_pwr (s : State) (sp a : Nat) (bs : List Byte) (t : WriteTag) (d k e g : Nat) : (s.putWrite sp a bs t d k e g).pwr = s.pwr := rfl
@[simp] theorem State.putWrite_ras (s : State) (sp a : Nat) (bs : List Byte) (t : WriteTag) (d k e g : Nat) : (s.putWrite sp a bs t d k e g).ras = s.ras := rfl
@[simp] theorem State.putWrite_sec (s : State) (sp a : Nat) (bs : List Byte) (t : WriteTag) (d k e g : Nat) : (s.putWrite sp a bs t d k e g).sec = s.sec := rfl
@[simp] theorem State.putWrite_lnk (s : State) (sp a : Nat) (bs : List Byte) (t : WriteTag) (d k e g : Nat) : (s.putWrite sp a bs t d k e g).lnk = s.lnk := rfl
@[simp] theorem State.putWrite_hng (s : State) (sp a : Nat) (bs : List Byte) (t : WriteTag) (d k e g : Nat) : (s.putWrite sp a bs t d k e g).hng = s.hng := rfl
@[simp] theorem State.putWrite_fab (s : State) (sp a : Nat) (bs : List Byte) (t : WriteTag) (d k e g : Nat) : (s.putWrite sp a bs t d k e g).fab = s.fab := rfl
@[simp] theorem State.putWrite_prt (s : State) (sp a : Nat) (bs : List Byte) (t : WriteTag) (d k e g : Nat) : (s.putWrite sp a bs t d k e g).prt = s.prt := rfl
@[simp] theorem State.putWrite_cab (s : State) (sp a : Nat) (bs : List Byte) (t : WriteTag) (d k e g : Nat) : (s.putWrite sp a bs t d k e g).cab = s.cab := rfl
@[simp] theorem State.putWrite_shf (s : State) (sp a : Nat) (bs : List Byte) (t : WriteTag) (d k e g : Nat) : (s.putWrite sp a bs t d k e g).shf = s.shf := rfl
@[simp] theorem State.putWrite_pol (s : State) (sp a : Nat) (bs : List Byte) (t : WriteTag) (d k e g : Nat) : (s.putWrite sp a bs t d k e g).pol = s.pol := rfl
@[simp] theorem State.putWrite_tum (s : State) (sp a : Nat) (bs : List Byte) (t : WriteTag) (d k e g : Nat) : (s.putWrite sp a bs t d k e g).tum = s.tum := rfl
@[simp] theorem State.putWrite_hbmStk (s : State) (sp a : Nat) (bs : List Byte) (t : WriteTag) (d k e g : Nat) : (s.putWrite sp a bs t d k e g).hbmStk = s.hbmStk := rfl
@[simp] theorem State.putWrite_latch (s : State) (sp a : Nat) (bs : List Byte) (t : WriteTag) (d k e g : Nat) : (s.putWrite sp a bs t d k e g).latch = s.latch := rfl
@[simp] theorem State.putWrite_latchRet (s : State) (sp a : Nat) (bs : List Byte) (t : WriteTag) (d k e g : Nat) : (s.putWrite sp a bs t d k e g).latchRet = s.latchRet := rfl
@[simp] theorem State.putWrite_rcRet (s : State) (sp a : Nat) (bs : List Byte) (t : WriteTag) (d k e g : Nat) : (s.putWrite sp a bs t d k e g).rcRet = s.rcRet := rfl
@[simp] theorem State.putWrite_arb (s : State) (sp a : Nat) (bs : List Byte) (t : WriteTag) (d k e g : Nat) : (s.putWrite sp a bs t d k e g).arb = s.arb := rfl
@[simp] theorem State.putWrite_desc (s : State) (sp a : Nat) (bs : List Byte) (t : WriteTag) (d k e g : Nat) : (s.putWrite sp a bs t d k e g).desc = s.desc := rfl
@[simp] theorem State.putWrite_allocs (s : State) (sp a : Nat) (bs : List Byte) (t : WriteTag) (d k e g : Nat) : (s.putWrite sp a bs t d k e g).allocs = s.allocs := rfl
@[simp] theorem State.putWrite_allocNext (s : State) (sp a : Nat) (bs : List Byte) (t : WriteTag) (d k e g : Nat) : (s.putWrite sp a bs t d k e g).allocNext = s.allocNext := rfl
@[simp] theorem State.putWrite_hbm (s : State) (sp a : Nat) (bs : List Byte) (t : WriteTag) (d k e g : Nat) : (s.putWrite sp a bs t d k e g).hbm = s.hbm := rfl
@[simp] theorem State.putWrite_shelf (s : State) (sp a : Nat) (bs : List Byte) (t : WriteTag) (d k e g : Nat) : (s.putWrite sp a bs t d k e g).shelf = s.shelf := rfl
@[simp] theorem State.putWrite_flash (s : State) (sp a : Nat) (bs : List Byte) (t : WriteTag) (d k e g : Nat) : (s.putWrite sp a bs t d k e g).flash = s.flash := rfl
@[simp] theorem State.putWrite_writes (s : State) (sp a : Nat) (bs : List Byte) (t : WriteTag) (d k e g : Nat) : (s.putWrite sp a bs t d k e g).writes = s.writes ++ [{ id := s.nextWrite, space := sp, addr := a, bytes := bs, tag := t, drw := d, key := k, ew := e, page := g }] := rfl
@[simp] theorem State.putWrite_nextWrite (s : State) (sp a : Nat) (bs : List Byte) (t : WriteTag) (d k e g : Nat) : (s.putWrite sp a bs t d k e g).nextWrite = s.nextWrite + 1 := rfl
@[simp] theorem State.putWrite_side (s : State) (sp a : Nat) (bs : List Byte) (t : WriteTag) (d k e g : Nat) : (s.putWrite sp a bs t d k e g).side = s.side := rfl
@[simp] theorem State.putWrite_stat (s : State) (sp a : Nat) (bs : List Byte) (t : WriteTag) (d k e g : Nat) : (s.putWrite sp a bs t d k e g).stat = s.stat := rfl
@[simp] theorem State.putWrite_freeCtr (s : State) (sp a : Nat) (bs : List Byte) (t : WriteTag) (d k e g : Nat) : (s.putWrite sp a bs t d k e g).freeCtr = s.freeCtr := rfl

/-! `State.drain` -/

@[simp] theorem State.drain_pending (s : State) : s.drain.pending = s.pending := by simp [State.drain]
@[simp] theorem State.drain_mgt (s : State) : s.drain.mgt = s.mgt := by simp [State.drain]
@[simp] theorem State.drain_pwr (s : State) : s.drain.pwr = s.pwr := by simp [State.drain]
@[simp] theorem State.drain_ras (s : State) : s.drain.ras = s.ras := by simp [State.drain]
@[simp] theorem State.drain_sec (s : State) : s.drain.sec = s.sec := by simp [State.drain]
@[simp] theorem State.drain_lnk (s : State) : s.drain.lnk = Lnk.drain s.now s.lnk := by simp [State.drain]
@[simp] theorem State.drain_hng (s : State) : s.drain.hng = s.hng := by simp [State.drain]
@[simp] theorem State.drain_fab (s : State) : s.drain.fab = s.fab := by simp [State.drain]
@[simp] theorem State.drain_prt (s : State) : s.drain.prt = s.prt := by simp [State.drain]
@[simp] theorem State.drain_cab (s : State) : s.drain.cab = s.cab := by simp [State.drain]
@[simp] theorem State.drain_shf (s : State) : s.drain.shf = s.shf := by simp [State.drain]
@[simp] theorem State.drain_pol (s : State) : s.drain.pol = s.pol := by simp [State.drain]
@[simp] theorem State.drain_tum (s : State) : s.drain.tum = s.tum := by simp [State.drain]
@[simp] theorem State.drain_hbmStk (s : State) : s.drain.hbmStk = s.hbmStk := by simp [State.drain]
@[simp] theorem State.drain_latch (s : State) : s.drain.latch = s.latch := by simp [State.drain]
@[simp] theorem State.drain_latchRet (s : State) : s.drain.latchRet = s.latchRet := by simp [State.drain]
@[simp] theorem State.drain_rcRet (s : State) : s.drain.rcRet = s.rcRet := by simp [State.drain]
@[simp] theorem State.drain_arb (s : State) : s.drain.arb = s.arb := by simp [State.drain]
@[simp] theorem State.drain_desc (s : State) : s.drain.desc = s.desc := by simp [State.drain]
@[simp] theorem State.drain_allocs (s : State) : s.drain.allocs = s.allocs := by simp [State.drain]
@[simp] theorem State.drain_allocNext (s : State) : s.drain.allocNext = s.allocNext := by simp [State.drain]
@[simp] theorem State.drain_hbm (s : State) : s.drain.hbm = s.hbm := by simp [State.drain]
@[simp] theorem State.drain_shelf (s : State) : s.drain.shelf = s.shelf := by simp [State.drain]
@[simp] theorem State.drain_flash (s : State) : s.drain.flash = s.flash := by simp [State.drain]
@[simp] theorem State.drain_writes (s : State) : s.drain.writes = s.writes := by simp [State.drain]
@[simp] theorem State.drain_nextWrite (s : State) : s.drain.nextWrite = s.nextWrite := by simp [State.drain]
@[simp] theorem State.drain_side (s : State) : s.drain.side = s.side := by simp [State.drain]
@[simp] theorem State.drain_stat (s : State) : s.drain.stat = s.stat := by simp [State.drain]
@[simp] theorem State.drain_freeCtr (s : State) : s.drain.freeCtr = s.freeCtr := by simp [State.drain]

/-! `State.respond` -/

@[simp] theorem State.respond_pending (s : State) (vc : Nat) (tag : Word) (se : Nat) (st : Status) (h q : Nat) (d : List Byte) : (s.respond vc tag se st h q d).pending = s.pending := by simp [State.respond, State.respondAt]
@[simp] theorem State.respond_mgt (s : State) (vc : Nat) (tag : Word) (se : Nat) (st : Status) (h q : Nat) (d : List Byte) : (s.respond vc tag se st h q d).mgt = s.mgt := by simp [State.respond, State.respondAt]
@[simp] theorem State.respond_pwr (s : State) (vc : Nat) (tag : Word) (se : Nat) (st : Status) (h q : Nat) (d : List Byte) : (s.respond vc tag se st h q d).pwr = s.pwr := by simp [State.respond, State.respondAt]
@[simp] theorem State.respond_ras (s : State) (vc : Nat) (tag : Word) (se : Nat) (st : Status) (h q : Nat) (d : List Byte) : (s.respond vc tag se st h q d).ras = s.ras := by simp [State.respond, State.respondAt]
@[simp] theorem State.respond_sec (s : State) (vc : Nat) (tag : Word) (se : Nat) (st : Status) (h q : Nat) (d : List Byte) : (s.respond vc tag se st h q d).sec = s.sec := by simp [State.respond, State.respondAt]
@[simp] theorem State.respond_hng (s : State) (vc : Nat) (tag : Word) (se : Nat) (st : Status) (h q : Nat) (d : List Byte) : (s.respond vc tag se st h q d).hng = s.hng := by simp [State.respond, State.respondAt]
@[simp] theorem State.respond_fab (s : State) (vc : Nat) (tag : Word) (se : Nat) (st : Status) (h q : Nat) (d : List Byte) : (s.respond vc tag se st h q d).fab = s.fab := by simp [State.respond, State.respondAt]
@[simp] theorem State.respond_prt (s : State) (vc : Nat) (tag : Word) (se : Nat) (st : Status) (h q : Nat) (d : List Byte) : (s.respond vc tag se st h q d).prt = s.prt := by simp [State.respond, State.respondAt]
@[simp] theorem State.respond_cab (s : State) (vc : Nat) (tag : Word) (se : Nat) (st : Status) (h q : Nat) (d : List Byte) : (s.respond vc tag se st h q d).cab = s.cab := by simp [State.respond, State.respondAt]
@[simp] theorem State.respond_shf (s : State) (vc : Nat) (tag : Word) (se : Nat) (st : Status) (h q : Nat) (d : List Byte) : (s.respond vc tag se st h q d).shf = s.shf := by simp [State.respond, State.respondAt]
@[simp] theorem State.respond_pol (s : State) (vc : Nat) (tag : Word) (se : Nat) (st : Status) (h q : Nat) (d : List Byte) : (s.respond vc tag se st h q d).pol = s.pol := by simp [State.respond, State.respondAt]
@[simp] theorem State.respond_tum (s : State) (vc : Nat) (tag : Word) (se : Nat) (st : Status) (h q : Nat) (d : List Byte) : (s.respond vc tag se st h q d).tum = s.tum := by simp [State.respond, State.respondAt]
@[simp] theorem State.respond_hbmStk (s : State) (vc : Nat) (tag : Word) (se : Nat) (st : Status) (h q : Nat) (d : List Byte) : (s.respond vc tag se st h q d).hbmStk = s.hbmStk := by simp [State.respond, State.respondAt]
@[simp] theorem State.respond_latch (s : State) (vc : Nat) (tag : Word) (se : Nat) (st : Status) (h q : Nat) (d : List Byte) : (s.respond vc tag se st h q d).latch = s.latch := by simp [State.respond, State.respondAt]
@[simp] theorem State.respond_latchRet (s : State) (vc : Nat) (tag : Word) (se : Nat) (st : Status) (h q : Nat) (d : List Byte) : (s.respond vc tag se st h q d).latchRet = s.latchRet := by simp [State.respond, State.respondAt]
@[simp] theorem State.respond_rcRet (s : State) (vc : Nat) (tag : Word) (se : Nat) (st : Status) (h q : Nat) (d : List Byte) : (s.respond vc tag se st h q d).rcRet = s.rcRet := by simp [State.respond, State.respondAt]
@[simp] theorem State.respond_arb (s : State) (vc : Nat) (tag : Word) (se : Nat) (st : Status) (h q : Nat) (d : List Byte) : (s.respond vc tag se st h q d).arb = s.arb := by simp [State.respond, State.respondAt]
@[simp] theorem State.respond_desc (s : State) (vc : Nat) (tag : Word) (se : Nat) (st : Status) (h q : Nat) (d : List Byte) : (s.respond vc tag se st h q d).desc = s.desc := by simp [State.respond, State.respondAt]
@[simp] theorem State.respond_allocs (s : State) (vc : Nat) (tag : Word) (se : Nat) (st : Status) (h q : Nat) (d : List Byte) : (s.respond vc tag se st h q d).allocs = s.allocs := by simp [State.respond, State.respondAt]
@[simp] theorem State.respond_allocNext (s : State) (vc : Nat) (tag : Word) (se : Nat) (st : Status) (h q : Nat) (d : List Byte) : (s.respond vc tag se st h q d).allocNext = s.allocNext := by simp [State.respond, State.respondAt]
@[simp] theorem State.respond_hbm (s : State) (vc : Nat) (tag : Word) (se : Nat) (st : Status) (h q : Nat) (d : List Byte) : (s.respond vc tag se st h q d).hbm = s.hbm := by simp [State.respond, State.respondAt]
@[simp] theorem State.respond_shelf (s : State) (vc : Nat) (tag : Word) (se : Nat) (st : Status) (h q : Nat) (d : List Byte) : (s.respond vc tag se st h q d).shelf = s.shelf := by simp [State.respond, State.respondAt]
@[simp] theorem State.respond_flash (s : State) (vc : Nat) (tag : Word) (se : Nat) (st : Status) (h q : Nat) (d : List Byte) : (s.respond vc tag se st h q d).flash = s.flash := by simp [State.respond, State.respondAt]
@[simp] theorem State.respond_writes (s : State) (vc : Nat) (tag : Word) (se : Nat) (st : Status) (h q : Nat) (d : List Byte) : (s.respond vc tag se st h q d).writes = s.writes := by simp [State.respond, State.respondAt]
@[simp] theorem State.respond_nextWrite (s : State) (vc : Nat) (tag : Word) (se : Nat) (st : Status) (h q : Nat) (d : List Byte) : (s.respond vc tag se st h q d).nextWrite = s.nextWrite := by simp [State.respond, State.respondAt]
@[simp] theorem State.respond_side (s : State) (vc : Nat) (tag : Word) (se : Nat) (st : Status) (h q : Nat) (d : List Byte) : (s.respond vc tag se st h q d).side = s.side := by simp [State.respond, State.respondAt]
@[simp] theorem State.respond_stat (s : State) (vc : Nat) (tag : Word) (se : Nat) (st : Status) (h q : Nat) (d : List Byte) : (s.respond vc tag se st h q d).stat = s.stat := by simp [State.respond, State.respondAt]
@[simp] theorem State.respond_freeCtr (s : State) (vc : Nat) (tag : Word) (se : Nat) (st : Status) (h q : Nat) (d : List Byte) : (s.respond vc tag se st h q d).freeCtr = s.freeCtr := by simp [State.respond, State.respondAt]

/-! `State.notice` -/

@[simp] theorem State.notice_pending (s : State) (opc : Nat) (d : List Byte) : (s.notice opc d).pending = s.pending := by simp [State.notice]
@[simp] theorem State.notice_mgt (s : State) (opc : Nat) (d : List Byte) : (s.notice opc d).mgt = s.mgt := by simp [State.notice]
@[simp] theorem State.notice_pwr (s : State) (opc : Nat) (d : List Byte) : (s.notice opc d).pwr = s.pwr := by simp [State.notice]
@[simp] theorem State.notice_ras (s : State) (opc : Nat) (d : List Byte) : (s.notice opc d).ras = s.ras := by simp [State.notice]
@[simp] theorem State.notice_sec (s : State) (opc : Nat) (d : List Byte) : (s.notice opc d).sec = s.sec := by simp [State.notice]
@[simp] theorem State.notice_hng (s : State) (opc : Nat) (d : List Byte) : (s.notice opc d).hng = s.hng := by simp [State.notice]
@[simp] theorem State.notice_fab (s : State) (opc : Nat) (d : List Byte) : (s.notice opc d).fab = s.fab := by simp [State.notice]
@[simp] theorem State.notice_prt (s : State) (opc : Nat) (d : List Byte) : (s.notice opc d).prt = s.prt := by simp [State.notice]
@[simp] theorem State.notice_cab (s : State) (opc : Nat) (d : List Byte) : (s.notice opc d).cab = s.cab := by simp [State.notice]
@[simp] theorem State.notice_shf (s : State) (opc : Nat) (d : List Byte) : (s.notice opc d).shf = s.shf := by simp [State.notice]
@[simp] theorem State.notice_pol (s : State) (opc : Nat) (d : List Byte) : (s.notice opc d).pol = s.pol := by simp [State.notice]
@[simp] theorem State.notice_tum (s : State) (opc : Nat) (d : List Byte) : (s.notice opc d).tum = s.tum := by simp [State.notice]
@[simp] theorem State.notice_hbmStk (s : State) (opc : Nat) (d : List Byte) : (s.notice opc d).hbmStk = s.hbmStk := by simp [State.notice]
@[simp] theorem State.notice_latch (s : State) (opc : Nat) (d : List Byte) : (s.notice opc d).latch = s.latch := by simp [State.notice]
@[simp] theorem State.notice_latchRet (s : State) (opc : Nat) (d : List Byte) : (s.notice opc d).latchRet = s.latchRet := by simp [State.notice]
@[simp] theorem State.notice_rcRet (s : State) (opc : Nat) (d : List Byte) : (s.notice opc d).rcRet = s.rcRet := by simp [State.notice]
@[simp] theorem State.notice_arb (s : State) (opc : Nat) (d : List Byte) : (s.notice opc d).arb = s.arb := by simp [State.notice]
@[simp] theorem State.notice_desc (s : State) (opc : Nat) (d : List Byte) : (s.notice opc d).desc = s.desc := by simp [State.notice]
@[simp] theorem State.notice_allocs (s : State) (opc : Nat) (d : List Byte) : (s.notice opc d).allocs = s.allocs := by simp [State.notice]
@[simp] theorem State.notice_allocNext (s : State) (opc : Nat) (d : List Byte) : (s.notice opc d).allocNext = s.allocNext := by simp [State.notice]
@[simp] theorem State.notice_hbm (s : State) (opc : Nat) (d : List Byte) : (s.notice opc d).hbm = s.hbm := by simp [State.notice]
@[simp] theorem State.notice_shelf (s : State) (opc : Nat) (d : List Byte) : (s.notice opc d).shelf = s.shelf := by simp [State.notice]
@[simp] theorem State.notice_flash (s : State) (opc : Nat) (d : List Byte) : (s.notice opc d).flash = s.flash := by simp [State.notice]
@[simp] theorem State.notice_writes (s : State) (opc : Nat) (d : List Byte) : (s.notice opc d).writes = s.writes := by simp [State.notice]
@[simp] theorem State.notice_nextWrite (s : State) (opc : Nat) (d : List Byte) : (s.notice opc d).nextWrite = s.nextWrite := by simp [State.notice]
@[simp] theorem State.notice_side (s : State) (opc : Nat) (d : List Byte) : (s.notice opc d).side = s.side := by simp [State.notice]
@[simp] theorem State.notice_stat (s : State) (opc : Nat) (d : List Byte) : (s.notice opc d).stat = s.stat := by simp [State.notice]
@[simp] theorem State.notice_freeCtr (s : State) (opc : Nat) (d : List Byte) : (s.notice opc d).freeCtr = s.freeCtr := by simp [State.notice]

/-! `State.hint` -/

@[simp] theorem State.hint_pending (s : State) (lo : Nat) : (s.hint lo).2.pending = s.pending := by simp [State.hint]
@[simp] theorem State.hint_mgt (s : State) (lo : Nat) : (s.hint lo).2.mgt = s.mgt := by simp [State.hint]
@[simp] theorem State.hint_pwr (s : State) (lo : Nat) : (s.hint lo).2.pwr = s.pwr := by simp [State.hint]
@[simp] theorem State.hint_ras (s : State) (lo : Nat) : (s.hint lo).2.ras = s.ras := by simp [State.hint]
@[simp] theorem State.hint_sec (s : State) (lo : Nat) : (s.hint lo).2.sec = s.sec := by simp [State.hint]
@[simp] theorem State.hint_lnk (s : State) (lo : Nat) : (s.hint lo).2.lnk = s.lnk := by simp [State.hint]
@[simp] theorem State.hint_hng (s : State) (lo : Nat) : (s.hint lo).2.hng = s.hng := by simp [State.hint]
@[simp] theorem State.hint_fab (s : State) (lo : Nat) : (s.hint lo).2.fab = s.fab := by simp [State.hint]
@[simp] theorem State.hint_prt (s : State) (lo : Nat) : (s.hint lo).2.prt = s.prt := by simp [State.hint]
@[simp] theorem State.hint_cab (s : State) (lo : Nat) : (s.hint lo).2.cab = s.cab := by simp [State.hint]
@[simp] theorem State.hint_shf (s : State) (lo : Nat) : (s.hint lo).2.shf = s.shf := by simp [State.hint]
@[simp] theorem State.hint_pol (s : State) (lo : Nat) : (s.hint lo).2.pol = s.pol := by simp [State.hint]
@[simp] theorem State.hint_tum (s : State) (lo : Nat) : (s.hint lo).2.tum = s.tum := by simp [State.hint]
@[simp] theorem State.hint_hbmStk (s : State) (lo : Nat) : (s.hint lo).2.hbmStk = s.hbmStk := by simp [State.hint]
@[simp] theorem State.hint_latch (s : State) (lo : Nat) : (s.hint lo).2.latch = s.latch := by simp [State.hint]
@[simp] theorem State.hint_latchRet (s : State) (lo : Nat) : (s.hint lo).2.latchRet = s.latchRet := by simp [State.hint]
@[simp] theorem State.hint_rcRet (s : State) (lo : Nat) : (s.hint lo).2.rcRet = s.rcRet := by simp [State.hint]
@[simp] theorem State.hint_arb (s : State) (lo : Nat) : (s.hint lo).2.arb = s.arb := by simp [State.hint]
@[simp] theorem State.hint_desc (s : State) (lo : Nat) : (s.hint lo).2.desc = s.desc := by simp [State.hint]
@[simp] theorem State.hint_allocs (s : State) (lo : Nat) : (s.hint lo).2.allocs = s.allocs := by simp [State.hint]
@[simp] theorem State.hint_allocNext (s : State) (lo : Nat) : (s.hint lo).2.allocNext = s.allocNext := by simp [State.hint]
@[simp] theorem State.hint_hbm (s : State) (lo : Nat) : (s.hint lo).2.hbm = s.hbm := by simp [State.hint]
@[simp] theorem State.hint_shelf (s : State) (lo : Nat) : (s.hint lo).2.shelf = s.shelf := by simp [State.hint]
@[simp] theorem State.hint_flash (s : State) (lo : Nat) : (s.hint lo).2.flash = s.flash := by simp [State.hint]
@[simp] theorem State.hint_writes (s : State) (lo : Nat) : (s.hint lo).2.writes = s.writes := by simp [State.hint]
@[simp] theorem State.hint_nextWrite (s : State) (lo : Nat) : (s.hint lo).2.nextWrite = s.nextWrite := by simp [State.hint]
@[simp] theorem State.hint_side (s : State) (lo : Nat) : (s.hint lo).2.side = s.side := by simp [State.hint]
@[simp] theorem State.hint_stat (s : State) (lo : Nat) : (s.hint lo).2.stat = s.stat := by simp [State.hint]
@[simp] theorem State.hint_freeCtr (s : State) (lo : Nat) : (s.hint lo).2.freeCtr = s.freeCtr + 1 := by simp [State.hint]

/-! `State.entered` -/

@[simp] theorem State.entered_pending (s : State) (row : CmdRow) (u : Bool) (f : RclFrame) : (s.entered row u f).pending = s.pending := rfl
@[simp] theorem State.entered_mgt (s : State) (row : CmdRow) (u : Bool) (f : RclFrame) : (s.entered row u f).mgt = s.mgt := rfl
@[simp] theorem State.entered_pwr (s : State) (row : CmdRow) (u : Bool) (f : RclFrame) : (s.entered row u f).pwr = s.pwr := rfl
@[simp] theorem State.entered_ras (s : State) (row : CmdRow) (u : Bool) (f : RclFrame) : (s.entered row u f).ras = s.ras := rfl
@[simp] theorem State.entered_sec (s : State) (row : CmdRow) (u : Bool) (f : RclFrame) : (s.entered row u f).sec = s.sec := rfl
@[simp] theorem State.entered_hng (s : State) (row : CmdRow) (u : Bool) (f : RclFrame) : (s.entered row u f).hng = s.hng := rfl
@[simp] theorem State.entered_fab (s : State) (row : CmdRow) (u : Bool) (f : RclFrame) : (s.entered row u f).fab = s.fab := rfl
@[simp] theorem State.entered_prt (s : State) (row : CmdRow) (u : Bool) (f : RclFrame) : (s.entered row u f).prt = s.prt := rfl
@[simp] theorem State.entered_cab (s : State) (row : CmdRow) (u : Bool) (f : RclFrame) : (s.entered row u f).cab = s.cab := rfl
@[simp] theorem State.entered_shf (s : State) (row : CmdRow) (u : Bool) (f : RclFrame) : (s.entered row u f).shf = s.shf := rfl
@[simp] theorem State.entered_pol (s : State) (row : CmdRow) (u : Bool) (f : RclFrame) : (s.entered row u f).pol = s.pol := rfl
@[simp] theorem State.entered_tum (s : State) (row : CmdRow) (u : Bool) (f : RclFrame) : (s.entered row u f).tum = s.tum := rfl
@[simp] theorem State.entered_hbmStk (s : State) (row : CmdRow) (u : Bool) (f : RclFrame) : (s.entered row u f).hbmStk = s.hbmStk := rfl
@[simp] theorem State.entered_latch (s : State) (row : CmdRow) (u : Bool) (f : RclFrame) : (s.entered row u f).latch = s.latch := rfl
@[simp] theorem State.entered_latchRet (s : State) (row : CmdRow) (u : Bool) (f : RclFrame) : (s.entered row u f).latchRet = s.latchRet := rfl
@[simp] theorem State.entered_rcRet (s : State) (row : CmdRow) (u : Bool) (f : RclFrame) : (s.entered row u f).rcRet = s.rcRet := rfl
@[simp] theorem State.entered_arb (s : State) (row : CmdRow) (u : Bool) (f : RclFrame) : (s.entered row u f).arb = s.arb := rfl
@[simp] theorem State.entered_desc (s : State) (row : CmdRow) (u : Bool) (f : RclFrame) : (s.entered row u f).desc = s.desc := rfl
@[simp] theorem State.entered_allocs (s : State) (row : CmdRow) (u : Bool) (f : RclFrame) : (s.entered row u f).allocs = s.allocs := rfl
@[simp] theorem State.entered_allocNext (s : State) (row : CmdRow) (u : Bool) (f : RclFrame) : (s.entered row u f).allocNext = s.allocNext := rfl
@[simp] theorem State.entered_hbm (s : State) (row : CmdRow) (u : Bool) (f : RclFrame) : (s.entered row u f).hbm = s.hbm := rfl
@[simp] theorem State.entered_shelf (s : State) (row : CmdRow) (u : Bool) (f : RclFrame) : (s.entered row u f).shelf = s.shelf := rfl
@[simp] theorem State.entered_flash (s : State) (row : CmdRow) (u : Bool) (f : RclFrame) : (s.entered row u f).flash = s.flash := rfl
@[simp] theorem State.entered_writes (s : State) (row : CmdRow) (u : Bool) (f : RclFrame) : (s.entered row u f).writes = s.writes := rfl
@[simp] theorem State.entered_nextWrite (s : State) (row : CmdRow) (u : Bool) (f : RclFrame) : (s.entered row u f).nextWrite = s.nextWrite := rfl
@[simp] theorem State.entered_side (s : State) (row : CmdRow) (u : Bool) (f : RclFrame) : (s.entered row u f).side = s.side := rfl
@[simp] theorem State.entered_stat (s : State) (row : CmdRow) (u : Bool) (f : RclFrame) : (s.entered row u f).stat = s.stat := rfl
@[simp] theorem State.entered_freeCtr (s : State) (row : CmdRow) (u : Bool) (f : RclFrame) : (s.entered row u f).freeCtr = s.freeCtr := rfl

/-! `State.putLong` -/

@[simp] theorem State.putLong_pending (s : State) (f : RclFrame) (c : Caller) (k : LongKind) : (s.putLong f c k).pending = s.pending := by simp [State.putLong]
@[simp] theorem State.putLong_mgt (s : State) (f : RclFrame) (c : Caller) (k : LongKind) : (s.putLong f c k).mgt = s.mgt := by simp [State.putLong]
@[simp] theorem State.putLong_pwr (s : State) (f : RclFrame) (c : Caller) (k : LongKind) : (s.putLong f c k).pwr = s.pwr := by simp [State.putLong]
@[simp] theorem State.putLong_ras (s : State) (f : RclFrame) (c : Caller) (k : LongKind) : (s.putLong f c k).ras = s.ras := by simp [State.putLong]
@[simp] theorem State.putLong_sec (s : State) (f : RclFrame) (c : Caller) (k : LongKind) : (s.putLong f c k).sec = s.sec := by simp [State.putLong]
@[simp] theorem State.putLong_hng (s : State) (f : RclFrame) (c : Caller) (k : LongKind) : (s.putLong f c k).hng = s.hng := by simp [State.putLong]
@[simp] theorem State.putLong_fab (s : State) (f : RclFrame) (c : Caller) (k : LongKind) : (s.putLong f c k).fab = s.fab := by simp [State.putLong]
@[simp] theorem State.putLong_prt (s : State) (f : RclFrame) (c : Caller) (k : LongKind) : (s.putLong f c k).prt = s.prt := by simp [State.putLong]
@[simp] theorem State.putLong_cab (s : State) (f : RclFrame) (c : Caller) (k : LongKind) : (s.putLong f c k).cab = s.cab := by simp [State.putLong]
@[simp] theorem State.putLong_shf (s : State) (f : RclFrame) (c : Caller) (k : LongKind) : (s.putLong f c k).shf = s.shf := by simp [State.putLong]
@[simp] theorem State.putLong_pol (s : State) (f : RclFrame) (c : Caller) (k : LongKind) : (s.putLong f c k).pol = s.pol := by simp [State.putLong]
@[simp] theorem State.putLong_tum (s : State) (f : RclFrame) (c : Caller) (k : LongKind) : (s.putLong f c k).tum = s.tum := by simp [State.putLong]
@[simp] theorem State.putLong_hbmStk (s : State) (f : RclFrame) (c : Caller) (k : LongKind) : (s.putLong f c k).hbmStk = s.hbmStk := by simp [State.putLong]
@[simp] theorem State.putLong_latch (s : State) (f : RclFrame) (c : Caller) (k : LongKind) : (s.putLong f c k).latch = s.latch := by simp [State.putLong]
@[simp] theorem State.putLong_latchRet (s : State) (f : RclFrame) (c : Caller) (k : LongKind) : (s.putLong f c k).latchRet = s.latchRet := by simp [State.putLong]
@[simp] theorem State.putLong_rcRet (s : State) (f : RclFrame) (c : Caller) (k : LongKind) : (s.putLong f c k).rcRet = s.rcRet := by simp [State.putLong]
@[simp] theorem State.putLong_arb (s : State) (f : RclFrame) (c : Caller) (k : LongKind) : (s.putLong f c k).arb = s.arb := by simp [State.putLong]
@[simp] theorem State.putLong_desc (s : State) (f : RclFrame) (c : Caller) (k : LongKind) : (s.putLong f c k).desc = s.desc := by simp [State.putLong]
@[simp] theorem State.putLong_allocs (s : State) (f : RclFrame) (c : Caller) (k : LongKind) : (s.putLong f c k).allocs = s.allocs := by simp [State.putLong]
@[simp] theorem State.putLong_allocNext (s : State) (f : RclFrame) (c : Caller) (k : LongKind) : (s.putLong f c k).allocNext = s.allocNext := by simp [State.putLong]
@[simp] theorem State.putLong_hbm (s : State) (f : RclFrame) (c : Caller) (k : LongKind) : (s.putLong f c k).hbm = s.hbm := by simp [State.putLong]
@[simp] theorem State.putLong_shelf (s : State) (f : RclFrame) (c : Caller) (k : LongKind) : (s.putLong f c k).shelf = s.shelf := by simp [State.putLong]
@[simp] theorem State.putLong_flash (s : State) (f : RclFrame) (c : Caller) (k : LongKind) : (s.putLong f c k).flash = s.flash := by simp [State.putLong]
@[simp] theorem State.putLong_writes (s : State) (f : RclFrame) (c : Caller) (k : LongKind) : (s.putLong f c k).writes = s.writes := by simp [State.putLong]
@[simp] theorem State.putLong_nextWrite (s : State) (f : RclFrame) (c : Caller) (k : LongKind) : (s.putLong f c k).nextWrite = s.nextWrite := by simp [State.putLong]
@[simp] theorem State.putLong_side (s : State) (f : RclFrame) (c : Caller) (k : LongKind) : (s.putLong f c k).side = s.side := by simp [State.putLong]
@[simp] theorem State.putLong_stat (s : State) (f : RclFrame) (c : Caller) (k : LongKind) : (s.putLong f c k).stat = s.stat := by simp [State.putLong]
@[simp] theorem State.putLong_freeCtr (s : State) (f : RclFrame) (c : Caller) (k : LongKind) : (s.putLong f c k).freeCtr = s.freeCtr := by simp [State.putLong]

/-! `State.setDue` -/

@[simp] theorem State.setDue_pending (s : State) (k t : Nat) : (s.setDue k t).pending = s.pending := rfl
@[simp] theorem State.setDue_pwr (s : State) (k t : Nat) : (s.setDue k t).pwr = s.pwr := rfl
@[simp] theorem State.setDue_ras (s : State) (k t : Nat) : (s.setDue k t).ras = s.ras := rfl
@[simp] theorem State.setDue_sec (s : State) (k t : Nat) : (s.setDue k t).sec = s.sec := rfl
@[simp] theorem State.setDue_lnk (s : State) (k t : Nat) : (s.setDue k t).lnk = s.lnk := rfl
@[simp] theorem State.setDue_hng (s : State) (k t : Nat) : (s.setDue k t).hng = s.hng := rfl
@[simp] theorem State.setDue_fab (s : State) (k t : Nat) : (s.setDue k t).fab = s.fab := rfl
@[simp] theorem State.setDue_prt (s : State) (k t : Nat) : (s.setDue k t).prt = s.prt := rfl
@[simp] theorem State.setDue_cab (s : State) (k t : Nat) : (s.setDue k t).cab = s.cab := rfl
@[simp] theorem State.setDue_shf (s : State) (k t : Nat) : (s.setDue k t).shf = s.shf := rfl
@[simp] theorem State.setDue_pol (s : State) (k t : Nat) : (s.setDue k t).pol = s.pol := rfl
@[simp] theorem State.setDue_tum (s : State) (k t : Nat) : (s.setDue k t).tum = s.tum := rfl
@[simp] theorem State.setDue_hbmStk (s : State) (k t : Nat) : (s.setDue k t).hbmStk = s.hbmStk := rfl
@[simp] theorem State.setDue_latch (s : State) (k t : Nat) : (s.setDue k t).latch = s.latch := rfl
@[simp] theorem State.setDue_latchRet (s : State) (k t : Nat) : (s.setDue k t).latchRet = s.latchRet := rfl
@[simp] theorem State.setDue_rcRet (s : State) (k t : Nat) : (s.setDue k t).rcRet = s.rcRet := rfl
@[simp] theorem State.setDue_arb (s : State) (k t : Nat) : (s.setDue k t).arb = s.arb := rfl
@[simp] theorem State.setDue_desc (s : State) (k t : Nat) : (s.setDue k t).desc = s.desc := rfl
@[simp] theorem State.setDue_allocs (s : State) (k t : Nat) : (s.setDue k t).allocs = s.allocs := rfl
@[simp] theorem State.setDue_allocNext (s : State) (k t : Nat) : (s.setDue k t).allocNext = s.allocNext := rfl
@[simp] theorem State.setDue_hbm (s : State) (k t : Nat) : (s.setDue k t).hbm = s.hbm := rfl
@[simp] theorem State.setDue_shelf (s : State) (k t : Nat) : (s.setDue k t).shelf = s.shelf := rfl
@[simp] theorem State.setDue_flash (s : State) (k t : Nat) : (s.setDue k t).flash = s.flash := rfl
@[simp] theorem State.setDue_writes (s : State) (k t : Nat) : (s.setDue k t).writes = s.writes := rfl
@[simp] theorem State.setDue_nextWrite (s : State) (k t : Nat) : (s.setDue k t).nextWrite = s.nextWrite := rfl
@[simp] theorem State.setDue_side (s : State) (k t : Nat) : (s.setDue k t).side = s.side := rfl
@[simp] theorem State.setDue_stat (s : State) (k t : Nat) : (s.setDue k t).stat = s.stat := rfl
@[simp] theorem State.setDue_freeCtr (s : State) (k t : Nat) : (s.setDue k t).freeCtr = s.freeCtr := rfl

@[simp] theorem State.setDue_mgt (s : State) (k t : Nat) : (s.setDue k t).mgt = { s.mgt with dueAt := SMap.set 0 s.mgt.dueAt k t } := rfl

/-! `State.markUse` -/

@[simp] theorem State.markUse_pending (s : State) : (s.markUse).pending = s.pending := rfl
@[simp] theorem State.markUse_mgt (s : State) : (s.markUse).mgt = s.mgt := rfl
@[simp] theorem State.markUse_ras (s : State) : (s.markUse).ras = s.ras := rfl
@[simp] theorem State.markUse_sec (s : State) : (s.markUse).sec = s.sec := rfl
@[simp] theorem State.markUse_lnk (s : State) : (s.markUse).lnk = s.lnk := rfl
@[simp] theorem State.markUse_hng (s : State) : (s.markUse).hng = s.hng := rfl
@[simp] theorem State.markUse_fab (s : State) : (s.markUse).fab = s.fab := rfl
@[simp] theorem State.markUse_prt (s : State) : (s.markUse).prt = s.prt := rfl
@[simp] theorem State.markUse_cab (s : State) : (s.markUse).cab = s.cab := rfl
@[simp] theorem State.markUse_shf (s : State) : (s.markUse).shf = s.shf := rfl
@[simp] theorem State.markUse_pol (s : State) : (s.markUse).pol = s.pol := rfl
@[simp] theorem State.markUse_tum (s : State) : (s.markUse).tum = s.tum := rfl
@[simp] theorem State.markUse_hbmStk (s : State) : (s.markUse).hbmStk = s.hbmStk := rfl
@[simp] theorem State.markUse_latch (s : State) : (s.markUse).latch = s.latch := rfl
@[simp] theorem State.markUse_latchRet (s : State) : (s.markUse).latchRet = s.latchRet := rfl
@[simp] theorem State.markUse_rcRet (s : State) : (s.markUse).rcRet = s.rcRet := rfl
@[simp] theorem State.markUse_arb (s : State) : (s.markUse).arb = s.arb := rfl
@[simp] theorem State.markUse_desc (s : State) : (s.markUse).desc = s.desc := rfl
@[simp] theorem State.markUse_allocs (s : State) : (s.markUse).allocs = s.allocs := rfl
@[simp] theorem State.markUse_allocNext (s : State) : (s.markUse).allocNext = s.allocNext := rfl
@[simp] theorem State.markUse_hbm (s : State) : (s.markUse).hbm = s.hbm := rfl
@[simp] theorem State.markUse_shelf (s : State) : (s.markUse).shelf = s.shelf := rfl
@[simp] theorem State.markUse_flash (s : State) : (s.markUse).flash = s.flash := rfl
@[simp] theorem State.markUse_writes (s : State) : (s.markUse).writes = s.writes := rfl
@[simp] theorem State.markUse_nextWrite (s : State) : (s.markUse).nextWrite = s.nextWrite := rfl
@[simp] theorem State.markUse_side (s : State) : (s.markUse).side = s.side := rfl
@[simp] theorem State.markUse_stat (s : State) : (s.markUse).stat = s.stat := rfl
@[simp] theorem State.markUse_freeCtr (s : State) : (s.markUse).freeCtr = s.freeCtr := rfl

end Sys2Proof.Machine
end

