-- ==== Sys2Proof/Laws/Memory.lean ====
section
/-! SUPPORT. The canonical form of the sparse tables and of the memories: every operation on a memory keeps it, and the shared
operations that write a memory keep it in the state. -/

namespace Sys2Proof.Machine

open Sys2Proof

/-- The canonical form as a property: indices rise strictly and no entry is the default. -/
theorem SMap.wf_iff {α : Type} [DecidableEq α] (d : α) (m : SMap α) :
    SMap.wf d m = true ↔ (m.Pairwise fun a b => a.1 < b.1) ∧ ∀ e ∈ m, e.2 ≠ d := by
  induction m with
  | nil => simp [SMap.wf]
  | cons a m ih =>
    cases m with
    | nil => simp [SMap.wf]
    | cons b m =>
      rw [SMap.wf, Bool.and_eq_true, Bool.and_eq_true, decide_eq_true_eq, decide_eq_true_eq, ih]
      constructor
      · rintro ⟨⟨ha, hab⟩, hp, hd⟩
        refine ⟨List.pairwise_cons.2 ⟨?_, hp⟩, ?_⟩
        · intro e he
          rcases List.mem_cons.1 he with rfl | he
          · exact hab
          · exact lt_trans hab ((List.pairwise_cons.1 hp).1 e he)
        · intro e he
          rcases List.mem_cons.1 he with rfl | he
          · exact ha
          · exact hd e he
      · rintro ⟨hp, hd⟩
        have hp' := List.pairwise_cons.1 hp
        exact ⟨⟨hd a (by simp), hp'.1 b (by simp)⟩, hp'.2, fun e he => hd e (List.mem_cons_of_mem _ he)⟩

theorem SMap.wf_nil {α : Type} [DecidableEq α] (d : α) : SMap.wf d ([] : SMap α) = true := rfl

/-- Leaving entries out keeps the form. -/
theorem SMap.wf_sublist {α : Type} [DecidableEq α] {d : α} {m n : SMap α} (h : SMap.wf d n = true) (hs : m.Sublist n) :
    SMap.wf d m = true := by
  rw [SMap.wf_iff] at h ⊢
  exact ⟨h.1.sublist hs, fun e he => h.2 e (hs.subset he)⟩

theorem SMap.erase_sublist {α : Type} (m : SMap α) (i : Nat) : (m.erase i).Sublist m := by
  induction m with
  | nil => exact List.Sublist.refl _
  | cons a m ih =>
    unfold SMap.erase
    split
    · exact List.sublist_cons_self _ _
    · exact ih.cons_cons _

theorem SMap.mem_insert {α : Type} {m : SMap α} {i : Nat} {v : α} {e : Nat × α} (h : e ∈ m.insert i v) : e = (i, v) ∨ e ∈ m := by
  induction m with
  | nil => simpa [SMap.insert] using h
  | cons a m ih =>
    unfold SMap.insert at h
    split at h
    · simpa using h
    · split at h
      · rcases List.mem_cons.1 h with h | h
        · exact .inl h
        · exact .inr (List.mem_cons_of_mem _ h)
      · rcases List.mem_cons.1 h with h | h
        · exact .inr (h ▸ List.mem_cons_self ..)
        · exact (ih h).imp_right (List.mem_cons_of_mem _)

theorem SMap.pairwise_insert {α : Type} {m : SMap α} (i : Nat) (v : α) (h : m.Pairwise fun a b => a.1 < b.1) :
    (m.insert i v).Pairwise fun a b => a.1 < b.1 := by
  induction m with
  | nil => simp [SMap.insert]
  | cons a m ih =>
    have ha := List.pairwise_cons.1 h
    unfold SMap.insert
    split
    · rename_i hi
      refine List.pairwise_cons.2 ⟨fun e he => ?_, h⟩
      rcases List.mem_cons.1 he with rfl | he
      · exact hi
      · exact lt_trans hi (ha.1 e he)
    · split
      · rename_i hi
        exact List.pairwise_cons.2 ⟨fun e he => hi ▸ ha.1 e he, ha.2⟩
      · rename_i hn hi
        refine List.pairwise_cons.2 ⟨fun e he => ?_, ih ha.2⟩
        rcases SMap.mem_insert he with rfl | he
        · exact lt_of_le_of_ne (Nat.le_of_not_lt hn) (Ne.symm hi)
        · exact ha.1 e he

/-- Writing a table keeps its form. -/
theorem SMap.wf_set {α : Type} [DecidableEq α] {d : α} {m : SMap α} (i : Nat) (v : α) (h : SMap.wf d m = true) :
    SMap.wf d (SMap.set d m i v) = true := by
  unfold SMap.set
  split
  · exact SMap.wf_sublist h (SMap.erase_sublist m i)
  · rename_i hv
    rw [SMap.wf_iff] at h ⊢
    exact ⟨SMap.pairwise_insert i v h.1, fun e he => (SMap.mem_insert he).elim (fun he => he ▸ hv) (h.2 e)⟩

/-- Updating an entry keeps the form. -/
theorem SMap.wf_upd {α : Type} [DecidableEq α] {d : α} {m : SMap α} (i : Nat) (f : α → α) (h : SMap.wf d m = true) :
    SMap.wf d (SMap.upd d m i f) = true := SMap.wf_set i _ h

/-- Every memory operation keeps the canonical form: one byte, a run of bytes, bytes taken away. -/
theorem Memory.wf_write {m : Memory} (a : Nat) (b : Byte) (h : m.wf = true) : (m.write a b).wf = true := SMap.wf_set a b h

theorem Memory.wf_writeN {m : Memory} (a : Nat) (bs : List Byte) (h : m.wf = true) : (m.writeN a bs).wf = true := by
  induction bs generalizing m a with
  | nil => exact h
  | cons b bs ih => exact ih (a + 1) (Memory.wf_write a b h)

theorem Memory.wf_filter {m : Memory} (p : Host.Cell → Bool) (h : m.wf = true) : Memory.wf (m.filter p) = true :=
  SMap.wf_sublist h List.filter_sublist

theorem State.memWf_iff (s : State) : s.memWf = true ↔ Memory.wf s.hbm = true ∧ Memory.wf s.shelf = true ∧ Memory.wf s.flash = true := by
  simp [State.memWf, and_assoc]

/-- A state with the same memories has them in the same form. -/
theorem State.memWf_congr {s t : State} (h1 : t.hbm = s.hbm) (h2 : t.shelf = s.shelf) (h3 : t.flash = s.flash) : t.memWf = s.memWf := by
  simp [State.memWf, h1, h2, h3]

/-- Landing bytes keeps the form of the memories. -/
theorem State.land_memWf {s : State} (space addr : Nat) (bytes : List Byte) (h : s.memWf = true) : (s.land space addr bytes).memWf = true := by
  rw [State.memWf_iff] at h ⊢
  unfold State.land
  split
  · exact ⟨Memory.wf_writeN addr bytes h.1, h.2⟩
  · split
    · exact ⟨h.1, Memory.wf_writeN addr bytes h.2.1, h.2.2⟩
    · exact h

theorem State.land_flash (s : State) (space addr : Nat) (bytes : List Byte) : (s.land space addr bytes).flash = s.flash := by
  unfold State.land
  split
  · rfl
  · split <;> rfl

end Sys2Proof.Machine
end

