-- ==== Sys2Proof/WellFormed.lean ====
section
/-! DEFINITION. Which operands spell a command: numbers in the range of what they name, the lengths of a header and its
payload agreeing. A message that breaks the frame rules is itself a command (`MALFORMED_FRAME`, `RPP_FRAME_DISCARD`), so
nothing is asked of its operands. -/

namespace Sys2Proof

open Sys2Proof.Machine

/-- `LEN` is the payload of the first frame, and `LAST` says whether there are more (R457, R459). -/
def Machine.RclFrame.wf (f : RclFrame) : Bool :=
  f.w4.toNat % 2 ^ 13 == min f.data.length 4096 && (f.w0.toNat / 2 ^ 19 % 2 == 1) == decide (f.data.length ≤ 4096)

/-- The payload is at most 65,536 bytes (R339). -/
def Machine.RppMsg.wf (m : RppMsg) : Bool := decide (m.hdr.w6.toNat % 2 ^ 17 ≤ 65536)

/-- Cores are 0 to 5, partitions 0 to 31. -/
def Machine.Agent.wf : Agent → Bool
  | .core c => decide (c < 6)
  | .host => true
  | .context p => decide (p < 32)

/-- A row vector belongs to a partition and has its two header words. -/
def Machine.RowVec.wf (v : RowVec) : Bool := decide (v.rowPart < 32)

/-- Well-formed operands. -/
def Instr.wf (i : Instr) : Bool :=
  match i with
  | .hello f => f.wf
  | .spdm f => f.wf
  | .getVersion f => f.wf
  | .getCapabilities f => f.wf
  | .negotiateAlgorithms f => f.wf
  | .getDigests f => f.wf
  | .getCertificate f => f.wf
  | .challenge f => f.wf
  | .getMeasurements f => f.wf
  | .sessionOpen f _ => f.wf
  | .sessionClose f => f.wf
  | .lifecycle f _ => f.wf
  | .regRead f _ => f.wf
  | .regWrite f _ => f.wf
  | .latch f => f.wf
  | .nop ag n => ag.wf && decide (n < 32768)
  | .acq ag n => ag.wf && decide (n < 32768)
  | .rel ag n => ag.wf && decide (n < 32768)
  | .relFix ag n => ag.wf && decide (n < 32768)
  | .breakLatch ag n => ag.wf && decide (n < 32768)
  | .setDomain ag n d => ag.wf && decide (n < 32768) && decide (d < 64)
  | .logRead f => f.wf
  | .calRead f => f.wf
  | .wardJobs f => f.wf
  | .descCreate f => f.wf
  | .descDestroy f => f.wf
  | .alloc f => f.wf
  | .allocFree f => f.wf
  | .adapterAlloc f => f.wf
  | .rangeReq m => m.wf
  | .adapterFree f => f.wf
  | .adapterQuery f => f.wf
  | .adapterUpload f _ => f.wf
  | .commonSet f => f.wf
  | .commonSetClear f => f.wf
  | .pinList f => f.wf
  | .jobOpen f => f.wf
  | .jobClose f => f.wf
  | .jobKill f => f.wf
  | .jobQuery f => f.wf
  | .stepSubmit f => f.wf
  | .partSet f _ => f.wf
  | .rangeMove f => f.wf
  | .rangeMoveCancel f => f.wf
  | .rangeReclaim f => f.wf
  | .poolQuery f => f.wf
  | .powerDown f => f.wf
  | .powerDownStageEnd => true
  | .credit f => f.wf
  | .malformedFrame _ _ => true
  | .rows p => decide (p < 32)
  | .sort p => decide (p < 32)
  | .shrink p => decide (p < 32)
  | .expand p => decide (p < 32)
  | .shrinkExpand p => decide (p < 32)
  | .gradExpand p => decide (p < 32)
  | .gradShrink p => decide (p < 32)
  | .poolSum p => decide (p < 32)
  | .poolMean p => decide (p < 32)
  | .gradShip p => decide (p < 32)
  | .optStep p => decide (p < 32)
  | .quantPublish p => decide (p < 32)
  | .stat p => decide (p < 32)
  | .latchAcq p => decide (p < 32)
  | .latchWait p => decide (p < 32)
  | .latchRel p => decide (p < 32)
  | .fence p => decide (p < 32)
  | .copy p => decide (p < 32)
  | .endProg p => decide (p < 32)
  | .stepIssue p => decide (p < 32)
  | .reservation p => decide (p < 32)
  | .runStart p => decide (p < 32)
  | .unitStart p _ => decide (p < 32)
  | .unitComplete p _ => decide (p < 32)
  | .stagingStreamEnd p q => decide (p < 32) && decide (q < 4)
  | .writeAck _ => true
  | .responseEgress port => decide (port < 4)
  | .stepDone p => decide (p < 32)
  | .saveComplete p => decide (p < 32)
  | .rowVector port v => decide (port < 4) && v.wf
  | .l1Exit fabric n => decide (n < (if fabric then 8 else 4))
  | .linkInactive port => decide (port < 4)
  | .linkRetryLimit _ _ => true
  | .commandLinkRetrain => true
  | .hostReadData _ _ => true
  | .hostWriteCompletion _ => true
  | .hostTmo _ => true
  | .rppHello m => m.wf
  | .helloAck m => m.wf
  | .joinReq m => m.wf
  | .joinAck m => m.wf
  | .leave m => m.wf
  | .view m => m.wf
  | .viewAck m => m.wf
  | .viewPull m => m.wf
  | .phb m => m.wf
  | .redirect m => m.wf
  | .rangeGrant m => m.wf
  | .exportReq m => m.wf
  | .exportGrant m => m.wf
  | .noteReq m => m.wf
  | .noteRep m => m.wf
  | .fetchReq m => m.wf
  | .fetchData m => m.wf
  | .visitRows m => m.wf
  | .visitDelta m => m.wf
  | .gdReq m => m.wf
  | .gdGrant m => m.wf
  | .gdData m => m.wf
  | .gdCommit m => m.wf
  | .probe m => m.wf
  | .probeEcho m => m.wf
  | .slowRd m => m.wf
  | .slowData m => m.wf
  | .slowWr m => m.wf
  | .slowAck m => m.wf
  | .pubNotice m => m.wf
  | .invalidate m => m.wf
  | .evictNotice m => m.wf
  | .retireAck m => m.wf
  | .moveBegin m => m.wf
  | .moveData m => m.wf
  | .moveCommit m => m.wf
  | .moveAbort m => m.wf
  | .rppFrameDiscard _ _ => true
  | .tReqExpiry _ => true
  | .peerDead _ => true
  | .lease _ => true
  | .quarantineExpiry _ => true
  | .joinRetry => true
  | .gdHold _ _ => true
  | .phbPeriod => true
  | .calPeriod => true
  | .probePeriod _ => true
  | .pinPeriod => true
  | .visitWin => true
  | .demotion p => decide (p < 32)
  | .commitCandidate => true
  | .commitPoint => true
  | .vecWait p _ => decide (p < 32)
  | .latWait p => decide (p < 32)
  | .ticketExpiry t => decide (t < 65536)
  | .heartbeat => true
  | .winCyclesDecay => true
  | .regulatorRefill p => decide (p < 32)
  | .governorPeriod _ => true
  | .vSettle => true
  | .sensorSample _ _ => true
  | .idleHold d => decide (d < 96)
  | .wakeAdmit => true
  | .wakeComplete d => decide (d < 96)
  | .pdWait => true
  | .sramCorrected _ _ _ _ _ => true
  | .sramUncorrected _ _ _ _ _ _ => true
  | .hbmCorrected addr _ _ => decide (addr < 2 ^ 39)
  | .hbmUncorrected addr _ _ _ => decide (addr < 2 ^ 39)
  | .logicFault _ _ _ => true
  | .managementCoreFault c => decide (c < 6)
  | .securityCoreFault => true
  | .rstNAssert => true
  | .brownOut _ => true
  | .resetRelease straps => decide (straps < 4)
  | .componentVerified _ _ => true
  | .hbmTrainingDone trained => decide (trained < 256)
  | .wipeEnd _ => true
  | .i3cRead addr _ => decide (addr < 2 ^ 32)
  | .setdasa _ addr => decide (addr < 128)
  | .entdaa addr => decide (addr < 128)
  | .bypass => true
  | .idcode => true
  | .samplePreload _ => true
  | .extest _ => true
  | .pinRefresh => true
  | .calNow => true
  | .injArm v _ => decide (v < 2 ^ 32)
  | .faultPend v _ => decide (v < 2 ^ 32)
  | .writeLost _ v _ => decide (v < 2 ^ 32)
  | .hngBad port _ => decide (port < 4)
  | .lenMism port _ => decide (port < 4)
  | .registerWrite core _ v acc _ => decide (core < 6) && decide (v < (if acc = .word then 2 ^ 32 else 2 ^ 64))
  | .linkTrainingEnd _ _ _ _ => true
  | .bootStageEnd _ _ => true
  | .componentReadEnd => true
  | .issueHoldRelease => true

/-- The partitions that a command names as operands. -/
def Instr.partitions (i : Instr) : List Nat :=
  match i with
  | .hello _ => []
  | .spdm _ => []
  | .getVersion _ => []
  | .getCapabilities _ => []
  | .negotiateAlgorithms _ => []
  | .getDigests _ => []
  | .getCertificate _ => []
  | .challenge _ => []
  | .getMeasurements _ => []
  | .sessionOpen _ _ => []
  | .sessionClose _ => []
  | .lifecycle _ _ => []
  | .regRead _ _ => []
  | .regWrite _ _ => []
  | .latch _ => []
  | .nop _ _ => []
  | .acq _ _ => []
  | .rel _ _ => []
  | .relFix _ _ => []
  | .breakLatch _ _ => []
  | .setDomain _ _ _ => []
  | .logRead _ => []
  | .calRead _ => []
  | .wardJobs _ => []
  | .descCreate _ => []
  | .descDestroy _ => []
  | .alloc _ => []
  | .allocFree _ => []
  | .adapterAlloc _ => []
  | .rangeReq _ => []
  | .adapterFree _ => []
  | .adapterQuery _ => []
  | .adapterUpload _ _ => []
  | .commonSet _ => []
  | .commonSetClear _ => []
  | .pinList _ => []
  | .jobOpen _ => []
  | .jobClose _ => []
  | .jobKill _ => []
  | .jobQuery _ => []
  | .stepSubmit _ => []
  | .partSet _ _ => []
  | .rangeMove _ => []
  | .rangeMoveCancel _ => []
  | .rangeReclaim _ => []
  | .poolQuery _ => []
  | .powerDown _ => []
  | .powerDownStageEnd => []
  | .credit _ => []
  | .malformedFrame _ _ => []
  | .rows p => [p]
  | .sort p => [p]
  | .shrink p => [p]
  | .expand p => [p]
  | .shrinkExpand p => [p]
  | .gradExpand p => [p]
  | .gradShrink p => [p]
  | .poolSum p => [p]
  | .poolMean p => [p]
  | .gradShip p => [p]
  | .optStep p => [p]
  | .quantPublish p => [p]
  | .stat p => [p]
  | .latchAcq p => [p]
  | .latchWait p => [p]
  | .latchRel p => [p]
  | .fence p => [p]
  | .copy p => [p]
  | .endProg p => [p]
  | .stepIssue p => [p]
  | .reservation p => [p]
  | .runStart p => [p]
  | .unitStart p _ => [p]
  | .unitComplete p _ => [p]
  | .stagingStreamEnd p _ => [p]
  | .writeAck _ => []
  | .responseEgress _ => []
  | .stepDone p => [p]
  | .saveComplete p => [p]
  | .rowVector _ _ => []
  | .l1Exit _ _ => []
  | .linkInactive _ => []
  | .linkRetryLimit _ _ => []
  | .commandLinkRetrain => []
  | .hostReadData _ _ => []
  | .hostWriteCompletion _ => []
  | .hostTmo _ => []
  | .rppHello _ => []
  | .helloAck _ => []
  | .joinReq _ => []
  | .joinAck _ => []
  | .leave _ => []
  | .view _ => []
  | .viewAck _ => []
  | .viewPull _ => []
  | .phb _ => []
  | .redirect _ => []
  | .rangeGrant _ => []
  | .exportReq _ => []
  | .exportGrant _ => []
  | .noteReq _ => []
  | .noteRep _ => []
  | .fetchReq _ => []
  | .fetchData _ => []
  | .visitRows _ => []
  | .visitDelta _ => []
  | .gdReq _ => []
  | .gdGrant _ => []
  | .gdData _ => []
  | .gdCommit _ => []
  | .probe _ => []
  | .probeEcho _ => []
  | .slowRd _ => []
  | .slowData _ => []
  | .slowWr _ => []
  | .slowAck _ => []
  | .pubNotice _ => []
  | .invalidate _ => []
  | .evictNotice _ => []
  | .retireAck _ => []
  | .moveBegin _ => []
  | .moveData _ => []
  | .moveCommit _ => []
  | .moveAbort _ => []
  | .rppFrameDiscard _ _ => []
  | .tReqExpiry _ => []
  | .peerDead _ => []
  | .lease _ => []
  | .quarantineExpiry _ => []
  | .joinRetry => []
  | .gdHold _ _ => []
  | .phbPeriod => []
  | .calPeriod => []
  | .probePeriod _ => []
  | .pinPeriod => []
  | .visitWin => []
  | .demotion p => [p]
  | .commitCandidate => []
  | .commitPoint => []
  | .vecWait p _ => [p]
  | .latWait p => [p]
  | .ticketExpiry _ => []
  | .heartbeat => []
  | .winCyclesDecay => []
  | .regulatorRefill p => [p]
  | .governorPeriod _ => []
  | .vSettle => []
  | .sensorSample _ _ => []
  | .idleHold _ => []
  | .wakeAdmit => []
  | .wakeComplete _ => []
  | .pdWait => []
  | .sramCorrected _ _ _ _ _ => []
  | .sramUncorrected _ _ _ _ _ _ => []
  | .hbmCorrected _ _ _ => []
  | .hbmUncorrected _ _ _ _ => []
  | .logicFault _ _ _ => []
  | .managementCoreFault _ => []
  | .securityCoreFault => []
  | .rstNAssert => []
  | .brownOut _ => []
  | .resetRelease _ => []
  | .componentVerified _ _ => []
  | .hbmTrainingDone _ => []
  | .wipeEnd _ => []
  | .i3cRead _ _ => []
  | .setdasa _ _ => []
  | .entdaa _ => []
  | .bypass => []
  | .idcode => []
  | .samplePreload _ => []
  | .extest _ => []
  | .pinRefresh => []
  | .calNow => []
  | .injArm _ _ => []
  | .faultPend _ _ => []
  | .writeLost _ _ _ => []
  | .hngBad _ _ => []
  | .lenMism _ _ => []
  | .registerWrite _ _ _ _ _ => []
  | .linkTrainingEnd _ _ _ _ => []
  | .bootStageEnd _ _ => []
  | .componentReadEnd => []
  | .issueHoldRelease => []

end Sys2Proof
end

