-- ==== Sys2Proof/Laws/PerInstr.lean ====
section
/-! SUPPORT. For each command: a well-formed one names partitions 0 to 31 only. -/

namespace Sys2Proof.Laws.WellFormed

open Sys2Proof Sys2Proof.Machine

def Statement (i : Instr) : Prop := i.wf = true → ∀ p ∈ i.partitions, p < 32

/-- A command without a partition. -/
theorem empty : ∀ p ∈ ([] : List Nat), p < 32 := fun _ h => nomatch h

/-- A command with one partition and no other condition. -/
theorem one {p : Nat} (h : decide (p < 32) = true) : ∀ q ∈ [p], q < 32 := by
  intro q hq
  simp at hq
  simpa [hq] using h

/-- A command with one partition and other conditions. -/
theorem oneLeft {p : Nat} {b : Bool} (h : (decide (p < 32) && b) = true) : ∀ q ∈ [p], q < 32 :=
  one (Bool.and_elim_left h)

theorem hello (f : RclFrame) : Statement (.hello f) := fun _ => empty

theorem spdm (f : RclFrame) : Statement (.spdm f) := fun _ => empty

theorem getVersion (f : RclFrame) : Statement (.getVersion f) := fun _ => empty

theorem getCapabilities (f : RclFrame) : Statement (.getCapabilities f) := fun _ => empty

theorem negotiateAlgorithms (f : RclFrame) : Statement (.negotiateAlgorithms f) := fun _ => empty

theorem getDigests (f : RclFrame) : Statement (.getDigests f) := fun _ => empty

theorem getCertificate (f : RclFrame) : Statement (.getCertificate f) := fun _ => empty

theorem challenge (f : RclFrame) : Statement (.challenge f) := fun _ => empty

theorem getMeasurements (f : RclFrame) : Statement (.getMeasurements f) := fun _ => empty

theorem sessionOpen (f : RclFrame) (c : Crypto) : Statement (.sessionOpen f c) := fun _ => empty

theorem sessionClose (f : RclFrame) : Statement (.sessionClose f) := fun _ => empty

theorem lifecycle (f : RclFrame) (c : Crypto) : Statement (.lifecycle f c) := fun _ => empty

theorem regRead (f : RclFrame) (events : List Nat) : Statement (.regRead f events) := fun _ => empty

theorem regWrite (f : RclFrame) (hw : List HwUpdate) : Statement (.regWrite f hw) := fun _ => empty

theorem latch (f : RclFrame) : Statement (.latch f) := fun _ => empty

theorem nop (ag : Agent) (n : Nat) : Statement (.nop ag n) := fun _ => empty

theorem acq (ag : Agent) (n : Nat) : Statement (.acq ag n) := fun _ => empty

theorem rel (ag : Agent) (n : Nat) : Statement (.rel ag n) := fun _ => empty

theorem relFix (ag : Agent) (n : Nat) : Statement (.relFix ag n) := fun _ => empty

theorem breakLatch (ag : Agent) (n : Nat) : Statement (.breakLatch ag n) := fun _ => empty

theorem setDomain (ag : Agent) (n d : Nat) : Statement (.setDomain ag n d) := fun _ => empty

theorem logRead (f : RclFrame) : Statement (.logRead f) := fun _ => empty

theorem calRead (f : RclFrame) : Statement (.calRead f) := fun _ => empty

theorem wardJobs (f : RclFrame) : Statement (.wardJobs f) := fun _ => empty

theorem descCreate (f : RclFrame) : Statement (.descCreate f) := fun _ => empty

theorem descDestroy (f : RclFrame) : Statement (.descDestroy f) := fun _ => empty

theorem alloc (f : RclFrame) : Statement (.alloc f) := fun _ => empty

theorem allocFree (f : RclFrame) : Statement (.allocFree f) := fun _ => empty

theorem adapterAlloc (f : RclFrame) : Statement (.adapterAlloc f) := fun _ => empty

theorem rangeReq (m : RppMsg) : Statement (.rangeReq m) := fun _ => empty

theorem adapterFree (f : RclFrame) : Statement (.adapterFree f) := fun _ => empty

theorem adapterQuery (f : RclFrame) : Statement (.adapterQuery f) := fun _ => empty

theorem adapterUpload (f : RclFrame) (pl : Plain) : Statement (.adapterUpload f pl) := fun _ => empty

theorem commonSet (f : RclFrame) : Statement (.commonSet f) := fun _ => empty

theorem commonSetClear (f : RclFrame) : Statement (.commonSetClear f) := fun _ => empty

theorem pinList (f : RclFrame) : Statement (.pinList f) := fun _ => empty

theorem jobOpen (f : RclFrame) : Statement (.jobOpen f) := fun _ => empty

theorem jobClose (f : RclFrame) : Statement (.jobClose f) := fun _ => empty

theorem jobKill (f : RclFrame) : Statement (.jobKill f) := fun _ => empty

theorem jobQuery (f : RclFrame) : Statement (.jobQuery f) := fun _ => empty

theorem stepSubmit (f : RclFrame) : Statement (.stepSubmit f) := fun _ => empty

theorem partSet (f : RclFrame) (fenced : List Nat) : Statement (.partSet f fenced) := fun _ => empty

theorem rangeMove (f : RclFrame) : Statement (.rangeMove f) := fun _ => empty

theorem rangeMoveCancel (f : RclFrame) : Statement (.rangeMoveCancel f) := fun _ => empty

theorem rangeReclaim (f : RclFrame) : Statement (.rangeReclaim f) := fun _ => empty

theorem poolQuery (f : RclFrame) : Statement (.poolQuery f) := fun _ => empty

theorem powerDown (f : RclFrame) : Statement (.powerDown f) := fun _ => empty

theorem powerDownStageEnd : Statement (.powerDownStageEnd) := fun _ => empty

theorem credit (f : RclFrame) : Statement (.credit f) := fun _ => empty

theorem malformedFrame (f : RclFrame) (k : FrameFault) : Statement (.malformedFrame f k) := fun _ => empty

theorem rows (p : Nat) : Statement (.rows p) := fun h => one h

theorem sort (p : Nat) : Statement (.sort p) := fun h => one h

theorem shrink (p : Nat) : Statement (.shrink p) := fun h => one h

theorem expand (p : Nat) : Statement (.expand p) := fun h => one h

theorem shrinkExpand (p : Nat) : Statement (.shrinkExpand p) := fun h => one h

theorem gradExpand (p : Nat) : Statement (.gradExpand p) := fun h => one h

theorem gradShrink (p : Nat) : Statement (.gradShrink p) := fun h => one h

theorem poolSum (p : Nat) : Statement (.poolSum p) := fun h => one h

theorem poolMean (p : Nat) : Statement (.poolMean p) := fun h => one h

theorem gradShip (p : Nat) : Statement (.gradShip p) := fun h => one h

theorem optStep (p : Nat) : Statement (.optStep p) := fun h => one h

theorem quantPublish (p : Nat) : Statement (.quantPublish p) := fun h => one h

theorem stat (p : Nat) : Statement (.stat p) := fun h => one h

theorem latchAcq (p : Nat) : Statement (.latchAcq p) := fun h => one h

theorem latchWait (p : Nat) : Statement (.latchWait p) := fun h => one h

theorem latchRel (p : Nat) : Statement (.latchRel p) := fun h => one h

theorem fence (p : Nat) : Statement (.fence p) := fun h => one h

theorem copy (p : Nat) : Statement (.copy p) := fun h => one h

theorem endProg (p : Nat) : Statement (.endProg p) := fun h => one h

theorem stepIssue (p : Nat) : Statement (.stepIssue p) := fun h => one h

theorem reservation (p : Nat) : Statement (.reservation p) := fun h => one h

theorem runStart (p : Nat) : Statement (.runStart p) := fun h => one h

theorem unitStart (p u : Nat) : Statement (.unitStart p u) := fun h => one h

theorem unitComplete (p u : Nat) : Statement (.unitComplete p u) := fun h => one h

theorem stagingStreamEnd (p q : Nat) : Statement (.stagingStreamEnd p q) := fun h => oneLeft h

theorem writeAck (id : Nat) : Statement (.writeAck id) := fun _ => empty

theorem responseEgress (port : Nat) : Statement (.responseEgress port) := fun _ => empty

theorem stepDone (p : Nat) : Statement (.stepDone p) := fun h => one h

theorem saveComplete (p : Nat) : Statement (.saveComplete p) := fun h => one h

theorem rowVector (port : Nat) (v : RowVec) : Statement (.rowVector port v) := fun _ => empty

theorem l1Exit (fabric : Bool) (n : Nat) : Statement (.l1Exit fabric n) := fun _ => empty

theorem linkInactive (port : Nat) : Statement (.linkInactive port) := fun _ => empty

theorem linkRetryLimit (kind n : Nat) : Statement (.linkRetryLimit kind n) := fun _ => empty

theorem commandLinkRetrain : Statement (.commandLinkRetrain) := fun _ => empty

theorem hostReadData (xid : Nat) (bytes : List Byte) : Statement (.hostReadData xid bytes) := fun _ => empty

theorem hostWriteCompletion (xid : Nat) : Statement (.hostWriteCompletion xid) := fun _ => empty

theorem hostTmo (xid : Nat) : Statement (.hostTmo xid) := fun _ => empty

theorem rppHello (m : RppMsg) : Statement (.rppHello m) := fun _ => empty

theorem helloAck (m : RppMsg) : Statement (.helloAck m) := fun _ => empty

theorem joinReq (m : RppMsg) : Statement (.joinReq m) := fun _ => empty

theorem joinAck (m : RppMsg) : Statement (.joinAck m) := fun _ => empty

theorem leave (m : RppMsg) : Statement (.leave m) := fun _ => empty

theorem view (m : RppMsg) : Statement (.view m) := fun _ => empty

theorem viewAck (m : RppMsg) : Statement (.viewAck m) := fun _ => empty

theorem viewPull (m : RppMsg) : Statement (.viewPull m) := fun _ => empty

theorem phb (m : RppMsg) : Statement (.phb m) := fun _ => empty

theorem redirect (m : RppMsg) : Statement (.redirect m) := fun _ => empty

theorem rangeGrant (m : RppMsg) : Statement (.rangeGrant m) := fun _ => empty

theorem exportReq (m : RppMsg) : Statement (.exportReq m) := fun _ => empty

theorem exportGrant (m : RppMsg) : Statement (.exportGrant m) := fun _ => empty

theorem noteReq (m : RppMsg) : Statement (.noteReq m) := fun _ => empty

theorem noteRep (m : RppMsg) : Statement (.noteRep m) := fun _ => empty

theorem fetchReq (m : RppMsg) : Statement (.fetchReq m) := fun _ => empty

theorem fetchData (m : RppMsg) : Statement (.fetchData m) := fun _ => empty

theorem visitRows (m : RppMsg) : Statement (.visitRows m) := fun _ => empty

theorem visitDelta (m : RppMsg) : Statement (.visitDelta m) := fun _ => empty

theorem gdReq (m : RppMsg) : Statement (.gdReq m) := fun _ => empty

theorem gdGrant (m : RppMsg) : Statement (.gdGrant m) := fun _ => empty

theorem gdData (m : RppMsg) : Statement (.gdData m) := fun _ => empty

theorem gdCommit (m : RppMsg) : Statement (.gdCommit m) := fun _ => empty

theorem probe (m : RppMsg) : Statement (.probe m) := fun _ => empty

theorem probeEcho (m : RppMsg) : Statement (.probeEcho m) := fun _ => empty

theorem slowRd (m : RppMsg) : Statement (.slowRd m) := fun _ => empty

theorem slowData (m : RppMsg) : Statement (.slowData m) := fun _ => empty

theorem slowWr (m : RppMsg) : Statement (.slowWr m) := fun _ => empty

theorem slowAck (m : RppMsg) : Statement (.slowAck m) := fun _ => empty

theorem pubNotice (m : RppMsg) : Statement (.pubNotice m) := fun _ => empty

theorem invalidate (m : RppMsg) : Statement (.invalidate m) := fun _ => empty

theorem evictNotice (m : RppMsg) : Statement (.evictNotice m) := fun _ => empty

theorem retireAck (m : RppMsg) : Statement (.retireAck m) := fun _ => empty

theorem moveBegin (m : RppMsg) : Statement (.moveBegin m) := fun _ => empty

theorem moveData (m : RppMsg) : Statement (.moveData m) := fun _ => empty

theorem moveCommit (m : RppMsg) : Statement (.moveCommit m) := fun _ => empty

theorem moveAbort (m : RppMsg) : Statement (.moveAbort m) := fun _ => empty

theorem rppFrameDiscard (m : RppMsg) (tagOk : Bool) : Statement (.rppFrameDiscard m tagOk) := fun _ => empty

theorem tReqExpiry (r : Nat) : Statement (.tReqExpiry r) := fun _ => empty

theorem peerDead (inst : Nat) : Statement (.peerDead inst) := fun _ => empty

theorem lease (inst : Nat) : Statement (.lease inst) := fun _ => empty

theorem quarantineExpiry (inst : Nat) : Statement (.quarantineExpiry inst) := fun _ => empty

theorem joinRetry : Statement (.joinRetry) := fun _ => empty

theorem gdHold (aid slot : Nat) : Statement (.gdHold aid slot) := fun _ => empty

theorem phbPeriod : Statement (.phbPeriod) := fun _ => empty

theorem calPeriod : Statement (.calPeriod) := fun _ => empty

theorem probePeriod (grp : Nat) : Statement (.probePeriod grp) := fun _ => empty

theorem pinPeriod : Statement (.pinPeriod) := fun _ => empty

theorem visitWin : Statement (.visitWin) := fun _ => empty

theorem demotion (p : Nat) : Statement (.demotion p) := fun h => one h

theorem commitCandidate : Statement (.commitCandidate) := fun _ => empty

theorem commitPoint : Statement (.commitPoint) := fun _ => empty

theorem vecWait (p u : Nat) : Statement (.vecWait p u) := fun h => one h

theorem latWait (p : Nat) : Statement (.latWait p) := fun h => one h

theorem ticketExpiry (t : Nat) : Statement (.ticketExpiry t) := fun _ => empty

theorem heartbeat : Statement (.heartbeat) := fun _ => empty

theorem winCyclesDecay : Statement (.winCyclesDecay) := fun _ => empty

theorem regulatorRefill (p : Nat) : Statement (.regulatorRefill p) := fun h => one h

theorem governorPeriod (r : Sensors) : Statement (.governorPeriod r) := fun _ => empty

theorem vSettle : Statement (.vSettle) := fun _ => empty

theorem sensorSample (temp n : Nat) : Statement (.sensorSample temp n) := fun _ => empty

theorem idleHold (d : Nat) : Statement (.idleHold d) := fun _ => empty

theorem wakeAdmit : Statement (.wakeAdmit) := fun _ => empty

theorem wakeComplete (d : Nat) : Statement (.wakeComplete d) := fun _ => empty

theorem pdWait : Statement (.pdWait) := fun _ => empty

theorem sramCorrected (kind n bank row word : Nat) : Statement (.sramCorrected kind n bank row word) := fun _ => empty

theorem sramUncorrected (kind n bank row word : Nat) (readers : List Nat) : Statement (.sramUncorrected kind n bank row word readers) := fun _ => empty

theorem hbmCorrected (addr line row : Nat) : Statement (.hbmCorrected addr line row) := fun _ => empty

theorem hbmUncorrected (addr line row : Nat) (readers : List Nat) : Statement (.hbmUncorrected addr line row readers) := fun _ => empty

theorem logicFault (kind n part : Nat) : Statement (.logicFault kind n part) := fun _ => empty

theorem managementCoreFault (c : Nat) : Statement (.managementCoreFault c) := fun _ => empty

theorem securityCoreFault : Statement (.securityCoreFault) := fun _ => empty

theorem rstNAssert : Statement (.rstNAssert) := fun _ => empty

theorem brownOut (vaon : Bool) : Statement (.brownOut vaon) := fun _ => empty

theorem resetRelease (straps : Nat) : Statement (.resetRelease straps) := fun _ => empty

theorem componentVerified (digestOk sigOk : Bool) : Statement (.componentVerified digestOk sigOk) := fun _ => empty

theorem hbmTrainingDone (trained : Nat) : Statement (.hbmTrainingDone trained) := fun _ => empty

theorem wipeEnd (unfinished : List (Nat × Nat)) : Statement (.wipeEnd unfinished) := fun _ => empty

theorem i3cRead (addr n : Nat) : Statement (.i3cRead addr n) := fun _ => empty

theorem setdasa (sa addr : Nat) : Statement (.setdasa sa addr) := fun _ => empty

theorem entdaa (addr : Nat) : Statement (.entdaa addr) := fun _ => empty

theorem bypass : Statement (.bypass) := fun _ => empty

theorem idcode : Statement (.idcode) := fun _ => empty

theorem samplePreload (pins : Nat) : Statement (.samplePreload pins) := fun _ => empty

theorem extest (pins : Nat) : Statement (.extest pins) := fun _ => empty

theorem pinRefresh : Statement (.pinRefresh) := fun _ => empty

theorem calNow : Statement (.calNow) := fun _ => empty

theorem injArm (v : Nat) (hw : HwUpdate) : Statement (.injArm v hw) := fun _ => empty

theorem faultPend (v : Nat) (hw : HwUpdate) : Statement (.faultPend v hw) := fun _ => empty

theorem writeLost (addr v : Nat) (hw : HwUpdate) : Statement (.writeLost addr v hw) := fun _ => empty

theorem hngBad (port events : Nat) : Statement (.hngBad port events) := fun _ => empty

theorem lenMism (port events : Nat) : Statement (.lenMism port events) := fun _ => empty

theorem registerWrite (core addr v : Nat) (acc : CoreWrite) (hw : List HwUpdate) : Statement (.registerWrite core addr v acc hw) := fun _ => empty

theorem linkTrainingEnd (kind n : Nat) (trained : Bool) (lanes : Nat) : Statement (.linkTrainingEnd kind n trained lanes) := fun _ => empty

theorem bootStageEnd (ok : Bool) (mbist : List (Nat × Nat × Nat × Nat)) : Statement (.bootStageEnd ok mbist) := fun _ => empty

theorem componentReadEnd : Statement (.componentReadEnd) := fun _ => empty

theorem issueHoldRelease : Statement (.issueHoldRelease) := fun _ => empty

end Sys2Proof.Laws.WellFormed
end

