-- ==== Sys2Proof/Laws/Rcl.lean ====
section
/-! SUPPORT. The command link: what sending keeps, and what `State.serve` does with an admitted command. -/

namespace Sys2Proof.Machine

open Sys2Proof

@[simp] theorem OutFrame.bare_bare (fr : OutFrame) : fr.bare.bare = fr.bare := rfl
@[simp] theorem OutFrame.bare_vc (fr : OutFrame) : fr.bare.vc = fr.vc := rfl

@[simp] theorem modNth_length {α : Type} (l : List α) (i : Nat) (f : α → α) : (modNth l i f).length = l.length := by
  simp [modNth]

theorem nth_modNth {α : Type} (l : List α) (i j : Nat) (f : α → α) (d : α) :
    nth (modNth l i f) j d = if j = i ∧ j < l.length then f (nth l j d) else nth l j d := by
  unfold nth modNth
  rcases Nat.lt_or_ge j l.length with h | h
  · simp only [List.getD_eq_getElem?_getD, List.getElem?_mapIdx, List.getElem?_eq_getElem h, Option.map_some,
      Option.getD_some, h, and_true]
  · simp [List.getD_eq_getElem?_getD, Nat.not_lt.mpr h]

theorem nth_modNth_same {α : Type} {l : List α} {i : Nat} (f : α → α) (d : α) (h : i < l.length) :
    nth (modNth l i f) i d = f (nth l i d) := by simp [nth_modNth, h]

@[simp] theorem Lnk.emit_out (l : Lnk) (now : Nat) (fr : OutFrame) : (l.emit now fr).out = l.out := rfl
@[simp] theorem Lnk.emit_notes (l : Lnk) (now : Nat) (fr : OutFrame) : (l.emit now fr).notes = l.notes := rfl

/-- A frame that leaves is among the sent ones. -/
theorem Lnk.emit_sent (l : Lnk) (now : Nat) (fr : OutFrame) :
    ∃ g, (l.emit now fr).sent = l.sent ++ [g] ∧ g.bare = fr.bare := ⟨_, rfl, rfl⟩

/-- Sending on one channel loses no frame that waits on a response channel. -/
theorem Lnk.drainVc_delivers (now vc n : Nat) (l : Lnk) (fr : OutFrame) (h : l.delivers fr) :
    (Lnk.drainVc now vc n l).delivers fr := by
  induction n generalizing l with
  | zero => exact h
  | succ n ih =>
    unfold Lnk.drainVc
    split
    · split
      · split
        · exact h
        · refine ih _ ?_
          rcases h with ⟨g, hg, e⟩ | h
          · exact .inl ⟨g, List.mem_append_left _ hg, e⟩
          · exact .inr h
      · split
        · exact h
        · rename_i x rest hx
          refine ih _ ?_
          rcases h with ⟨g, hg, e⟩ | ⟨g, hg, e⟩
          · exact .inl ⟨g, List.mem_append_left _ hg, e⟩
          · by_cases hv : fr.vc = vc
            · rw [hv, hx] at hg
              rcases List.mem_cons.mp hg with rfl | hr
              · exact .inl ⟨_, List.mem_append_right _ (List.mem_singleton.mpr rfl), e⟩
              · right
                refine ⟨g, ?_, e⟩
                have hl : vc < l.out.length := by
                  by_contra hc
                  simp [nth, List.getD_eq_getElem?_getD, List.getElem?_eq_none (Nat.le_of_not_lt hc)] at hx
                simpa [hv, nth_modNth, hl] using hr
            · right
              refine ⟨g, ?_, e⟩
              simpa [nth_modNth, hv] using hg
    · exact h

/-- Sending on several channels in turn loses no such frame. -/
theorem Lnk.foldl_drainVc_delivers (now : Nat) (fr : OutFrame) (vcs : List Nat) (l : Lnk) (h : l.delivers fr) :
    (vcs.foldl (fun l vc => Lnk.drainVc now vc ((nth l.out vc []).length + l.notes.length) l) l).delivers fr := by
  induction vcs generalizing l with
  | nil => exact h
  | cons vc vcs ih => exact ih _ (drainVc_delivers _ _ _ _ _ h)

/-- A frame that has left or waits still does so after another has left. -/
theorem Lnk.emit_delivers (l : Lnk) (now : Nat) (g fr : OutFrame) (h : l.delivers fr) : (l.emit now g).delivers fr := by
  rcases h with ⟨x, hx, e⟩ | h
  · exact .inl ⟨x, List.mem_append_left _ hx, e⟩
  · exact .inr h

/-- Sending loses no frame that has left or waits on a response channel. -/
theorem Lnk.drain_delivers (now : Nat) (l : Lnk) (fr : OutFrame) (h : l.delivers fr) : (l.drain now).delivers fr := by
  have hf := Lnk.foldl_drainVc_delivers now fr [0, 1, 2, 3] l h
  unfold Lnk.drain
  generalize List.foldl _ _ _ = l' at hf ⊢
  dsimp only
  split
  · exact Lnk.emit_delivers _ _ _ _ hf
  · exact hf

/-- A response on a channel that the link has answers its command. -/
theorem State.respond_answers (s : State) (f : RclFrame) (st : Status) (hint q : Nat) (d : List Byte)
    (h : f.vc < s.lnk.out.length) : (s.respond f.vc f.w1 f.session st hint q d).answers f st d hint := by
  refine ⟨q, s.now, fun fr hfr => ?_⟩
  have hv : fr.vc = f.vc := by
    simp only [respFrames, List.mem_mapIdx] at hfr
    obtain ⟨i, _, rfl⟩ := hfr
    rfl
  unfold State.respond State.respondAt
  simp only [drain_lnk, modLnk_lnk]
  refine Lnk.drain_delivers _ _ _ (.inr ⟨fr, ?_, rfl⟩)
  simp only [hv, nth_modNth_same _ _ h]
  exact List.mem_append_right _ hfr

theorem RclFrame.vc_lt (f : RclFrame) : f.vc < 4 := by
  unfold RclFrame.vc fld bitsN
  exact Nat.mod_lt _ (by decide)

@[simp] theorem Lnk.received_out (l : Lnk) (f : RclFrame) : (l.received f).out = l.out := rfl
@[simp] theorem Lnk.received_helloOk (l : Lnk) (f : RclFrame) : (l.received f).helloOk = l.helloOk := rfl
@[simp] theorem Lnk.received_qUsed (l : Lnk) (f : RclFrame) : (l.received f).qUsed = l.qUsed := rfl
@[simp] theorem Lnk.received_qUrg (l : Lnk) (f : RclFrame) : (l.received f).qUrg = l.qUrg := rfl

/-- An admitted command reaches its own checks in the state `entered`; what they answer goes to the host. -/
theorem State.serve_admits {s : State} {code : Nat} {f : RclFrame} {auth : Option Auth} {urgent : Option Bool} {row : CmdRow}
    (body : Caller → State → Answer × State) (hr : cmdRow code = some row) (h : s.admits code f auth urgent = true) :
    s.serve code auth urgent f body =
      match body (s.callerOf code f urgent) (s.entered row (urgent.getD row.urgent) f) with
      | (.now st d, t) => t.respond f.vc f.w1 f.session st 0 (s.callerOf code f urgent).q d
      | (.busy hn, t) => t.respond f.vc f.w1 f.session .busy hn (s.callerOf code f urgent).q []
      | (.later, t) => t.drain := by
  simp only [State.admits, hr, Bool.and_eq_true, and_assoc, bne_iff_ne, ne_eq, beq_iff_eq, Bool.or_eq_true, Bool.not_eq_true'] at h
  obtain ⟨up, opc, credit, major, good, first, seg, whole, last, boot, chan, room, live, auth', -⟩ := h
  have taken : s.lnk.take f = some (s.lnk.received f) := by simp [Lnk.take, credit]
  have framed : ¬(f.first = false ∨ f.seg ≠ 0 ∨ (f.frames ≠ 1 ∧ row.multi = false) ∨ f.last ≠ (f.frames == 1)) := by
    rcases whole with h | h <;> simp [h, first, seg, last]
  have running : ¬(row.vc ≠ 3 ∧ s.serviceUp 0 1 = false) := by
    rcases live with h | h <;> simp [h]
  have allowed : ¬(authOk (auth.getD row.auth) f (s.sessOf f) = false) := by rw [auth']; decide
  have early : State.bootCheck { s with lnk := s.lnk.received f } code row f = none := boot
  unfold State.serve
  rw [hr]
  dsimp only
  rw [if_neg (by simp [up, opc]), taken]
  dsimp only
  rw [if_neg (by simp [major]), if_neg (by simp [good]), if_neg framed, early]
  dsimp only
  rw [if_neg (by simp [chan])]
  refine (if_neg room).trans ?_
  refine (if_neg running).trans ?_
  refine (if_neg allowed).trans ?_
  simp only [State.callerOf, hr]
  rfl

/-- What sending may change: what waits and what has left, the credits, the command queue's entries and the times they were held. -/
def Lnk.Sent (l m : Lnk) : Prop :=
  { l with out := m.out, notes := m.notes, loss := m.loss, crdHeld := m.crdHeld, owed := m.owed, hostCrd := m.hostCrd, qUsed := m.qUsed
           qUrg := m.qUrg, held := m.held, sent := m.sent } = m ∧ m.out.length = l.out.length

theorem Lnk.Sent.refl (l : Lnk) : l.Sent l := ⟨rfl, rfl⟩

theorem Lnk.Sent.trans {a b c : Lnk} (h : a.Sent b) (g : b.Sent c) : a.Sent c :=
  ⟨by rw [← g.1, ← h.1], g.2.trans h.2⟩

theorem Lnk.emit_same (l : Lnk) (now : Nat) (fr : OutFrame) : l.Sent (l.emit now fr) := ⟨rfl, rfl⟩

theorem Lnk.drainVc_same (now vc n : Nat) (l : Lnk) : l.Sent (Lnk.drainVc now vc n l) := by
  induction n generalizing l with
  | zero => exact .refl l
  | succ n ih =>
    unfold Lnk.drainVc
    split
    · split
      · split
        · exact .refl l
        · refine .trans ?_ (ih _)
          exact ⟨rfl, rfl⟩
      · split
        · exact .refl l
        · refine .trans ?_ (ih _)
          exact ⟨rfl, modNth_length _ _ _⟩
    · exact .refl l

theorem Lnk.foldl_drainVc_same (now : Nat) (vcs : List Nat) (l : Lnk) :
    l.Sent (vcs.foldl (fun l vc => Lnk.drainVc now vc ((nth l.out vc []).length + l.notes.length) l) l) := by
  induction vcs generalizing l with
  | nil => exact .refl l
  | cons vc vcs ih => exact .trans (Lnk.drainVc_same _ _ _ _) (ih _)

theorem Lnk.drain_same (now : Nat) (l : Lnk) : l.Sent (l.drain now) := by
  have hf := Lnk.foldl_drainVc_same now [0, 1, 2, 3] l
  unfold Lnk.drain
  generalize List.foldl _ _ _ = l' at hf ⊢
  dsimp only
  split
  · exact .trans hf (Lnk.emit_same _ _ _)
  · exact hf

/-- A response changes the command link alone, and there only what sending changes. -/
theorem State.respond_eq (s : State) (vc : Nat) (tag : Word) (se : Nat) (st : Status) (h q : Nat) (d : List Byte) :
    ∃ l, s.respond vc tag se st h q d = { s with lnk := l } ∧ s.lnk.Sent l := by
  have hs : s.lnk.Sent { s.lnk with out := modNth s.lnk.out vc (· ++ respFrames vc tag se (statusCode st) h q s.now d) } :=
    ⟨rfl, modNth_length _ _ _⟩
  exact ⟨_, by unfold State.respond State.respondAt State.drain State.modLnk; exact rfl, hs.trans (Lnk.drain_same s.now _)⟩

@[simp] theorem State.respond_lnk_lstate (s : State) (vc : Nat) (tag : Word) (se : Nat) (st : Status) (h q : Nat)
    (d : List Byte) : (s.respond vc tag se st h q d).lnk.lstate = s.lnk.lstate := by
  obtain ⟨l, e, g⟩ := State.respond_eq s vc tag se st h q d
  rw [e]
  rw [← g.1]

@[simp] theorem State.respond_lnk_helloOk (s : State) (vc : Nat) (tag : Word) (se : Nat) (st : Status) (h q : Nat)
    (d : List Byte) : (s.respond vc tag se st h q d).lnk.helloOk = s.lnk.helloOk := by
  obtain ⟨l, e, g⟩ := State.respond_eq s vc tag se st h q d
  rw [e]
  rw [← g.1]

@[simp] theorem State.respond_lnk_hbOn (s : State) (vc : Nat) (tag : Word) (se : Nat) (st : Status) (h q : Nat)
    (d : List Byte) : (s.respond vc tag se st h q d).lnk.hbOn = s.lnk.hbOn := by
  obtain ⟨l, e, g⟩ := State.respond_eq s vc tag se st h q d
  rw [e]
  rw [← g.1]

@[simp] theorem State.respond_lnk_longs (s : State) (vc : Nat) (tag : Word) (se : Nat) (st : Status) (h q : Nat)
    (d : List Byte) : (s.respond vc tag se st h q d).lnk.longs = s.lnk.longs := by
  obtain ⟨l, e, g⟩ := State.respond_eq s vc tag se st h q d
  rw [e]
  rw [← g.1]

@[simp] theorem State.respond_lnk_nextLong (s : State) (vc : Nat) (tag : Word) (se : Nat) (st : Status) (h q : Nat)
    (d : List Byte) : (s.respond vc tag se st h q d).lnk.nextLong = s.lnk.nextLong := by
  obtain ⟨l, e, g⟩ := State.respond_eq s vc tag se st h q d
  rw [e]
  rw [← g.1]

@[simp] theorem State.respond_lnk_rclBad (s : State) (vc : Nat) (tag : Word) (se : Nat) (st : Status) (h q : Nat)
    (d : List Byte) : (s.respond vc tag se st h q d).lnk.rclBad = s.lnk.rclBad := by
  obtain ⟨l, e, g⟩ := State.respond_eq s vc tag se st h q d
  rw [e]
  rw [← g.1]

@[simp] theorem State.respond_lnk_crdMin (s : State) (vc : Nat) (tag : Word) (se : Nat) (st : Status) (h q : Nat)
    (d : List Byte) : (s.respond vc tag se st h q d).lnk.crdMin = s.lnk.crdMin := by
  obtain ⟨l, e, g⟩ := State.respond_eq s vc tag se st h q d
  rw [e]
  rw [← g.1]

@[simp] theorem State.respond_lnk_hbPeriod (s : State) (vc : Nat) (tag : Word) (se : Nat) (st : Status) (h q : Nat)
    (d : List Byte) : (s.respond vc tag se st h q d).lnk.hbPeriod = s.lnk.hbPeriod := by
  obtain ⟨l, e, g⟩ := State.respond_eq s vc tag se st h q d
  rw [e]
  rw [← g.1]

@[simp] theorem State.respond_lnk_hbSkip (s : State) (vc : Nat) (tag : Word) (se : Nat) (st : Status) (h q : Nat)
    (d : List Byte) : (s.respond vc tag se st h q d).lnk.hbSkip = s.lnk.hbSkip := by
  obtain ⟨l, e, g⟩ := State.respond_eq s vc tag se st h q d
  rw [e]
  rw [← g.1]

@[simp] theorem State.respond_lnk_noteLost (s : State) (vc : Nat) (tag : Word) (se : Nat) (st : Status) (h q : Nat)
    (d : List Byte) : (s.respond vc tag se st h q d).lnk.noteLost = s.lnk.noteLost := by
  obtain ⟨l, e, g⟩ := State.respond_eq s vc tag se st h q d
  rw [e]
  rw [← g.1]

/-- An admitted command whose own checks answer at once: the answer goes to the host, and beyond the link the state is the
one its meaning leaves. -/
theorem State.serve_now {s t : State} {code : Nat} {f : RclFrame} {auth : Option Auth} {urgent : Option Bool} {row : CmdRow}
    {body : Caller → State → Answer × State} {st : Status} {d : List Byte} (hr : cmdRow code = some row)
    (h : s.admits code f auth urgent = true)
    (hb : body (s.callerOf code f urgent) (s.entered row (urgent.getD row.urgent) f) = (.now st d, t))
    (hl : t.lnk.out.length = 4) :
    ∃ l, s.serve code auth urgent f body = { t with lnk := l } ∧ ({ t with lnk := l } : State).answers f st d ∧ t.lnk.Sent l := by
  have e := State.serve_admits body hr h
  rw [hb] at e
  obtain ⟨l, h1, h2⟩ := State.respond_eq t f.vc f.w1 f.session st 0 (s.callerOf code f urgent).q d
  refine ⟨l, e.trans h1, ?_, h2⟩
  rw [← h1]
  exact State.respond_answers _ _ _ _ _ _ (by rw [hl]; exact f.vc_lt)

theorem State.admits_out {s : State} {code : Nat} {f : RclFrame} {auth : Option Auth} {urgent : Option Bool}
    (h : s.admits code f auth urgent = true) : s.lnk.out.length = 4 := by
  unfold State.admits at h
  split at h
  · cases h
  · simp only [Bool.and_eq_true, beq_iff_eq] at h
    exact h.2

@[simp] theorem State.entered_out (s : State) (row : CmdRow) (u : Bool) (f : RclFrame) :
    (s.entered row u f).lnk.out = s.lnk.out := rfl

@[simp] theorem State.entered_lstate (s : State) (row : CmdRow) (u : Bool) (f : RclFrame) :
    (s.entered row u f).lnk.lstate = s.lnk.lstate := rfl

@[simp] theorem State.entered_helloOk (s : State) (row : CmdRow) (u : Bool) (f : RclFrame) :
    (s.entered row u f).lnk.helloOk = s.lnk.helloOk := rfl

@[simp] theorem State.entered_hbOn (s : State) (row : CmdRow) (u : Bool) (f : RclFrame) :
    (s.entered row u f).lnk.hbOn = s.lnk.hbOn := rfl

@[simp] theorem State.entered_longs (s : State) (row : CmdRow) (u : Bool) (f : RclFrame) :
    (s.entered row u f).lnk.longs = s.lnk.longs := rfl

@[simp] theorem State.entered_nextLong (s : State) (row : CmdRow) (u : Bool) (f : RclFrame) :
    (s.entered row u f).lnk.nextLong = s.lnk.nextLong := rfl

@[simp] theorem State.entered_rclBad (s : State) (row : CmdRow) (u : Bool) (f : RclFrame) :
    (s.entered row u f).lnk.rclBad = s.lnk.rclBad := rfl

@[simp] theorem State.entered_hbPeriod (s : State) (row : CmdRow) (u : Bool) (f : RclFrame) :
    (s.entered row u f).lnk.hbPeriod = s.lnk.hbPeriod := rfl

@[simp] theorem State.entered_hbSkip (s : State) (row : CmdRow) (u : Bool) (f : RclFrame) :
    (s.entered row u f).lnk.hbSkip = s.lnk.hbSkip := rfl

@[simp] theorem State.entered_noteLost (s : State) (row : CmdRow) (u : Bool) (f : RclFrame) :
    (s.entered row u f).lnk.noteLost = s.lnk.noteLost := rfl

end Sys2Proof.Machine
end

