-- ==== Sys2Proof/Tests/Slice0.lean ====
section
/-! SUPPORT. The model's own tests: for each statement with hypotheses a theorem that shows a state and operands that meet them
(`witness_<its name>`), worked examples of spec/ (`test_…`), and terms that are not well formed. -/

namespace Sys2Proof.Tests

open Sys2Proof Sys2Proof.Machine

set_option Elab.async false

/-! ### States to test on -/

/-- A header of an RCL message: code, channel, tag, session, payload. -/
def rcl (opc vc session : Nat) (data : List Byte) : RclFrame :=
  { w0 := BitVec.ofNat 32 (opc + 2 ^ 8 + 2 ^ 16 * vc + 2 ^ 18 + (if data.length ≤ 4096 then 2 ^ 19 else 0)), w1 := 7
    w2 := BitVec.ofNat 32 session, w3 := 0, w4 := BitVec.ofNat 32 (min data.length 4096), w5 := 0, w6 := 0, w7 := 0, data := data }

def opSess : Session := { operator := true, ward := 0, ticket := 1, sepoch := 1, upCtr := 0 }
def wardSess : Session := { operator := false, ward := 5, ticket := 2, sepoch := 2, upCtr := 0 }
def tkt (w se : Nat) : Ticket := { ward := w, list := none, sepoch := 1, expiry := 1000, parts := 0xFFFFFFFF, budget := 100, session := se }

/-- A device that has booted, is DEPLOYED, and whose command link is up: session 0 is the operator's, session 1 ward 5's. -/
def live : State :=
  { State.reset with
    mgt := { Mgt.reset with aclkCnt := 500, coreLive := 0x3F, bootStage := 10, applied := true, hbmTrained := true, fwDone := 2 }
    sec := { Sec.reset with lcState := 2, sessions := [(0, opSess), (1, wardSess)], tickets := [(1, tkt 0 0), (2, tkt 5 1)], wipeDone := true }
    lnk := { Lnk.reset with lstate := 2, helloOk := true, crdHeld := [8, 4, 16, 4], crdMin := [true, true, true, true]
                            hostCrd := [8, 8, 8, 8], hbOn := true }
    side := { Side.reset with rstN := true } }

def entry9 : Entry :=
  { Entry.fresh 0 9 5 0 0 0 true with state := .ready, curEpoch := 4, rank := 64, wfmtA := 7, wfmtB := 7, projs := [3], statoff := [0] }
def job1 : Job :=
  { num := 1, learner := false, prio := 0, ward := 5, st := .running, closed := false, queue := [], last := 0, since := 0 }
def withJob : State := live.modP 0 fun q => { q with jobs := [job1], jobNext := 2, tumOwn := 1 }
/-- A command of a job ID: job 1 of partition 0. -/
def jobF (opc se : Nat) : RclFrame := rcl opc 0 se (bytes4 [32, 0])
def adapterF (opc se : Nat) : RclFrame := rcl opc 0 se (bytes4 [9])
/-- A member of a pool: instance 3, which holds range 0 (adapters 1 to 255); member 4 holds range 1. -/
def pooled : State :=
  { live.modP 0 (fun q => { q with dirQuota := 4, cabQuota := 64, tumOwn := 1 }) with
    pol := { live.pol with
      instId := 3, instValid := true, viewNum := 2, ranges := [(0, { state := .held, inst := 3 }), (1, { state := .held, inst := 4 })]
      members := [{ inst := 3, devId := 30, addr := 33, group := 0, rppMinor := 0, blobMinor := 0, serves := true },
                  { inst := 4, devId := 40, addr := 44, group := 1, rppMinor := 0, blobMinor := 0, serves := true }] }
    cab := { live.cab with dir := [entry9] } }
/-- A cached version of adapter 256, whose record is known. -/
def note256 : NoteRec :=
  { aid := 256, valid := true, learn := false, epoch := 3, ward := 5, bminor := 0, blen := 1024, rank := 64, wfmtA := 7, wfmtB := 7
    lbytes := 0, gbytes := 0, projs := [3] }
def cached256 : Entry := { Entry.fresh 1 256 5 4 0 3 false with state := .ready, vtab := [freshSlot 3 .valid 9 65536 0] }
/-- A dense FP32 vector of 64 elements in HBM of partition 0. -/
def vecDesc (base : Nat) : Desc :=
  { part := 0, words := wordsOf (bytes4 [0x010, 0, 64, 0, 0, 0, 0, 0, 0, 0, 0, 0, 0, 0, 0, 0, base, 0, 0, 0, 0, 0, 0, 0]) 24, overlap := false
    misaligned := false }
def allocated : State :=
  { live.modP 0 (fun q => { q with dscQuota := 4, cabQuota := 8 }) with
    allocs := [(1, { part := 0, space := 0, base := 65536, size := 65536, freed := false })], allocNext := 2 }
def described : State :=
  { allocated with desc := [(0, { tag := 1, desc := some (vecDesc 65536), dead := false, refs := 0, retired := false })] }
def sub1 : Sub := { sseq := 1, progH := 2 ^ 18, rptH := 0, ofsH := 0, htag := 9 }
def queuedJob : Job := { job1 with queue := [sub1], last := 1 }
def withQueue : State := live.modP 0 fun q => { q with jobs := [queuedJob], jobNext := 2, tumOwn := 1, sseqNext := 2 }

/-- A macro-instruction of an opcode with an operand handle. -/
def mi (op : Nat) (h : Word := 0) : MI := miOf [BitVec.ofNat 32 op, 0, h]
/-- A device with step 1 of job 1 in partition 0 in a phase, with its program. -/
def stepCtx (ph : Phase) (prog : List MI) : Ctx :=
  { freshCtx 1 .generator sub1 ph with prog := prog, recs := prog.map fun _ => freshRec, bounds := prog.map fun _ => 0 }
def withStep (s : State) (c : Ctx) : State := s.modP 0 fun q => { q with ctx := some c }
def reach (c : Ctx) (i pos : Nat) : Ctx := { c with recs := modNth c.recs i fun r => { r with reached := true, pos := pos } }
/-- A latch that is held. -/
def heldBy (k : OwnerKind) (o : Nat) (b : Bool) : Latch :=
  { st := .held, brk := b, domain := 0x20, okind := k, oid := o, osav := false, osseq := 0, cnt := 1 }

def helloF : RclFrame := rcl 1 0 0xFFFF [1, 0, 0, 0]

theorem witness_HelloStartsTheLink :
    live.admits 0x01 helloF = true ∧ helloF.data.length = 4 ∧ fld (helloF.word 0) 31 16 = 0 ∧ fld (helloF.word 0) 7 0 = 1 := by decide +kernel

/-- An SPDM request. -/
def spdmF (req : Byte) : RclFrame := rcl 2 0 0xFFFF [0x13, req, 0, 0]
def spdmDone : State := { live with sec := { live.sec with spdmVer := true, spdmAlg := true } }

theorem witness_SpdmRequestsAnswered :
    ∀ e ∈ [(0x84, live), (0xE1, spdmDone), (0xE3, spdmDone), (0x81, spdmDone), (0x82, spdmDone), (0x83, spdmDone), (0xE0, spdmDone)],
      (spdmF (BitVec.ofNat 8 e.1)).pl 1 1 = e.1 ∧ e.2.admits 0x02 (spdmF (BitVec.ofNat 8 e.1)) = true ∧ e.2.sec.coreFault = false
        ∧ 4 ≤ (spdmF (BitVec.ofNat 8 e.1)).data.length ∧ (e.1 = 0x84 ∨ e.2.sec.spdmVer = true)
        ∧ (e.1 = 0x84 ∨ e.1 = 0xE1 ∨ e.1 = 0xE3 ∨ e.2.sec.spdmAlg = true) := by decide +kernel

/-- A request to open a session of ward 5, its fields right. -/
def openF : RclFrame :=
  rcl 3 0 0xFFFF (bytes4 [2, 5, 1, 0, 60000, 1, 4096, 0, 0, 0] ++ List.replicate (0x2408 - 40) 0)
def okCrypto : Crypto := { sigOk := true, rootOk := true, kemOk := true, digest := 77, confirm := [] }
def bound5 : State := { live with pol := { live.pol with wards := [(5, 77)] } }

theorem witness_SessionOpenCreatesSessionAndTicket :
    bound5.admits 0x03 openF = true ∧ openCheck1 openF = true ∧ (openPl openF).claim = false ∧ bound5.sec.lcState ≠ 3
      ∧ ((openPl openF).kind = 2 → bound5.sec.lcState = 2) ∧ bound5.sec.coreFault = false ∧ okCrypto.sigOk = true
      ∧ ((openPl openF).kind = 1 → bound5.rootOk (openPl openF) okCrypto = true) ∧ ((openPl openF).kind = 2 → bound5.wardOf okCrypto.digest = some (openPl openF).ward)
      ∧ (∀ e ∈ bound5.sec.openCtr, e.1 = okCrypto.digest → e.2 < (openPl openF).ctr) ∧ okCrypto.kemOk = true
      ∧ (bound5.openIdx).isSome = true := by decide +kernel

/-- `LIFECYCLE` from DEPLOYED back to PROVISIONED, and from PROVISIONED to DEPLOYED. -/
def backF : RclFrame := rcl 5 0 0 (bytes4 [1, 0, 0, 0, 3, 0] ++ List.replicate (0x12E8 - 24) 0)
def voucherF : RclFrame := rcl 5 0 0 (bytes4 [2, 0, 0, 0, 3, 0, 9] ++ List.replicate (0x12E8 - 28) 0)
def deployed3 : State := { live with sec := { live.sec with lcXfers := 3 } }
def provisioned3 : State := { live with sec := { live.sec with lcXfers := 3, lcState := 1 } }

/-- `SESSION_CLOSE` of a session, from the session itself. -/
def closeF (from_ i : Nat) : RclFrame := rcl 4 0 from_ (bytes4 [i])

theorem witness_SessionsEnd :
    (∀ e ∈ [(1, 1), (0, 1)], live.admits 0x04 (closeF e.1 e.2) = true ∧ (closeF e.1 e.2).data.length = 4
      ∧ fld ((closeF e.1 e.2).word 0) 31 16 = 0 ∧ live.sec.coreFault = false
      ∧ live.sec.sessions.find? (fun x => x.1 == fld ((closeF e.1 e.2).word 0) 15 0) = some (fld ((closeF e.1 e.2).word 0) 15 0, wardSess)
      ∧ (fld ((closeF e.1 e.2).word 0) 15 0 = (closeF e.1 e.2).session ∨ (live.sessOf (closeF e.1 e.2)).any (·.operator) = true))
    ∧ (live.admits 0x04 (closeF 1 9) = true ∧ (closeF 1 9).data.length = 4 ∧ fld ((closeF 1 9).word 0) 31 16 = 0 ∧ live.sec.coreFault = false
      ∧ SMap.has live.sec.sessions (fld ((closeF 1 9).word 0) 15 0) = false)
    ∧ (let s : State := { live with mgt := { live.mgt with aclkCnt := 1000 } }
      s.sec.tickets.find? (fun e => e.1 == 2) = some (2, tkt 5 1) ∧ (tkt 5 1).expiry ≤ s.now
      ∧ s.sec.sessions.find? (fun e => e.1 == (tkt 5 1).session) = some ((tkt 5 1).session, wardSess))
    ∧ (∃ t, exec (.lifecycle backF okCrypto) deployed3 = .next t ∧ t.sec.lcState ≠ deployed3.sec.lcState) := by
  refine ⟨by decide +kernel, by decide +kernel, by decide +kernel, _, rfl, by decide +kernel⟩

theorem witness_LifecycleMovesTheDevice :
    ∀ e ∈ [(deployed3, backF), (provisioned3, voucherF)],
      e.1.admits 0x05 e.2 = true ∧ e.2.data.length = 0x12E8 ∧ fld (e.2.word 0) 31 2 = 0 ∧ e.2.word 4 = 0 ∧ fld (e.2.word 0x10) 31 4 = 0
      ∧ e.2.word 0x14 = 0 ∧ (fld (e.2.word 0) 1 0 ≠ 2 → e.2.pl 0x18 48 = 0) ∧ lcStep e.1.sec.lcState.toNat (fld (e.2.word 0) 1 0) = true
      ∧ e.2.pl 8 8 = e.1.mgt.devId.toNat ∧ e.1.sec.coreFault = false ∧ fld (e.2.word 0x10) 3 0 = e.1.sec.lcXfers.toNat
      ∧ (lcCounts e.1.sec.lcState.toNat (fld (e.2.word 0) 1 0) = true → e.1.sec.lcXfers.toNat ≠ 15) ∧ okCrypto.sigOk = true := by decide +kernel

/-- Latch 3 held by core 1 (`BRK` 1), latch 4 broken, latch 5 held by the host. -/
def latched : State :=
  { live with latch := [(3, heldBy .core 1 true), (4, { Latch.fresh with st := .broken }), (5, heldBy .host 0 false)] }

theorem witness_LatchTable :
    (∀ e ∈ [(Agent.core 1, OwnerKind.core, 1), (.host, .host, 0)], ∀ n ∈ [0, 3, 4, 5, 32767],
      latched.ownerOf e.1 = some (e.2.1, e.2.2, 0) ∧ n < 32768 ∧ (latched.latchAt n).admits e.1 = true)
    ∧ (latched.latchAt 32767).st = .free ∧ (latched.latchAt 4).st = .broken ∧ (latched.latchAt 3).st = .held
    ∧ (latched.latchAt 3).heldBy (.core, 1, 0) = true ∧ (latched.latchAt 3).brk = true ∧ (latched.latchAt 5).heldBy (.host, 0, 0) = true
    ∧ (latched.latchAt 3).heldBy (.host, 0, 0) = false ∧ SMap.wf Latch.fresh latched.latch = true
    ∧ (∀ n ∈ [4, 32767], (latched.latchAt n).st ≠ .held ∧ (latched.latchAt n).brk = false) ∧ (0x20 ≤ 0x20 ∧ 0x20 < 0x21) := by decide +kernel

/-- `LATCH` with an operation and an operand. -/
def latchF (n op d : Nat) : RclFrame := rcl 0x0A 0 0 (bytes4 [n, op + 2 ^ 8 * d])

theorem witness_LatchOperationsTouchOneLatch :
    (∃ t, exec (.acq .host 32767) latched = .next t ∧ ∃ u, exec (.setDomain (.core 9) 40000 63) latched = .next u)
    ∧ ∀ f ∈ [latchF 0 1 0, latchF 32767 5 0x20, latchF 3 15 0x3F], live.admits 0x0A f = true ∧ f.data.length = 8
      ∧ fld (f.word 0) 31 15 = 0 ∧ fld (f.word 4) 7 4 = 0 ∧ fld (f.word 4) 31 14 = 0 := by
  exact ⟨⟨_, rfl, _, rfl⟩, by decide +kernel⟩

/-- `REG_READ` of n words, `REG_WRITE` of one word. -/
def readF (se addr n : Nat) : RclFrame := rcl 8 0 se (bytes4 [addr, n])
def writeF (addr v : Nat) : RclFrame := rcl 9 0 0 (bytes4 [addr, 1, v])

theorem witness_RegistersAreReadAndWrittenOverTheLink :
    (∀ f ∈ [readF 0xFFFF 0 1, readF 0xFFFF 0x20000 256, readF 0 0x80000 3, readF 0 0x180000 2],
      live.admits 0x08 f (if f.pl 0 4 + 4 * fld (f.word 4) 8 0 ≤ 0x30000 then some .none else none) = true
      ∧ f.data.length = 8 ∧ fld (f.word 4) 31 9 = 0 ∧ 1 ≤ fld (f.word 4) 8 0 ∧ fld (f.word 4) 8 0 ≤ 256
      ∧ inOneBlock (f.pl 0 4) (fld (f.word 4) 8 0) = true)
    ∧ (∀ f ∈ [writeF 0x100300 17, writeF 0x11F33C 9, writeF 0x140018 5], live.admits 0x09 f = true
      ∧ f.data.length = 8 + 4 * fld (f.word 4) 8 0 ∧ fld (f.word 4) 31 9 = 0 ∧ 1 ≤ fld (f.word 4) 8 0 ∧ fld (f.word 4) 8 0 ≤ 256
      ∧ inOneBlock (f.pl 0 4) (fld (f.word 4) 8 0) = true
      ∧ ∀ i < fld (f.word 4) 8 0, (placeOf (f.pl 0 4 + 4 * i)).all (fun x => !x.isP) = true)
    ∧ (∀ e ∈ [(31, 0x24, 262144), (0, 0x20, 65535), (5, 0x40, 0)],
      let f := writeF (0x100000 + 0x1000 * e.1 + e.2.1) e.2.2;
      live.admits 0x09 f = true ∧ f.data.length = 8 + 4 * fld (f.word 4) 8 0 ∧ fld (f.word 4) 31 9 = 0 ∧ 1 ≤ fld (f.word 4) 8 0
      ∧ f.pl 0 4 = 0x100000 + 0x1000 * e.1 + e.2.1 ∧ e.2.1 + 4 * fld (f.word 4) 8 0 ≤ 0x44 ∧ (∀ q ∈ live.prt, q.tumNext = none)
      ∧ (∀ t ∈ tumsOf (live.getP e.1).tumOwn, live.ras.fencePair.getLsbD (t / 2) = false)
      ∧ live.configOk (modNth live.prt e.1 fun q => q.setWord e.2.1 (f.pl 8 4)) live.cab (live.shf.map fun x => x.cap.toNat) = true) := by
  decide +kernel

def queryable : State :=
  { withJob with
    cab := { withJob.cab with
      dir := [entry9]
      log := [{ aid := 9, kind := 1, epoch := 4, prev := 3, publisher := 0, part := 0, blob := 0, blen := 2, lseq := 6, sseq := 0, esc := 0 }] }
    pol := { withJob.pol with snaps := [{ id := 1, stamp := 3, grps := [] }], snapLast := 1 }
    mgt := { withJob.mgt with wardJobs := [(5, 1, 0)] } }
def logF (n : Nat) : RclFrame := rcl 0x0B 0 0 (bytes4 [6, 0, n])
def calF (id : Nat) : RclFrame := rcl 0x0C 0 0 (bytes4 [id, 0])
def wardF : RclFrame := rcl 0x0D 0 0 (bytes4 [4095])
def poolF : RclFrame := rcl 0x32 0 0 []
theorem witness_QueriesReportAndChangeNothing :
    (∀ n ∈ [1, 64], queryable.admits 0x0B (logF n) = true ∧ (logF n).data.length = 12 ∧ fld ((logF n).word 8) 31 7 = 0
      ∧ 1 ≤ fld ((logF n).word 8) 6 0 ∧ fld ((logF n).word 8) 6 0 ≤ 64)
    ∧ (∀ i ∈ [0, 1], queryable.admits 0x0C (calF i) = true ∧ (calF i).data.length = 8
      ∧ (queryable.pol.snaps.find? fun y => y.id == if (calF i).pl 0 8 = 0 then queryable.pol.snapLast.toNat else (calF i).pl 0 8).isSome = true)
    ∧ (queryable.admits 0x0D wardF = true ∧ wardF.data.length = 4 ∧ fld (wardF.word 0) 31 12 = 0)
    ∧ (queryable.admits 0x23 (jobF 0x23 1) = true ∧ (jobF 0x23 1).data.length = 8 ∧ queryable.jobOf ((jobF 0x23 1).pl 0 8) = some (0, job1)
      ∧ (queryable.callerOf 0x23 (jobF 0x23 1)).mayActFor job1.ward = true)
    ∧ (queryable.admits 0x32 poolF = true ∧ poolF.data.length = 0)
    ∧ (∀ se ∈ [0, 1], queryable.admits 0x1A (adapterF 0x1A se) = true ∧ (adapterF 0x1A se).data.length = 4
      ∧ fld ((adapterF 0x1A se).word 0) 31 24 = 0 ∧ fld ((adapterF 0x1A se).word 0) 23 0 ≠ 0
      ∧ queryable.entry (fld ((adapterF 0x1A se).word 0) 23 0) = some entry9
      ∧ (queryable.sessOf (adapterF 0x1A se)).any (fun x => x.operator || entry9.ward == x.ward) = true) := by decide +kernel

def createF (base : Nat) : RclFrame :=
  rcl 0x10 0 0 (List.replicate 32 0 ++ bytes4 [0x010, 0, 64, 0, 0, 0, 0, 0, 0, 0, 0, 0, 0, 0, 0, 0, base, 0, 0, 0, 0, 0, 0, 0])
/-- The handle of slot 0 with tag 1. -/
def destroyF : RclFrame := rcl 0x11 0 0 (bytes4 [2 ^ 18])

theorem witness_DescriptorsAreCreatedAndDestroyed :
    (∀ b ∈ [65536, 131072 - 256], allocated.admits 0x10 (createF b) = true ∧ (createF b).data.length = 128 ∧ fld ((createF b).word 0) 31 5 = 0
      ∧ (((createF b).data.drop 4).take 28).all (· == 0) = true
      ∧ vecDesc b = { part := fld ((createF b).word 0) 4 0, words := wordsOf ((createF b).data.drop 32) 24, overlap := false, misaligned := false }
      ∧ (vecDesc b).check1 = true ∧ (vecDesc b).check2 = true
      ∧ allocated.handle (vecDesc b).scaleH ≠ .stale ∧ allocated.handle (vecDesc b).pscaleH ≠ .stale ∧ allocated.handle (vecDesc b).escH ≠ .stale
      ∧ allocated.check4 (vecDesc b) = true
      ∧ ((vecDesc b).aligned = true → (vecDesc b).base % 64 = 0 ∧ ∀ k < (vecDesc b).rank, (vecDesc b).stride k % 64 = 0)
      ∧ allocated.inGrant (vecDesc b).part (vecDesc b).space (vecDesc b).base (vecDesc b).footprint = true
      ∧ allocated.freeSlot = some (0, 1) ∧ allocated.dscUse (vecDesc b).part < (allocated.getP (vecDesc b).part).dscQuota.toNat)
    ∧ (described.admits 0x11 destroyF = true ∧ destroyF.data.length = 4 ∧ described.handle (destroyF.word 0) = .live 0 (vecDesc 65536)
      ∧ (described.slot 0).refs = 0 ∧ (described.slot 0).tag < 0x3FFF ∧ (vecDesc 65536).aux = [] ∧ ∀ a ∈ described.allocs, a.2.freed = false) := by
  decide +kernel

/-- `ALLOC` of 64 KiB of HBM, and of host memory at the top of its space. -/
def allocF (sp base : Nat) : RclFrame := rcl 0x12 0 0 (bytes4 [2 ^ 8 * sp, 0] ++ leBytes 8 65536 ++ leBytes 8 base)
def freeF : RclFrame := rcl 0x13 0 0 (bytes4 [1])

theorem witness_RangesAreAllocatedAndFreed :
    (∀ f ∈ [allocF 0 0, allocF 2 (2 ^ 56 - 65536)], allocated.admits 0x12 f = true ∧ f.data.length = 24 ∧ fld (f.word 0) 7 5 = 0
      ∧ fld (f.word 0) 31 11 = 0 ∧ f.word 4 = 0 ∧ f.pl 8 8 ≠ 0 ∧ f.pl 8 8 % granule = 0)
    ∧ (fld ((allocF 0 0).word 0) 10 8 = 0 ∧ (allocF 0 0).pl 16 8 = 0
      ∧ allocated.cabUse 0 + (allocF 0 0).pl 8 8 / granule ≤ (allocated.getP 0).cabQuota.toNat
      ∧ lowestFree ((allocF 0 0).pl 8 8 / granule) allocated.cab.exportBase 0 allocated.cab.extents = some 0)
    ∧ (let f := allocF 2 (2 ^ 56 - 65536)
      fld (f.word 0) 10 8 = 2 ∧ f.pl 16 8 % granule = 0 ∧ f.pl 16 8 + f.pl 8 8 ≤ 2 ^ 56 ∧ ∀ e ∈ allocated.allocs, e.2.space = 2 → False)
    ∧ (allocated.admits 0x13 freeF = true ∧ freeF.data.length = 4
      ∧ allocated.allocs.find? (fun e => e.1 == freeF.pl 0 4) = some (freeF.pl 0 4, { part := 0, space := 0, base := 65536, size := 65536, freed := false })
      ∧ (allocated.allocs.map (·.1)).Pairwise (· < ·) ∧ (∀ e ∈ allocated.allocs, e.2.freed = false) ∧ ∀ e ∈ allocated.desc, e.2.desc = none) := by
  decide +kernel

/-- A candidate of adapter 9 for its epoch 5. -/
def cand (kind : Nat) : Candidate :=
  { aid := 9, kind := kind, target := 5, part := 0, sseq := 0, base := 4, blen := 64, esc := 0, tau := 0, resv := 3, up := none, boot := false, sat := 0, since := 0 }

theorem witness_AdapterIdsAreTakenAndFreed :
    (∀ se ∈ [(0, opSess), (1, wardSess)], pooled.admits 0x18 (rcl 0x18 0 se.1 (bytes4 [0])) = true
      ∧ fld ((rcl 0x18 0 se.1 (bytes4 [0])).word 0) 31 5 = 0 ∧ pooled.pwr.powering = false
      ∧ pooled.sessOf (rcl 0x18 0 se.1 (bytes4 [0])) = some se.2 ∧ pooled.dirUse 0 < (pooled.getP 0).dirQuota.toNat
      ∧ pooled.freeDirIdx = some 1 ∧ pooled.ownRanges.findSome? pooled.freeIdIn = some 1)
    ∧ (let f := rcl 0x18 0 0 (bytes4 [0]);
      let s := live.modP 0 fun q => { q with dirQuota := 1 };
      s.admits 0x18 f = true ∧ f.data.length = 4 ∧ s.sessOf f = some opSess ∧ s.dirUse 0 < (s.getP 0).dirQuota.toNat ∧ s.freeDirIdx = some 0
      ∧ s.ownRanges.findSome? s.freeIdIn = none ∧ s.registrar = none ∧ s.lnk.nextLong ≠ 0 ∧ s.lnk.longs = [])
    ∧ (∀ se ∈ [0, 1], let f := adapterF 0x19 se
      pooled.admits 0x19 f = true ∧ f.data.length = 4 ∧ fld (f.word 0) 31 24 = 0 ∧ fld (f.word 0) 23 0 = 9 ∧ pooled.entry 9 = some entry9
      ∧ (pooled.sessOf f).any (fun x => x.operator || entry9.ward == x.ward) = true ∧ entry9.owned = true ∧ entry9.state ≠ .retiring
      ∧ entry9.frozen = false ∧ (∀ c ∈ pooled.cab.engine, c.1.aid ≠ 9) ∧ entry9.vtab = []
      ∧ ∀ x ∈ pooled.cab.dir, x.state ≠ .retiring ∧ ∀ v ∈ x.vtab, v.vstate ≠ .retiring)
    ∧ (let s : State := { pooled with cab := { pooled.cab with engine := some (cand 2, 0) } };
      s.admits 0x19 (adapterF 0x19 0) = true ∧ s.entry 9 = some entry9 ∧ ∃ c ∈ s.cab.engine, c.1.aid = 9) := by decide +kernel

/-- An adapter of the ward COMMON that is READY and not learned. -/
def commonEntry : Entry := { entry9 with aid := 7, ward := wardCommon, idx := 1 }
def withCommon : State := { pooled with cab := { pooled.cab with dir := [entry9, commonEntry] } }
def setF (clear aid : Nat) : RclFrame := rcl 0x1C 0 0 (bytes4 [31 + 2 ^ 8 * clear, aid])
def pinning : State :=
  { pooled with
    cab := { pooled.cab with dir := [entry9, cached256], pinList := [256], pinLimit := 1, cacheSize := 1 }
    mgt := { pooled.mgt with dueAt := [(perPin, 500)] }
    pol := { pooled.pol with notes := [(256, note256)] } }

theorem witness_CommonAndPinnedAdaptersAreSet :
    (withCommon.admits 0x1C (setF 0 7) = true ∧ bit ((setF 0 7).word 0) 8 = false ∧ (setF 0 7).data.length = 8
      ∧ fld ((setF 0 7).word 0) 7 5 = 0 ∧ fld ((setF 0 7).word 0) 31 9 = 0 ∧ fld ((setF 0 7).word 4) 31 24 = 0
      ∧ fld ((setF 0 7).word 4) 23 0 ≠ 0 ∧ withCommon.commonInfo (fld ((setF 0 7).word 4) 23 0) = some (wardCommon, true, false))
    ∧ (withCommon.admits 0x1C (setF 1 0) = true ∧ bit ((setF 1 0).word 0) 8 = true ∧ (setF 1 0).data.length = 8
      ∧ fld ((setF 1 0).word 0) 7 5 = 0 ∧ fld ((setF 1 0).word 0) 31 9 = 0 ∧ (setF 1 0).word 4 = 0)
    ∧ (∀ l ∈ [[], [0, 2 ^ 24 - 1, 7]], withCommon.admits 0x1D (rcl 0x1D 1 0 (bytes4 l)) = true
      ∧ (rcl 0x1D 1 0 (bytes4 l)).data = bytes4 l ∧ l.length ≤ 262144 ∧ ∀ a ∈ l, a < 2 ^ 24)
    ∧ (pinning.booted = true ∧ pinning.serviceUp 2 3 = true ∧ pinning.pol.work = [] ∧ pinning.pol.heldMsgs = []
      ∧ pinning.cab.pinBusy = false ∧ (∀ q ∈ pinning.prt, q.common = 0)
      ∧ pinning.cab.pinList = [256] ∧ (pinning.entry 256).any (·.owned) = false ∧ pinning.mine 256 = false
      ∧ pinning.fillRec 256 = some note256 ∧ note256.bminor ≤ blobMinorMax ∧ pinning.holds 256 note256.epoch = true ∧ pinning.pinAsking = false
      ∧ pinning.due perPin = true ∧ pinning.dueOf perPin = pinning.now
      ∧ ceilDiv (note256.blen * 64) granule ≤ min pinning.cab.pinLimit.toNat pinning.cab.cacheSize.toNat)
    ∧ (let s : State := { pinning with cab := { pinning.cab with pinBusy := true } }
      s.booted = true ∧ s.serviceUp 2 3 = true ∧ s.pol.work = [] ∧ s.pol.heldMsgs = [] ∧ s.cab.pinBusy = true ∧ s.due perPin = true)
    ∧ ({ pinning with mgt := { pinning.mgt with dueAt := [(perPin, 501)] } } : State).due perPin = false := by decide +kernel

/-- A blob of BF16 zeros: adapter 9 of ward 5, rank 64, one projection of 64 by 64. -/
def zeroBlob : List Byte :=
  bytes4 [0x54424C42, 1, 9, 5, 0, 64, 0x3F800000, 0x3D000000, 0x11, 1, 16640, 0, 0, 0, 0, 0] ++ List.replicate 64 0
    ++ bytes4 [0, 0, 256, 0, 0, 0, 0, 0, 0, 0, 0, 0, 0, 0, 0, 0] ++ bytes4 [0x1000, 1, 8448, 0, 0, 0, 0, 0, 0, 0, 0, 0, 0, 0, 0, 0]
    ++ List.replicate 16384 0
def uploadF : RclFrame :=
  rcl 0x1B 1 1 (bytes4 [0x55424C45, 9, 1, 0, 16640, 0, 0, 0, 0, 0, 2, 0, 0, 0, 0, 0] ++ List.replicate 16656 0)
def empty9 : Entry := { entry9 with state := .empty, curEpoch := 0, rank := 0, projs := [], statoff := [] }
def uploading : State :=
  { pooled with
    cab := { pooled.cab with dir := [empty9], cacheSize := 64 }
    mgt := { pooled.mgt with projTab := [(64, 64, 0)] } }

/-- The envelope's plaintext, its tag good. -/
def zeroPlain : Plain := { tagOk := true, blob := zeroBlob }
/-- A `LEARN` blob of the same adapter: a master of zeros without moments, for publishing as Q4. -/
def learnHead : List Byte :=
  bytes4 [0x54424C42, 1, 9, 5, 0, 64, 0x3F800000, 0x3D000000, 0x177, 1, 33024, 0, 0, 0, 0, 0, 2, 0, 0, 0, 0, 0, 0, 0, 0] ++ List.replicate 28 0
    ++ bytes4 [0, 0, 0, 0, 0, 0, 0, 0, 0, 0, 256, 0, 0, 0, 0, 0] ++ bytes4 [0x1000, 1, 0, 0, 0, 0, 0, 0, 0, 0, 16640, 0, 0, 0, 0, 0]
def learnPlain : Plain := { tagOk := true, blob := learnHead ++ List.replicate 32768 0 }
def learnF : RclFrame :=
  rcl 0x1B 1 1 (bytes4 [0x55424C45, 9, 1, 0, 33024, 0, 0, 0, 0, 0, 2, 0, 0, 0, 0, 0] ++ List.replicate 33040 0)
def sgd : OptRec := { kind := 2, t := 0, lr := 0, beta1 := 0, beta2 := 0, eps := 0, wd := 0 }
def zeros (n : Nat) : List Nat := List.replicate n 0
def zeroMaster : Master := { opt := sgd, mats := [⟨zeros 4096, zeros 4096, []⟩, ⟨zeros 4096, zeros 4096, []⟩] }
def learnRec (i : Nat) : MRec :=
  { proj := 0, isB := i == 1, nesc := 0, panel0 := i, val := 0, scl := 0, psc := 0, esc := 0, mst := 256 + 16384 * i, mom := 0, resv := false }
def learnHdr : BlobHdr :=
  { magic := 0x54424C42, major := 1, minor := 0, aid := 9, ward := 5, epoch := 0, rank := 64, alpha := 0x3F800000, tau := 0x3D000000, wfmtA := 7
    wfmtB := 7, learn := true, mom := false, nproj := 1, blen := 33024, opt := sgd, resv := false }

theorem learn_hdr : (listReader learnPlain.blob).hdr = learnHdr := by decide +kernel
theorem learn_rec : ∀ i < 2, (listReader learnPlain.blob).mrec i = learnRec i := by decide +kernel

theorem learn_zero {i : Nat} (h : 256 ≤ i) : listReader learnPlain.blob i = 0 := by
  have hl : learnHead.length = 256 := by decide +kernel
  show (learnHead ++ List.replicate 32768 0).getD i 0 = 0
  rw [List.getD_append_right _ _ _ _ (by omega), List.getD_eq_getElem?_getD, List.getElem?_replicate]
  split <;> rfl

theorem num_zero {rd : Reader} {o : Nat} (n : Nat) (h : ∀ k, rd (o + k) = 0) : rd.num o n = 0 := by
  have hz : ∀ n, leNat (List.replicate n (0 : Byte)) = 0 := by
    intro n
    induction n with
    | zero => rfl
    | succ n ih =>
      rw [List.replicate_succ, leNat, ih]
      rfl
  have hm : ((List.range n).map fun i => rd (o + i)) = List.replicate n (0 : Byte) := by
    rw [List.eq_replicate_iff]
    exact ⟨by simp, by simp [h]⟩
  rw [Reader.num, hm, hz]

theorem learn_word {i : Nat} (n : Nat) (h : 256 ≤ i) : (listReader learnPlain.blob).num i n = 0 :=
  num_zero n fun k => learn_zero (by omega)

theorem learn_finite (i : Nat) (hi : i < 2) : uploadCheck7 learnHdr (listReader learnPlain.blob) (learnRec i) (64, 64) = true := by
  have hf : fin32 0 = true ∧ mag32 0 = 0 := by decide +kernel
  simp only [uploadCheck7, learnHdr, if_true, Bool.not_false, Bool.true_or, Bool.and_true, List.all_eq_true]
  intro j _
  have hw : (listReader learnPlain.blob).num ((learnRec i).mst + 4 * j) 4 = 0 := learn_word 4 (by simp only [learnRec]; omega)
  simp [hw, hf.1, hf.2]

theorem learn_master : (listReader learnPlain.blob).master learnHdr [(64, 64, 0)] = zeroMaster := by
  have hw : ∀ i j : Nat, (listReader learnPlain.blob).num (256 + 16384 * i + 4 * j) 4 = 0 := fun i j => learn_word 4 (by omega)
  have hz : ∀ (n i : Nat), ((List.range n).map fun j => (listReader learnPlain.blob).num (256 + 16384 * i + 4 * j) 4) = zeros n := by
    intro n i
    rw [zeros, List.eq_replicate_iff]
    exact ⟨by simp, by simp [hw]⟩
  have hc : ∀ n : Nat, ((List.range n).map fun _ => 0) = zeros n := by
    intro n
    rw [zeros, List.eq_replicate_iff]
    exact ⟨by simp, by simp⟩
  have h0 := learn_rec 0 (by decide)
  have h1 := learn_rec 1 (by decide)
  have hr : List.range (2 * learnHdr.nproj) = [0, 1] := by decide
  simp only [Reader.master, hr, List.map_cons, List.map_nil, h0, h1]
  simp only [learnHdr, Bool.false_eq_true, if_false, hc, learnRec, hz]
  rfl

theorem padded_zero : zeroMaster.padded 64 [(64, 64)] = zeroMaster := by
  have hz : ∀ (n : Nat) (p : Nat → Bool), (zeros n).mapIdx (fun k w => if p k then 0 else w) = zeros n := by
    intro n p
    apply List.ext_getElem (by simp)
    intro i h1 h2
    simp [zeros]
  simp only [Master.padded, zeroMaster, List.mapIdx_cons, List.mapIdx_nil, hz]

/-- The entry as the `LEARN` blob shapes it. -/
def learning9 : Entry := { (empty9.shaped learnHdr [0]) with home := 0 }
theorem of_isSome {α β γ : Type} {o : Option α × β × γ} (h : o.1.isSome = true) : ∃ a b c, o = (some a, b, c) := by
  obtain ⟨a, b, c⟩ := o
  cases a with
  | none => cases h
  | some a => exact ⟨a, b, c, rfl⟩

theorem zeros_pass : ∀ k < 2, (quantMatrix 7 9 1 k 64 0x3D000000 (List.replicate 64 (zeros 64))).1.isSome = true := by decide +kernel

theorem rows_zero (n : Nat) : ∀ m, rowsOf n m (zeros (m * n)) = List.replicate m (zeros n) := by
  intro m
  induction m with
  | zero => rfl
  | succ m ih =>
    have hn : (m + 1) * n - n = m * n := by rw [Nat.succ_mul, Nat.add_sub_cancel]
    have hm : min n ((m + 1) * n) = n := by rw [Nat.succ_mul]; omega
    rw [rowsOf, zeros, List.take_replicate, List.drop_replicate, hn, hm, List.replicate_succ]
    exact congrArg _ ih

theorem published {m : Master} {z z' : List Nat} {rows : List (List Nat)} {x y : List Nat × List (List PBlk)}
    (hm : m.padded 64 [(64, 64)] = { opt := sgd, mats := [⟨z, z', []⟩, ⟨z, z', []⟩] }) (h0 : rowsOf 64 64 z = rows)
    (hx : (quantMatrix 7 9 1 0 64 0x3D000000 rows).1 = some x) (hy : (quantMatrix 7 9 1 1 64 0x3D000000 rows).1 = some y) :
    (publishBlob learning9 m [(64, 64)] learnHdr.alpha learnHdr.tau learnHdr.tau 1 0).1.isSome = true := by
  have hr : learning9.rank = 64 := rfl
  have hp : learning9.projs = [0] := rfl
  have hi : List.range (2 * 1) = [0, 1] := by decide
  have hA : shapeOf 64 false (64, 64) = (64, 64) := by decide
  have hB : shapeOf 64 true (64, 64) = (64, 64) := by decide
  have hw : learning9.wfmtA = 7 ∧ learning9.wfmtB = 7 ∧ learning9.aid = 9 := by decide
  have hc : 0 + ceilDiv 64 256 = 1 := by decide
  simp only [publishBlob, hr, hm]
  simp [hp, hi, learnHdr, nth, hA, hB, h0, hw, hx, hy, hc]

theorem learn_published :
    (publishBlob learning9 zeroMaster [(64, 64)] learnHdr.alpha learnHdr.tau learnHdr.tau 1 0).1.isSome = true := by
  obtain ⟨x, hx⟩ := Option.isSome_iff_exists.1 (zeros_pass 0 (by decide))
  obtain ⟨y, hy⟩ := Option.isSome_iff_exists.1 (zeros_pass 1 (by decide))
  have h0 := rows_zero 64 64
  rw [show 64 * 64 = 4096 from by decide] at h0
  exact published padded_zero h0 hx hy

theorem witness_UploadHandsACandidateToTheEngine :
    (∀ x ∈ [(uploadF, zeroPlain), (learnF, learnPlain)],
      let f := x.1
      let rd := listReader x.2.blob
      let h := rd.hdr
      let projs := (List.range h.nproj).map fun i => (rd.mrec (2 * i)).proj
      uploading.admits 0x1B f = true ∧ uploading.sessOf f = some wardSess ∧ 80 ≤ f.data.length ∧ uploading.sec.lcState = 2
      ∧ uploading.pwr.powering = false
      ∧ (uploading.lnk.longs.filter fun l => match l.kind with | .upload .. => true | _ => false).length < 16 ∧ uploading.sec.coreFault = false
      ∧ uploading.cacheFit (ceilDiv (f.pl 0x10 8) granule) uploading.cab.extents = some (grantable - 64)
      ∧ uploadCheck1 f x.2 wardSess uploading.mgt.devId.toNat = true ∧ f.pl 4 3 ≠ 0 ∧ 0x80 ≤ x.2.blob.length ∧ h.magic = 0x54424C42
      ∧ h.major = 1 ∧ h.minor ≤ blobMinorMax ∧ uploadCheck3 h rd x.2.blob.length uploading.mgt.projTab = true
      ∧ uploading.entry h.aid = some empty9 ∧ empty9.ward = wardSess.ward ∧ empty9.owned = true ∧ empty9.state = .empty ∧ h.ward = empty9.ward
      ∧ uploading.shapeFixed empty9 = false
      ∧ (∀ r ∈ (List.range (2 * h.nproj)).map rd.mrec, r.nesc ≤ (mkMat h r (uploading.shape r.proj)).nblk / 64)
      ∧ empty9.frozen = false ∧ empty9.home = 0 ∧ projs = [0] ∧ uploading.shape 0 = (64, 64))
    ∧ (let rd := listReader zeroPlain.blob
      rd.hdr.learn = false ∧ (∀ r ∈ (List.range (2 * rd.hdr.nproj)).map rd.mrec, uploadCheck7 rd.hdr rd r (uploading.shape r.proj) = true)
      ∧ uploading.cabUse 0 + ceilDiv zeroPlain.blob.length granule ≤ (uploading.getP 0).cabQuota.toNat
      ∧ lowestFree (ceilDiv zeroPlain.blob.length granule) uploading.cab.exportBase 0
          (addExtent ⟨grantable - 64, ceilDiv (uploadF.pl 0x10 8) granule, 32, .resv uploading.cab.nextResv⟩ uploading.cab.extents) = some 0)
    ∧ (learnHdr.learn = true ∧ uploading.cab.extentOf (.master 9) = none
      ∧ uploading.cabUse 0 + ceilDiv (uploading.masterBytes 64 2 [0]) granule + ceilDiv (pubSize learning9 [(64, 64)]) granule
          ≤ (uploading.getP 0).cabQuota.toNat
      ∧ (let up := addExtent ⟨grantable - 64, ceilDiv (learnF.pl 0x10 8) granule, 32, .resv uploading.cab.nextResv⟩ uploading.cab.extents
        let mlen := ceilDiv (uploading.masterBytes 64 2 [0]) granule
        lowestFree mlen uploading.cab.exportBase 0 up = some 0
        ∧ lowestFree (ceilDiv (pubSize learning9 [(64, 64)]) granule) uploading.cab.exportBase 0 (addExtent ⟨0, mlen, 0, .master 9⟩ up) = some mlen))
    ∧ (listReader learnPlain.blob).hdr = learnHdr ∧ (∀ i < 2, uploadCheck7 learnHdr (listReader learnPlain.blob) (learnRec i) (64, 64) = true)
    ∧ (listReader learnPlain.blob).master learnHdr uploading.mgt.projTab = zeroMaster ∧ zeroMaster.padded 64 [(64, 64)] = zeroMaster
    ∧ empty9.shaped learnHdr [0] = learning9
    ∧ ∃ pb esc c, publishBlob learning9 zeroMaster [(64, 64)] learnHdr.alpha learnHdr.tau learnHdr.tau (nextEpoch empty9.curEpoch)
        uploading.pol.pubMinor.toNat = (some pb, esc, c) := by
  refine ⟨by decide +kernel, by decide +kernel, by decide +kernel, learn_hdr, learn_finite, learn_master, padded_zero, rfl, ?_⟩
  have he : nextEpoch empty9.curEpoch = 1 := by decide +kernel
  have hm : uploading.pol.pubMinor.toNat = 0 := by decide +kernel
  rw [he, hm]
  exact of_isSome learn_published

/-- `JOB_OPEN` for ward 5 in partition 0, as a generator and as a learner of priority 3. -/
def openJobF (role prio : Nat) : RclFrame := rcl 0x20 0 1 (bytes4 [2 ^ 8 * role + 2 ^ 12 * prio, 5])
def withTum : State := { live with prt := modNth live.prt 0 fun q => { q with tumOwn := 1 }, pol := { live.pol with servePart := 32 } }
def submitF : RclFrame := rcl 0x24 3 1 (bytes4 [32, 0, 2 ^ 18, 0, 0, 9, 0, 0])

theorem witness_JobsOpenCloseAndTakeSteps :
    (∀ f ∈ [openJobF 0 0, openJobF 1 3], withTum.admits 0x20 f = true ∧ f.data.length = 8 ∧ fld (f.word 0) 7 5 = 0 ∧ fld (f.word 0) 31 16 = 0
      ∧ fld (f.word 0) 11 8 ≤ 1 ∧ fld (f.word 0) 15 12 ≤ 3 ∧ fld (f.word 4) 31 20 = 0 ∧ withTum.pwr.powering = false
      ∧ withTum.pol.servePart.toNat ≠ fld (f.word 0) 4 0 ∧ (withTum.getP (fld (f.word 0) 4 0)).tumOwn ≠ 0
      ∧ (withTum.callerOf 0x20 f).mayActFor (fld (f.word 4) 19 0) = true ∧ fld (f.word 0) 4 0 < withTum.prt.length
      ∧ ((withTum.getP (fld (f.word 0) 4 0)).jobs.filter fun j => j.st != .ended).length < 64
      ∧ (withTum.getP (fld (f.word 0) 4 0)).jobs = [])
    ∧ (withJob.admits 0x21 (jobF 0x21 1) = true ∧ (jobF 0x21 1).data.length = 8 ∧ withJob.jobOf ((jobF 0x21 1).pl 0 8) = some (0, job1)
      ∧ (withJob.callerOf 0x21 (jobF 0x21 1)).mayActFor job1.ward = true ∧ job1.st ≠ .ended)
    ∧ (withJob.admits 0x24 submitF = true ∧ submitF.data.length = 32 ∧ submitF.pl 0x18 8 = 0 ∧ withJob.pwr.powering = false
      ∧ withJob.jobOf (submitF.pl 0 8) = some (0, job1) ∧ (withJob.callerOf 0x24 submitF).mayActFor job1.ward = true ∧ job1.st ≠ .ended
      ∧ job1.closed = false ∧ job1.queue.length < 16) := by decide +kernel

theorem witness_JobKillEndsTheJob :
    (withQueue.admits 0x22 (jobF 0x22 0) = true ∧ (jobF 0x22 0).data.length = 8 ∧ withQueue.jobOf ((jobF 0x22 0).pl 0 8) = some (0, queuedJob)
      ∧ (withQueue.callerOf 0x22 (jobF 0x22 0)).mayActFor queuedJob.ward = true ∧ queuedJob.st ≠ .ended
      ∧ ((withQueue.getP 0).jobs.map (·.num)).Nodup ∧ (∀ c ∈ (withQueue.getP 0).ctx, c.job ≠ queuedJob.num)
      ∧ (∀ c ∈ (withQueue.getP 0).svCtx, c.job ≠ queuedJob.num) ∧ (∀ k < 4, (withQueue.getHng k).held = []))
    ∧ (let s := live.modP 0 fun q => { q with jobs := [{ job1 with st := .ended }], jobNext := 2 };
      s.admits 0x22 (jobF 0x22 1) = true ∧ s.jobOf ((jobF 0x22 1).pl 0 8) = some (0, { job1 with st := .ended })
      ∧ (s.callerOf 0x22 (jobF 0x22 1)).mayActFor 5 = true) := by decide +kernel

/-- `PART_SET` of partition 0 with one pair. -/
def setPartF (off v : Nat) : RclFrame := rcl 0x25 0 0 (bytes4 [0, 1, off / 4, v])
def pair (off v : Nat) : List ConfPair := [{ off := off, cab := false, v := v }]

theorem witness_PartSetAppliesTheConfiguration :
    (∀ e ∈ [(0x24, 262144), (0x38, 1), (0x44, 1), (0x30, 5)], let f := setPartF e.1 e.2;
      live.admits 0x25 f = true ∧ f.data.length = 8 + 8 * (pair e.1 e.2).length ∧ fld (f.word 4) 7 0 = (pair e.1 e.2).length ∧ pair e.1 e.2 ≠ []
      ∧ fld (f.word 0) 31 5 = 0 ∧ fld (f.word 4) 31 8 = 0 ∧ (∀ i < (pair e.1 e.2).length, fld (f.word (8 + 8 * i)) 31 17 = 0)
      ∧ pair e.1 e.2 = ((List.range (pair e.1 e.2).length).map fun i =>
        { off := 4 * fld (f.word (8 + 8 * i)) 15 0, cab := bit (f.word (8 + 8 * i)) 16, v := f.pl (12 + 8 * i) 4 }))
    ∧ (∀ e ∈ [(0x20, 65535, true), (0x24, 262144, true), (0x40, 0, true), (0x38, 1, false)],
      (∀ x ∈ pair e.1 e.2.1, x.off ∈ prtPWords.filter fun o => decide (0x20 ≤ o ∧ o < 0x68)) ∧ (∀ q ∈ live.prt, q.tumNext = none)
      ∧ (∀ t ∈ tumsOf (live.getP 0).tumOwn, live.ras.fencePair.getLsbD (t / 2) = false)
      ∧ live.configOk (modNth live.prt 0 fun q => q.setWord e.1 e.2.1) live.cab (live.shf.map fun x => x.cap.toNat) = e.2.2)
    ∧ (∃ x ∈ pair 0x44 1, x.off ∉ (if x.cab then cabPWords else prtPWords))
    ∧ ((∀ x ∈ pair 0x30 5, x.off ∈ if x.cab then cabPWords else prtPWords) ∧ ∃ x ∈ pair 0x30 5, x.off ∈ [0x30] ∧ hwclrWord x.off = true) := by
  decide +kernel

def moveF (cancel : Nat) : RclFrame := rcl 0x30 0 0 (bytes4 [2 ^ 16 * 4, 2 ^ 8 * cancel])
def reclaimF : RclFrame := rcl 0x31 0 0 (bytes4 [5])
/-- The registrar of a pool of one seed, with range 5 LOST and a view being agreed on; and a source of a move. -/
def registrar : State :=
  { pooled with
    pol := { pooled.pol with
      seedCnt := 1, seeds := [33], addr := 33, ranges := pooled.pol.ranges ++ [(5, { state := .lost, inst := 9 })]
      pend := some { num := 3, full := false, add := [], del := [], ranges := [], wards := [] } } }
def ownMove (st : MoveSt) : Move :=
  { range := 0, peer := 4, part := 0, source := true, st := st, long := some 1, cmd := true, got := [], last := [], abort := none }
def moving : State :=
  { pooled with
    lnk := { pooled.lnk with longs := [{ id := 1, tag := 7, session := 0, vc := 0, urgent := false, ward := 0, took := 0, kind := .rangeMove 0 }], nextLong := 2 }
    pol := { pooled.pol with moves := [ownMove .begin] } }

theorem witness_RangeCommandsMoveAndReclaim :
    (∀ s ∈ [pooled, registrar], s.admits 0x30 (moveF 0) = true ∧ bit ((moveF 0).word 4) 8 = false ∧ (moveF 0).data.length = 8
      ∧ fld ((moveF 0).word 4) 7 5 = 0 ∧ fld ((moveF 0).word 4) 31 9 = 0
      ∧ s.canMove (fld ((moveF 0).word 0) 15 0) (fld ((moveF 0).word 0) 31 16) = true ∧ (s.isRegistrar = false ∨ s.pol.pend.isSome = true))
    ∧ (pooled.isRegistrar = false ∧ registrar.isRegistrar = true ∧ registrar.changing 0 = false)
    ∧ (moving.admits 0x30 (moveF 1) none (some true) = true ∧ bit ((moveF 1).word 4) 8 = true ∧ (moveF 1).data.length = 8
      ∧ fld ((moveF 1).word 4) 7 5 = 0 ∧ fld ((moveF 1).word 4) 31 9 = 0
      ∧ moving.pol.moves.find? (fun x => x.source && x.range == fld ((moveF 1).word 0) 15 0) = some (ownMove .begin)
      ∧ moving.isRegistrar = false ∧ moving.changing 0 = false)
    ∧ (registrar.admits 0x31 reclaimF = true ∧ reclaimF.data.length = 4 ∧ fld (reclaimF.word 0) 31 16 = 0
      ∧ (SMap.get freeRange registrar.pol.ranges (fld (reclaimF.word 0) 15 0)).state = .lost ∧ registrar.lostSeat = false
      ∧ registrar.pol.pend.isSome = true)
    ∧ (pooled.admits 0x31 reclaimF = true ∧ (SMap.get freeRange pooled.pol.ranges (fld (reclaimF.word 0) 15 0)).state ≠ .lost) := by
  decide +kernel

def downF : RclFrame := rcl 0x33 0 0 []
def stage (n due : Nat) : State := { live with pwr := { live.pwr with pdStage := BitVec.ofNat 3 n, powering := true, pdDue := due } }
def broken : State := { withQueue with ras := { withQueue.ras with unserviceable := true } }

theorem witness_PowerDownGoesThroughItsStages :
    (∀ s ∈ [withQueue, broken], s.admits 0x33 downF = true ∧ downF.data.length = 0 ∧ s.pwr.powering = false)
    ∧ (withQueue.ras.unserviceable = false ∧ (∀ q ∈ withQueue.prt, q.ctx = none ∧ q.svCtx = none) ∧ withQueue.prt.length = 32)
    ∧ (broken.ras.unserviceable = true ∧ broken.cab.grads = [] ∧ broken.pwr.pdTgtEn = false)
    ∧ ((stage 1 0).pwr.pdStage = 1 ∧ (∀ q ∈ (stage 1 0).prt, q.ctx = none ∧ q.svCtx = none) ∧ (stage 1 0).cab.grads = []
      ∧ ∃ q ∈ ((stage 1 0).modP 0 fun q => { q with ctx := some (stepCtx .run []) }).prt, q.ctx ≠ none ∨ q.svCtx ≠ none)
    ∧ ((stage 2 0).pwr.pdStage = 2 ∧ (∀ e ∈ (stage 2 0).pwr.pdLists, e.2.kind ≠ 3) ∧ (stage 2 0).pwr.pdTgtEn = false)
    ∧ ((stage 3 0).pwr.pdStage = 3 ∧ (stage 3 0).cab.engine = none ∧ (stage 3 0).cab.cands = [] ∧ (∀ m ∈ (stage 3 0).pol.moves, m.source = false)
      ∧ (∀ e ∈ (stage 3 0).cab.dir, e.master = none ∧ e.contribs = []) ∧ (stage 3 0).handle (stage 3 0).pwr.pdRptH = .null
      ∧ (stage 3 0).pol.instValid = false)
    ∧ (∀ due ∈ [500, 501], (stage 4 due).pwr.pdStage = 4 ∧ ((stage 4 due).pwr.pdDue ≤ (stage 4 due).now ↔ due = 500)
      ∧ ∀ r ∈ (stage 4 due).pol.reqs, r.kind ≠ .leave)
    ∧ ((stage 5 0).pwr.pdStage = 5 ∧ ∀ fr ∈ nth (stage 5 0).lnk.out 0 [], fr.opc ≠ 0x40)
    ∧ ((stage 3 500).pwr.pdStage = 3 ∧ (stage 3 500).pwr.pdDue ≤ (stage 3 500).now ∧ ∀ m ∈ (stage 3 500).pol.moves, m.source = false) := by
  decide +kernel

def creditF : RclFrame := { rcl 0 0 0xFFFF [] with w5 := 0x03010204 }
def unlinked : State := { live with lnk := { live.lnk with crdHeld := [4, 3, 0, 0], crdMin := [false, false, false, false] } }

theorem witness_CreditsAndMalformedFrames :
    (unlinked.lnk.lstate = 2 ∧ creditF.opc = 0 ∧ creditF.len = 0 ∧ unlinked.lnk.out = [[], [], [], []] ∧ unlinked.lnk.notes = [])
    ∧ ((rcl 0x40 0 0 []).silent .none = true ∧ (rcl 0x70 0 0 []).silent .none = true ∧ (rcl 1 0 0 []).silent .noCredit = true
      ∧ nth unlinked.lnk.hostCrd 0 0 ≠ 0)
    ∧ (∀ f ∈ [{ rcl 1 0 0xFFFF [] with w0 := 0xC0201 }, { rcl 1 0 0xFFFF [] with w6 := 1 }], live.lnk.lstate = 2 ∧ live.lnk.out.length = 4
      ∧ f.silent .none = false ∧ nth live.lnk.hostCrd f.vc 0 ≠ 0 ∧ (f.major ≠ 1 ∨ f.badField = true)) := by decide +kernel

theorem witness_MacrosAreReachedInOrder :
    (∀ op ∈ [0x10, 0x11, 0x12, 0x20, 0x21],
      let c := stepCtx .run [mi op, mi 0x13, mi 0x4F];
      (withStep live c).ctxOf 0 = some c ∧ c.phase = .run ∧ c.role ≠ .serve ∧ c.pc < c.prog.length ∧ (c.mi c.pc).op = op ∧ c.pc < c.recs.length)
    ∧ (let c := stepCtx .run [mi 0x4F];
      (withStep live c).ctxOf 0 = some c ∧ (c.mi c.pc).op ≠ 0x10) :=
  ⟨by decide +kernel, by decide +kernel⟩

def fenceCtx : Ctx := stepCtx .run [mi 0x43, mi 0x4F]
def earlierWrite : PWrite := { id := 1, space := 0, addr := 0, bytes := [1], tag := .step 0 1 0, drw := 0, key := 0, ew := 8, page := 0 }
/-- Behind a macro-instruction that has ended but whose write is on its way. -/
def fence2Ctx : Ctx :=
  let c := stepCtx .run [mi 0x48, mi 0x43, mi 0x4F]
  { c with pc := 1, recs := modNth c.recs 0 fun r => { r with reached := true, done := true } }
def statCtx : Ctx :=
  { stepCtx .run [mi 0x38, mi 0x4F] with
    drawers := [{ noDrawer with aid := 9, projs := [3] }] }
def counted : State :=
  { withStep live statCtx with cab := { live.cab with dir := [entry9] }, stat := [(9, 3, 4096, 9, 0), (9, 4, 4096, 0, 0), (8, 3, 4095, 0, 0)] }
def relCtx (done : GateDone) : Ctx :=
  let c := stepCtx .run [{ mi 0x41 with w2 := 3 }, mi 0x4F]
  { reach c 0 0 with pc := 1, gate := [{ idx := 0, latch := 3, wait := false, limit := 0, since := none, done := done }] }

theorem witness_FencesStatsAndLatchesComplete :
    (let s := withStep live fenceCtx;
      s.serialAt 0 0x43 = some (fenceCtx, 0) ∧ 0 < fenceCtx.recs.length ∧ s.quiet 0 fenceCtx 0 = true)
    ∧ (let s : State := { withStep live fence2Ctx with writes := [earlierWrite] };
      s.serialAt 0 0x43 = some (fence2Ctx, 1) ∧ 1 < fence2Ctx.recs.length ∧ s.quiet 0 fence2Ctx 1 = false)
    ∧ (counted.serialAt 0 0x38 = some (statCtx, 0) ∧ 0 < statCtx.recs.length ∧ (counted.stat.map fun e => (e.1, e.2.1)).Nodup
      ∧ (9, 3) ∈ counted.statPairs statCtx 0 ∧ (9, 4) ∉ counted.statPairs statCtx 0 ∧ counted.entry 9 = some entry9
      ∧ entry9.projs.findIdx? (· == 3) = some 0)
    ∧ (let c := { stepCtx .run [mi 0x4F] with pc := 0 };
      (withStep live c).ctxOf 0 = some c ∧ c.phase = .run ∧ c.role ≠ .serve ∧ c.pc < c.prog.length ∧ (c.mi c.pc).op = 0x4F ∧ 0 < c.recs.length)
    ∧ (∀ d ∈ [GateDone.acquired false, .passed],
      let c := relCtx d;
      let s := withStep { live with latch := [(3, { heldBy .context 0 false with osseq := 1 })] } c;
      s.ctxOf 0 = some c ∧ c.phase = .run ∧ 0 < c.recs.length
      ∧ (List.range c.prog.length).find? (fun k => (c.mi k).op == 0x41 && (nth c.recs k freshRec).reached && !(nth c.recs k freshRec).done
        && s.quiet 0 c k) = some 0) :=
  by and_intros <;> decide +kernel

/-- A drawer of adapter 9 with the partials of its projection's two matrices, and its gradient drawer. -/
def gradDrawer : GradDrawer := { part := 0, aid := 9, base := 4, celat := true, filled := true, homeWrite := false, data := [[0x3F800000], [0x40000000]] }
def partial9 (b : Bool) : GPartial := { drw := 0, proj := 3, isB := b, chunk := 0, o0 := 0, vals := [[0x3F800000]] }
def sumCtx (op pos : Nat) (drws : List Drawer) : Ctx :=
  let c := stepCtx .run [mi op, mi 0x4F]
  { (if pos = 9 then c else reach c 0 pos) with
    role := .learner, drawers := drws, parts := [partial9 false, partial9 true]
    rows := [{ vacant := false, aid := 9, ticket := 1, prefill := false, expl := false, port := 0, len := 1, kvPos := 0, join := 0, pinEpoch := 0
               status := .ok, epoch := 4, charged := false, checked := true, settled := false, drawer := some 0, cnt := (0, 0, 0, 0) }] }
def drawer9 : Drawer := { noDrawer with aid := 9, epoch := 4, slots := [0], nvec := 1, projs := [3] }
def summing (op pos : Nat) (drws : List Drawer) : State :=
  withStep { live with cab := { live.cab with dir := [entry9], grads := [gradDrawer] } } (sumCtx op pos drws)

/-- A learned adapter with its master, version 4 current, and room in its home partition. -/
def learned : Entry :=
  { entry9 with learn := true, projs := [], vtab := [freshSlot 4 .current 0 0 0], master := some { opt := ⟨0, 0, 0, 0, 0, 0, 0⟩, mats := [] } }
def shipCtx : Ctx := { stepCtx .run [mi 0x24, mi 0x4F] with role := .learner, owners := [(9, 3)] }
def shipping (c : Ctx) (gs : List GradDrawer) : State :=
  withStep { pooled with cab := { pooled.cab with dir := [learned], grads := gs } } c

theorem witness_GradientsAreReducedAndShipped :
    (∀ op ∈ [0x22, 0x23],
      (let c := sumCtx op 9 [];
        (summing op 9 []).serialAt 0 op = some (c, 0) ∧ 0 < c.recs.length ∧ (nth c.recs 0 freshRec).reached = false ∧ c.reduced = [])
      ∧ (let c := sumCtx op 9 [drawer9];
        (summing op 9 [drawer9]).serialAt 0 op = some (c, 0) ∧ (nth c.recs 0 freshRec).reached = false ∧ c.reduced ≠ [])
      ∧ (let c := sumCtx op 0 [drawer9];
        let s := summing op 0 [drawer9];
        s.serialAt 0 op = some (c, 0) ∧ (nth c.recs 0 freshRec).reached = true ∧ (c.reduced)[(nth c.recs 0 freshRec).pos]? = some 0
        ∧ (∀ sl ∈ (c.drw 0).slots, c.posOk sl = true)
        ∧ s.cab.grads.find? (fun g => g.part == 0 && g.aid == (c.drw 0).aid && g.base == (c.drw 0).epoch) = some gradDrawer
        ∧ gradDrawer.data.length = 2 * (c.drw 0).projs.length))
    ∧ (let c := { reach shipCtx 0 0 with lists := [listRec 9 .ok 3 4] };
      (shipping c []).serialAt 0 0x24 = some (c, 0) ∧ 0 < c.recs.length ∧ (nth c.recs 0 freshRec).reached = true
      ∧ ∀ r ∈ c.lists, r.kind = 3 → r.status ≠ .deferred)
    ∧ (let c := { reach shipCtx 0 0 with lists := [listRec 9 .deferred 3 4] };
      (shipping c []).serialAt 0 0x24 = some (c, 0) ∧ (nth c.recs 0 freshRec).reached = true ∧ ∃ r ∈ c.lists, r.kind = 3 ∧ r.status = .deferred)
    ∧ (let c := shipCtx;
      let s := shipping c [{ gradDrawer with part := 1 }];
      s.serialAt 0 0x24 = some (c, 0) ∧ (nth c.recs 0 freshRec).reached = false ∧ (c.mi 0).flag = false
      ∧ (∀ g ∈ s.cab.grads, g.part ≠ 0) ∧ ∀ r ∈ c.lists, r.kind = 3 → r.status ≠ .deferred)
    ∧ (let c := shipCtx;
      let s := shipping c [gradDrawer];
      s.serialAt 0 0x24 = some (c, 0) ∧ (nth c.recs 0 freshRec).reached = false ∧ (c.mi 0).flag = false
      ∧ s.cab.grads.filter (fun g => g.part == 0) = [gradDrawer] ∧ (∀ r ∈ c.lists, r.kind = 3 → r.status ≠ .deferred)
      ∧ gradDrawer.celat = true ∧ s.shipOwner 0 c.sub.sseq gradDrawer.aid = some s.me ∧ s.entry gradDrawer.aid = some learned ∧ learned.owned = true
      ∧ learned.learn = true ∧ learned.state = .ready ∧ learned.master.isSome = true
      ∧ (learned.slot gradDrawer.base).any (fun v => v.vstate == .current || v.vstate == .retained) = true ∧ learned.frozen = false
      ∧ (List.range 16).find? (fun i => !(learned.slotsUsed.contains i)) = some 0
      ∧ (s.charge learned.home (s.contribLen learned) (.contrib gradDrawer.aid 0)).1.isSome = true
      ∧ ∀ x ∈ learned.keysNow ++ learned.keysPrev, x ≠ { sseq := c.sub.sseq, inst := s.me, part := 0, idx := 0 })
    ∧ (let c := shipCtx;
      let s := shipping c [{ gradDrawer with celat := false }];
      s.serialAt 0 0x24 = some (c, 0) ∧ (nth c.recs 0 freshRec).reached = false ∧ (c.mi 0).flag = false
      ∧ s.cab.grads.filter (fun g => g.part == 0) = [{ gradDrawer with celat := false }] ∧ (∀ r ∈ c.lists, r.kind = 3 → r.status ≠ .deferred)
      ∧ ∀ e ∈ s.pwr.pdLists, e.1 ≠ 0) :=
  by and_intros <;> decide +kernel

/-- The list of an `OPT_STEP` or `QUANT_PUBLISH`: adapter 9, at 65,536 in HBM. -/
def listDesc : Desc :=
  { part := 0, words := wordsOf (bytes4 [0x01C, 0, 1, 0, 0, 0, 0, 0, 0, 0, 0, 0, 0, 0, 0, 0, 65536, 0, 0, 0, 0, 0, 0, 0]) 24, overlap := false
    misaligned := false }
def listCtx (op pos : Nat) (ls : List ListRec) : Ctx :=
  let c := reach (stepCtx .run [mi op (2 ^ 18), mi 0x4F]) 0 pos
  { c with role := .learner, lists := ls, recs := modNth c.recs 0 fun r => { r with list := [9] } }
def listing (e : Entry) (c : Ctx) : State :=
  withStep { pooled with
    desc := [(0, { tag := 1, desc := some listDesc, dead := false, refs := 1, retired := false })], hbm := [(65536, 9)]
    cab := { pooled.cab with dir := [e] } } c
def bigMaster : Master := { opt := ⟨0, 0, 0, 0, 0, 0, 0⟩, mats := List.replicate 65 ⟨List.replicate 64 0, [], []⟩ }
def round5 : Round := { contribs := [], gscale := 0, target := 5, mark := 0, opt := ⟨0, 0, 0, 0, 0, 0, 0⟩ }

theorem witness_LearnersUpdateAndPublish :
    (∀ op ∈ [0x30, 0x31],
      let c := listCtx op 1 [];
      let s := listing learned c;
      s.serialAt 0 op = some (c, 0) ∧ 0 < c.recs.length ∧ (nth c.recs 0 freshRec).reached = true ∧ (nth c.recs 0 freshRec).list[(nth c.recs 0 freshRec).pos]? = none
        ∧ ∀ x ∈ c.lists, x.kind = 2 → x.status ≠ .deferred)
    ∧ (let c := listCtx 0x30 0 [];
      let s := listing learned c;
      s.serialAt 0 0x30 = some (c, 0) ∧ (nth c.recs 0 freshRec).reached = true ∧ (nth c.recs 0 freshRec).list[(nth c.recs 0 freshRec).pos]? = some 9
        ∧ c.lists.any (·.openOpt 9) = false ∧ s.optPass 0 9 = some (skipRec 9 1))
    ∧ (∀ e ∈ [(bigMaster, true), ({ bigMaster with mats := [] }, false)],
      let ent := { learned with master := some e.1, round := some round5 };
      let c := listCtx 0x30 0 [listRec 9 .deferred 1 0];
      let s := listing ent c;
      s.serialAt 0 0x30 = some (c, 0) ∧ (nth c.recs 0 freshRec).reached = true ∧ (nth c.recs 0 freshRec).list[(nth c.recs 0 freshRec).pos]? = some 9
        ∧ c.lists.any (·.openOpt 9) = true ∧ s.entry 9 = some ent ∧ ent.master = some e.1 ∧ ent.round = some round5
        ∧ (if e.2 then round5.mark + optTileSize < e.1.size else e.1.size ≤ round5.mark + optTileSize))
    ∧ (let c := listCtx 0x31 1 [listRec 9 .deferred 2 5];
      let s := listing learned c;
      s.serialAt 0 0x31 = some (c, 0) ∧ (nth c.recs 0 freshRec).reached = true ∧ (nth c.recs 0 freshRec).list[(nth c.recs 0 freshRec).pos]? = none
        ∧ ∃ x ∈ c.lists, x.kind = 2 ∧ x.status = .deferred)
    ∧ (let e := { learned with dirty := true, target := 5 };
      let m : Master := { opt := ⟨0, 0, 0, 0, 0, 0, 0⟩, mats := [] };
      let c := listCtx 0x31 0 [];
      let s := listing e c;
      s.serialAt 0 0x31 = some (c, 0) ∧ (nth c.recs 0 freshRec).reached = true ∧ (nth c.recs 0 freshRec).list[(nth c.recs 0 freshRec).pos]? = some 9
        ∧ badEntry 9 = none ∧ s.entry 9 = some e ∧ e.master = some m ∧ e.owned = true ∧ e.home = 0 ∧ e.badMaster = false ∧ e.dirty = true
        ∧ e.round = none ∧ e.frozen = false
        ∧ (s.charge 0 (ceilDiv (pubSize e (e.projs.map s.shape)) granule) (.resv s.cab.nextResv)).1.isSome = true
        ∧ (publishBlob e m (e.projs.map s.shape) e.alpha e.tau e.tau e.target s.pol.pubMinor.toNat).1.isSome = true) :=
  by and_intros <;> decide +kernel

/-! ### A step from its issue to its end -/

/-- A row table of one row: adapter 9 with ward 5's ticket. -/
def rowsDesc : Desc :=
  { part := 0, words := wordsOf (bytes4 [0x02C, 0, 8, 1, 0, 0, 0, 0, 32, 0, 0, 0, 0, 0, 0, 0, 65536, 0, 0, 0, 0, 0, 0, 0]) 24, overlap := false
    misaligned := false }
def rowState (c : Ctx) : State :=
  (withStep { withQueue with
    hbm := [(65536, 9), (65540, 2), (65544, 1), (65552, 1)], cab := { live.cab with dir := [{ entry9 with vtab := [freshSlot 4 .current 0 0 0] }] }
    desc := [(0, { tag := 1, desc := some rowsDesc, dead := false, refs := 1, retired := false })] } c).modP 0 fun q =>
      { q with rowQuota := 4, drwQuota := 4 }
def row9 : Row :=
  { vacant := false, aid := 9, ticket := 2, prefill := false, expl := false, port := 0, len := 1, kvPos := 0, join := 1, pinEpoch := 0
    status := .ok, epoch := 0, charged := false, checked := false, settled := false, drawer := none, cnt := (0, 0, 0, 0) }
def allAwake (s : State) : State := { s with pwr := { s.pwr with domAwake := BitVec.allOnes 96 } }
def rowsProg : List MI := [mi 1 (2 ^ 18), mi 2, mi 0x4F]

def samp9 : Sampled :=
  { stale := [], tickets := [(2, tkt 5 1)], common := 0, rowQuota := 4, drwQuota := 4, dir := [{ entry9 with vtab := [freshSlot 4 .current 0 0 0] }], notes := [] }

theorem witness_StepsAreIssued :
    (withQueue.issueHeld = false ∧ withQueue.lnk.notes = [] ∧ (withQueue.getP 0).running = some queuedJob ∧ (withQueue.getP 0).ctx = none
      ∧ (withQueue.getP 0).svCtx = none ∧ queuedJob.queue = [sub1] ∧ (withQueue.getP 0).lastIssue = none)
    ∧ (let c := stepCtx .sample rowsProg;
      (rowState c).ctxOf 0 = some c ∧ c.phase = .sample ∧ (rowState c).issueHeld = false ∧ ∀ m ∈ c.prog, m.bsrc < 3)
    ∧ (let c := { stepCtx .table rowsProg with samp := samp9 };
      let s := allAwake (rowState c);
      s.ctxOf 0 = some c ∧ c.phase = .table ∧ s.rowsDesc c = .ok rowsDesc ∧ rowsDesc.space = 0 ∧ s.hbmAwake = true ∧ (∀ m ∈ c.prog, m.bsrc < 3)
        ∧ s.dOf c.sub.ofsH = none ∧ nth c.bounds (rowsIdx c.prog) 0 = 0 ∧ rowsDesc.size 1 = 1 ∧ 1 ≤ c.samp.rowQuota
        ∧ (List.range 1).map (fun i => rowOf (c.role == .learner) c.sub.sseq ((List.range 8).map fun k => (s.u32 (s.view c tagRows) rowsDesc k [i]).1))
          = [row9].map some
        ∧ [row9].foldl (fun k r => k + r.len) 0 ≤ 1048576 ∧ ∀ r ∈ [row9], r.vacant = false → s.ras.fenceQ.getLsbD r.port = false)
    ∧ (let c := { stepCtx .notice rowsProg with rows := [row9], samp := samp9 };
      let s := rowState c;
      s.ctxOf 0 = some c ∧ c.phase = .notice ∧ c.noteWait = [] ∧ s.needNote c = []) :=
  by and_intros <;> decide +kernel

theorem witness_SortFormsTheDrawers :
    (let c := { stepCtx .sort rowsProg with rows := [{ row9 with epoch := 4, checked := true }], samp := samp9 };
    let s := rowState c;
    s.ctxOf 0 = some c ∧ c.phase = .sort ∧ ∀ r ∈ c.rows, r.drawer = none) := by decide +kernel

def gateOf (wait : Bool) (limit : Nat) (since : Option Nat) : GateItem :=
  { idx := 2, latch := 3, wait := wait, limit := limit, since := since, done := .pending }
def gateCtx (g : GateItem) : Ctx := { stepCtx .gate [mi 1, mi 2, mi 0x40, mi 0x4F] with gate := [g] }

theorem witness_GatesTakeTheirLatches :
    (∀ b ∈ [false, true], ∀ l ∈ [Latch.fresh, heldBy .host 0 false, { heldBy .host 0 false with st := .broken, okind := .core, cnt := 0 },
        { Latch.fresh with domain := 5 }, { heldBy .host 0 false with st := .broken, domain := 5 }],
      let g := gateOf b 0 none;
      let s := withStep { live with latch := [(3, l)] } (gateCtx g);
      s.ctxOf 0 = some (gateCtx g) ∧ (gateCtx g).phase = .gate ∧ (gateCtx g).gate = [g] ∧ g.done = .pending ∧ g.latch < 32768
        ∧ (s.latchAt g.latch).st = l.st ∧ ((s.latchAt g.latch).admits (.context 0) = true ↔ l.domain ≠ 5))
    ∧ (∀ e ∈ [(0, none), (1, none), (1, some 399), (1, some 400)],
      let g := gateOf false e.1 e.2;
      (gateCtx g).gate.find? (fun g => g.done == .pending) = some g
        ∧ (e = (1, some 399) ↔ g.limit ≠ 0 ∧ ∃ t0 ∈ g.since, t0 + usTicks g.limit ≤ live.now)) := by
  decide +kernel

/-- A unit of the first macro-instruction for drawer 0, on tumbler 0. -/
def unit1 (st : UnitState) : WUnit :=
  { mkUnit 0 0 .shrink 0 0 0 1 0 2 ⟨64, 64⟩ 100 with id := 1, st := st }
def drawn : Drawer := { noDrawer with aid := 9, epoch := 4, dead := false, slots := [0], nvec := 1, projs := [3], ofs := [0] }
def runCtx (ph : Phase) (us : List WUnit) : Ctx :=
  { reach (stepCtx ph [mi 0x310, mi 2, mi 0x4F]) 0 0 with
    rows := [{ row9 with epoch := 4, drawer := some 0 }], drawers := [drawn], units := us
    vecs := if us.any (fun u => u.st == .waiting && u.buf == 0) then [] else [{ slot := 0, off := 0, proj := 3, q := ⟨1, [0x3F80, 0], []⟩, answered := false }] }

theorem witness_StepsReserveAndRun :
    (let c := runCtx .reserve [];
      let s := rowState c;
      s.ctxOf 0 = some c ∧ c.phase = .reserve ∧ s.issueHeld = false ∧ s.arbBlocked 0 = false ∧ s.arbPassed 0 = false ∧ (s.getP 0).levelsOk = true)
    ∧ (let s := (rowState (runCtx .reserve [])).modP 0 fun q => { q with effTb := [(1, 1), (0, 0), (0, 0)], tbHbmLvl := -1 };
      (s.getP 0).levelsOk = false)
    ∧ (∀ m ∈ [1, 2],
      let c := { runCtx .restore [] with saveMask := BitVec.ofNat 128 m, resume := .run };
      let s := rowState c;
      s.ctxOf 0 = some c ∧ c.phase = .restore ∧ s.issueHeld = false ∧ s.arbBlocked 0 = false ∧ s.arbPassed 0 = false
        ∧ ((s.getP 0).tumOwn = c.saveMask ↔ m = 1) ∧ (∀ t ∈ tumsOf (s.getP 0).tumOwn, (s.tumOf t).st ≠ .fenced) ∧ c.resume ≠ .reserve)
    ∧ (let c := runCtx .wake [];
      let s := allAwake (rowState c);
      s.ctxOf 0 = some c ∧ c.phase = .wake ∧ (∀ d ∈ s.stepDoms 0 c, s.awake d = true) ∧ (s.getP 0).saved = false ∧ c.role ≠ .serve)
    ∧ (let c := { runCtx .wake [unit1 .waiting] with resume := .run };
      let s := (allAwake (rowState c)).modP 0 fun q => { q with saved := true };
      s.ctxOf 0 = some c ∧ (∀ d ∈ s.stepDoms 0 c, s.awake d = true) ∧ (s.getP 0).saved = true ∧ (s.getP 0).svCtx = none ∧ c.resume = .run)
    ∧ (∀ t0 ∈ [0, 401],
      let w := { unit1 .waiting with buf := 0 };
      let c0 := runCtx .run [w];
      let c := { c0 with recs := modNth c0.recs 0 fun r => { r with since := some t0 } };
      let s := (rowState c).modP 0 fun q => { q with vecWait := 1 };
      s.ctxOf 0 = some c ∧ c.units.find? (fun x => x.id == 1) = some w ∧ c.phase = .run ∧ (s.getP 0).vecWait ≠ 0 ∧ w.st = .waiting
        ∧ (nth c.recs w.mi freshRec).reached = true ∧ c.vecsHere w = false ∧ (nth c.recs w.mi freshRec).since = some t0
        ∧ (t0 + usTicks (s.getP 0).vecWait.toNat ≤ s.now ↔ t0 = 0)) :=
  by and_intros <;> decide +kernel

def stream0 : Stream := { die := 0, drw := 0, occ := 1, layer := 0, started := false, done := false }

theorem witness_UnitsRunAndComplete :
    (let w := unit1 .waiting;
      let c := runCtx .run [w];
      let s := rowState c;
      s.ctxOf 0 = some c ∧ c.phase = .run ∧ c.units.find? (fun x => x.id == 1) = some w ∧ s.ras.poison = [] ∧ s.unitReady 0 c w = true
        ∧ c.room w = true ∧ (∀ v ∈ c.units, v.id < w.id → False) ∧ s.loadRngs c w = [])
    ∧ (let w := unit1 .running;
      let c := runCtx .run [w];
      let s := rowState c;
      s.ctxOf 0 = some c ∧ c.units.find? (fun x => x.id == 1) = some w ∧ w.st = .running ∧ s.outRngs c w = []
        ∧ ((s.unitOut c w).vecs.map fun x => (x.1, x.2.1)) = [(0, 0)] ∧ c.posOk 0 = true)
    ∧ (let w := { unit1 .running with kind := .dB };
      let c := { runCtx .run [w] with role := .learner };
      let s := rowState c;
      s.ctxOf 0 = some c ∧ s.outRngs c w = [] ∧ (s.unitOut c w).part.isSome = true)
    ∧ (let c := { runCtx .run [] with streams := [stream0] };
      let s := rowState c;
      s.ras.poison = [] ∧ c.headStream 0 = some stream0 ∧ s.blobHere (c.drw 0) = true ∧ c.bufFree stream0 = true ∧ 0 < s.shf.length) :=
  by and_intros <;> decide +kernel

/-- Two vectors of 64 elements, and a step that copies the first onto the second. -/
def copyCtx : Ctx := reach (stepCtx .run [{ mi 0x48 (2 ^ 18) with w3 := 2 ^ 18 + 1 }, mi 0x4F]) 0 0
def copying : State :=
  withStep { live with
    hbm := [(65538, 0x80), (65539, 0x3F)]
    desc := [(0, { tag := 1, desc := some (vecDesc 65536), dead := false, refs := 1, retired := false }),
             (1, { tag := 1, desc := some (vecDesc 131072), dead := false, refs := 1, retired := false })] } copyCtx

theorem witness_WritesAndCopiesMoveBytes :
    (let w : PWrite := { id := 4, space := 0, addr := 65536, bytes := [1, 2], tag := .step 0 1 0, drw := 0, key := 0, ew := 8, page := 0 };
      let s : State := { live with writes := [w, { w with id := 5, space := 1, tag := .report 0 1 }] };
      s.writes.find? (fun x => x.id == 4) = some w ∧ w.space < 2 ∧ w.key = 0
        ∧ s.writes.find? (fun x => x.id == 5) = some { w with id := 5, space := 1, tag := .report 0 1 })
    ∧ (copying.ctxOf 0 = some copyCtx ∧ copyCtx.phase = .run
      ∧ (List.range copyCtx.prog.length).find? (fun i => (copyCtx.mi i).op == 0x48 && (nth copyCtx.recs i freshRec).reached && !(nth copyCtx.recs i freshRec).done)
        = some 0
      ∧ copying.readsReady 0 copyCtx 0 none = true ∧ copying.dOf (copyCtx.mi 0).op0 = some (vecDesc 65536)
      ∧ copying.dOf (copyCtx.mi 0).op1 = some (vecDesc 131072) ∧ nth copyCtx.bounds 0 0 = 0 ∧ (copyCtx.mi 0).iform = 0 ∧ (copyCtx.mi 0).ih = 0
      ∧ (copyCtx.mi 0).flag = false
      ∧ (∀ d ∈ [vecDesc 65536, vecDesc 131072], d.fmt = 0 ∧ d.rank = 1 ∧ d.blkAxis = 0 ∧ d.paged = false ∧ d.space < 2 ∧ d.scaleH = 0 ∧ d.pscaleH = 0 ∧ d.escH = 0)
      ∧ (vecDesc 65536).base + 4 * (vecDesc 65536).size 0 ≤ (vecDesc 131072).base
      ∧ (vecDesc 65536).size 0 = (vecDesc 131072).size 0 ∧ 0 < copyCtx.recs.length) :=
  ⟨by decide +kernel, by decide +kernel⟩

def endCtx (w : Bool) : Ctx := { stepCtx .ending [mi 0x4F] with torn := true, cause := 1, written := w }
def savingCtx (l : Bool) : Ctx := { runCtx .saving [unit1 .waiting] with leaving := l }

theorem witness_StepsEndAndSave :
    (∀ w ∈ [false, true],
      let s := withStep withJob (endCtx w);
      s.ctxOf 0 = some (endCtx w) ∧ s.ended 0 (endCtx w) = true ∧ (s.getP 0).finals = [] ∧ (endCtx w).role ≠ .serve ∧ (endCtx w).written = w
        ∧ (endCtx w).vecs = [] ∧ s.lnk.canSend 2 = true ∧ s.writes = [] ∧ (∀ k < 4, (s.getHng k).held = []) ∧ (s.getP 0).svCtx = none)
    ∧ (let c := { stepCtx .run [mi 0x4F] with pc := 1, recs := [{ freshRec with reached := true, done := true }] };
      (withStep withJob c).complete 0 c = true)
    ∧ (let c := { endCtx false with role := .serve };
      (withStep withJob c).ended 0 c = true ∧ ((withStep withJob c).getP 0).finals = [])
    ∧ (∀ l ∈ [false, true],
      let s := rowState (savingCtx l);
      s.ctxOf 0 = some (savingCtx l) ∧ (savingCtx l).phase = .saving ∧ s.stepWrites 0 (savingCtx l).sub.sseq = false ∧ (savingCtx l).leaving = l
        ∧ s.writes = [] ∧ s.pwr.powering = false) :=
  by and_intros <;> decide +kernel

/-- A vector for slot 0 of step 1 of partition 0, adapter 9 and ward 5's ticket, on projection 0; `h` on port 0. -/
def rowVec (aid : Nat) : RowVec :=
  { w0 := BitVec.ofNat 32 (2 ^ 5), w1 := 0, w2 := BitVec.ofNat 32 aid, w3 := 2, rest := [], rowPart := 0, data := [] }
def hingeUp (s : State) (used : Nat) : State :=
  allAwake { s with hng := modNth s.hng 0 fun h => { h with lstate := 2, crdUsed := SMap.set 0 h.crdUsed 0 used } }
def vecState (phase : Phase) (v : List Vec) (used : Nat) : State :=
  let c := runCtx phase []
  hingeUp (rowState { c with vecs := v }) used

def resp1 : Resp := { part := 0, sseq := 257, slot := 1, off := 0, proj := 3, status := .ok, zero := true, placed := false, ofmt := 0, data := [] }

theorem witness_VectorsAndResponsesPass :
    (let s := hingeUp live 0;
      let v := rowVec 9;
      0 < s.hng.length ∧ (s.getHng 0).lstate = 2 ∧ v.rowPart = v.part ∧ v.reserved = false ∧ s.awake (domCommon 0) = true
        ∧ s.vecFor v.part v.sseq = .orphan)
    ∧ (∀ n ∈ [0, 63, 64], (vecState .sort [] n).vecFor 0 1 = .hold ∧ ((vecState .sort [] n).getHng 0).lstate = 2
      ∧ SMap.get 0 ((vecState .sort [] n).getHng 0).crdUsed 0 + (rowVec 9).beats = n + 1)
    ∧ (let s := vecState .run [] 0;
      let v := rowVec 9;
      ∃ c, s.ctxOf v.part = some c ∧ s.vecFor v.part v.sseq = .check ∧ c.refused = none ∧ c.rows.length ≤ ({ v with w0 := BitVec.ofNat 32 (2 ^ 5 + 2 ^ 13) } : RowVec).slot
        ∧ c.tagBad 0 v = false ∧ (c.row v.slot).settled = false ∧ (c.row v.slot).status = .ok)
    ∧ (let s : State := { hingeUp live 0 with hng := modNth (hingeUp live 0).hng 0 fun h => { h with egress := [resp1] } };
      (s.getHng 0).egress = resp1 :: [] ∧ (s.getHng 0).lstate = 2) :=
  ⟨by decide +kernel, by decide +kernel, ⟨_, rfl, by decide +kernel⟩, by decide +kernel⟩

/-! ### Links and host accesses -/

def hingeAt (n st : Nat) (out : List Resp := []) : State :=
  { live with hng := modNth live.hng n fun h => { h with lstate := BitVec.ofNat 3 st, egress := out } }
def portAt (n st : Nat) : State := { live with fab := { live.fab with ports := modNth live.fab.ports n fun h => { h with lstate := BitVec.ofNat 3 st } } }
def linkAt (st due : Nat) : State :=
  { live with lnk := { live.lnk with lstate := BitVec.ofNat 3 st, crdHeld := [0, 0, 0, 0] }, mgt := { live.mgt with dueAt := [(perRetrain, due)] } }

theorem witness_LinksGoDownWakeAndTrain :
    (∀ n ∈ [0, 3], ∀ st ∈ [1, 2, 3], n < live.hng.length ∧ ((hingeAt n st).getHng n).lstate = BitVec.ofNat 3 st ∧ ((hingeAt n st).getHng n).retrained = false
      ∧ ((hingeAt n st).getHng n).egress = [] ∧ ((hingeAt n st [resp1]).getHng n).egress = resp1 :: []
      ∧ (hingeAt n st).awake (domCommon n) = false ∧ (hingeAt n st).fencedDom (domCommon n) = false)
    ∧ (∀ n ∈ [0, 7], ∀ st ∈ [1, 2, 3], n < live.fab.ports.length ∧ ((portAt n st).getPort n).lstate = BitVec.ofNat 3 st ∧ ((portAt n st).getPort n).retrained = false
      ∧ (portAt n st).awake (domFab n) = false ∧ (portAt n st).fencedDom (domFab n) = false)
    ∧ live.pwr.wakes = []
    ∧ (∀ due ∈ [500, 501], (linkAt 0 due).side.rstN = true ∧ (linkAt 0 due).lnk.lstate = 0 ∧ 1 ≤ (linkAt 0 due).mgt.bootStage.toNat
      ∧ (linkAt 0 due).pwr.pdStage.toNat ≠ 6 ∧ (linkAt 0 due).due perRetrain = decide (due = 500))
    ∧ ((linkAt 1 0).lnk.lstate = 1 ∧ (linkAt 1 0).lnk.crdHeld = [0, 0, 0, 0] ∧ (linkAt 2 0).lnk.lstate = 2) :=
  by and_intros <;> decide +kernel

def xferOf (use : XferFor) (wr : Option (List Byte)) : Xfer :=
  { xid := 7, space := 2, addr := 4096, len := 4, write := wr, use := use, retried := false, t0 := 0, got := none }
def withXfer (x : Xfer) (t0 : Nat) (s : State) : State := { s with fab := { s.fab with hostTmo := 1, xfers := [{ x with t0 := t0 }] } }
def hostCtx : Ctx :=
  { stepCtx .run [mi 0x4F] with host := [{ tag := 3, space := 2, addr := 4096, len := 4, data := none }] }

theorem witness_HostAccessesComplete :
    (let s := withXfer (xferOf (.step 0 1 3) none) 0 (withStep live hostCtx);
      s.fab.xfers.find? (fun y => y.xid == 7 && y.write.isNone && y.got.isNone) = some (xferOf (.step 0 1 3) none)
        ∧ s.ctxOf 0 = some hostCtx ∧ hostCtx.sub.sseq = 1 ∧ s.fab.xfers.find? (fun y => y.xid == 7 && y.got.isNone) = some (xferOf (.step 0 1 3) none)
        ∧ (xferOf (.step 0 1 3) none).t0 + usTicks s.fab.hostTmo.toNat ≤ s.now ∧ s.fab.waiting = [])
    ∧ (let x := xferOf (.slowRead 0 9 4) none;
      let s : State := { live with fab := { live.fab with xfers := [x, { x with xid := 8 }] } };
      let u : State := { live with fab := { live.fab with xfers := [x, { x with xid := 8, got := some [1] }] } };
      s.fab.xfers.find? (fun y => y.xid == 7 && y.write.isNone && y.got.isNone) = some x ∧ { x with xid := 8 } ∈ s.fab.xfers
      ∧ u.fab.xfers.find? (fun y => y.xid == 7 && y.write.isNone && y.got.isNone) = some x ∧ ∀ y ∈ u.fab.xfers, y.xid ≠ 7 → y.got.isSome = true)
    ∧ (∀ t ∈ [WriteTag.step 0 1 0, .other],
      let x := xferOf (.write 4) (some [1, 2, 3, 4]);
      let w : PWrite := { id := 4, space := 2, addr := 4096, bytes := [1, 2, 3, 4], tag := t, drw := 0, key := 0, ew := 8, page := 0 };
      let s : State := { withXfer x 0 live with writes := [w] };
      s.fab.xfers.find? (fun y => y.xid == 7 && y.write.isSome) = some x ∧ x.use = .write 4 ∧ s.writes.find? (fun w => w.id == 4) = some w ∧ 2 ≤ w.space
        ∧ s.fab.xfers.find? (fun y => y.xid == 7 && y.got.isNone) = some x ∧ x.t0 + usTicks s.fab.hostTmo.toNat ≤ s.now ∧ s.fab.waiting = [])
    ∧ (let x := xferOf (.slowWrite 0 9 4) (some [1, 2, 3, 4]);
      (withXfer x 0 live).fab.xfers.find? (fun y => y.xid == 7 && y.write.isSome) = some x ∧ ∀ y ∈ (withXfer x 0 live).fab.xfers, y.use = x.use → y.xid = 7)
    ∧ (let x := xferOf (.write 4) (some [1, 2, 3, 4]);
      let s := withXfer x 400 live;
      s.fab.xfers.find? (fun y => y.xid == 7 && y.got.isNone) = some { x with t0 := 400 } ∧ s.now < 400 + usTicks s.fab.hostTmo.toNat
      ∧ ∃ y ∈ ({ withXfer x 0 live with fab := { (withXfer x 0 live).fab with waiting := [{ x with t0 := 0 }] } } : State).fab.waiting, y.xid = 7) :=
  by and_intros <;> decide +kernel

/-! ### The pool -/

/-- A message of a type from member 4 to this member, 3, in view 2. -/
def rppM (ty : Nat) (aid epoch : Nat) (pl : RppPl) (status : Nat := 0) : RppMsg :=
  { hdr := { w0 := BitVec.ofNat 32 (1 + 2 ^ 16 * ty + 2 ^ 24 * rppVc ty + 2 ^ 26), w1 := 4 + 2 ^ 16 * 3, w2 := 9, w3 := 2
             w4 := BitVec.ofNat 32 (aid + 2 ^ 24 * status), w5 := BitVec.ofNat 32 epoch, w6 := 0, w7 := 0 }
    pl := pl }
def sess4 : RppSess :=
  { inst := 4, minor := 0, blobMinor := 0, pubMinor := 0, opening := false, unreach := false, nextTag := 10, idle := 0, doneTags := [], busyTags := [], used := 0, used0 := 0, wait := [], asm := [] }
/-- A member of a pool with an open session to member 4; `seeds` are the pool's. -/
def member3 (seeds : List Nat := [44]) (reqs : List PReq := []) : State :=
  { pooled with pol := { pooled.pol with sess := [sess4], seeds := seeds, seedCnt := BitVec.ofNat 4 seeds.length, reqs := reqs, nextReq := 6 } }
/-- A request of this member to member 4, tag 9. -/
def req (kind : ReqKind) (pl : RppPl := .none) (aid epoch : Nat := 0) : PReq :=
  { id := 5, tag := 9, peer := 4, kind := kind, msg := rppM 1 aid epoch pl, resends := 0, redirects := 0, queued := false, t0 := 0, due := 100
    tFirst := 0, got := 0, buf := [], ans := [] }
def asked (kind : ReqKind) (pl : RppPl := .none) (aid epoch : Nat := 0) : State := member3 [44] [req kind pl aid epoch]
/-- The registrar of a pool of one seed, itself. -/
def registrar3 : State := member3 [33]
def helloOf : RppPl := .hello 1 0 0 0 0 40 44 1 true true
/-- From a member of another pool. -/
def helloOther : RppPl := .hello 1 0 0 0 7 40 44 1 true true
def joinOf : RppPl := .join 1 0 0 0 50 55 2 true true
def joinMsg : RppMsg :=
  { hdr := { (rppM 3 0 0 .none).hdr with w0 := BitVec.ofNat 32 (1 + 2 ^ 16 * 3 + 2 ^ 26 + 2 ^ 27), w1 := 0, w3 := 0 }, pl := joinOf }
def viewOf (n : Nat) (full : Bool) : ViewPl := { num := n, full := full, add := [], del := [], ranges := [], wards := [] }
/-- A member of a pool of three seeds that issues a view, with the acknowledgements that it has. -/
def seeds3 (acks : List Nat) : State :=
  { member3 [33, 44, 55] with pol := { (member3 [33, 44, 55]).pol with pend := some (viewOf 3 false), pendAcks := acks } }
def redirectM (vc : Nat) : RppMsg := (rppM 0x0A 0 0 (.num 2)).onVc vc
def gdKind : ReqKind := .gd 0 1 0 0
def shippingTo : State :=
  { asked gdKind .none 300 0 with pol := { (asked gdKind .none 300 0).pol with ranges := [(1, { state := .held, inst := 4 })] } }

theorem witness_MembersJoinAndViewsSpread :
    ((member3).hears (rppM 1 0 0 helloOf) 1 = true ∧ (member3).helloStatus (rppM 1 0 0 helloOf) = .ok ∧ (member3).pol.sess.length < 8192
      ∧ (member3).hears (rppM 1 0 0 helloOther) 1 = true ∧ (member3).helloStatus (rppM 1 0 0 helloOther) ≠ .ok)
    ∧ ((asked .hello).hears (rppM 2 0 0 helloOf) 2 = true ∧ (asked .hello).reqOf 4 9 = some (req .hello)
      ∧ (asked .hello).helloStatus (rppM 2 0 0 helloOf) = .ok ∧ (rppM 2 0 0 helloOf).status = .ok
      ∧ (rppM 2 0 0 helloOf).peer = 4 ∧ (rppM 2 0 0 helloOf).tag = 9 ∧ (rppM 2 0 0 helloOf).unjd = false)
    ∧ ((member3).hears joinMsg 3 = true ∧ (member3).pol.instValid = true ∧ ((member3).hearing joinMsg).isRegistrar = false
      ∧ ((member3).hearing joinMsg).registrar = some 4 ∧ ((member3).member 4).isSome = true)
    ∧ (registrar3.hears joinMsg 3 = true ∧ (registrar3.hearing joinMsg).isRegistrar = true ∧ (registrar3.hearing joinMsg).majority = true
      ∧ registrar3.newTag joinMsg = true ∧ joinMsg.major = 1 ∧ 0 = registrar3.pol.poolId.toNat ∧ registrar3.sec.coreFault = false
      ∧ freeInst registrar3.instsTaken 65536 0 = some 0)
    ∧ ((asked .join).hears (rppM 4 0 0 (.joinAck 3 (viewOf 2 true))) 4 = true ∧ (asked .join).reqOf 4 9 = some (req .join))
    ∧ (registrar3.hears (rppM 5 0 0 .none) 5 = true ∧ (registrar3.hearing (rppM 5 0 0 .none)).isRegistrar = true
      ∧ (registrar3.hearing (rppM 5 0 0 .none)).majority = true ∧ registrar3.newTag (rppM 5 0 0 .none) = true)
    ∧ (∀ n ∈ [2, 3], (member3).hears (rppM 6 0 0 (.view (viewOf n false))) 6 = true ∧ (member3).pol.viewNum = 2 ∧ (member3).pol.instValid = true)
    ∧ (∀ acks ∈ [[], [3]], let s := seeds3 acks;
      s.hears (rppM 7 0 0 (.num 3)) 7 = true ∧ s.pol.pend = some (viewOf 3 false) ∧ 4 ∉ s.pol.pendAcks
      ∧ (s.pol.seedCnt.toNat < 2 * (s.seedMembers.filter fun i => (s.pol.pendAcks ++ [4]).contains i).length ↔ acks = [3])
      ∧ (s.hearing (rppM 7 0 0 (.num 3))).isRegistrar = true ∧ (s.hearing (rppM 7 0 0 (.num 3))).majority = true ∧ s.pol.nextView = [])
    ∧ (registrar3.hears (rppM 8 0 0 .none) 8 = true ∧ (registrar3.hearing (rppM 8 0 0 .none)).isRegistrar = true)
    ∧ (member3).hears (rppM 9 0 0 .none) 9 = true
    ∧ (∀ vc ∈ [0, 1], shippingTo.hears (redirectM vc) 0x0A = true ∧ shippingTo.reqOf 4 9 = some (req gdKind .none 300 0)
      ∧ ((redirectM vc).vc = (req gdKind .none 300 0).msg.vc ↔ vc = 0) ∧ shippingTo.ownerOfAid 300 = some 4 ∧ 4 ≠ shippingTo.me
      ∧ 5 < shippingTo.pol.nextReq) :=
  by and_intros <;> decide +kernel

/-! A range table without a free range. -/

theorem no_range (busy : List Nat) (tab : SMap RangeEnt) :
    ∀ fuel k, (∀ j, k ≤ j → j < k + fuel → (SMap.get freeRange tab j).state ≠ .free) → lowestRange busy tab fuel k = none := by
  intro fuel
  induction fuel with
  | zero => intros; rfl
  | succ n ih =>
    intro k h
    have hk := h k (Nat.le_refl k) (by omega)
    have hr := ih (k + 1) fun j h1 h2 => h j (by omega) (by omega)
    simp [lowestRange, hk, hr]

theorem get_filled (v d : RangeEnt) : ∀ n a j, a ≤ j → j < a + n → SMap.get d ((List.range' a n).map fun k => (k, v)) j = v := by
  intro n
  induction n with
  | zero => intro a j h1 h2; omega
  | succ n ih =>
    intro a j h1 h2
    rw [List.range'_succ, List.map_cons, SMap.get]
    split
    · rfl
    · exact ih (a + 1) j (by omega) (by omega)

/-- The registrar when every range is held. -/
def full3 : State :=
  { registrar3 with pol := { registrar3.pol with ranges := (List.range' 0 65536).map fun k => (k, { state := .held, inst := 3 }) } }

/-- A member that exports one granule to member 4, with room for a second. -/
def exporting (s : State) : State :=
  { s with
    pol := { s.pol with exports := [{ inst := 4, base := 0, bytes := 65536 }], cal := [⟨0, 0, 0, 0⟩] }
    cab := { s.cab with exportSize := 10 } }

theorem witness_RangesAndWindowsAreGranted :
    (registrar3.hears (rppM 0x0B 0 0 .none) 0x0B = true ∧ (registrar3.hearing (rppM 0x0B 0 0 .none)).isRegistrar = true
      ∧ (registrar3.hearing (rppM 0x0B 0 0 .none)).majority = true ∧ registrar3.newTag (rppM 0x0B 0 0 .none) = true
      ∧ lowestRange registrar3.rangesBusy registrar3.pol.ranges 65536 0 = some 2
      ∧ (let s := member3 [33, 44]; s.hears (rppM 0x0B 0 0 .none) 0x0B = true ∧ (s.hearing (rppM 0x0B 0 0 .none)).isRegistrar = true
        ∧ (s.hearing (rppM 0x0B 0 0 .none)).majority = true ∧ lowestRange s.rangesBusy s.pol.ranges 65536 0 = some 2
        ∧ 2 ≤ s.pol.seedCnt.toNat ∧ (s.pol.members.map (·.inst)).Nodup))
    ∧ (full3.hears (rppM 0x0B 0 0 .none) 0x0B = true ∧ (full3.hearing (rppM 0x0B 0 0 .none)).isRegistrar = true
      ∧ (full3.hearing (rppM 0x0B 0 0 .none)).majority = true ∧ full3.newTag (rppM 0x0B 0 0 .none) = true)
    ∧ lowestRange full3.rangesBusy full3.pol.ranges 65536 0 = none
    ∧ ((member3).hears (rppM 0x0B 0 0 .none) 0x0B = true ∧ ((member3).hearing (rppM 0x0B 0 0 .none)).isRegistrar = false)
    ∧ ((asked (.range 1)).hears (rppM 0x0C 0 0 (.num 2)) 0x0C = true ∧ (asked (.range 1)).reqOf 4 9 = some (req (.range 1)))
    ∧ (let s : State := { member3 with cab := { live.cab with exportSize := 10 } };
      s.hears (rppM 0x0D 0 0 (.num 65536)) 0x0D = true ∧ s.newTag (rppM 0x0D 0 0 (.num 65536)) = true
        ∧ lowestFree (ceilDiv 65536 granule) s.cab.cacheBase s.cab.exportBase (s.cab.extents.filter fun e => e.part == 33) = some s.cab.exportBase)
    ∧ ((asked (.winReq 0)).hears (rppM 0x0E 0 0 (.window 0 65536)) 0x0E = true ∧ (asked (.winReq 0)).reqOf 4 9 = some (req (.winReq 0))
      ∧ 0 < (asked (.winReq 0)).prt.length)
    ∧ (∀ off ∈ [65472, 65473], (exporting member3).hears (rppM 0x1C 0 0 (.window off 64)) 0x1C = true
      ∧ (exporting member3).inWindow 4 off 64 = (off == 65472))
    ∧ (∀ b ∈ [false, true], let k := ReqKind.slowRd 0 9 4;
      let m := (rppM 0x1D 0 0 (.data 0 [1, 2] true)).framed b 0;
      (asked k).hears m 0x1D = true ∧ (asked k).reqOf 4 9 = some (req k) ∧ m.last = b)
    ∧ ((exporting member3).hears (rppM 0x1E 0 0 (.data 65534 [1, 2] true)) 0x1E = true ∧ (exporting member3).inWindow 4 65534 2 = true)
    ∧ (let k := ReqKind.slowWr 0 9 4; (asked k).hears (rppM 0x1F 0 0 .none) 0x1F = true ∧ (asked k).reqOf 4 9 = some (req k))
    ∧ (member3).hears (rppM 0x1A 0 0 .none) 0x1A = true
    ∧ ((exporting (asked (.probe 0))).hears (rppM 0x1B 0 0 .none) 0x1B = true ∧ (exporting (asked (.probe 0))).reqOf 4 9 = some (req (.probe 0))
      ∧ 0 < (exporting (asked (.probe 0))).pol.cal.length) :=
  ⟨by decide +kernel, by decide +kernel,
    no_range _ _ _ _ fun j h1 h2 => by
      rw [show full3.pol.ranges = (List.range' 0 65536).map fun k => (k, { state := .held, inst := 3 }) from rfl, get_filled _ _ _ _ j h1 h2]; decide,
    by and_intros <;> decide +kernel⟩

def slot4 : VSlot := freshSlot 4 .current 0 64 0
/-- Adapter 9, learned, its version 4 current in its home partition 0. -/
def home9 : Entry := { learned with projs := [3], vtab := [slot4] }
def serving (s : State) : State := { s with cab := { s.cab with dir := [home9] } }
def filling256 : Entry := { Entry.fresh 1 256 5 4 0 3 false with vtab := [{ freshSlot 3 .filling 9 65536 0 with got := 4 }] }
def visit9 : VisitRec := { aid := 9, epoch := 4, proj := 3, afmt := 1, hfmt := 1, ofmt := 1, honly := false, first := 0, sseq := 1, part := 0, vecs := [⟨1, [0], []⟩] }
def key4 : SortKey := { sseq := 1, inst := 4, part := 0, idx := 0 }
def visitCtx : Ctx := { stepCtx .run [mi 0x310, mi 0x4F] with drawers := [{ drawn with path := .visit }], rows := [{ row9 with drawer := some 0 }] }
def slotFor : Contrib := { slot := 2, key := key4, base := 4, src := 4, due := 1000, written := false, data := [] }

def noteCtx : Ctx := { stepCtx .notice rowsProg with noteWait := [256] }
/-- Adapter 9's entry with the contributions and keys of its round. -/
def gdAt (cs : List Contrib) (keys : List SortKey) : State :=
  { member3 with cab := { live.cab with dir := [{ home9 with contribs := cs, keysNow := keys }] } }

theorem witness_AdaptersAreServedToThePool :
    ((serving member3).hears (rppM 0x10 0 0 (.aids [9])) 0x10 = true ∧ (serving member3).allMine [9] = true
      ∧ (serving member3).newTag (rppM 0x10 0 0 (.aids [9])) = true ∧ (serving member3).entry home9.aid = some home9 ∧ home9.owned = true)
    ∧ ((serving member3).hears (rppM 0x10 0 0 (.aids [300])) 0x10 = true ∧ (serving member3).allMine [300] = false)
    ∧ (let k := ReqKind.note 0 [256];
      let m := rppM 0x11 0 0 (.notes [note256]);
      let s := withStep (asked k) noteCtx;
      s.hears m 0x11 = true ∧ s.reqOf 4 9 = some (req k) ∧ (∀ n ∈ [note256], n.aid ∈ [256]) ∧ m.last = true ∧ s.ctxOf 0 = some noteCtx
        ∧ 256 ∈ noteCtx.noteWait)
    ∧ (let s := serving member3;
      s.hears (rppM 0x12 0 0 (.pairs [(9, 4)])) 0x12 = true ∧ s.mine 9 = true ∧ s.newTag (rppM 0x12 0 0 (.pairs [(9, 4)])) = true
        ∧ s.entry 9 = some home9 ∧ home9.owned = true ∧ home9.state ≠ .empty ∧ home9.slot 4 = some slot4 ∧ slot4.damaged = false ∧ slot4.slow = false
        ∧ slot4.bminor ≤ ((s.pol.session 4).map (·.blobMinor)).getD 0)
    ∧ (let k := ReqKind.fetch [(256, 3)];
      let x := { freshSlot 3 .filling 9 65536 0 with got := 4 };
      let s : State := { asked k with cab := { live.cab with dir := [filling256] } };
      s.hears (rppM 0x13 256 3 (.data 4 [1, 2] true)) 0x13 = true ∧ s.reqOf 4 9 = some (req k) ∧ (rppM 0x13 256 3 .none).epoch = 3
        ∧ s.entry 256 = some filling256 ∧ filling256.slot 3 = some x ∧ x.vstate = .filling ∧ (x.fitted 4 [1, 2]).1 = true
        ∧ x.got + 2 < (x.fitted 4 [1, 2]).2.blen)
    ∧ (∀ n ∈ [0, 31, 32],
      let s : State := { serving member3 with pol := { (member3).pol with servePart := BitVec.ofNat 6 n } };
      s.hears (rppM 0x14 0 0 (.visit [visit9])) 0x14 = true ∧ s.allMine [9] = true ∧ s.newTag (rppM 0x14 0 0 (.visit [visit9])) = true
        ∧ s.pol.servePart.toNat = n)
    ∧ (let k := ReqKind.visit 0 visitCtx.sub.sseq 3 0 [0];
      let m := rppM 0x15 0 0 (.visit [visit9]);
      let s := withStep (asked k (.visit [visit9])) visitCtx;
      s.hears m 0x15 = true ∧ s.reqOf 4 9 = some (req k (.visit [visit9])) ∧ (req k (.visit [visit9])).msg.pl = .visit [visit9]
        ∧ (req k (.visit [visit9])).ans = [] ∧ m.status = .ok ∧ s.ctxOf 0 = some visitCtx
        ∧ visitCtx.torn = false ∧ (visitCtx.drw 0).aid = visit9.aid)
    ∧ (∀ ep ∈ [4, 5], let m := rppM 0x16 9 ep (.gdReq key4);
      let s := (serving member3).modP 0 fun q => { q with cabQuota := 64 };
      s.hears m 0x16 = true ∧ s.mine m.aid = true ∧ s.newTag m = true ∧ s.entry 9 = some home9 ∧ home9.owned = true ∧ home9.learn = true
        ∧ home9.state = .ready ∧ home9.master.isSome = true ∧ home9.slot ep = (if ep = 4 then some slot4 else none) ∧ slot4.vstate = .current
        ∧ home9.frozen = false ∧ (List.range 16).find? (fun i => !(home9.slotsUsed.contains i)) = some 0
        ∧ s.cabUse home9.home + s.contribLen home9 ≤ (s.getP home9.home).cabQuota.toNat
        ∧ (lowestFree (s.contribLen home9) s.cab.exportBase 0 s.cab.extents).isSome = true)
    ∧ (let m := rppM 0x16 8 4 (.gdReq key4);
      (member3).hears m 0x16 = true ∧ (member3).mine m.aid = true ∧ (member3).newTag m = true ∧ (member3).entry m.aid = none)
    ∧ (let k := ReqKind.gd 0 1 0 0;
      let c := { stepCtx .run [mi 0x24, mi 0x4F] with lists := [listRec 9 .deferred 3 4] };
      let s := withStep { asked k (.gdReq key4) 9 4 with cab := { live.cab with grads := [gradDrawer] } } c;
      s.hears (rppM 0x17 9 4 (.num 2)) 0x17 = true ∧ s.reqOf 4 9 = some (req k (.gdReq key4) 9 4)
        ∧ s.cab.grads.find? (fun g => g.part == 0 && g.aid == 9 && g.base == 4) = some gradDrawer ∧ s.shipLive 0 1 9 4 = true)
    ∧ (∀ e ∈ [([slotFor], []), ([slotFor], [key4]), ([], [])],
      let m := rppM 0x18 9 4 (.gdData 2 key4 [[0]]);
      let s := gdAt e.1 e.2;
      s.hears m 0x18 = true ∧ s.mine m.aid = true ∧ s.newTag m = true ∧ s.entry m.aid = some { home9 with contribs := e.1, keysNow := e.2 }
        ∧ home9.keysPrev = [] ∧ slotFor.slot = 2 ∧ slotFor.key = key4 ∧ slotFor.written = false)
    ∧ (let k := ReqKind.gdWrite 0 1 0 0 2; (asked k .none 9 4).hears (rppM 0x19 9 4 .none) 0x19 = true
      ∧ (asked k .none 9 4).reqOf 4 9 = some (req k .none 9 4)) :=
  by and_intros <;> decide +kernel

def noted (s : State) : State := { s with pol := { s.pol with notes := [(256, note256)] }, cab := { s.cab with dir := [{ cached256 with curEpoch := 3 }] } }
def usedSlot : VSlot := { freshSlot 3 .valid 9 65536 0 with refs := 1 }
def moveIn (src : Bool) (st : MoveSt) : Move :=
  { range := 0, peer := 4, part := 0, source := src, st := st, long := none, cmd := false, got := [], last := [], abort := none }

/-- A move's data of one version, and the range it belongs to moving in. -/
def moved9 : Entry := { home9 with master := none, learn := false }
def movingIn : State := { member3 with pol := { (member3).pol with moves := [moveIn false .transfer] } }
def frozen3 (st : RangeState) : State :=
  { registrar3 with pol := { registrar3.pol with ranges := [(1, { state := st, inst := 4 })] } }

theorem witness_VersionsAndMovesSpread :
    (let s := noted member3;
      ∀ e ∈ [256, 9], s.hears (rppM 0x20 0 0 (.notes [{ note256 with aid := e, epoch := 4 }])) 0x20 = true ∧ s.ownerOfAid 256 = some 4
        ∧ s.note 256 = some note256 ∧ precedes note256.epoch 4 = true ∧ s.ownerOfAid 9 ≠ some 4
        ∧ s.entry 256 = some { cached256 with curEpoch := 3 } ∧ cached256.owned = false)
    ∧ (let e := { cached256 with vtab := [usedSlot] };
      let s : State := { member3 with cab := { live.cab with dir := [e] } };
      s.hears (rppM 0x21 0 0 (.batch 1 [(256, 3)])) 0x21 = true ∧ s.entry 256 = some e ∧ e.owned = false ∧ e.slot 3 = some usedSlot ∧ usedSlot.refs ≠ 0)
    ∧ ((member3).hears (rppM 0x22 0 0 (.batch 1 [])) 0x22 = true ∧ (member3).hears (rppM 0x23 0 0 (.batch 1 [])) 0x23 = true
      ∧ SMap.has (member3).pol.acks 4 = false)
    ∧ (let m := rppM 0x30 0 0 (.moveBegin 2 0 [moved9] []);
      (member3).hears m 0x30 = true ∧ (member3).newTag m = true ∧ (∀ x ∈ moved9.vtab, x.bminor ≤ blobMinorMax)
        ∧ (member3).dirUse 0 + 1 ≤ ((member3).getP 0).dirQuota.toNat
        ∧ (member3).cabUse 0 + [moved9].foldl (fun n e => ((member3).moveLens e).foldl (fun n x => n + x.2) n) 0 ≤ ((member3).getP 0).cabQuota.toNat)
    ∧ (registrar3.hears (rppM 0x30 0 0 (.pairs [(1, 3)])) 0x30 = true ∧ (registrar3.hearing (rppM 0x30 0 0 (.pairs [(1, 3)]))).isRegistrar = true)
    ∧ (let k := ReqKind.moveBegin 0;
      (asked k).hears (rppM 0x30 0 0 (.num 0)) 0x30 = true ∧ (asked k).reqOf 4 9 = some (req k))
    ∧ (let m := rppM 0x31 9 4 (.moveData 0 moved9 [(4, [1, 2])]);
      let s := movingIn;
      s.hears m 0x31 = true ∧ s.newTag m = true
        ∧ s.pol.moves.find? (fun x => !x.source && x.range == 0 && x.peer == 4) = some (moveIn false .transfer)
        ∧ moved9.vtab = [slot4] ∧ moved9.contribs = [] ∧ s.cabUse 0 + ceilDiv slot4.blen granule ≤ (s.getP 0).cabQuota.toNat
        ∧ (lowestFree (ceilDiv slot4.blen granule) s.cab.exportBase 0 s.cab.extents).isSome = true)
    ∧ (let k := ReqKind.moveData 0; (asked k).hears (rppM 0x31 0 0 (.num 0)) 0x31 = true ∧ (asked k).reqOf 4 9 = some (req k))
    ∧ (∀ st ∈ [RangeState.held, .moving], let m := rppM 0x32 0 0 (.pairs [(1, 3)]);
      let s := frozen3 st;
      s.hears m 0x32 = true ∧ (s.hearing m).isRegistrar = true ∧ (s.hearing m).majority = true ∧ s.newTag m = true
        ∧ (SMap.get freeRange s.pol.ranges 1).state = st ∧ (SMap.get freeRange s.pol.ranges 1).inst = m.peer ∧ (s.member 3).isSome = true
        ∧ s.hears (rppM 0x33 0 0 (.num 1)) 0x33 = true ∧ (s.hearing (rppM 0x33 0 0 (.num 1))).isRegistrar = true ∧ s.pol.pend = none
        ∧ (rppM 0x33 0 0 (.num 1)).tag ≠ 0)
    ∧ (movingIn.hears (rppM 0x33 0 0 (.num 0)) 0x33 = true ∧ moveIn false .transfer ∈ movingIn.pol.moves
      ∧ (movingIn.hearing (rppM 0x33 0 0 (.num 0))).isRegistrar = false ∧ movingIn.changing 0 = false)
    ∧ ((rppM 0x24 0 0 .none).bad = true ∧ (rppM 9 0 0 .none).bad = false) :=
  by and_intros <;> decide +kernel

def quietAt (n : Nat) : State :=
  let s := registrar3
  { s with pol := { s.pol with quiet := [(4, (n, n))] } }
def joining : State :=
  { live with
    mgt := { live.mgt with bootStage := 8 }, pol := { live.pol with seeds := [33, 44], seedCnt := 2, addr := 33 } }
def held9 (due : Nat) : Entry := { home9 with contribs := [{ slotFor with due := due }] }
def served : State :=
  (serving member3).modP 0 fun q => { q with shfShare := [512, 512, 512, 512], visitCap := 64 }
def serveReady : State :=
  { served with pol := { served.pol with servePart := 0, serveCap := 16, serveQ := [(4, 9, visit9)] } }
/-- A state in which a periodic service is due at a time. -/
def dueAt (s : State) (k at_ : Nat) : State := { s with mgt := { s.mgt with dueAt := [(k, at_)] } }

theorem witness_PoolTimersExpire :
    (∀ due ∈ [500, 501], ∀ n ∈ [0, 2], ∀ b ∈ [false, true],
      let x := { req .leave with due := due, resends := n, queued := b };
      let s := member3 [44] [x];
      s.pol.reqs.find? (fun x => x.id == 5 && x.kind != .oneWay) = some x ∧ (s.now < x.due ↔ due = 501) ∧ (x.resends < s.pol.retry.toNat ↔ n = 0)
        ∧ (s.pol.reqs.map (·.id)).Nodup)
    ∧ (∀ n ∈ [500, 501], (quietAt n).sessOpen 4 = true ∧ (quietAt n).unreach 4 = false ∧ ((quietAt n).now < (SMap.get (0, 0) (quietAt n).pol.quiet 4).1 ↔ n = 501)
      ∧ (quietAt n).pol.moves = [] ∧ (quietAt n).pol.reqs = [])
    ∧ ((quietAt 500).isRegistrar = true ∧ (quietAt 500).majority = true ∧ 4 ≠ (quietAt 500).me ∧ ((quietAt 500).member 4).isSome = true
      ∧ (quietAt 500).pol.nextView ++ (quietAt 500).pol.pend.toList = [] ∧ (SMap.get (0, 0) (quietAt 500).pol.quiet 4).2 ≤ (quietAt 500).now)
    ∧ (joining.mgt.bootStage = 8 ∧ joining.pol.instValid = false ∧ joining.pol.reqs = [] ∧ joining.serviceUp 2 3 = true ∧ joining.pol.joinDue ≤ joining.now
      ∧ joining.sec.lcState = 2 ∧ joining.sec.coreFault = false ∧ joining.poolOfOne = false
      ∧ (joining.pol.seeds.take joining.pol.seedCnt.toNat).filter (· != joining.pol.addr) = 44 :: []
      ∧ ({ joining with pol := { joining.pol with seeds := [33], seedCnt := 1 } } : State).poolOfOne = true)
    ∧ (∀ due ∈ [500, 501],
      let s : State := { member3 with cab := { live.cab with dir := [held9 due] } };
      s.entry 9 = some (held9 due) ∧ (held9 due).contribs.find? (fun c => c.slot == 2 && !c.written) = some { slotFor with due := due }
        ∧ (s.now < due ↔ due = 501))
    ∧ (∀ n ∈ [500, 501], (∀ k ∈ [perPhb, perCal, perVisit], (dueAt member3 k n).due k = decide (n = 500))
      ∧ (let s := dueAt member3 perPhb n;
        s.pol.instValid = true ∧ s.poolIdle = true ∧ s.pwr.pdStage.toNat < 5 ∧ s.pol.reqs = [] ∧ s.pol.sess.length < 8192 ∧ s.booted = true))
    ∧ (dueAt member3 perCal 500).dueOf perCal = (dueAt member3 perCal 500).now
    ∧ (∀ n ∈ [500, 501],
      let s : State := { member3 with pol := { (member3).pol with groupAt := [(1, n)] } };
      s.pol.instValid = true ∧ (SMap.get 0 s.pol.groupAt 1 ≤ s.now ↔ n = 500) ∧ s.poolIdle = true ∧ s.pol.reqs = []
        ∧ ∃ x ∈ s.pol.members, x.group = 1 ∧ x.inst ≠ s.me)
    ∧ (∀ own ∈ [0, 1],
      let s := serveReady.modP 0 fun q => { q with tumOwn := BitVec.ofNat 128 own };
      s.pol.servePart.toNat = 0 ∧ 0 < s.prt.length ∧ (s.getP 0).ctx = none ∧ s.issueHeld = false ∧ s.due perVisit = true
        ∧ s.pol.serveQ = [(4, 9, visit9)] ∧ ((s.getP 0).tumOwn = 0 ↔ own = 0) ∧ visit9.vecs.length ≤ s.pol.serveCap.toNat
        ∧ s.entry visit9.aid = some home9 ∧ home9.owned = true ∧ home9.state ≠ .empty ∧ home9.slot visit9.epoch = some slot4
        ∧ slot4.damaged = false ∧ slot4.slow = false
        ∧ (own = 0 ∨ (((s.align perVisit (100 * s.pol.visitWin.toNat)).newCharge 0).reserveStage 0 [] [servePath visit9.key]).1.isSome = true)) :=
  by and_intros <;> decide +kernel

/-! ### Errors -/

def poolFit : Extent := { base := 2, len := 1, part := 0, obj := .blob 9 4 }

theorem witness_ErrorsAreCountedAndLogged :
    (∀ k ∈ [2, 3, 7, 8], sramKind k = true)
    ∧ (live.ras.injects 2 0 0 false = false ∧ live.ras.rowCe = [] ∧ 1 < live.ras.ceThresh.toNat)
    ∧ (let s : State := { live with ras := { live.ras with rowCe := [({ kind := 2, n := 0, bank := 0, row := 5 }, 1)], ceThresh := 3 } };
      ∀ e ∈ s.ras.rowCe, e.1 = { kind := 2, n := 0, bank := 0, row := 5 } → e.2 + 1 < s.ras.ceThresh.toNat)
    ∧ (∀ kind ∈ [2, 3],
      let k : ArrRow := { kind := kind, n := 0, bank := 0, row := 5 };
      let s : State := { live with ras := { live.ras with rowCe := [(k, 2)], ceThresh := 3 } };
      s.ras.injects kind 0 0 false = false ∧ s.ras.rowCe.find? (fun e => e.1 == k) = some (k, 2) ∧ s.ras.ceThresh.toNat ≤ 2 + 1
        ∧ s.ras.repair = [] ∧ s.ras.sparesUsed k < 16)
    ∧ (∀ a ∈ [0, 2 ^ 39 - 1], stackOf a < live.hbmStk.length)
    ∧ (∀ q ∈ live.prt, q.ctx = none)
    ∧ (let s : State := { live with ras := { live.ras with injArm := true, injType := true, injKind := 2, injIndex := 5, injAddr := 64 } };
      s.ras.injects 2 5 64 true = true)
    ∧ (131072 < sysBase ∧ live.cab.holding (131072 / 64 * 64) = none ∧ live.ras.repair.length < 65535)
    ∧ (withStep live (stepCtx .run [mi 0x4F])).ctxOf 0 ≠ none := by decide +kernel

theorem witness_LogicFaultsFenceAndHoldIssue :
    (∀ n ∈ [0, 63], live.ras.fencePair.getLsbD n = false ∧ live.ras.unserviceable = false
      ∧ ({ live.ras with fencePair := live.ras.fencePair ||| BitVec.ofNat 64 (2 ^ n) } : Ras).configCode ≠ 0xFF)
    ∧ (let s : State := { live with ras := { live.ras with hold := true, fences := [{ kind := 2, index := 0, sev := 2, mask := 0, lseq := 1 }] } };
      s.ras.hold = true ∧ s.ras.fences ≠ []) := by decide +kernel

/-! ### Power, cores and periods -/

/-- The power part of a boot image: word k is `f k`. -/
def imageOf (f : Nat → Nat) : List Word := (List.range 40).map fun k => BitVec.ofNat 32 (f k)
def calm : Sensors := { tin := some 7680, flow := some 2560, hot := 15360, power := 900, share := 0x3E800000, stk := [], crossed := none }
def powered (f : Nat → Nat) : State := { live with pwr := { live.pwr with image := imageOf f } }
def waking : State :=
  { (powered fun k => if k = 3 then 60 else 0) with
    pwr := { (powered fun k => if k = 3 then 60 else 0).pwr with
      domAwake := BitVec.ofNat 96 (2 ^ 72 + 2 ^ 73), wakes := [{ dom := 0, at_ := 0, admitted := none }] } }
/-- A wake under way: every link and stack in its low-power state. -/
def wakeOf (d : Nat) : State :=
  { live with
    hng := live.hng.map fun h => { h with lstate := 3 }, hbmStk := live.hbmStk.map fun h => { h with st := 3 }
    fab := { live.fab with ports := live.fab.ports.map fun x => { x with lstate := 3 } }
    pwr := { live.pwr with wakes := [{ dom := d, at_ := 0, admitted := some 0 }] } }
/-- A sensor or a governor whose next sample may come at a time. -/
def sampledAt (k at_ : Nat) : State := { live with mgt := { live.mgt with dueAt := [(k, at_)] } }

theorem witness_GovernorAndSensorsSetThePoint :
    (live.mgt.applied = true ∧ live.coreUp 5 = true ∧ live.pwr.fallback = false ∧ calm.flow = some 2560)
    ∧ (∀ n ∈ [500, 501], (sampledAt perGovernor n).due perGovernor = decide (n = 500)
      ∧ ∀ k ∈ [0, 20], (sampledAt (perSensor k) n).due (perSensor k) = decide (n = 500) ∧ (sampledAt (perSensor k) n).side.rstN = true)
    ∧ lt32 (fQ8 2560) ((powered fun k => if k = 23 then 0x42C80000 else 0).pwr.n 23) = true
    ∧ (let s : State := { live with pwr := { live.pwr with opPoint := 4, rise := some (2, 1), settling := some 0 } };
      s.pwr.rise = some (2, 1) ∧ s.pwr.settling = some 0 ∧ 0 + usTicks (s.pwr.n 0) ≤ s.now ∧ s.pwr.opPoint.toNat ≠ 2)
    ∧ (∀ x ∈ [(90, 100), (0, 100), (90, 0)],
      let s := powered fun k => if k = 20 then x.1 else if k = 21 then x.2 else 0;
      s.side.rstN = true ∧ s.due (perSensor 0) = true ∧ s.pwr.n 20 = x.1 ∧ s.pwr.n 21 = x.2 ∧ s.pwr.trip = false)
    ∧ (256 * 90 ≤ 256 * 90 ∧ 256 * 90 < 256 * 100 ∧ 256 * 100 ≤ 256 * 100 ∧ 256 * 90 - 1 < 256 * 90) :=
  by and_intros <;> decide +kernel

theorem witness_CoreFaultsStopServices :
    (∀ c ∈ [0, 1, 2, 3, 5],
      let s : State := { live with latch := [(3, heldBy .core c false), (4, heldBy .host 0 false)] };
      s.coreUp c = true ∧ (s.latch.map (·.1)).Nodup)
    ∧ live.sec.coreFault = false := by decide +kernel

theorem witness_HeartbeatsRefillsAndDecays :
    (live.lnk.hbOn = true ∧ live.coreUp 5 = true ∧ live.lnk.canSend 0 = true ∧ live.lnk.out.length = 4)
    ∧ ({ live.lnk with crdHeld := [0, 0, 0, 0] } : Lnk).canSend 0 = false
    ∧ (∀ n ∈ [500, 501], ∀ k ∈ [perHeartbeat, perDecay, perRefill 0, perRefill 31], (sampledAt k n).due k = decide (n = 500))
    ∧ (∀ p ∈ [0, 31], p < live.prt.length) := by decide +kernel

/-- The first and the last domain of each kind. -/
def ends : List Nat := [0, 63, 64, 71, 72, 75, 76, 83, 84, 91]

theorem witness_DomainsIdleAndWake :
    (∀ d ∈ ends, (allAwake live).awake d = true ∧ (allAwake live).domUsed d = false ∧ (allAwake live).pwr.wakes = []
      ∧ SMap.wf Tum.reset live.tum = true
      ∧ ∀ n ∈ [0, 500], (({ allAwake live with pwr := { (allAwake live).pwr with lastUse := [(d, n)] } } : State).now
          < SMap.get 0 [(d, n)] d + usTicks (live.pwr.n 1) ↔ n = 500))
    ∧ (waking.admissible = some { dom := 0, at_ := 0, admitted := none }
      ∧ (waking.pwr.wakes.filter fun x => x.admitted.isNone) = [{ dom := 0, at_ := 0, admitted := none }]
      ∧ (∀ q ∈ domDie 0, waking.awake (domCommon q) = true)
      ∧ ((waking.inRamp.filter fun x => domRail x.1 == domRail 0).map fun x => domLoad x.1).sum + domLoad 0 ≤ waking.pwr.n (3 + domRail 0))
    ∧ (∀ d ∈ ends,
      (wakeOf d).pwr.wakes.find? (fun w => w.dom == d) = some { dom := d, at_ := 0, admitted := some 0 } ∧ 0 + domTime d ≤ (wakeOf d).now
        ∧ (wakeOf d).ras.repair = []
        ∧ (72 ≤ d ∧ d < 76 → d - 72 < (wakeOf d).hng.length ∧ ((wakeOf d).getHng (d - 72)).lstate = 3)
        ∧ (76 ≤ d ∧ d < 84 → d - 76 < (wakeOf d).hbmStk.length ∧ (nth (wakeOf d).hbmStk (d - 76) Hbm.reset).st = 3)
        ∧ (84 ≤ d → d - 84 < (wakeOf d).fab.ports.length ∧ ((wakeOf d).getPort (d - 84)).lstate = 3)) :=
  ⟨by decide +kernel, by decide +kernel, by decide +kernel⟩

/-! ### Boot -/

/-- A boot memory whose first slot has a header with number 7 and three components, kinds 1, 2 and 3. -/
def oneSlot : Memory :=
  [(0, 0x50), (1, 0x4E), (2, 0x4B), (3, 0x4F), (4, 1), (8, 7), (0xC, 3), (0x28, 1), (0x38, 2), (0x48, 3)]
/-- The same with the header of component i at 4,096; its body is empty. -/
def oneComp (i : Nat) : Memory :=
  [(8, 7), (0xC, 3)] ++ (if i = 0 then [(0x21, 0x10), (0x25, 0x20), (0x28, 1)] else [(0x28, 1), (0x31, 0x10), (0x35, 0x20)]) ++ [(0x38, 2), (0x48, 3)]
    ++ [(4096, 0x43), (4097, 0x4F), (4098, 0x4D), (4099, 0x50), (4100, BitVec.ofNat 8 (i + 1)), (4104, 7)] ++ (if i = 0 then [] else [(4108, 1)])
/-- A device in a stage of its boot. -/
def bootAt (st : Nat) (flash : Memory) : State :=
  { State.reset with
    side := { Side.reset with rstN := true }, flash := flash
    mgt := { Mgt.reset with bootStage := BitVec.ofNat 4 st, coreLive := 0x10, reading := decide (3 ≤ st), comp := 1 } }

theorem witness_BootStagesFollowOneAnother :
    State.reset.side.rstN = false
    ∧ (∀ st ∈ [0, 1, 2], (bootAt st []).side.rstN = true ∧ (bootAt st []).mgt.bootStage = BitVec.ofNat 4 st)
    ∧ (∀ lc ∈ [0, 3], ({ bootAt 1 [] with sec := { Sec.reset with lcState := BitVec.ofNat 2 lc } } : State).sec.lcState.toNat = lc)
    ∧ ((bootAt 2 oneSlot).preferred = some false
      ∧ ({ bootAt 2 oneSlot with mgt := { (bootAt 2 oneSlot).mgt with bootSlot := false } } : State).kindsOk = true)
    ∧ (bootAt 2 []).preferred = none
    ∧ (let s : State := { bootAt 5 [] with mgt := { (bootAt 5 []).mgt with applyWait := true } };
      s.side.rstN = true ∧ s.mgt.bootStage = 5 ∧ s.mgt.applyWait = true ∧ s.sec.wipeDone = false ∧ s.sec.lcState ≠ 2
        ∧ ({ s with sec := { s.sec with wipeDone := true } } : State).sec.wipeDone = true) :=
  by and_intros <;> decide +kernel

def verifyingAt (done : Nat) : State :=
  { bootAt 3 (oneComp done) with mgt := { (bootAt 3 (oneComp done)).mgt with verifying := true, fwDone := done, bootFallback := true } }

/-! A boot memory whose configuration component is accepted: a body of 53,804 bytes with the eight sections, the component at 4,096. -/

def word4 (a v : Nat) : Memory := ((List.range 4).map fun i => (a + i, BitVec.ofNat 8 (v / 256 ^ i))).filter fun e => e.2 != 0
def words4 (a : Nat) (l : List Nat) : Memory := (l.mapIdx fun i v => word4 (a + 4 * i) v).flatten
def cfgBody : Nat := 4096 + 8192
def cfgPart (p : Nat) : Nat × Byte := (12844 + 512 * p + 60, 1)
/-- All but the partition pages, which hold one `JOB_SLICE` each. -/
def cfgLow : Memory :=
  words4 8 [7, 3] ++ [(0x28, 1), (0x38, 2)] ++ words4 0x40 [4096, 8192 + 53804, 3]
  ++ words4 4096 [0x504D4F43, 3, 7, 2, 53804]
  ++ words4 cfgBody [1, 256, 28, 0, 8, 288, 104, 0, 2, 392, 12, 0, 4, 404, 152, 0, 3, 556, 16384, 0, 5, 16940, 4096, 0, 6, 21036, 32768, 0, 7, 53804, 0, 0]
  ++ words4 (cfgBody + 256) [0, 0, 0, 0, 1, 1, 1]
  ++ words4 (cfgBody + 288) [20, 20, 1, 37, 37, 37, 37, 12, 8, 0, 0, 0, 0, 0, 0, 0, 0, 0, 1, 0, 1, 2, 0, 0x3F800000, 4, 1]
  ++ words4 (cfgBody + 392) [1, 0x10001, 0]
  ++ words4 (cfgBody + 404 + 8) [1] ++ words4 (cfgBody + 404 + 4 * 0x23) [32]
def cfgFlash : Memory := cfgLow ++ (List.range 32).map cfgPart
/-- Its configuration is being verified. -/
def cs : State := { bootAt 3 cfgFlash with mgt := { (bootAt 3 cfgFlash).mgt with verifying := true, fwDone := 2 } }

def cfgSects : List Sect :=
  [⟨1, 256, 28, true⟩, ⟨8, 288, 104, true⟩, ⟨2, 392, 12, true⟩, ⟨4, 404, 152, true⟩, ⟨3, 556, 16384, true⟩, ⟨5, 16940, 4096, true⟩,
    ⟨6, 21036, 32768, true⟩, ⟨7, 53804, 0, true⟩] ++ List.replicate 8 ⟨0, 0, 0, true⟩

theorem cfg_sects : cs.sects 2 = cfgSects := by decide +kernel
theorem cfg_at : cs.compAt 2 = 4096 := by decide +kernel

theorem read_unlisted {m : Memory} {a : Nat} (h : ∀ e ∈ m, e.1 ≠ a) : Memory.read m a = 0 := by
  induction m with
  | nil => rfl
  | cons e m ih =>
    have he : ¬ a = e.1 := fun x => h e (List.mem_cons_self ..) x.symm
    show (if a = e.1 then e.2 else SMap.get 0 m a) = 0
    rw [if_neg he]
    exact ih fun x hx => h x (List.mem_cons_of_mem _ hx)

theorem cfg_low : ∀ e ∈ cfgLow, e.1 < 4616 ∨ (12288 ≤ e.1 ∧ e.1 < 12844) := by decide +kernel

/-- Which bytes of the configuration read as zero. -/
theorem cfg_zero {a : Nat} (h : (4616 ≤ a ∧ a < 12288) ∨ (12844 ≤ a ∧ ∀ p < 32, a ≠ 12844 + 512 * p + 60)) : Memory.read cfgFlash a = 0 := by
  apply read_unlisted
  intro e he
  rcases List.mem_append.1 he with he | he
  · have := cfg_low e he
    omega
  · obtain ⟨p, hp, rfl⟩ := List.mem_map.1 he
    have hp := List.mem_range.1 hp
    have hx : (cfgPart p).1 = 12844 + 512 * p + 60 := rfl
    rcases h with h | h
    · omega
    · exact fun hh => h.2 p hp (by omega)

theorem cfg_word {a : Nat} (h : 12844 ≤ a) (hp : ∀ i < 4, ∀ p < 32, a + i ≠ 12844 + 512 * p + 60) : cs.flashNum a 4 = 0 := by
  have hz : ∀ i, i < 4 → Memory.read cfgFlash (a + i) = 0 := fun i hi => cfg_zero (.inr ⟨by omega, hp i hi⟩)
  show leNat (Memory.readN cfgFlash a 4) = 0
  have : Memory.readN cfgFlash a 4 = [0, 0, 0, 0] := by
    have h0 := hz 0 (by omega)
    rw [Nat.add_zero] at h0
    simp [Memory.readN, List.range, List.range.loop, hz, h0]
  rw [this]; rfl

def cfgPage (k : Nat) : Nat := if k = 15 then 1 else 0

theorem cfg_page : ∀ p < 32, ∀ k < 128, cs.flashNum (4096 + 8192 + (556 + 4 * (128 * p + k))) 4 = cfgPage k := by
  intro p hp k hk
  by_cases h : k = 15
  · subst h
    revert p
    decide +kernel
  · rw [cfgPage, if_neg h]
    exact cfg_word (by omega) fun i hi q hq => by omega

theorem partOk_congr {w v : Nat → Nat} (h : ∀ k < 128, w k = v k) : partOk w = partOk v := by
  have ha : ((List.range 128).all fun k =>
      if prtPWords.contains (4 * k) then prtLimit (4 * k) (w k) || (k == 0x1E && w k == 0 && w 0x22 == 0 && w 0x23 == 0) else w k == 0)
    = ((List.range 128).all fun k =>
      if prtPWords.contains (4 * k) then prtLimit (4 * k) (v k) || (k == 0x1E && v k == 0 && v 0x22 == 0 && v 0x23 == 0) else v k == 0) := by
    rw [Bool.eq_iff_iff, List.all_eq_true, List.all_eq_true]
    refine forall_congr' fun k => forall_congr' fun hk => ?_
    rw [h k (List.mem_range.1 hk), h 0x22 (by decide), h 0x23 (by decide)]
  rw [partOk, partOk, ha, h 0x20 (by decide), h 0x22 (by decide)]

theorem partOf_congr {w v : Nat → Nat} (h : ∀ k < 128, w k = v k) : partOf w = partOf v := by
  have hf : ∀ (l : List Nat) (q : Prt), (∀ o ∈ l, o / 4 < 128) →
      l.foldl (fun (q : Prt) off => q.setWord off (w (off / 4))) q = l.foldl (fun (q : Prt) off => q.setWord off (v (off / 4))) q := by
    intro l
    induction l with
    | nil => intros; rfl
    | cons o l ih =>
      intro q hl
      simp only [List.foldl_cons, h _ (hl o (List.mem_cons_self ..))]
      exact ih _ fun x hx => hl x (List.mem_cons_of_mem _ hx)
  rw [partOf, partOf, hf _ _ (by decide)]

theorem cfg_ok : cs.cfgOk 2 = true := by
  have hb : cs.bodyLen 2 = 53804 := by decide +kernel
  have hc : cs.compsOf 4 = [] := by decide +kernel
  have hs : sectOf cfgSects 3 = ⟨3, 556, 16384, true⟩ := by decide
  have h6 : (sectOf cfgSects 6).off = 21036 := by decide
  have hp : ((List.range 32).map fun p => partOf fun k => cs.flashNum (4096 + 8192 + (556 + 4 * (128 * p + k))) 4)
      = (List.range 32).map fun _ => partOf cfgPage :=
    List.map_congr_left fun p h => partOf_congr (cfg_page p (List.mem_range.1 h))
  simp only [State.cfgOk, cfg_sects, State.sectWord, State.cfgNum, cfg_at, hb, hc, State.cfgPages, hs, hp, h6, Bool.and_eq_true]
  refine ⟨⟨⟨⟨⟨⟨⟨⟨⟨by decide +kernel, by decide +kernel⟩, by decide +kernel⟩, by decide +kernel⟩, ?_⟩, by decide +kernel⟩, ?_⟩, by decide +kernel⟩,
    by decide +kernel⟩, by decide +kernel⟩
  · rw [List.all_eq_true]
    intro p h
    rw [partOk_congr (cfg_page p (List.mem_range.1 h))]
    decide +kernel
  · rw [List.all_eq_true]
    intro n _
    have hz : Memory.read cfgFlash (4096 + 8192 + (21036 + n)) = 0 := cfg_zero (.inr ⟨by omega, fun p hp => by omega⟩)
    have : cs.flashNum (4096 + 8192 + (21036 + n)) 1 = 0 := by
      show leNat [Memory.read cfgFlash (4096 + 8192 + (21036 + n) + 0)] = 0
      rw [Nat.add_zero, hz]; rfl
    rw [this]; decide

theorem cfg_comp : cs.compOk 2 = true := by
  have hz : cs.flashZero (4096 + 0x1320) (8192 - 0x1320) = true := by
    rw [State.flashZero, List.all_eq_true]
    intro i hi
    have hi := List.mem_range.1 hi
    have : Memory.read cs.flash (4096 + 0x1320 + i) = 0 := cfg_zero (.inl ⟨by omega, by omega⟩)
    rw [this]; decide
  simp only [State.compOk, cfg_at, hz, Bool.and_eq_true]
  decide +kernel

theorem witness_ComponentsAreVerified :
    (∀ st ∈ [3, 9], (bootAt st []).mgt.reading = true ∧ (bootAt st []).mgt.bootStage = BitVec.ofNat 4 st)
    ∧ (∀ d ∈ [1], (verifyingAt d).mgt.verifying = true ∧ (verifyingAt d).mgt.bootStage ≠ 9 ∧ (verifyingAt d).mgt.fwDone < 2
      ∧ (verifyingAt d).compOk (((verifyingAt d).compsOf ((verifyingAt d).mgt.fwDone + 1)).headD 0) = true
      ∧ (verifyingAt d).sec.svnFw.toNat ≤ (verifyingAt d).compSvn (((verifyingAt d).compsOf ((verifyingAt d).mgt.fwDone + 1)).headD 0)
      ∧ (verifyingAt d).mgt.bootFallback = true)
    ∧ (cs.mgt.verifying = true ∧ cs.mgt.bootStage ≠ 9 ∧ cs.mgt.fwDone = 2 ∧ (cs.compsOf 3).headD 0 = 2 ∧ cs.sec.svnCfg.toNat ≤ cs.compSvn 2)
    ∧ cs.compOk 2 = true ∧ cs.cfgOk 2 = true :=
  ⟨by decide +kernel, by decide +kernel, by decide +kernel, cfg_comp, cfg_ok⟩

theorem witness_TrainingAndWipeEnd :
    (let s : State := { bootAt 2 [] with hbmStk := List.replicate 8 { Hbm.reset with st := 1 } };
      s.mgt.hbmTrained = false ∧ (∀ h ∈ s.hbmStk, h.st = 1) ∧ s.mgt.bootStage ≠ 0xE ∧ s.ras.repair = [] ∧ s.hbmStk.length = 8 ∧ bitN 0xFE 0 = false)
    ∧ (∀ st ∈ [3, 6],
      let s : State := { bootAt st [] with mgt := { (bootAt st []).mgt with hbmTrained := true }, hbm := [(0, 1)] };
      s.mgt.hbmTrained = true ∧ s.sec.wipeDone = false ∧ s.sec.lcState ≠ 2) := by
  decide +kernel

/-! ### Side ports, resets, register stores -/

theorem witness_SidePortsAnswer :
    (∀ x ∈ [(0, 4), (0x20000, 256), (0x30000, 8)], x.1 % 4 = 0 ∧ x.2 % 4 = 0 ∧ 4 ≤ x.2 ∧ x.2 ≤ 256)
    ∧ State.reset.side.dynAddr = none ∧ 0x3A = 0x3A + State.reset.side.straps.toNat
    ∧ ({ Side.reset with dynAddr := some 8 } : Side).dynAddr ≠ none ∧ State.reset.side.rstN = false ∧ live.side.rstN = true := by
  decide +kernel

theorem witness_RegisterWritesTakeEffect :
    (live.coreUp 0 = true ∧ live.coreUp 5 = true ∧ ({ live with mgt := { live.mgt with coreLive := 0 } } : State).coreUp 3 = false)
    ∧ (∀ v ∈ [0x2005, 0x3F01], v / 16 % 16 = 0 ∧ v < 2 ^ 14) ∧ (0x10 / 16 % 16 ≠ 0 ∧ 2 ^ 14 ≤ 2 ^ 14)
    ∧ (∀ n ∈ [0, 32767], (live.latchAt n).admits (.core 5) = true) := by
  decide +kernel

theorem witness_ClearingReadsLeaveTheCycle : 0 < live.hng.length ∧ 3 < live.hng.length := by decide +kernel

/-! ### Versions -/

def ready9 : Entry := { entry9 with vtab := [freshSlot 4 .current 0 64 0] }
def engineAt (e : Option (Candidate × Nat)) (l : List Candidate) : State :=
  { live with
    cab := { live.cab with
      dir := [ready9], cands := l, engine := e, extents := [{ base := 0, len := 1, part := 0, obj := .blob 9 4 }, { base := 1, len := 1, part := 0, obj := .resv 3 }] } }
def slow9 : VSlot := freshSlot 3 .retained 0 65536 0
/-- A partition with one old version to demote, at its mark when the quota is 1. -/
def marked (quota : Nat) : State :=
  { live.modP 0 (fun q => { q with cabQuota := BitVec.ofNat 24 quota, slowSpace := 2, slowSize := 65536 * 2, slowBase := 65536 }) with
    allocs := [(0, { part := 0, space := 2, base := 65536, size := 65536 * 2, freed := false })]
    cab := { live.cab with
      demoteMark := 50, dir := [{ entry9 with vtab := [slow9] }]
      extents := [{ base := 0, len := 1, part := 0, obj := .blob 9 3 }] } }

theorem witness_VersionsAreCommittedAndDemoted :
    (∀ k ∈ [1, 2],
      let s := engineAt none [cand k];
      s.cab.engine = none ∧ s.cab.cands = [cand k] ∧ s.upSession (cand k) = true ∧ s.entry (cand k).aid = some ready9 ∧ ready9.owned = true
        ∧ ready9.state = .ready ∧ ready9.frozen = false ∧ (cand k).target = nextEpoch ready9.curEpoch ∧ ready9.vtab.length < 32)
    ∧ (let s := engineAt (some (cand 2, 5)) [];
      s.cab.engine = some (cand 2, 5) ∧ (cand 2).boot = false ∧ s.entry (cand 2).aid = some ready9
        ∧ s.cab.extentOf (.resv (cand 2).resv) = some { base := 1, len := 1, part := 0, obj := .resv 3 } ∧ ready9.freePending = false
        ∧ s.cab.log.length < 258048 ∧ (s.cab.dir.map (·.aid)).Nodup)
    ∧ (∀ q ∈ [1, 2],
      let s := marked q;
      s.poolIdle = true ∧ (100 * (s.cabUse 0 - s.leavingUse 0) ≤ (s.getP 0).cabQuota.toNat * s.cab.demoteMark.toNat ↔ q = 2)
        ∧ s.demotable 0 = [({ entry9 with vtab := [slow9] }, slow9)] ∧ slow9.slowLoc = none ∧ s.slowFit 0 slow9.blen = some 0
        ∧ (s.getP 0).slowSpace = 2) :=
  ⟨by decide +kernel, by decide +kernel, by decide +kernel⟩

/-! ### The machine as a whole, and numbers -/

theorem test_reset_mem : State.reset.memWf = true := by decide +kernel

theorem witness_StepTakesTheFront :
    State.reset.pending = [] ∧ State.reset.side.rstN = false ∧ live.pending = [] ∧ live.side.rstN = true := by decide +kernel

theorem witness_MemoriesReadAsWritten :
    Memory.wf [(0, 1), (2 ^ 39 - 1, 255)] = true ∧ ([1, 0, 2] : List Byte).length = 3 := by decide +kernel

theorem witness_EveryStepKeepsTheMemories :
    (let w : PWrite := { id := 0, space := 0, addr := 65536, bytes := [1, 0], tag := .other, drw := 0, key := 0, ew := 8, page := 0 };
    let s : State := { copying with pending := [.writeAck 0], writes := [w] };
    s.memWf = true ∧ goesOn (step s) = true) := by decide +kernel

theorem witness_ElementsAndScalesDecode :
    ((2, 4, 3, 7) ∈ [(2, 4, 3, 7), (3, 5, 2, 15), (4, 2, 3, 1), (5, 3, 2, 3), (6, 2, 1, 1)] ∧ 1 < 2 ∧ 15 < 2 ^ 4 ∧ 7 < 2 ^ 3 ∧ 6 < 2 ^ 3
      ∧ 6 ≠ 7 ∧ 2 ≠ 3)
    ∧ ((3, 5, 2, 15) ∈ [(2, 4, 3, 7), (3, 5, 2, 15), (4, 2, 3, 1), (5, 3, 2, 3), (6, 2, 1, 1)] ∧ 31 < 2 ^ 5 ∧ 0 < 2 ^ 2 ∧ 3 < 2 ^ 2 ∧ 3 ≠ 0)
    ∧ (255 < 256 ∧ 2 ^ 23 - 1 < 2 ^ 23 ∧ 2 ^ 7 - 1 < 2 ^ 7 ∧ 254 < 255 ∧ 8 * 31 + 6 ≠ 255 ∧ 31 < 32) := by decide

theorem witness_QuantizerWritesNoSpecials :
    (∀ f ∈ [2, 6], f ∈ [2, 3, 4, 5, 6]) ∧ (∀ x ∈ [0, 2 ^ 31], mag32 x = 0)
    ∧ (let xs := [0x3F800000, 0xC0000000, 0]; 0xC0000000 ∈ xs ∧ mag32 0xC0000000 ≠ 0 ∧ ∀ x ∈ xs, mag32 x ≤ mag32 0xC0000000) := by decide +kernel

/-- The worked byte of R60: the digits (2, 1, 0, 0, 2) are packed as 0xA7. -/
theorem test_q2t_byte : (List.range 5).map (fun i => (q2tDigit 0xA7 i).int) = [1, 0, -1, -1, 1] := by decide +kernel

/-- The worked Q4 element after R63: 4 × 1.375 × 0.015625 and −3 × 1.375 × 0.015625. -/
theorem test_q4_element :
    (panel 0x3C80).map (fun p => [((elem 6 6).1.mul (ue5m3 0x7B)).mul p, ((elem 6 13).1.mul (ue5m3 0x7B)).mul p].map fun (d : Dy) => d.rne32)
      = some [(0x3DB00000, 0), (0xBD840000, 0)] := by decide +kernel

/-- The worked rounding after R88: 2.6 becomes 3 from r = 26,215 on. -/
theorem test_stochastic_rounding : srElem 6 (dy32 0x40266666) 26214 = (4, false) ∧ srElem 6 (dy32 0x40266666) 26215 = (5, false) := by
  decide +kernel

/-- The worked times after R489: `SHRINK` walk, h drain and `EXPAND` pass of 128 rows and of one. -/
theorem test_unit_times :
    walkOf none 7 128 5120 0 64 false = 10275 ∧ walkOf none 7 1 5120 0 64 false = 1379 ∧ drainTime 128 64 = 28 ∧ drainTime 1 64 = 13
      ∧ walkOf none 7 128 64 0 1024 false + drainTime 128 1024 = 2351 ∧ walkOf none 7 1 64 0 1024 false + drainTime 1 1024 = 305 := by
  decide +kernel

/-- The worked macro-instruction after R456: `SHRINK_EXPAND` of projection 30, E4M3, `TR` 8, `TO2` 16. -/
theorem test_macro_fields :
    (let m := miOf [0x00201E12, 0x00400008]; m.op = 0x12 ∧ m.proj = 30 ∧ m.fmta = 2 ∧ m.tr = 8 ∧ m.tOut2 = 16 ∧ m.src = 0) := by decide +kernel

/-- The worked latch after R426: the word after the gate of step 81,200, after its teardown, and after the next gate. -/
theorem test_latch_words :
    (let l := { heldBy .context 6 false with domain := 6, osseq := 0x3D30, cnt := 0x2D };
    let word (l : Latch) : Nat × Nat := let s : State := { live with latch := [(0x140, l)] }; (s.rdWord (0x180000 + 8 * 0x140 + 4), s.rdWord (0x180000 + 8 * 0x140));
    word l = (0x002D3D30, 0x06460001) ∧ word (l.leave .broken) = (0x002D0000, 0x00060002)) := by decide +kernel

/-- R350: epoch 0 is skipped, and order wraps. -/
theorem test_epochs : nextEpoch 0xFFFFFFFF = 1 ∧ precedes 0xFFFFFFFF 1 = true ∧ precedes 1 0xFFFFFFFF = false := by decide

/-! ### Terms that are not well formed -/

def shortFrame : RclFrame := { rcl 0x40 0 0 [1] with w4 := 2 }
def unendedFrame : RclFrame := { rcl 0x40 0 0 [1] with w0 := 0x40 }
def longMsg : RppMsg := { hdr := { w0 := 0, w1 := 0, w2 := 0, w3 := 0, w4 := 0, w5 := 0, w6 := 65537, w7 := 0 }, pl := .none }

theorem test_ill_formed_messages :
    (Instr.hello shortFrame).wf = false ∧ (Instr.hello unendedFrame).wf = false ∧ (Instr.phb longMsg).wf = false ∧ (Instr.hello (rcl 1 0 0 [])).wf = true := by
  decide +kernel

theorem test_ill_formed_numbers :
    ∀ i ∈ [Instr.acq (.core 6) 0, .acq (.context 32) 0, .acq .host 32768, .setDomain .host 0 64, .rows 32, .stagingStreamEnd 0 4, .responseEgress 4,
      .rowVector 4 { w0 := 0, w1 := 0, w2 := 0, w3 := 0, rest := [], rowPart := 0, data := [] },
      .rowVector 0 { w0 := 0, w1 := 0, w2 := 0, w3 := 0, rest := [], rowPart := 32, data := [] },
      .l1Exit true 8, .l1Exit false 4, .linkInactive 4, .demotion 32, .vecWait 32 0, .ticketExpiry 65536, .regulatorRefill 32, .idleHold 96,
      .wakeComplete 96, .hbmCorrected (2 ^ 39) 0 0, .hbmUncorrected (2 ^ 39) 0 0 [], .managementCoreFault 6, .resetRelease 4, .hbmTrainingDone 256,
      .i3cRead (2 ^ 32) 4, .setdasa 0 128, .entdaa 128, .injArm (2 ^ 32) .none, .faultPend (2 ^ 32) .none, .writeLost 0 (2 ^ 32) .none, .hngBad 4 0,
      .lenMism 4 0, .registerWrite 6 0 0 .word [], .registerWrite 0 0 (2 ^ 32) .word [], .registerWrite 0 0 (2 ^ 64) .dword []], i.wf = false := by decide +kernel

end Sys2Proof.Tests
end

section
/-! PROOF. Hinge ports: reading after an update, and the clearing reads of R12. -/

namespace Sys2Proof.Machine

open Sys2Proof

@[simp] theorem State.getHng_modHng (s : State) (n k : Nat) (f : Hng → Hng) :
    (s.modHng n f).getHng k = if k = n ∧ k < s.hng.length then f (s.getHng k) else s.getHng k :=
  nth_modNth s.hng n k f Hng.reset

/-- A clearing read of `HNG_BAD` leaves the events of its cycle in the field. -/
theorem State.clearRc_hngBad (s : State) (port ev : Nat) :
    s.clearRc ⟨.hng, port, 4⟩ ev = s.modHng port fun h => { h with hngBad := BitVec.ofNat 32 (sat32 ev) } := rfl

/-- A clearing read of `LEN_MISM` leaves the events of its cycle in the field. -/
theorem State.clearRc_lenMism (s : State) (port ev : Nat) :
    s.clearRc ⟨.hng, port, 8⟩ ev = s.modHng port fun h => { h with lenMism := BitVec.ofNat 32 (sat32 ev) } := rfl

theorem exec_hngBad (s : State) (port ev : Nat) :
    exec (.hngBad port ev) s = .next (State.clearRc { s with rcRet := (s.getHng port).hngBad } ⟨.hng, port, 4⟩ ev) := rfl

theorem exec_lenMism (s : State) (port ev : Nat) :
    exec (.lenMism port ev) s = .next (State.clearRc { s with rcRet := (s.getHng port).lenMism } ⟨.hng, port, 8⟩ ev) := rfl

/-- Settles O59: each read returns the field before it is cleared, and a second read finds the events of the first one's cycle. -/
theorem clearingReadsLeaveTheCycle : Obligations.ClearingReadsLeaveTheCycle := by
  intro s port ev ev' hport
  have second : ∀ e, ev = 0 → e = BitVec.ofNat 32 (sat32 ev) → e = (0 : Word) := by rintro _ rfl rfl; rfl
  constructor
  · refine ⟨_, _, exec_hngBad s port ev, rfl, rfl, rfl, exec_hngBad _ port ev', ?_⟩
    have returned : (((State.clearRc { s with rcRet := (s.getHng port).hngBad } ⟨.hng, port, 4⟩ ev).getHng port).hngBad)
        = BitVec.ofNat 32 (sat32 ev) := by simp [State.clearRc_hngBad, hport]
    exact ⟨returned, fun h => second _ h returned⟩
  · refine ⟨_, _, exec_lenMism s port ev, rfl, rfl, rfl, exec_lenMism _ port ev', ?_⟩
    have returned : (((State.clearRc { s with rcRet := (s.getHng port).lenMism } ⟨.hng, port, 8⟩ ev).getHng port).lenMism)
        = BitVec.ofNat 32 (sat32 ev) := by simp [State.clearRc_lenMism, hport]
    exact ⟨returned, fun h => second _ h returned⟩

end Sys2Proof.Machine
end

section
/-! PROOF. Partition pages and issued contexts: reading after an update. -/

namespace Sys2Proof.Machine

open Sys2Proof

/-! ### Pages -/

theorem State.getP_modP (s : State) (p q : Nat) (f : Prt → Prt) :
    (s.modP p f).getP q = if q = p ∧ q < s.prt.length then f (s.getP q) else s.getP q :=
  nth_modNth s.prt p q f Prt.reset

theorem State.getP_modP_ne (s : State) {p q : Nat} (f : Prt → Prt) (h : q ≠ p) : (s.modP p f).getP q = s.getP q := by
  rw [State.getP_modP, if_neg fun e => h e.1]

theorem State.getP_modP_same {s : State} {p : Nat} (f : Prt → Prt) (h : p < s.prt.length) :
    (s.modP p f).getP p = f (s.getP p) := by
  rw [State.getP_modP, if_pos ⟨rfl, h⟩]

/-- A page beyond the last one is the reset page. -/
theorem State.getP_beyond {s : State} {p : Nat} (h : s.prt.length ≤ p) : s.getP p = Prt.reset := by
  simp [State.getP, nth, List.getD_eq_getElem?_getD, List.getElem?_eq_none h]

/-- A page that differs from the reset page is among the partitions' pages. -/
theorem State.lt_of_getP_ne {s : State} {p : Nat} (h : s.getP p ≠ Prt.reset) : p < s.prt.length :=
  Nat.lt_of_not_le fun hp => h (State.getP_beyond hp)

theorem State.lt_of_running {s : State} {p : Nat} {j : Job} (h : (s.getP p).running = some j) : p < s.prt.length :=
  State.lt_of_getP_ne fun e => by rw [e] at h; cases h

theorem State.lt_of_ctxOf {s : State} {p : Nat} {c : Ctx} (h : s.ctxOf p = some c) : p < s.prt.length :=
  State.lt_of_getP_ne fun e => by rw [State.ctxOf, e] at h; cases h

/-! ### Contexts -/

theorem State.ctxOf_eq_of_prt {s t : State} (p : Nat) (h : t.prt = s.prt) : t.ctxOf p = s.ctxOf p := by
  rw [State.ctxOf, State.ctxOf, State.getP, State.getP, h]

/-- Updating the page of a step in a way that leaves its context. -/
theorem State.ctxOf_modP (s : State) (p : Nat) {f : Prt → Prt} (hf : ∀ q, (f q).ctx = q.ctx) : (s.modP p f).ctxOf p = s.ctxOf p := by
  rw [State.ctxOf, State.getP_modP]
  split
  · exact hf _
  · rfl

theorem State.ctxOf_modCtx {s : State} {p : Nat} {c : Ctx} (f : Ctx → Ctx) (h : s.ctxOf p = some c) :
    (s.modCtx p f).ctxOf p = some (f c) := by
  have hp := State.lt_of_ctxOf h
  rw [State.ctxOf] at h
  rw [State.modCtx, State.ctxOf, State.getP_modP_same _ hp]
  simp [h]

theorem updFirst_find? {α : Type} (l : List α) (t : α → Bool) (f : α → α) (h : ∀ x, t (f x) = t x) :
    (updFirst l t f).find? t = (l.find? t).map f := by
  induction l with
  | nil => rfl
  | cons x xs ih =>
    by_cases hx : t x = true
    · simp [updFirst, hx, h]
    · simp [updFirst, hx, ih]

end Sys2Proof.Machine
end

section
/-! PROOF. Issue of a step (R432, R433): one lemma for each phase that O32 speaks of, and the obligation. -/

namespace Sys2Proof.Machine

open Sys2Proof

theorem State.issuePhase_sample {s : State} {p : Nat} {c : Ctx} (h : c.phase = .sample) : s.issuePhase p c = s.phaseSample p c := by
  rw [State.issuePhase, h]

theorem State.issuePhase_table {s : State} {p : Nat} {c : Ctx} (h : c.phase = .table) : s.issuePhase p c = s.phaseTable p c := by
  rw [State.issuePhase, h]

theorem State.issuePhase_notice {s : State} {p : Nat} {c : Ctx} (h : c.phase = .notice) : s.issuePhase p c = s.phaseNotice p c := by
  rw [State.issuePhase, h]

/-- Issue goes on from a phase that is complete. -/
theorem State.resumeIssue_next {s u : State} {p : Nat} {c : Ctx} (hc : s.ctxOf p = some c) (h : s.issuePhase p c = .next u) :
    s.resumeIssue p = (State.issueGo p 7 u).releaseHeld p := by
  rw [State.resumeIssue, State.issueGo, hc]
  simp only [h]

/-- `ROWS` of a step in one of its phases that completes. -/
theorem exec_rows_next {s u : State} {p : Nat} {c : Ctx} (hc : s.ctxOf p = some c)
    (hph : c.phase = .sample ∨ c.phase = .table ∨ c.phase = .notice) (h : s.issuePhase p c = .next u) :
    exec (.rows p) s = .next ((State.issueGo p 7 u).releaseHeld p) := by
  change Host.Outcome.next (s.phaseCmd p [.sample, .table, .notice]) = _
  have mem : [Phase.sample, .table, .notice].contains c.phase = true := by
    rcases hph with e | e | e <;> rw [e] <;> rfl
  rw [State.phaseCmd, hc]
  simp only [mem, if_true, State.resumeIssue_next hc h]

/-! ### The head of the queue -/

/-- The step that is issued next, where nothing keeps it back (R432). -/
theorem State.headSub_eq {s : State} {p : Nat} {j : Job} {x : Sub} {rest : List Sub} (held : s.issueHeld = false)
    (told : ∀ f ∈ s.lnk.notes, f.opc = 0x60 → leAt f.data 6 1 % 32 ≠ p) (run : (s.getP p).running = some j)
    (idle : (s.getP p).ctx = none) (saved : ∀ c ∈ (s.getP p).svCtx, c.job ≠ j.num) (queue : j.queue = x :: rest)
    (late : ∀ t0, (s.getP p).lastIssue = some t0 → t0 + 200 ≤ s.now) : s.headSub p = some (j, x) := by
  have quiet : (s.lnk.notes.any fun f => f.opc == 0x60 && leAt f.data 6 1 % 32 == p) = false := by
    simpa [List.any_eq_false] using told
  have other : (s.getP p).svCtx.any (fun c => c.job == j.num) = false := by
    cases h : (s.getP p).svCtx with
    | none => rfl
    | some c => simpa using saved c h
  have spaced : (s.getP p).lastIssue.any (fun t => decide (s.now < t + 200)) = false := by
    cases h : (s.getP p).lastIssue with
    | none => rfl
    | some t0 => simpa using late t0 h
  simp [State.headSub, run, idle, held, quiet, queue, other, spaced]

/-! ### The sampling point -/

/-- Holding the save charge's place changes extents alone (R375). -/
theorem State.placeSave_eq (s : State) (p : Nat) : ∃ e, s.placeSave p = s.modCab fun c => { c with extents := e } := by
  refine ⟨(s.placeSave p).cab.extents, ?_⟩
  unfold State.placeSave State.modCab
  dsimp only
  split
  · rfl
  · dsimp only
    split
    · split <;> rfl
    · rfl

/-- A page whose charged sizes take effect. -/
def Prt.takeCharge (q : Prt) : Prt :=
  { q with effVisit := q.visitCap.toNat, effGw := q.gwMax.toNat, effShare := q.shfShare.map (·.toNat) }

/-- A new save charge changes its page's charged sizes and extents (R376). -/
theorem State.newCharge_eq (s : State) (p : Nat) :
    ∃ e, s.newCharge p = (s.modP p Prt.takeCharge).modCab fun c => { c with extents := e } :=
  (s.modP p Prt.takeCharge).placeSave_eq p

/-- A queue without the step that is issued or refused. -/
def Job.without (sseq : Nat) (j : Job) : Job := { j with queue := j.queue.filter fun x => x.sseq != sseq }

/-- What a step takes at its sampling point (R177, R433). -/
def State.samples (s : State) (p : Nat) (c : Ctx) : Sampled :=
  { stale := s.staleMIs p c.prog, tickets := s.sec.tickets, common := (s.getP p).common, rowQuota := (s.getP p).rowQuota.toNat
    drwQuota := (s.getP p).drwQuota.toNat, dir := s.cab.dir, notes := s.pol.notes }

/-- The bounds of a program that are not in memory, as they are kept (R438): with 1 added, and 0 for none. -/
def State.keptBounds (s : State) (p : Nat) (c : Ctx) : List Nat :=
  c.prog.map fun m => if m.bsrc = 3 then 0 else match s.bound p (s.view c tagBound) m with | (some b, _) => b + 1 | (none, _) => 0

/-- An issued context after the sampling point. -/
def State.sampleCtx (s : State) (p : Nat) (c x : Ctx) : Ctx :=
  { x with
    samp := s.samples p c, bounds := s.keptBounds p c, phase := .table, phaseAt := s.now
    owners := ((s.cab.grads.filter fun g => g.part == p).map (·.aid)).eraseDups.filterMap fun a => (s.ownerAt a).map fun o => (a, o)
    snap := ((s.pol.snaps.getLast?).map (·.id)).getD 0
    visitCap := if (s.getP p).tumOwn = 0 then 0 else (s.getP p).visitCap.toNat }

/-- The page of a partition after its step has been sampled. -/
def State.samplePage (s : State) (p : Nat) (c : Ctx) (q : Prt) : Prt :=
  { Prt.takeCharge { q with jobs := updFirst q.jobs (fun j => j.num == c.job) (Job.without c.sub.sseq), lastIssue := some s.now } with
    ctx := q.ctx.map (s.sampleCtx p c) }

theorem modNth_modNth {α : Type} (l : List α) (i : Nat) (f g : α → α) : modNth (modNth l i f) i g = modNth l i fun x => g (f x) := by
  apply List.ext_getElem (by simp)
  intro j h1 h2
  simp only [modNth, List.getElem_mapIdx]
  split <;> rfl

/-- The kept bounds by the source of each (R438). -/
theorem State.keptBounds_eq {s : State} {p : Nat} {c : Ctx} (h : ∀ m ∈ c.prog, m.bsrc < 3) :
    s.keptBounds p c = c.prog.map fun m => match m.bsrc with
      | 1 => m.bval.toNat + 1
      | 2 => (nth (s.getP p).bound m.bval.toNat 0).toNat + 1
      | _ => 0 := by
  refine List.map_congr_left fun m hm => ?_
  have source : m.bsrc = 0 ∨ m.bsrc = 1 ∨ m.bsrc = 2 := by have := h m hm; omega
  rcases source with e | e | e <;> simp [State.bound, e]

/-- The sampling point completes (R433): the state it leaves differs from the one before in the page of the partition, in `USE_STAMP` and in
the extents of the Cabinet. -/
theorem State.phaseSample_eq {s : State} {p : Nat} {c : Ctx} (held : s.issueHeld = false) :
    ∃ e, s.phaseSample p c
      = .next ((s.modP p (s.samplePage p c)).modCab fun b => { b with extents := e, useStamp := wrapAdd b.useStamp 1 }) := by
  obtain ⟨e, he⟩ := State.newCharge_eq ((s.popSub p c).modP p fun q => { q with lastIssue := some s.now }) p
  refine ⟨e, ?_⟩
  unfold State.phaseSample
  rw [if_neg (by simp [held])]
  dsimp only
  rw [he]
  simp only [State.modCtx, State.modP, State.modCab, State.popSub, State.modJob, modNth_modNth]
  rfl

/-! ### The row table -/

/-- Nothing has to be asked for where every range lies in a device memory that is awake. -/
theorem State.want_here {s : State} {p tag : Nat} {rs : List Rng} (h : ∀ r ∈ rs, r.space < 2 ∧ (r.space = 0 → s.hbmAwake = true)) :
    s.want p tag rs = (true, s) := by
  have far : (rs.filter fun r => decide (2 ≤ r.space) && decide (0 < r.len)) = [] := by
    rw [List.filter_eq_nil_iff]
    intro r hr
    simp [Nat.not_le.mpr (h r hr).1]
  have awake : ((rs.any fun r => r.space == 0 && decide (0 < r.len)) && !s.hbmAwake) = false := by
    rw [Bool.and_eq_false_iff, List.any_eq_false]
    by_cases ha : s.hbmAwake = true
    · exact .inr (by simp [ha])
    · exact .inl fun r hr => by simp [mt (h r hr).2 ha]
  unfold State.want
  split
  · rfl
  · simp [far, awake]

/-- Reading HBM changes counters, wakes and the free numbers taken, nothing else. -/
theorem State.hbmRead_eq (s : State) : ∃ w h k, s.hbmRead = { s with pwr := w, hbmStk := h, freeCtr := k } := by
  have go (l : List Nat) (t : State) (ht : ∃ w h k, t = { s with pwr := w, hbmStk := h, freeCtr := k }) :
      ∃ w h k, l.foldl (fun (s : State) k => let r := s.fresh; r.2.modStk k fun h => { h with rdBytes := wrapAdd h.rdBytes r.1 }) t
        = { s with pwr := w, hbmStk := h, freeCtr := k } := by
    induction l generalizing t with
    | nil => exact ht
    | cons k l ih =>
      obtain ⟨w, h, n, rfl⟩ := ht
      exact ih _ ⟨w, _, n + 1, rfl⟩
  exact go _ _ ⟨_, s.hbmStk, s.freeCtr, rfl⟩

/-- What a read or write out of bounds counts changes pages alone, and of an issued context its records (R123). -/
theorem State.addRec_eq {s : State} {p : Nat} {c : Ctx} (i rd wr : Nat) (hc : s.ctxOf p = some c) :
    { s.addRec p i rd wr with prt := s.prt } = s ∧ ∃ r, (s.addRec p i rd wr).ctxOf p = some { c with recs := r } := by
  unfold State.addRec
  split
  · exact ⟨rfl, c.recs, hc⟩
  · refine ⟨rfl, ?_⟩
    rw [State.ctxOf_modP _ _ (by exact fun _ => rfl), State.ctxOf_modCtx _ hc]
    exact ⟨_, rfl⟩

theorem State.foldl_addRec_eq {s : State} {p : Nat} {c : Ctx} (f : Nat → Nat) (l : List Nat) (hc : s.ctxOf p = some c) :
    { l.foldl (fun (s : State) i => s.addRec p i (f i) 0) s with prt := s.prt } = s
      ∧ ∃ r, (l.foldl (fun (s : State) i => s.addRec p i (f i) 0) s).ctxOf p = some { c with recs := r } := by
  induction l generalizing s c with
  | nil => exact ⟨rfl, c.recs, hc⟩
  | cons i l ih =>
    obtain ⟨e, r, h⟩ := State.addRec_eq i (f i) 0 hc
    obtain ⟨e', r', h'⟩ := ih h
    refine ⟨?_, r', h'⟩
    calc { l.foldl (fun (s : State) i => s.addRec p i (f i) 0) (s.addRec p i (f i) 0) with prt := s.prt }
        = { s.addRec p i (f i) 0 with prt := s.prt } := by conv_rhs => rw [← e']
      _ = s := e

/-- The ticket checks of a table read and change the ticket table alone (R524). -/
theorem State.ticketRows_congr {s t : State} (p : Nat) {c d : Ctx} (rows : List Row) (hs : t.sec = s.sec) (hd : d.samp = c.samp)
    (hat : d.phaseAt = c.phaseAt) :
    (t.ticketRows p d rows).1 = (s.ticketRows p c rows).1
      ∧ (t.ticketRows p d rows).2 = { t with sec := (s.ticketRows p c rows).2.sec } := by
  unfold State.ticketRows
  refine List.foldl_rel (r := fun (a b : List Row × State) => a.1 = b.1 ∧ a.2 = { t with sec := b.2.sec })
    ⟨rfl, by rw [← hs]⟩ ?_
  rintro r - ⟨a, x⟩ ⟨b, y⟩ ⟨rfl, hx⟩
  dsimp only at hx ⊢
  subst hx
  have same : State.ticketOk { t with sec := y.sec } p d r = y.ticketOk p c r := by
    simp only [State.ticketOk, hd, hat]
  rw [same]
  split
  · exact ⟨rfl, rfl⟩
  · split
    · exact ⟨rfl, rfl⟩
    · split
      · exact ⟨rfl, rfl⟩
      · exact ⟨rfl, rfl⟩

/-- The checks of a row take what the step sampled and the pool's view, nothing else (R177, R433). -/
theorem State.checkRow_congr {s t : State} {c d : Ctx} (r : Row) (hp : t.pol = s.pol) (hs : d.samp = c.samp)
    (ho : d.noteOut = c.noteOut) (hx : d.noteDead = c.noteDead) : t.checkRow d r = s.checkRow c r := by
  unfold State.checkRow State.known Ctx.wardOk State.rangeOf
  rw [hp, hs, ho, hx]

theorem State.needNote_congr {s t : State} {c d : Ctx} (hp : t.pol = s.pol) (hr : d.rows = c.rows) (hs : d.samp = c.samp)
    (ho : d.noteOut = c.noteOut) (hx : d.noteDead = c.noteDead) : t.needNote d = s.needNote c := by
  unfold State.needNote State.mine State.ownerOfAid State.rangeOf State.me
  rw [hp, hr, hs, ho, hx]

/-- A row that can be checked is checked alike. -/
theorem State.checked_congr {s t : State} {c d : Ctx} (rows : List Row) (r : Row) (hp : t.pol = s.pol) (hr : d.rows = rows)
    (hs : d.samp = c.samp) (ho : d.noteOut = c.noteOut) (hx : d.noteDead = c.noteDead) :
    (if (t.needNote d).contains r.aid then r else t.checkRow d r)
      = if (s.needNote { c with rows := rows }).contains r.aid then r else s.checkRow c r := by
  rw [State.needNote_congr (c := { c with rows := rows }) hp hr hs ho hx, State.checkRow_congr r hp hs ho hx]

/-- Taking the references of a step's rows changes the directory, and the step keeps which they are (R355, R356). -/
theorem State.pinRows_eq {s : State} {p : Nat} {c : Ctx} (hc : s.ctxOf p = some c) :
    ∃ b l, s.pinRows p = State.modCtx { s with cab := b } p fun c => { c with pinned := l } := by
  have go (l : List (Nat × Nat)) (t : State) (ht : ∃ b, t = { s with cab := b }) :
      ∃ b, l.foldl (fun s g => s.takeRef g.1 g.2) t = { s with cab := b } := by
    induction l generalizing t with
    | nil => exact ht
    | cons g l ih =>
      obtain ⟨b, rfl⟩ := ht
      exact ih _ ⟨_, rfl⟩
  unfold State.pinRows
  rw [hc]
  dsimp only
  obtain ⟨b, hb⟩ := go _ s ⟨s.cab, rfl⟩
  exact ⟨b, _, by rw [hb]⟩

/-- Checks of the rows whose adapters are known, once the tickets are checked (R177, R524). -/
def State.checkedRows (s : State) (p : Nat) (c : Ctx) (rs : List Row) : List Row :=
  let rows := (s.ticketRows p c rs).1
  rows.map fun r => if (s.needNote { c with rows := rows }).contains r.aid then r else s.checkRow c r

/-- No bound of the program lies in memory. -/
theorem memBounds_nil {s : State} {prog : List MI} (h : ∀ m ∈ prog, m.bsrc < 3) :
    ((prog.filter fun m => m.bsrc == 3).filterMap fun m => (s.dOf m.bval).map fun d => (⟨d.space, d.base, 4⟩ : Rng)) = [] := by
  have none3 : prog.filter (fun m => m.bsrc == 3) = [] := by
    rw [List.filter_eq_nil_iff]
    intro m hm
    have := h m hm
    simp only [beq_iff_eq]
    omega
  rw [none3]
  rfl

theorem nth_bsrc_lt {prog : List MI} (h : ∀ m ∈ prog, m.bsrc < 3) (i : Nat) : (nth prog i (miOf [])).bsrc < 3 := by
  rcases Nat.lt_or_ge i prog.length with hi | hi
  · rw [nth, List.getD_eq_getElem _ _ hi]
    exact h _ (List.getElem_mem hi)
  · rw [nth, List.getD_eq_default _ _ hi]
    decide

/-- The step keeps which versions its rows pin; beyond its context and the directory nothing changes. -/
theorem State.ctxOf_pinRows {s : State} {p : Nat} {c : Ctx} (hc : s.ctxOf p = some c) :
    ∃ l, (s.pinRows p).ctxOf p = some { c with pinned := l } ∧ (s.pinRows p).sec = s.sec := by
  obtain ⟨b, l, e⟩ := State.pinRows_eq hc
  rw [e]
  exact ⟨l, State.ctxOf_modCtx _ hc, rfl⟩

/-- What reading the row table leaves: pages, HBM counters, wakes and free numbers apart, the state before; of the step only its records
have changed. -/
theorem State.counted_frame {s : State} {p : Nat} {c : Ctx} (f : Nat → Nat) (l : List Nat) (hc : s.ctxOf p = some c) :
    let v := l.foldl (fun (s : State) i => s.addRec p i (f i) 0) s.hbmRead
    v.sec = s.sec ∧ v.pol = s.pol ∧ v.ras = s.ras ∧ ∃ r, v.ctxOf p = some { c with recs := r } := by
  obtain ⟨w, h, k, e⟩ := s.hbmRead_eq
  have same : s.hbmRead.ctxOf p = some c := (State.ctxOf_eq_of_prt p (by rw [e])).trans hc
  obtain ⟨e', r, hr⟩ := State.foldl_addRec_eq f l same
  refine ⟨?_, ?_, ?_, r, hr⟩
  · exact (congrArg State.sec e').trans (by rw [e])
  · exact (congrArg State.pol e').trans (by rw [e])
  · exact (congrArg State.ras e').trans (by rw [e])

/-- The end of the table's phase: of a context that `f` has made of the step's, the rows that can be checked are, and their versions are
pinned. -/
theorem State.checked_and_pinned {v : State} {p : Nat} {c : Ctx} {f : Ctx → Ctx} (hc : v.ctxOf p = some c) :
    ∃ u c', Go.next (((v.modCtx p f).modCtx p fun x =>
        { x with rows := x.rows.map fun r => if ((v.modCtx p f).needNote x).contains r.aid then r else (v.modCtx p f).checkRow x r }).pinRows p)
          = .next u
      ∧ u.ctxOf p = some c' ∧ c'.phase = (f c).phase
      ∧ c'.rows = (f c).rows.map (fun r => if (v.needNote (f c)).contains r.aid then r else v.checkRow (f c) r) ∧ u.sec = v.sec := by
  obtain ⟨l, hl, sec⟩ := State.ctxOf_pinRows (State.ctxOf_modCtx (fun x =>
    { x with rows := x.rows.map fun r => if ((v.modCtx p f).needNote x).contains r.aid then r else (v.modCtx p f).checkRow x r })
    (State.ctxOf_modCtx f hc))
  exact ⟨_, _, rfl, hl, rfl, rfl, sec⟩

/-- The row table is copied (R174): its rows are well formed, and what reading it needs is there. -/
theorem State.phaseTable_next {s : State} {p n : Nat} {c : Ctx} {d : Desc} {rs : List Row} (hc : s.ctxOf p = some c)
    (desc : s.rowsDesc c = .ok d) (device : d.space < 2) (awake : d.space = 1 ∨ s.hbmAwake = true) (bounds : ∀ m ∈ c.prog, m.bsrc < 3)
    (noOfs : s.dOf c.sub.ofsH = none)
    (hn : n = if nth c.bounds (rowsIdx c.prog) 0 = 0 then d.size 1 else nth c.bounds (rowsIdx c.prog) 0 - 1)
    (quota : n ≤ c.samp.rowQuota) (most : n ≤ 262144)
    (rows : (List.range n).map (fun i => rowOf (c.role == .learner) c.sub.sseq
        ((List.range 8).map fun k => (s.u32 (s.view c tagRows) d k [i]).1)) = rs.map some)
    (total : rs.foldl (fun k r => k + r.len) 0 ≤ 1048576) (ports : ∀ r ∈ rs, r.vacant = false → s.ras.fenceQ.getLsbD r.port = false) :
    ∃ u c', s.phaseTable p c = .next u ∧ u.ctxOf p = some c' ∧ c'.phase = .notice ∧ c'.rows = s.checkedRows p c rs
      ∧ u.sec = (s.ticketRows p c rs).2.sec := by
  have here : ∀ r ∈ (List.range (min n (d.size 1))).flatMap fun i => [(⟨d.space, d.base + i * d.stride 1, 32⟩ : Rng)],
      r.space < 2 ∧ (r.space = 0 → s.hbmAwake = true) := by
    intro r hr
    obtain ⟨i, -, hi⟩ := List.mem_flatMap.mp hr
    rw [List.mem_singleton.mp hi]
    exact ⟨device, fun h0 => awake.resolve_left fun h1 => absurd (h1.symm.trans h0) (by decide)⟩
  have whole : (rs.map some).any (·.isNone) = false := by simp
  have each : (rs.map some).filterMap id = rs := by simp
  have unfenced : rs.any (fun r => !r.vacant && s.ras.fenceQ.getLsbD r.port) = false := by
    rw [List.any_eq_false]
    intro r hr
    cases hv : r.vacant
    · simp [ports r hr hv]
    · simp
  unfold State.phaseTable
  simp only [desc, memBounds_nil bounds, noOfs, State.want_here (rs := []) (by simp), State.want_here here,
    Nat.ne_of_lt (nth_bsrc_lt bounds (rowsIdx c.prog)), if_false, ← hn, rows, whole, each]
  rw [if_neg (by omega), if_neg Bool.false_ne_true, if_neg (Nat.not_lt.mpr total)]
  obtain ⟨sec, pol, ras, r, ctx⟩ := State.counted_frame
    (fun i => (s.bound p (s.view c tagBound) (nth c.prog i (miOf []))).2 + if i = rowsIdx c.prog then
      (List.range n).foldl (fun k i => if d.size 1 ≤ i then k + 8 else k) 0 else 0) (List.range c.prog.length) hc
  generalize List.foldl _ s.hbmRead _ = v at sec pol ras ctx ⊢
  rw [if_neg (by rw [ras, unfenced]; exact Bool.false_ne_true), if_neg Bool.false_ne_true]
  obtain ⟨rows1, secs⟩ := State.ticketRows_congr (s := s) (c := c) p rs sec rfl rfl
  rw [rows1, secs]
  obtain ⟨u, c', next, ctx', phase, rows', sec'⟩ := State.checked_and_pinned
    (v := { v with sec := (s.ticketRows p c rs).2.sec }) ctx
  refine ⟨u, c', next, ctx', phase, rows'.trans ?_, sec'⟩
  exact List.map_congr_left fun x _ => State.checked_congr _ x pol rfl rfl rfl rfl

/-- The notices that a step needed are there: the other rows are checked (R324). -/
theorem State.phaseNotice_next {s : State} {p : Nat} {c : Ctx} (hw : c.noteWait = []) (hn : s.needNote c = []) :
    s.phaseNotice p c = .next (s.modCtx p fun c => { c with rows := oneEpoch (c.rows.map (s.checkRow c)), phase := .sort }) := by
  simp [State.phaseNotice, hw, hn]

/-! ### The obligation -/

theorem exec_stepIssue_head {s : State} {p : Nat} {j : Job} {x : Sub} (h : s.headSub p = some (j, x)) :
    exec (.stepIssue p) s = .next (State.resumeIssue (s.modP p fun q =>
      { q with ctx := some { freshCtx j.num (if j.learner then .learner else .generator) x .load with phaseAt := s.now } }) p) := by
  change Host.Outcome.next _ = _
  rw [h]

/-- A step that has been sampled is no longer in its job's queue (R433). -/
theorem State.samplePage_queue {s : State} {p : Nat} {c : Ctx} {q : Prt} {j : Job} (h : (s.samplePage p c q).job c.job = some j) :
    ∀ x ∈ j.queue, x.sseq ≠ c.sub.sseq := by
  have found : (q.jobs.find? fun j => j.num == c.job).map (Job.without c.sub.sseq) = some j := by
    rw [← updFirst_find? _ _ (Job.without c.sub.sseq) fun _ => rfl]
    exact h
  obtain ⟨i, -, rfl⟩ := Option.map_eq_some_iff.mp found
  intro x hx
  simpa using (List.mem_filter.mp hx).2

/-- Settles O32: each of its four parts is one lemma about the phase it speaks of. -/
theorem stepsAreIssued : Obligations.StepsAreIssued := by
  intro s p
  refine ⟨?_, ?_, ?_, ?_⟩
  · intro j x rest held told run idle saved queue late
    have hp := State.lt_of_running run
    refine ⟨_, exec_stepIssue_head (State.headSub_eq held told run idle saved queue late), rfl,
      fun q hq => State.getP_modP_ne s _ hq, ?_, ?_⟩
    · rw [State.ctxOf, State.getP_modP_same _ hp]
    · rw [State.getP_modP_same _ hp, ← idle]
  · intro c hc phase held bounds
    have hp := State.lt_of_ctxOf hc
    obtain ⟨e, he⟩ := State.phaseSample_eq (p := p) (c := c) held
    have page : State.getP ((s.modP p (s.samplePage p c)).modCab fun b => { b with extents := e, useStamp := wrapAdd b.useStamp 1 }) p
        = s.samplePage p c (s.getP p) := State.getP_modP_same _ hp
    refine ⟨_, s.sampleCtx p c c, exec_rows_next hc (.inl phase) ((State.issuePhase_sample phase).trans he),
      ?_, rfl, rfl, rfl, rfl, rfl, State.keptBounds_eq bounds, ?_, rfl, rfl, ?_⟩
    · have ctx : (s.getP p).ctx = some c := hc
      rw [State.ctxOf, page, State.samplePage, ctx, Option.map_some]
    · rw [page]; rfl
    · rw [page]
      exact fun j hj => State.samplePage_queue hj
  · intro c d n rs hc phase desc device awake bounds noOfs hn quota most _ rows total ports
    obtain ⟨u, c', next, rest⟩ :=
      State.phaseTable_next hc desc device awake bounds noOfs hn quota most rows total ports
    exact ⟨u, c', exec_rows_next hc (.inr (.inl phase)) ((State.issuePhase_table phase).trans next), rest⟩
  · intro c hc phase noWait noNeed
    refine ⟨_, exec_rows_next hc (.inr (.inr phase)) ((State.issuePhase_notice phase).trans (State.phaseNotice_next noWait noNeed)),
      rfl, State.ctxOf_modCtx _ hc⟩

end Sys2Proof.Machine
end

section
/-! PROOF. Whatever the pool pair does, the command link keeps its response channels: one lemma for each function that a periodic service
or a message can reach, in the order of the model's files. A response to a command whose meaning starts such work has a channel to go to. -/

namespace Sys2Proof.Machine

open Sys2Proof

/-- The state that a phase of issue leaves. -/
def Go.state : Go → State
  | .stay s => s
  | .next s => s
  | .refuse _ _ s => s

@[simp] theorem Go.state_stay (s : State) : (Go.stay s).state = s := rfl
@[simp] theorem Go.state_next (s : State) : (Go.next s).state = s := rfl
@[simp] theorem Go.state_refuse (st : Status) (i : Nat) (s : State) : (Go.refuse st i s).state = s := rfl

@[simp] theorem Lnk.drain_chans (now : Nat) (l : Lnk) : (l.drain now).out.length = l.out.length := (Lnk.drain_same now l).2

@[simp] theorem Lnk.buffer_out (l : Lnk) (fr : OutFrame) : (l.buffer fr).out = l.out := by
  unfold Lnk.buffer
  repeat' split
  all_goals rfl

/-! ### Shapes of definitions -/

@[simp] theorem State.ite_chans {c : Prop} [Decidable c] (a b : State) :
    (if c then a else b).lnk.out.length = if c then a.lnk.out.length else b.lnk.out.length := apply_ite (fun s : State => s.lnk.out.length) c a b

@[simp] theorem State.foldl_chans {α : Type} (l : List α) (f : State → α → State) (s : State)
    (h : ∀ s a, (f s a).lnk.out.length = s.lnk.out.length) : (l.foldl f s).lnk.out.length = s.lnk.out.length := by
  induction l generalizing s with
  | nil => rfl
  | cons a l ih => rw [List.foldl_cons, ih, h]

/-- The state beside which a fold collects its results. -/
@[simp] theorem State.foldl_fst_chans {α β : Type} (l : List α) (f : State × β → α → State × β) (x : State × β)
    (h : ∀ x a, (f x a).1.lnk.out.length = x.1.lnk.out.length) : (l.foldl f x).1.lnk.out.length = x.1.lnk.out.length := by
  induction l generalizing x with
  | nil => rfl
  | cons a l ih => rw [List.foldl_cons, ih, h]

@[simp] theorem State.foldl_snd_chans {α β : Type} (l : List α) (f : β × State → α → β × State) (x : β × State)
    (h : ∀ x a, (f x a).2.lnk.out.length = x.2.lnk.out.length) : (l.foldl f x).2.lnk.out.length = x.2.lnk.out.length := by
  induction l generalizing x with
  | nil => rfl
  | cons a l ih => rw [List.foldl_cons, ih, h]

/-- The state of a result that is known by its parts. -/
theorem State.chans_of_pair {α : Type} {r : α × State} {a : α} {t : State} {n : Nat} (h : r = (a, t)) (hr : r.2.lnk.out.length = n) :
    t.lnk.out.length = n := by rw [← hr, h]


/-! ### Machine/Ops -/

@[simp] theorem State.requestWakes_chans (s : State) (doms : List Nat) : (s.requestWakes doms).lnk.out.length = s.lnk.out.length := by
  simp [State.requestWakes]

@[simp] theorem State.wakeHbm_chans (s : State) (ks : List Nat) : (s.wakeHbm ks).lnk.out.length = s.lnk.out.length := by simp [State.wakeHbm]

@[simp] theorem State.hbmRead_chans (s : State) : s.hbmRead.lnk.out.length = s.lnk.out.length :=
  State.foldl_chans _ _ _ fun _ _ => rfl

@[simp] theorem State.hbmWork_chans (s : State) : s.hbmWork.lnk.out.length = s.lnk.out.length := by
  rw [State.hbmWork, State.foldl_chans, State.hbmRead_chans]
  exact fun _ _ => rfl

@[simp] theorem State.land_chans (s : State) (space addr : Nat) (bytes : List Byte) :
    (s.land space addr bytes).lnk.out.length = s.lnk.out.length := by
  simp [State.land]

@[simp] theorem State.fabCount_chans (s : State) (port : Option Nat) (sent : Bool) (n : Nat) :
    (s.fabCount port sent n).lnk.out.length = s.lnk.out.length := by
  unfold State.fabCount
  split <;> simp

@[simp] theorem State.putXfer_chans (s : State) (x : Xfer) : (s.putXfer x).lnk.out.length = s.lnk.out.length := by simp [State.putXfer]

@[simp] theorem State.sendXfer_chans (s : State) (space addr len : Nat) (write : Option (List Byte)) (use : XferFor) :
    (s.sendXfer space addr len write use).lnk.out.length = s.lnk.out.length := by
  unfold State.sendXfer
  dsimp only
  repeat' split
  all_goals simp

@[simp] theorem State.putFrame_chans (s : State) (port : Option Nat) (peer n : Nat) (m : RppMsg) :
    (s.putFrame port peer n m).lnk.out.length = s.lnk.out.length := by
  unfold State.putFrame
  split <;> simp

/-! ### Machine/Latches -/

@[simp] theorem State.setLatch_chans (s : State) (n : Nat) (l : Latch) : (s.setLatch n l).lnk.out.length = s.lnk.out.length := by
  simp [State.setLatch]

@[simp] theorem State.latchOp_chans (s : State) (ag : Agent) (n op d : Nat) : (s.latchOp ag n op d).2.lnk.out.length = s.lnk.out.length := by
  unfold State.latchOp
  dsimp only
  repeat' split
  all_goals simp

@[simp] theorem State.modLatches_chans (s : State) (f : Latch → Latch) : (s.modLatches f).lnk.out.length = s.lnk.out.length := by
  simp [State.modLatches]

@[simp] theorem State.relStep_chans (s : State) (p : Nat) : (s.relStep p).lnk.out.length = s.lnk.out.length := by simp [State.relStep]

@[simp] theorem State.gateRelease_chans (s : State) (p : Nat) : (s.gateRelease p).lnk.out.length = s.lnk.out.length := by
  simp [State.gateRelease]

/-! ### Machine/Rcl -/

@[simp] theorem State.respondAt_chans (s : State) (took vc : Nat) (tag : Word) (session : Nat) (st : Status) (hint q : Nat) (data : List Byte) :
    (s.respondAt took vc tag session st hint q data).lnk.out.length = s.lnk.out.length := by
  simp [State.respondAt]

@[simp] theorem State.notice_chans (s : State) (opc : Nat) (data : List Byte) : (s.notice opc data).lnk.out.length = s.lnk.out.length := by
  unfold State.notice
  split <;> simp

@[simp] theorem State.lagNotice_chans (s : State) (svc due : Nat) : (s.lagNotice svc due).lnk.out.length = s.lnk.out.length := by
  simp [State.lagNotice]

@[simp] theorem State.endLong_chans (s : State) (id : Nat) (st : Status) (data : List Byte) :
    (s.endLong id st data).lnk.out.length = s.lnk.out.length := by
  unfold State.endLong
  repeat' split
  all_goals simp

/-! ### Machine/Cabinet -/

@[simp] theorem State.placeSave_chans (s : State) (p : Nat) : (s.placeSave p).lnk.out.length = s.lnk.out.length := by simp [State.placeSave]

@[simp] theorem State.newCharge_chans (s : State) (p : Nat) : (s.newCharge p).lnk.out.length = s.lnk.out.length := by simp [State.newCharge]

@[simp] theorem State.charge_chans (s : State) (p len : Nat) (o : CabObj) : (s.charge p len o).2.lnk.out.length = s.lnk.out.length := by
  unfold State.charge
  repeat' split
  all_goals simp

@[simp] theorem State.modEntry_chans (s : State) (aid : Nat) (f : Entry → Entry) : (s.modEntry aid f).lnk.out.length = s.lnk.out.length := by
  simp [State.modEntry]

/-! ### Machine/Descs -/

@[simp] theorem State.setSlot_chans (s : State) (i : Nat) (v : DescSlot) : (s.setSlot i v).lnk.out.length = s.lnk.out.length := by
  simp [State.setSlot]

@[simp] theorem State.addRef_chans (s : State) (i : Nat) : (s.addRef i).lnk.out.length = s.lnk.out.length := by simp [State.addRef]

/-! ### Machine/Security -/

@[simp] theorem State.endSession_chans (s : State) (i : Nat) : (s.endSession i).lnk.out.length = s.lnk.out.length := by
  unfold State.endSession
  split <;> simp

@[simp] theorem State.openSession_chans (s : State) (f : RclFrame) (c : Crypto) (ward si ti : Nat) :
    (s.openSession f c ward si ti).2.lnk.out.length = s.lnk.out.length := by
  simp [State.openSession]

@[simp] theorem State.settleClaims_chans (s : State) : s.settleClaims.lnk.out.length = s.lnk.out.length := by
  refine State.foldl_chans _ _ _ fun s a => ?_
  dsimp only
  repeat' split
  all_goals simp

/-! ### Machine/PoolBase -/

@[simp] theorem State.touchGroup_chans (s : State) (peer ty : Nat) : (s.touchGroup peer ty).lnk.out.length = s.lnk.out.length := by
  unfold State.touchGroup
  split <;> simp

@[simp] theorem State.sendFrame_chans (s : State) (peer : Nat) (m : RppMsg) : (s.sendFrame peer m).lnk.out.length = s.lnk.out.length := by
  unfold State.sendFrame
  split <;> simp

@[simp] theorem State.sendFrames_chans (s : State) (peer : Nat) (l : List RppMsg) : (s.sendFrames peer l).lnk.out.length = s.lnk.out.length := by
  simp [State.sendFrames]

@[simp] theorem State.openSess_chans (s : State) (peer : Nat) : (s.openSess peer).lnk.out.length = s.lnk.out.length := by
  unfold State.openSess
  dsimp only
  repeat' split
  all_goals simp

@[simp] theorem State.launch_chans (s : State) (id : Nat) : (s.launch id).lnk.out.length = s.lnk.out.length := by
  unfold State.launch
  repeat' split
  all_goals simp

@[simp] theorem State.queueRpp_chans (s : State) (peer : Nat) (kind : ReqKind) (msg : RppMsg) :
    (s.queueRpp peer kind msg).lnk.out.length = s.lnk.out.length := by
  simp [State.queueRpp]

@[simp] theorem State.request_chans (s : State) (peer : Nat) (kind : ReqKind) (ty aid ep : Nat) (pl : RppPl) :
    (s.request peer kind ty aid ep pl).lnk.out.length = s.lnk.out.length := by
  simp [State.request]

@[simp] theorem State.pushRpp_chans (s : State) (peer : Nat) (m : RppMsg) : (s.pushRpp peer m).lnk.out.length = s.lnk.out.length := by
  simp [State.pushRpp]

@[simp] theorem State.sendRpp_chans (s : State) (peer ty tag : Nat) (st : Status) (aid ep : Nat) (pl : RppPl) :
    (s.sendRpp peer ty tag st aid ep pl).lnk.out.length = s.lnk.out.length := by
  simp [State.sendRpp]

@[simp] theorem State.flushQueued_chans (s : State) : s.flushQueued.lnk.out.length = s.lnk.out.length := by simp [State.flushQueued]

@[simp] theorem State.reply_chans (s : State) (m : RppMsg) (peer ty : Nat) (st : Status) (pl : RppPl) :
    (s.reply m peer ty st pl).lnk.out.length = s.lnk.out.length := by
  simp [State.reply]

@[simp] theorem State.dropReq_chans (s : State) (id : Nat) : (s.dropReq id).lnk.out.length = s.lnk.out.length := by simp [State.dropReq]

@[simp] theorem State.modReq_chans (s : State) (id : Nat) (f : PReq → PReq) : (s.modReq id f).lnk.out.length = s.lnk.out.length := by
  simp [State.modReq]

@[simp] theorem State.pullView_chans (s : State) (peer : Nat) : (s.pullView peer).lnk.out.length = s.lnk.out.length := by simp [State.pullView]

theorem State.serveReq_chans (s : State) (m : RppMsg) (peer : Nat) (body : State → State)
    (h : ∀ t, (body t).lnk.out.length = t.lnk.out.length) : (s.serveReq m peer body).lnk.out.length = s.lnk.out.length := by
  unfold State.serveReq
  dsimp only
  repeat' split
  all_goals simp [h]

@[simp] theorem State.finishReq_chans (s : State) (peer tag : Nat) (ty : Nat) (st : Status) (aid ep : Nat) (pl : RppPl) :
    (s.finishReq peer tag ty st aid ep pl).lnk.out.length = s.lnk.out.length := by
  unfold State.finishReq
  split <;> simp

@[simp] theorem State.redirect_chans (s : State) (m : RppMsg) (peer : Nat) : (s.redirect m peer).lnk.out.length = s.lnk.out.length := by
  simp [State.redirect]

/-! ### Machine/RasLog -/

@[simp] theorem State.rasLog_chans (s : State) (kind index sev etype part addr : Nat) :
    (s.rasLog kind index sev etype part addr).lnk.out.length = s.lnk.out.length := by
  simp [State.rasLog]

@[simp] theorem State.faultSend_chans (s : State) (h : HeldFault) : (s.faultSend h).lnk.out.length = s.lnk.out.length := by
  simp [State.faultSend]

@[simp] theorem State.faultNote_chans (s : State) (kind index sev mask : Nat) :
    (s.faultNote kind index sev mask).lnk.out.length = s.lnk.out.length := by
  simp [State.faultNote]

@[simp] theorem State.rasError_chans (s : State) (kind index sev etype part addr mask : Nat) :
    (s.rasError kind index sev etype part addr mask).lnk.out.length = s.lnk.out.length := by
  simp [State.rasError]

@[simp] theorem State.logSkip_chans (s : State) : s.logSkip.lnk.out.length = s.lnk.out.length := by simp [State.logSkip]

@[simp] theorem State.logSlow_chans (s : State) : s.logSlow.lnk.out.length = s.lnk.out.length := by simp [State.logSlow]

/-! ### Machine/Versions -/

@[simp] theorem State.modSlot_chans (s : State) (aid ep : Nat) (f : VSlot → VSlot) : (s.modSlot aid ep f).lnk.out.length = s.lnk.out.length := by
  simp [State.modSlot]

@[simp] theorem State.sendRetired_chans (s : State) (l : List (Nat × Nat)) : (s.sendRetired l).lnk.out.length = s.lnk.out.length := by
  simp [State.sendRetired]

@[simp] theorem State.freeEntry_chans (s : State) (e : Entry) : (s.freeEntry e).lnk.out.length = s.lnk.out.length := by simp [State.freeEntry]

@[simp] theorem State.reclaim_chans (s : State) : s.reclaim.lnk.out.length = s.lnk.out.length := by simp [State.reclaim]

@[simp] theorem State.dropCached_chans (s : State) (aid ep : Nat) : (s.dropCached aid ep).lnk.out.length = s.lnk.out.length := by
  simp [State.dropCached]

@[simp] theorem State.evict_chans (s : State) (aid ep : Nat) : (s.evict aid ep).lnk.out.length = s.lnk.out.length := by
  unfold State.evict
  dsimp only
  repeat' split
  all_goals simp

theorem State.cacheReserve_chans {s t : State} {len b : Nat} {o : CabObj} (h : s.cacheReserve len o = some (b, t)) :
    t.lnk.out.length = s.lnk.out.length := by
  unfold State.cacheReserve at h
  split at h
  · cases h
  · obtain ⟨_, -, e⟩ := Option.map_eq_some_iff.mp h
    cases e
    simp

@[simp] theorem State.evictInval_chans (s : State) : s.evictInval.lnk.out.length = s.lnk.out.length := by simp [State.evictInval]

theorem State.cacheEntry_chans {s t : State} {aid owner : Nat} {r : NoteRec} (h : s.cacheEntry aid owner r = some t) :
    t.lnk.out.length = s.lnk.out.length := by
  unfold State.cacheEntry at h
  split at h
  · split at h
    · cases h
    · split at h
      · cases h; rfl
      · split at h
        · cases h; simp
        · cases h
  · dsimp only at h
    split at h
    · cases h
    · rename_i room
      split at h
      · cases h
      · cases h
        split at room
        · cases room; rfl
        · split at room
          · cases room; simp
          · cases room

theorem State.beginFill_chans {s t : State} {aid ep owner blen : Nat} {r : NoteRec} (h : s.beginFill aid ep owner blen r = some t) :
    t.lnk.out.length = s.lnk.out.length := by
  unfold State.beginFill at h
  split at h
  · cases h
  · rename_i s1 e1
    split at h
    · cases h
    · rename_i b s2 e2
      split at h
      · cases h
      · rename_i s3 e3
        cases h
        simp [State.cacheEntry_chans e3, State.cacheReserve_chans e2, State.cacheEntry_chans e1]

@[simp] theorem State.failFill_chans (s : State) (aid ep : Nat) : (s.failFill aid ep).lnk.out.length = s.lnk.out.length := by
  unfold State.failFill
  split <;> simp

@[simp] theorem State.takeRef_chans (s : State) (aid ep : Nat) : (s.takeRef aid ep).lnk.out.length = s.lnk.out.length := by simp [State.takeRef]

@[simp] theorem State.freeRef_chans (s : State) (aid ep : Nat) : (s.freeRef aid ep).lnk.out.length = s.lnk.out.length := by simp [State.freeRef]

@[simp] theorem State.hostXfer_chans (s : State) (addr len : Nat) (write : Option (List Byte)) (use : XferFor) :
    (s.hostXfer addr len write use).lnk.out.length = s.lnk.out.length := by
  simp [State.hostXfer]

@[simp] theorem State.demoted_chans (s : State) (aid ep : Nat) : (s.demoted aid ep).lnk.out.length = s.lnk.out.length := by
  unfold State.demoted
  repeat' split
  all_goals simp

@[simp] theorem State.demoteOne_chans (s : State) (p : Nat) (e : Entry) (v : VSlot) : (s.demoteOne p e v).lnk.out.length = s.lnk.out.length := by
  unfold State.demoteOne
  repeat' split
  all_goals simp

@[simp] theorem State.demote_chans (p n : Nat) (s : State) : (State.demote p n s).lnk.out.length = s.lnk.out.length := by
  induction n generalizing s with
  | zero => rfl
  | succ n ih =>
    unfold State.demote
    split
    · split
      · rfl
      · rw [ih, State.demoteOne_chans]
    · rfl

@[simp] theorem State.promote_chans (s : State) (aid ep : Nat) : (s.promote aid ep).2.lnk.out.length = s.lnk.out.length := by
  unfold State.promote
  split
  · rfl
  · split
    · rfl
    · split
      · rfl
      · split
        · next h => exact State.chans_of_pair h (State.charge_chans ..)
        · next h => simp [State.chans_of_pair h (State.charge_chans ..)]

@[simp] theorem State.promoted_chans (s : State) (aid ep : Nat) (bytes : Option (List Byte)) :
    (s.promoted aid ep bytes).lnk.out.length = s.lnk.out.length := by
  unfold State.promoted
  dsimp only
  repeat' split
  all_goals simp

@[simp] theorem State.freeAdapter_chans (s : State) (aid : Nat) : (s.freeAdapter aid).lnk.out.length = s.lnk.out.length := by
  simp [State.freeAdapter]

/-! ### Machine/Adapters -/

@[simp] theorem State.fetchFor_chans (s : State) (l : List (Nat × Nat)) : (s.fetchFor l).2.lnk.out.length = s.lnk.out.length := by
  simp [State.fetchFor]

@[simp] theorem State.pinAt_chans (s : State) (aid ep : Nat) : (s.pinAt aid ep).lnk.out.length = s.lnk.out.length := by simp [State.pinAt]

@[simp] theorem State.pinFill_chans (s : State) : s.pinFill.lnk.out.length = s.lnk.out.length := by
  unfold State.pinFill
  dsimp only
  rw [State.modCab_lnk, State.fetchFor_chans, State.foldl_fst_chans]
  · simp
  · intro x a
    split
    · rfl
    · next h => simp [State.beginFill_chans h]

@[simp] theorem State.pinRefresh_chans (s : State) : s.pinRefresh.lnk.out.length = s.lnk.out.length := by simp [State.pinRefresh]

@[simp] theorem State.pinStart_chans (s : State) : s.pinStart.lnk.out.length = s.lnk.out.length := by simp [State.pinStart]

@[simp] theorem State.pinSettle_chans (s : State) : s.pinSettle.lnk.out.length = s.lnk.out.length := by
  unfold State.pinSettle
  dsimp only
  repeat' split
  all_goals simp

/-! ### Machine/Jobs -/

@[simp] theorem State.modJob_chans (s : State) (p num : Nat) (f : Job → Job) : (s.modJob p num f).lnk.out.length = s.lnk.out.length := by
  simp [State.modJob]

/-! ### Machine/Tensor -/

@[simp] theorem State.want_chans (s : State) (p tag : Nat) (rs : List Rng) : (s.want p tag rs).2.lnk.out.length = s.lnk.out.length := by
  unfold State.want
  split <;> simp

@[simp] theorem State.stepWrite_chans (s : State) (space addr : Nat) (bytes : List Byte) (tag : WriteTag) (drw : Nat) (key ew page : Nat) :
    (s.stepWrite space addr bytes tag drw key ew page).lnk.out.length = s.lnk.out.length := by
  simp [State.stepWrite]

/-! ### Machine/Load -/

@[simp] theorem State.addRec_chans (s : State) (p i : Nat) (rd wr : Nat) : (s.addRec p i rd wr).lnk.out.length = s.lnk.out.length := by
  simp [State.addRec]

@[simp] theorem State.takeRefs_chans (s : State) (p : Nat) (hs : List Word) : (s.takeRefs p hs).lnk.out.length = s.lnk.out.length := by
  simp [State.takeRefs]

@[simp] theorem State.phaseLoad_chans (s : State) (p : Nat) (c : Ctx) : (s.phaseLoad p c).state.lnk.out.length = s.lnk.out.length := by
  unfold State.phaseLoad
  extract_lets h own judge others bad
  split
  · rfl
  · rename_i s1 _ _
    have e1 : s1.lnk.out.length = s.lnk.out.length := by simp [s1]
    split
    · split
      · simp [e1]
      · extract_lets found
        split
        · simp [e1]
        · exact e1
        · extract_lets s2
          have e2 : s2.lnk.out.length = s.lnk.out.length := by simp [s2, e1]
          split
          · exact e2
          · rename_i projs s3 ofsOk s4 gate _ _
            have e3 : s3.lnk.out.length = s.lnk.out.length := by simp [s3, e2]
            split
            · exact e3
            · simp [s4, e3]
    · exact e1

@[simp] theorem State.gateTry_chans (s : State) (p : Nat) (g : GateItem) : (s.gateTry p g).2.lnk.out.length = s.lnk.out.length := by
  have taken : (s.latchOp (.context p) g.latch 1 0).2.lnk.out.length = s.lnk.out.length := by simp
  unfold State.gateTry
  dsimp only
  split
  · rfl
  · split
    · rfl
    · split
      all_goals next h => exact State.chans_of_pair h taken

@[simp] theorem State.gateRun_chans (s : State) (p : Nat) (only : Option Bool) (l : List GateItem) :
    (s.gateRun p only l).state.lnk.out.length = s.lnk.out.length := by
  induction l generalizing s with
  | nil => rfl
  | cons g l ih =>
    unfold State.gateRun
    split
    · exact ih s
    · split
      · rfl
      · split
        all_goals next h => simp [ih, State.chans_of_pair h (State.gateTry_chans ..)]

@[simp] theorem State.phaseGate_chans (s : State) (p : Nat) (c : Ctx) (only : Option Bool) :
    (s.phaseGate p c only).state.lnk.out.length = s.lnk.out.length := by
  have run := s.gateRun_chans p only c.gate
  unfold State.phaseGate
  split
  · next h =>
    rw [h] at run
    simpa using run
  · exact run

@[simp] theorem State.modBudget_chans (s : State) (t : Nat) (f : Nat → Nat) : (s.modBudget t f).lnk.out.length = s.lnk.out.length := by
  simp [State.modBudget]

@[simp] theorem State.ticketRows_chans (s : State) (p : Nat) (c : Ctx) (rows : List Row) :
    (s.ticketRows p c rows).2.lnk.out.length = s.lnk.out.length := by
  refine State.foldl_snd_chans _ _ _ fun x r => ?_
  repeat' split
  all_goals simp

@[simp] theorem State.popSub_chans (s : State) (p : Nat) (c : Ctx) : (s.popSub p c).lnk.out.length = s.lnk.out.length := by simp [State.popSub]

@[simp] theorem State.phaseSample_chans (s : State) (p : Nat) (c : Ctx) : (s.phaseSample p c).state.lnk.out.length = s.lnk.out.length := by
  unfold State.phaseSample
  split <;> simp

@[simp] theorem State.pinRows_chans (s : State) (p : Nat) : (s.pinRows p).lnk.out.length = s.lnk.out.length := by
  unfold State.pinRows
  split <;> simp

@[simp] theorem State.phaseTable_chans (s : State) (p : Nat) (c : Ctx) : (s.phaseTable p c).state.lnk.out.length = s.lnk.out.length := by
  unfold State.phaseTable
  extract_lets ri mems
  split
  · rfl
  · split
    · next h => exact State.chans_of_pair h (State.want_chans ..)
    · next h1 =>
      have e1 := State.chans_of_pair h1 (State.want_chans ..)
      extract_lets vb bnd n counted ofs
      have count (t : State) (k : Nat) : (counted t k).lnk.out.length = t.lnk.out.length := by simp [counted]
      split
      · exact (count _ _).trans e1
      · split
        · next h2 => exact (State.chans_of_pair h2 (State.want_chans ..)).trans e1
        · next h2 =>
          have e2 := (State.chans_of_pair h2 (State.want_chans ..)).trans e1
          split
          · next h3 => exact (State.chans_of_pair h3 (State.want_chans ..)).trans e2
          · next s3 h3 =>
            have e3 := (State.chans_of_pair h3 (State.want_chans ..)).trans e2
            extract_lets vr words ents ofsFail s4 rs t s5
            have e4 : s4.lnk.out.length = s.lnk.out.length := by simp [s4, count, e3]
            have e5 : s5.lnk.out.length = s.lnk.out.length := by simp [s5, t, e4]
            repeat' split
            all_goals simp [e4, e5]

@[simp] theorem State.phaseNotice_chans (s : State) (p : Nat) (c : Ctx) : (s.phaseNotice p c).state.lnk.out.length = s.lnk.out.length := by
  unfold State.phaseNotice
  dsimp only
  repeat' split
  all_goals simp

/-! ### Machine/Sort -/

@[simp] theorem State.hystPut_chans (s : State) (p aid : Nat) (path : Path) : (s.hystPut p aid path).lnk.out.length = s.lnk.out.length := by
  simp [State.hystPut]

@[simp] theorem State.reserveStage_chans (s : State) (p : Nat) (prog : List MI) (ds : List PathInfo) :
    (s.reserveStage p prog ds).2.lnk.out.length = s.lnk.out.length := by
  unfold State.reserveStage
  dsimp only
  split
  · rfl
  · split
    · rw [State.foldl_snd_chans]
      · simp
      · rintro ⟨o, t⟩ d
        split
        · next h => cases h; rfl
        · next h =>
          cases h
          split
          · split
            all_goals next h => exact State.chans_of_pair h (State.promote_chans ..)
          · split
            · rfl
            · split
              · rfl
              · split
                · rfl
                · next h => simp [State.beginFill_chans h]
    · simp

@[simp] theorem Adm.phase2_chans (s : State) (p : Nat) (prog : List MI) (generator : Bool) (n : Nat) (a : Adm) :
    (Adm.phase2 s p prog generator n a).2.1.lnk.out.length = s.lnk.out.length := by
  induction n generalizing s a with
  | zero => rfl
  | succ n ih =>
    unfold Adm.phase2
    split
    · next h => exact State.chans_of_pair h (State.reserveStage_chans ..)
    · next h =>
      have e := State.chans_of_pair h (State.reserveStage_chans ..)
      dsimp only
      split
      · rw [ih, e]
      · split
        · rw [ih, e]
        · exact e

@[simp] theorem reserveGrads_chans (p : Nat) (a : Adm) (s : State) : (reserveGrads p a s).2.1.lnk.out.length = s.lnk.out.length := by
  unfold reserveGrads
  refine List.foldlRecOn (motive := fun x : Adm × State × List (Nat × Nat) => x.2.1.lnk.out.length = s.lnk.out.length) _ _ rfl ?_
  rintro ⟨b, t, new⟩ ht d -
  dsimp only at ht ⊢
  split
  · exact ht
  · split
    · exact ht
    · split
      · exact ht
      · split
        all_goals next h => simp [State.chans_of_pair h (State.charge_chans ..), ht]

@[simp] theorem State.refund_chans (s : State) (rows : List Row) : (s.refund rows).lnk.out.length = s.lnk.out.length := by simp [State.refund]

@[simp] theorem State.phaseSort_chans (s : State) (p : Nat) (c : Ctx) : (s.phaseSort p c).state.lnk.out.length = s.lnk.out.length := by
  unfold State.phaseSort
  extract_lets si a0 paths s1 a1 r2 a3 g a s2 ds gone s3 fl idle s4 s5 here drs rows rows' s6 s7
  have e1 : s1.lnk.out.length = s.lnk.out.length := State.foldl_chans _ _ _ fun t d => by simp
  have eg : g.2.1.lnk.out.length = s.lnk.out.length := by
    unfold g
    split <;> simp [r2, e1]
  simp [s7, s6, s5, s4, s3, s2, eg]

/-! ### Machine/Check -/

@[simp] theorem State.phaseCheck_chans (s : State) (p : Nat) (c : Ctx) : (s.phaseCheck p c).state.lnk.out.length = s.lnk.out.length := by
  have lists (l : List Nat) : (l.foldl (fun (st : Bool × State) i =>
      let r := st.2.want p (tagList i) (st.2.listRngs c i); (st.1 && r.1, r.2)) (true, s)).2.lnk.out.length = s.lnk.out.length :=
    State.foldl_snd_chans _ _ _ fun x i => by simp
  unfold State.phaseCheck
  dsimp only
  split
  · next h => exact State.chans_of_pair h (lists _)
  · next h =>
    have e := State.chans_of_pair h (lists _)
    repeat' split
    all_goals simp [e]

/-! ### Machine/Deliver -/

@[simp] theorem State.addRow_chans (s : State) (p i drw slot : Nat) (k : Cnt) : (s.addRow p i drw slot k).lnk.out.length = s.lnk.out.length := by
  simp [State.addRow]

@[simp] theorem State.addStat_chans (s : State) (p slot aid proj : Nat) (q : QCnt) :
    (s.addStat p slot aid proj q).lnk.out.length = s.lnk.out.length := by
  simp [State.addStat]

@[simp] theorem State.pushResp_chans (s : State) (port : Nat) (r : Resp) : (s.pushResp port r).lnk.out.length = s.lnk.out.length := by
  simp [State.pushResp]

@[simp] theorem State.sendResp_chans (s : State) (p slot off proj : Nat) (zero placed : Bool) (ofmt : Nat) (data : List Nat) :
    (s.sendResp p slot off proj zero placed ofmt data).lnk.out.length = s.lnk.out.length := by
  unfold State.sendResp
  split <;> simp

@[simp] theorem State.answerZero_chans (s : State) (p slot off proj : Nat) : (s.answerZero p slot off proj).lnk.out.length = s.lnk.out.length := by
  unfold State.answerZero
  split <;> simp

@[simp] theorem State.settleRow_chans (s : State) (p slot : Nat) (st : Status) : (s.settleRow p slot st).lnk.out.length = s.lnk.out.length := by
  unfold State.settleRow
  split <;> simp

@[simp] theorem State.settleDrawer_chans (s : State) (p drw : Nat) (st : Status) : (s.settleDrawer p drw st).lnk.out.length = s.lnk.out.length := by
  unfold State.settleDrawer
  split <;> simp

@[simp] theorem State.settleOut_chans (s : State) (p mi slot off : Nat) : (s.settleOut p mi slot off).lnk.out.length = s.lnk.out.length := by
  unfold State.settleOut
  split <;> simp

@[simp] theorem State.emit_chans (s : State) (p mi drw key space a : Nat) (bs : List Byte) (ew page : Nat) :
    (s.emit p mi drw key space a bs ew page).1.lnk.out.length = s.lnk.out.length := by
  unfold State.emit
  split <;> simp

@[simp] theorem State.putRow_chans (s : State) (p mi drw key : Nat) (v : View) (d : Desc) (cs : List Nat) (lo : Nat) (els : List (List Byte)) :
    (s.putRow p mi drw key v d cs lo els).1.lnk.out.length = s.lnk.out.length := by
  unfold State.putRow
  dsimp only
  repeat' split
  all_goals simp

@[simp] theorem State.placeVec_chans (s : State) (p pi drw slot off lo : Nat) (els : List (List Byte)) :
    (s.placeVec p pi drw slot off lo els).1.lnk.out.length = s.lnk.out.length := by
  unfold State.placeVec
  split
  · rfl
  · extract_lets m v t key
    split
    · rfl
    · split
      · simp
      · split
        · rfl
        · split
          · simp
          · extract_lets b u g s1 e s2 pg keep
            have e1 : s1.lnk.out.length = s.lnk.out.length := by simp [s1]
            have e2 : s2.lnk.out.length = s.lnk.out.length := by
              unfold s2
              split <;> simp [e1]
            repeat' split
            all_goals simp [e1, e2]
      · split
        · rfl
        · extract_lets zeros
          split
          · split
            · refine State.foldl_fst_chans _ _ _ fun y a => ?_
              dsimp only
              repeat' split
              all_goals simp
            · next k s1 _ _ =>
              have e1 : s1.lnk.out.length = s.lnk.out.length := by simp [s1]
              split <;> simp [e1]
          · refine State.foldl_fst_chans _ _ _ fun y a => ?_
            dsimp only
            repeat' split
            all_goals simp

/-! ### Machine/Units -/

@[simp] theorem State.loadOp_chans (s : State) (p : Nat) (c : Ctx) (u : WUnit) (l : Word × Nat) (fmt : Nat) (k : Int) (count stat : Bool) :
    (s.loadOp p c u l fmt k count stat).2.lnk.out.length = s.lnk.out.length := by
  unfold State.loadOp
  split
  · rfl
  · refine State.foldl_snd_chans _ _ _ fun x a => ?_
    dsimp only
    repeat' split
    all_goals simp

/-! ### Machine/Run -/

@[simp] theorem State.putLanes_chans (s : State) (p i k slot off lo : Nat) (vals : List Nat) (zero : Bool) :
    (s.putLanes p i k slot off lo vals zero).lnk.out.length = s.lnk.out.length := by
  unfold State.putLanes
  dsimp only
  repeat' split
  all_goals simp

@[simp] theorem State.visitRecs_chans (s : State) (p : Nat) (c : Ctx) (i k : Nat) : (s.visitRecs p c i k).2.lnk.out.length = s.lnk.out.length := by
  simp [State.visitRecs]

@[simp] theorem State.visitSend_chans (s : State) (p : Nat) : (s.visitSend p).lnk.out.length = s.lnk.out.length := by
  unfold State.visitSend
  split
  · rfl
  · split
    · rfl
    · refine State.foldl_chans _ _ _ fun t i => ?_
      split
      · rfl
      · split
        · rfl
        · refine State.foldl_chans _ _ _ fun t o => ?_
          dsimp only
          split
          · rfl
          · split
            · next h => exact State.chans_of_pair h (State.want_chans ..)
            · next h =>
              have e := State.chans_of_pair h (State.want_chans ..)
              split <;> simp [e]

@[simp] theorem State.visitDeliver_chans (s : State) (p : Nat) : (s.visitDeliver p).lnk.out.length = s.lnk.out.length := by
  unfold State.visitDeliver
  split
  · rfl
  · refine State.foldl_chans _ _ _ fun t i => State.foldl_chans _ _ _ fun t k => ?_
    split
    · rfl
    · dsimp only
      split
      · rfl
      · split
        · rfl
        · split
          · next h => exact State.chans_of_pair h (State.want_chans ..)
          · next h => simp [State.chans_of_pair h (State.want_chans ..)]

@[simp] theorem State.zeroPlace_chans (s : State) (p : Nat) : (s.zeroPlace p).lnk.out.length = s.lnk.out.length := by
  unfold State.zeroPlace
  split
  · rfl
  · refine State.foldl_chans _ _ _ fun t j => ?_
    split
    · rfl
    · split
      · rfl
      · refine State.foldl_chans _ _ _ fun t x => ?_
        split
        all_goals next h => simp [State.chans_of_pair h (State.want_chans ..)]

@[simp] theorem State.skipEmpty_chans (s : State) (p : Nat) : (s.skipEmpty p).lnk.out.length = s.lnk.out.length := by simp [State.skipEmpty]

@[simp] theorem State.pump_chans (s : State) (p : Nat) : (s.pump p).lnk.out.length = s.lnk.out.length := by
  unfold State.pump
  split <;> simp

/-! ### Machine/Hinge -/

@[simp] theorem State.zeroResp_chans (s : State) (port p sseq : Nat) (v : RowVec) (st : Status) :
    (s.zeroResp port p sseq v st).lnk.out.length = s.lnk.out.length := by
  simp [State.zeroResp]

@[simp] theorem State.orphan_chans (s : State) (port : Nat) (v : RowVec) : (s.orphan port v).lnk.out.length = s.lnk.out.length := by
  simp [State.orphan]

@[simp] theorem State.tornVec_chans (s : State) (port : Nat) (c : Ctx) (v : RowVec) : (s.tornVec port c v).lnk.out.length = s.lnk.out.length := by
  simp [State.tornVec]

@[simp] theorem State.takeVec_chans (s : State) (p port : Nat) (c : Ctx) (v : RowVec) :
    (s.takeVec p port c v).lnk.out.length = s.lnk.out.length := by
  unfold State.takeVec
  dsimp only
  repeat' split
  all_goals simp

@[simp] theorem State.tagCheck_chans (s : State) (p port : Nat) (v : RowVec) : (s.tagCheck p port v).lnk.out.length = s.lnk.out.length := by
  unfold State.tagCheck
  split <;> simp

@[simp] theorem State.vecGo_chans (s : State) (p port : Nat) (v : RowVec) : (s.vecGo p port v).lnk.out.length = s.lnk.out.length := by
  unfold State.vecGo
  repeat' split
  all_goals simp

@[simp] theorem State.beatCredit_chans (s : State) (port p : Nat) (f : Nat → Nat) : (s.beatCredit port p f).lnk.out.length = s.lnk.out.length := by
  simp [State.beatCredit]

@[simp] theorem State.releasePort_chans (p port n : Nat) (s : State) : (State.releasePort p port n s).lnk.out.length = s.lnk.out.length := by
  induction n generalizing s with
  | zero => rfl
  | succ n ih =>
    unfold State.releasePort
    split
    · rfl
    · split
      · rfl
      · simp [ih]

@[simp] theorem State.releaseHeld_chans (s : State) (p : Nat) : (s.releaseHeld p).lnk.out.length = s.lnk.out.length :=
  State.foldl_chans _ _ _ fun t port => State.releasePort_chans p port _ t

/-! ### Machine/Issue -/

@[simp] theorem State.dropPins_chans (s : State) (c : Ctx) : (s.dropPins c).lnk.out.length = s.lnk.out.length := by simp [State.dropPins]

@[simp] theorem State.dropGradNew_chans (s : State) (p : Nat) (l : List (Nat × Nat)) : (s.dropGradNew p l).lnk.out.length = s.lnk.out.length := by
  simp [State.dropGradNew]

@[simp] theorem State.refuse_chans (s : State) (p : Nat) (st : Status) (idx : Nat) : (s.refuse p st idx).lnk.out.length = s.lnk.out.length := by
  unfold State.refuse
  split <;> simp

@[simp] theorem State.issuePhase_chans (s : State) (p : Nat) (c : Ctx) : (s.issuePhase p c).state.lnk.out.length = s.lnk.out.length := by
  unfold State.issuePhase
  split <;> simp

@[simp] theorem State.issueGo_chans (p n : Nat) (s : State) : (State.issueGo p n s).lnk.out.length = s.lnk.out.length := by
  induction n generalizing s with
  | zero => rfl
  | succ n ih =>
    unfold State.issueGo
    split
    · rfl
    · next c _ =>
      have phase := s.issuePhase_chans p c
      split
      all_goals next h => rw [h] at phase; simpa [ih] using phase

@[simp] theorem State.resumeIssue_chans (s : State) (p : Nat) : (s.resumeIssue p).lnk.out.length = s.lnk.out.length := by
  simp [State.resumeIssue]

/-! ### Machine/Contrib -/

@[simp] theorem State.gdRequest_chans (s : State) (aid base : Nat) (key : SortKey) (src : Nat) :
    (s.gdRequest aid base key src).2.lnk.out.length = s.lnk.out.length := by
  unfold State.gdRequest
  split
  · rfl
  · split
    · rfl
    · split
      · rfl
      · split
        · rfl
        · split
          · rfl
          · split
            all_goals next h => simp [State.chans_of_pair h (State.charge_chans ..)]

@[simp] theorem State.gdWrite_chans (s : State) (aid slot : Nat) (key : SortKey) (mats : List (List Nat)) :
    (s.gdWrite aid slot key mats).2.lnk.out.length = s.lnk.out.length := by
  unfold State.gdWrite
  repeat' split
  all_goals simp

/-! ### Machine/Serial -/

@[simp] theorem State.dropGrad_chans (s : State) (p aid base : Nat) : (s.dropGrad p aid base).lnk.out.length = s.lnk.out.length := by
  simp [State.dropGrad]

@[simp] theorem State.shipDone_chans (s : State) (p sseq aid base : Nat) (st : Status) :
    (s.shipDone p sseq aid base st).lnk.out.length = s.lnk.out.length := by
  simp [State.shipDone]

/-! ### Machine/Report -/

@[simp] theorem State.modStep_chans (s : State) (p sseq : Nat) (f : Ctx → Ctx) : (s.modStep p sseq f).lnk.out.length = s.lnk.out.length := by
  simp [State.modStep]

/-! ### Machine/Fills -/

@[simp] theorem State.settleSaved_chans (s : State) (p drw : Nat) (st : Status) : (s.settleSaved p drw st).lnk.out.length = s.lnk.out.length := by
  unfold State.settleSaved
  split <;> simp

@[simp] theorem State.settleStep_chans (s : State) (p sseq drw : Nat) (st : Status) :
    (s.settleStep p sseq drw st).lnk.out.length = s.lnk.out.length := by
  simp [State.settleStep]

@[simp] theorem State.versionLost_chans (s : State) (path : Path) (aid ep : Nat) :
    (s.versionLost path aid ep).lnk.out.length = s.lnk.out.length := by
  simp [State.versionLost]

@[simp] theorem State.fillFailed_chans (s : State) (aid ep : Nat) : (s.fillFailed aid ep).lnk.out.length = s.lnk.out.length := by
  simp [State.fillFailed]

@[simp] theorem State.noteCreate_chans (s : State) (n : NoteRec) : (s.noteCreate n).lnk.out.length = s.lnk.out.length := by
  unfold State.noteCreate
  dsimp only
  repeat' split
  all_goals simp

@[simp] theorem State.noteMove_chans (s : State) (n : NoteRec) : (s.noteMove n).lnk.out.length = s.lnk.out.length := by
  unfold State.noteMove
  split <;> simp

@[simp] theorem State.noteReplace_chans (s : State) (n : NoteRec) : (s.noteReplace n).lnk.out.length = s.lnk.out.length := by
  simp [State.noteReplace]

@[simp] theorem State.noteDrop_chans (s : State) (aid : Nat) : (s.noteDrop aid).lnk.out.length = s.lnk.out.length := by simp [State.noteDrop]

@[simp] theorem State.sendBlob_chans (s : State) (peer tag seg aid ep : Nat) (last : Bool) :
    (s.sendBlob peer tag seg aid ep last).2.lnk.out.length = s.lnk.out.length := by
  unfold State.sendBlob
  split <;> simp

@[simp] theorem State.serveFill_chans (id : Nat × Nat) (n : Nat) (s : State) :
    (State.serveFill id n s).lnk.out.length = s.lnk.out.length := by
  induction n generalizing s with
  | zero => rfl
  | succ n ih =>
    unfold State.serveFill
    split
    · rfl
    · split
      · rfl
      · dsimp only
        repeat' split
        all_goals simp [ih]

@[simp] theorem State.serveFills_chans (s : State) : s.serveFills.lnk.out.length = s.lnk.out.length := by
  simp [State.serveFills]

@[simp] theorem State.promotionEnd_chans (s : State) (aid ep : Nat) (bytes : Option (List Byte)) :
    (s.promotionEnd aid ep bytes).lnk.out.length = s.lnk.out.length := by
  simp [State.promotionEnd]

/-! ### Machine/BootBlob -/

@[simp] theorem State.blobTo_chans (s : State) (l : List Nat) : (s.blobTo l).lnk.out.length = s.lnk.out.length := by
  unfold State.blobTo
  split <;> simp

@[simp] theorem State.blobStart_chans (s : State) : s.blobStart.lnk.out.length = s.lnk.out.length := by simp [State.blobStart]

@[simp] theorem State.blobAdvance_chans (s : State) : s.blobAdvance.lnk.out.length = s.lnk.out.length := by simp [State.blobAdvance]

@[simp] theorem State.blobSkip_chans (s : State) : s.blobSkip.lnk.out.length = s.lnk.out.length := by
  unfold State.blobSkip
  dsimp only
  repeat' split
  all_goals simp

@[simp] theorem State.blobReserve_chans (s : State) (aid home : Nat) : (s.blobReserve aid home).lnk.out.length = s.lnk.out.length := by
  unfold State.blobReserve
  dsimp only
  split
  all_goals next h => simpa using State.chans_of_pair h (State.charge_chans ..)

@[simp] theorem State.newEntry_chans (s : State) (aid p ward : Nat) : (s.newEntry aid p ward).lnk.out.length = s.lnk.out.length := by
  unfold State.newEntry
  split <;> simp

theorem State.takeId_chans {s t : State} {p ward a : Nat} {l : List Nat} (h : s.takeId p ward l = some (a, t)) :
    t.lnk.out.length = s.lnk.out.length := by
  obtain ⟨_, -, e⟩ := Option.map_eq_some_iff.mp h
  cases e
  simp

@[simp] theorem State.rangeFail_chans (s : State) (long : Nat) (st : Status) : (s.rangeFail long st).lnk.out.length = s.lnk.out.length := by
  simp [State.rangeFail]

@[simp] theorem State.rangeFor_chans (s : State) (long k : Nat) : (s.rangeFor long k).lnk.out.length = s.lnk.out.length := by
  unfold State.rangeFor
  dsimp only
  split
  · rfl
  · split
    · simp
    · split
      · simp
      · next h => split <;> simp [State.takeId_chans h]

/-! ### Machine/View -/

@[simp] theorem State.joinNext_chans (s : State) (after : Option Nat) : (s.joinNext after).lnk.out.length = s.lnk.out.length := by
  unfold State.joinNext
  dsimp only
  repeat' split
  all_goals simp

@[simp] theorem State.freeze_chans (s : State) (k : Nat) (b : Bool) : (s.freeze k b).lnk.out.length = s.lnk.out.length := by simp [State.freeze]

@[simp] theorem State.finishAbort_chans (s : State) (k : Nat) (st : Status) : (s.finishAbort k st).lnk.out.length = s.lnk.out.length := by
  unfold State.finishAbort
  repeat' split
  all_goals simp

@[simp] theorem State.regWithdraw_chans (s : State) (k inst : Nat) : (s.regWithdraw k inst).2.lnk.out.length = s.lnk.out.length := by
  unfold State.regWithdraw
  dsimp only
  repeat' split
  all_goals simp

@[simp] theorem State.askAbort_chans (s : State) (k : Nat) : (s.askAbort k).lnk.out.length = s.lnk.out.length := by
  unfold State.askAbort
  repeat' split
  all_goals simp

@[simp] theorem State.abortMove_chans (s : State) (k : Nat) (st : Status) : (s.abortMove k st).lnk.out.length = s.lnk.out.length := by
  unfold State.abortMove
  repeat' split
  all_goals simp

@[simp] theorem State.dropMove_chans (s : State) (k : Nat) : (s.dropMove k).lnk.out.length = s.lnk.out.length := by simp [State.dropMove]

@[simp] theorem State.pullFailed_chans (s : State) (peer : Nat) : (s.pullFailed peer).lnk.out.length = s.lnk.out.length := by
  unfold State.pullFailed
  dsimp only
  repeat' split
  all_goals simp

@[simp] theorem State.noteFor_chans (s : State) (p : Nat) (l : List NoteRec) (dead : List Nat) :
    (s.noteFor p l dead).lnk.out.length = s.lnk.out.length := by
  simp [State.noteFor]

@[simp] theorem State.failOne_chans (s : State) (r : PReq) (st : Status) : (s.failOne r st).lnk.out.length = s.lnk.out.length := by
  unfold State.failOne
  split <;> simp

@[simp] theorem State.failReq_chans (s : State) (r : PReq) (st : Status) : (s.failReq r st).lnk.out.length = s.lnk.out.length := by
  unfold State.failReq
  split <;> simp

@[simp] theorem State.failPeer_chans (s : State) (peer : Nat) : (s.failPeer peer).lnk.out.length = s.lnk.out.length := by simp [State.failPeer]

@[simp] theorem State.dropPeer_chans (s : State) (inst : Nat) : (s.dropPeer inst).lnk.out.length = s.lnk.out.length := by simp [State.dropPeer]

@[simp] theorem State.forget_chans (s : State) (e : Entry) : (s.forget e).lnk.out.length = s.lnk.out.length := by simp [State.forget]

@[simp] theorem State.clearRange_chans (s : State) (k : Nat) : (s.clearRange k).lnk.out.length = s.lnk.out.length := by simp [State.clearRange]

@[simp] theorem State.closeWard_chans (s : State) (w : Nat) : (s.closeWard w).lnk.out.length = s.lnk.out.length := by simp [State.closeWard]

@[simp] theorem State.releaseRange_chans (s : State) (k : Nat) : (s.releaseRange k).lnk.out.length = s.lnk.out.length := by
  simp [State.releaseRange]

@[simp] theorem State.movedOut_chans (s : State) (m : Move) : (s.movedOut m).lnk.out.length = s.lnk.out.length := by
  unfold State.movedOut
  split <;> simp

@[simp] theorem State.dropForeign_chans (s : State) : s.dropForeign.lnk.out.length = s.lnk.out.length := by simp [State.dropForeign]

@[simp] theorem State.takeEntry_chans (s : State) (m : Move) (e : Entry) : (s.takeEntry m e).lnk.out.length = s.lnk.out.length := by
  unfold State.takeEntry
  dsimp only
  repeat' split
  all_goals simp

@[simp] theorem State.settleMoves_chans (s : State) : s.settleMoves.lnk.out.length = s.lnk.out.length := by simp [State.settleMoves]

@[simp] theorem State.renamePeers_chans (s : State) : s.renamePeers.lnk.out.length = s.lnk.out.length := by simp [State.renamePeers]

@[simp] theorem State.settleGrants_chans (s : State) : s.settleGrants.lnk.out.length = s.lnk.out.length := by simp [State.settleGrants]

@[simp] theorem State.settleJoins_chans (s : State) : s.settleJoins.lnk.out.length = s.lnk.out.length := by simp [State.settleJoins]

@[simp] theorem State.install_chans (s : State) (v : ViewPl) : (s.install v).lnk.out.length = s.lnk.out.length := by simp [State.install]

@[simp] theorem State.tryIssue_chans (s : State) : s.tryIssue.lnk.out.length = s.lnk.out.length := by
  unfold State.tryIssue
  split <;> simp

@[simp] theorem State.issueView_chans (s : State) : s.issueView.lnk.out.length = s.lnk.out.length := by simp [State.issueView]

@[simp] theorem State.propose_chans (s : State) (v : ViewPl) : (s.propose v).lnk.out.length = s.lnk.out.length := by simp [State.propose]

@[simp] theorem State.grantRange_chans (s : State) (peer tag : Nat) : (s.grantRange peer tag).2.lnk.out.length = s.lnk.out.length := by
  unfold State.grantRange
  split <;> simp

@[simp] theorem State.askRange_chans (s : State) (long : Nat) : (s.askRange long).lnk.out.length = s.lnk.out.length := by
  unfold State.askRange
  split
  · simp
  · split
    · split
      all_goals next h => simpa using State.chans_of_pair h (State.grantRange_chans ..)
    · simp

@[simp] theorem State.blobPump_chans (n : Nat) (s : State) : (State.blobPump n s).lnk.out.length = s.lnk.out.length := by
  induction n generalizing s with
  | zero => rfl
  | succ n ih =>
    unfold State.blobPump
    split
    · rfl
    · split
      · rfl
      · split
        · simp [ih]
        · split
          · next h => simp [ih, State.takeId_chans h]
          · simp [ih]

@[simp] theorem State.moveGo_chans (s : State) (k : Nat) : (s.moveGo k).lnk.out.length = s.lnk.out.length := by
  unfold State.moveGo
  split
  · rfl
  · extract_lets -underBinder es set commit transfer
    have committed (t : State) : (commit t).lnk.out.length = t.lnk.out.length := by
      unfold commit
      dsimp only
      repeat' split
      all_goals simp [set]
    have transferred (t : State) : (transfer t).lnk.out.length = t.lnk.out.length := by
      unfold transfer
      extract_lets -underBinder slow s1
      have e1 : s1.lnk.out.length = t.lnk.out.length := by simp [s1, set]
      split
      · rfl
      · split
        · refine State.foldl_chans _ _ _ fun u x => ?_
          split
          all_goals next h => simp [State.chans_of_pair h (State.promote_chans ..)]
        · split <;> simp [committed, e1]
    repeat' split
    all_goals simp [committed, transferred, set]

@[simp] theorem State.showMoving_chans (s : State) (k inst : Nat) : (s.showMoving k inst).lnk.out.length = s.lnk.out.length := by
  simp [State.showMoving]

@[simp] theorem State.movesGo_chans (s : State) : s.movesGo.lnk.out.length = s.lnk.out.length := by simp [State.movesGo]

/-! ### Machine/PoolMsg -/

@[simp] theorem State.modCal_chans (s : State) (grp : Nat) (f : CalGrp → CalGrp) : (s.modCal grp f).lnk.out.length = s.lnk.out.length := by
  simp [State.modCal]

@[simp] theorem State.gotFrame_chans (s : State) (r : PReq) (n : Nat) : (s.gotFrame r n).lnk.out.length = s.lnk.out.length := by
  simp [State.gotFrame]

@[simp] theorem State.resend_chans (s : State) (r : PReq) : (s.resend r).lnk.out.length = s.lnk.out.length := by simp [State.resend]

@[simp] theorem State.reask_chans (s : State) (r : PReq) : (s.reask r).lnk.out.length = s.lnk.out.length := by
  unfold State.reask
  split
  · simp
  · rw [State.foldl_chans, State.dropReq_chans]
    intro t x
    split <;> simp

@[simp] theorem hRedirect_chans (s : State) (m : RppMsg) (peer : Nat) : (hRedirect s m peer).lnk.out.length = s.lnk.out.length := by
  unfold hRedirect
  repeat' split
  all_goals simp

@[simp] theorem hHello_chans (s : State) (m : RppMsg) (peer : Nat) : (hHello s m peer).lnk.out.length = s.lnk.out.length := by
  unfold hHello
  dsimp only
  repeat' split
  all_goals simp

@[simp] theorem hHelloAck_chans (s : State) (m : RppMsg) (peer : Nat) : (hHelloAck s m peer).lnk.out.length = s.lnk.out.length := by
  unfold hHelloAck
  split <;> simp

@[simp] theorem hJoinReq_chans (s : State) (m : RppMsg) (peer : Nat) : (hJoinReq s m peer).lnk.out.length = s.lnk.out.length := by
  unfold hJoinReq
  split
  · split
    · rfl
    · split
      · split <;> simp
      · split
        · rfl
        · refine State.serveReq_chans _ _ _ _ fun t => ?_
          dsimp only
          repeat' split
          all_goals simp
  · rfl

@[simp] theorem State.ackView_chans (s : State) : s.ackView.lnk.out.length = s.lnk.out.length := by
  unfold State.ackView
  split <;> simp

@[simp] theorem State.joined_chans (s : State) (i : Nat) (v : ViewPl) : (s.joined i v).lnk.out.length = s.lnk.out.length := by
  simp [State.joined]

@[simp] theorem hJoinAck_chans (s : State) (m : RppMsg) (peer : Nat) : (hJoinAck s m peer).lnk.out.length = s.lnk.out.length := by
  unfold hJoinAck
  repeat' split
  all_goals simp

@[simp] theorem hLeave_chans (s : State) (m : RppMsg) (peer : Nat) : (hLeave s m peer).lnk.out.length = s.lnk.out.length := by
  unfold hLeave
  split
  · rfl
  · exact State.serveReq_chans _ _ _ _ fun t => by simp

@[simp] theorem hView_chans (s : State) (m : RppMsg) (peer : Nat) : (hView s m peer).lnk.out.length = s.lnk.out.length := by
  unfold hView
  split <;> simp

@[simp] theorem hViewAck_chans (s : State) (m : RppMsg) (peer : Nat) : (hViewAck s m peer).lnk.out.length = s.lnk.out.length := by
  unfold hViewAck
  split <;> simp

@[simp] theorem hViewPull_chans (s : State) (m : RppMsg) (peer : Nat) : (hViewPull s m peer).lnk.out.length = s.lnk.out.length := by
  simp [hViewPull]

@[simp] theorem hRangeReq_chans (s : State) (m : RppMsg) (peer : Nat) : (hRangeReq s m peer).lnk.out.length = s.lnk.out.length := by
  unfold hRangeReq
  split
  · simp
  · split
    · rfl
    · refine State.serveReq_chans _ _ _ _ fun t => ?_
      split
      all_goals next h => simp [State.chans_of_pair h (State.grantRange_chans ..)]

@[simp] theorem hRangeGrant_chans (s : State) (m : RppMsg) (peer : Nat) : (hRangeGrant s m peer).lnk.out.length = s.lnk.out.length := by
  unfold hRangeGrant
  repeat' split
  all_goals simp

@[simp] theorem hExportReq_chans (s : State) (m : RppMsg) (peer : Nat) : (hExportReq s m peer).lnk.out.length = s.lnk.out.length := by
  unfold hExportReq
  split
  · refine State.serveReq_chans _ _ _ _ fun t => ?_
    dsimp only
    repeat' split
    all_goals simp
  · rfl

@[simp] theorem hExportGrant_chans (s : State) (m : RppMsg) (peer : Nat) : (hExportGrant s m peer).lnk.out.length = s.lnk.out.length := by
  unfold hExportGrant
  repeat' split
  all_goals simp

@[simp] theorem hSlowRd_chans (s : State) (m : RppMsg) (peer : Nat) : (hSlowRd s m peer).lnk.out.length = s.lnk.out.length := by
  unfold hSlowRd
  split <;> simp

@[simp] theorem hSlowData_chans (s : State) (m : RppMsg) (peer : Nat) : (hSlowData s m peer).lnk.out.length = s.lnk.out.length := by
  unfold hSlowData
  repeat' split
  all_goals simp

@[simp] theorem hSlowWr_chans (s : State) (m : RppMsg) (peer : Nat) : (hSlowWr s m peer).lnk.out.length = s.lnk.out.length := by
  unfold hSlowWr
  split <;> simp

@[simp] theorem hSlowAck_chans (s : State) (m : RppMsg) (peer : Nat) : (hSlowAck s m peer).lnk.out.length = s.lnk.out.length := by
  unfold hSlowAck
  repeat' split
  all_goals simp

@[simp] theorem hNoteReq_chans (s : State) (m : RppMsg) (peer : Nat) : (hNoteReq s m peer).lnk.out.length = s.lnk.out.length := by
  unfold hNoteReq
  split
  · split
    · simp
    · exact State.serveReq_chans _ _ _ _ fun t => by simp
  · rfl

@[simp] theorem hNoteRep_chans (s : State) (m : RppMsg) (peer : Nat) : (hNoteRep s m peer).lnk.out.length = s.lnk.out.length := by
  unfold hNoteRep
  repeat' split
  all_goals simp

@[simp] theorem hFetchReq_chans (s : State) (m : RppMsg) (peer : Nat) : (hFetchReq s m peer).lnk.out.length = s.lnk.out.length := by
  unfold hFetchReq
  split
  · split
    · simp
    · refine State.serveReq_chans _ _ _ _ fun t => ?_
      dsimp only
      rw [State.modPol_lnk, State.foldl_snd_chans]
      intro x a
      split
      · rfl
      · split
        · rfl
        · split
          · rfl
          · split
            · rfl
            · split
              all_goals next h => simp [State.chans_of_pair h (State.promote_chans ..)]
  · rfl

@[simp] theorem State.fillNext_chans (s : State) (id peer aid : Nat) : (s.fillNext id peer aid).lnk.out.length = s.lnk.out.length := by
  unfold State.fillNext
  dsimp only
  repeat' split
  all_goals simp

@[simp] theorem State.fillDone_chans (s : State) (e : Entry) (v : VSlot) : (s.fillDone e v).lnk.out.length = s.lnk.out.length := by
  simp [State.fillDone]

@[simp] theorem hFetchData_chans (s : State) (m : RppMsg) (peer : Nat) : (hFetchData s m peer).lnk.out.length = s.lnk.out.length := by
  unfold hFetchData
  dsimp only
  repeat' split
  all_goals simp

@[simp] theorem hVisitRows_chans (s : State) (m : RppMsg) (peer : Nat) : (hVisitRows s m peer).lnk.out.length = s.lnk.out.length := by
  unfold hVisitRows
  split
  · split
    · simp
    · refine State.serveReq_chans _ _ _ _ fun t => ?_
      split <;> simp
  · rfl

@[simp] theorem hVisitDelta_chans (s : State) (m : RppMsg) (peer : Nat) : (hVisitDelta s m peer).lnk.out.length = s.lnk.out.length := by
  unfold hVisitDelta
  split
  · rfl
  · split
    · extract_lets new s1 s2 aidOf s3 s4 s5
      have e1 : s1.lnk.out.length = s.lnk.out.length := by simp [s1]
      have e3 : s3.lnk.out.length = s.lnk.out.length := by
        refine (State.foldl_chans _ _ _ fun t x => ?_).trans (by simp [s2, e1])
        split
        · rfl
        · split <;> simp
      have e5 : s5.lnk.out.length = s.lnk.out.length := by
        unfold s5
        repeat' split
        all_goals simp [s4, e3]
      rw [State.pump_chans, e5]
    · rfl

@[simp] theorem hGdReq_chans (s : State) (m : RppMsg) (peer : Nat) : (hGdReq s m peer).lnk.out.length = s.lnk.out.length := by
  unfold hGdReq
  split
  · split
    · simp
    · refine State.serveReq_chans _ _ _ _ fun t => ?_
      split
      all_goals next h => simp [State.chans_of_pair h (State.gdRequest_chans ..)]
  · rfl

@[simp] theorem hGdGrant_chans (s : State) (m : RppMsg) (peer : Nat) : (hGdGrant s m peer).lnk.out.length = s.lnk.out.length := by
  unfold hGdGrant
  dsimp only
  repeat' split
  all_goals simp

@[simp] theorem hGdData_chans (s : State) (m : RppMsg) (peer : Nat) : (hGdData s m peer).lnk.out.length = s.lnk.out.length := by
  unfold hGdData
  split
  · split
    · simp
    · exact State.serveReq_chans _ _ _ _ fun t => by simp
  · rfl

@[simp] theorem hGdCommit_chans (s : State) (m : RppMsg) (peer : Nat) : (hGdCommit s m peer).lnk.out.length = s.lnk.out.length := by
  unfold hGdCommit
  repeat' split
  all_goals simp

@[simp] theorem hProbe_chans (s : State) (m : RppMsg) (peer : Nat) : (hProbe s m peer).lnk.out.length = s.lnk.out.length := by simp [hProbe]

@[simp] theorem hProbeEcho_chans (s : State) (m : RppMsg) (peer : Nat) : (hProbeEcho s m peer).lnk.out.length = s.lnk.out.length := by
  unfold hProbeEcho
  repeat' split
  all_goals simp

@[simp] theorem hPubNotice_chans (s : State) (m : RppMsg) (peer : Nat) : (hPubNotice s m peer).lnk.out.length = s.lnk.out.length := by
  unfold hPubNotice
  split <;> simp

@[simp] theorem hInvalidate_chans (s : State) (m : RppMsg) (peer : Nat) : (hInvalidate s m peer).lnk.out.length = s.lnk.out.length := by
  unfold hInvalidate
  split
  · rw [State.evictInval_chans, State.modPol_lnk, State.foldl_chans]
    intro t x
    dsimp only
    repeat' split
    all_goals simp
  · rfl

@[simp] theorem State.ackFrom_chans (s : State) (peer n : Nat) : (s.ackFrom peer n).lnk.out.length = s.lnk.out.length := by simp [State.ackFrom]

@[simp] theorem hEvictNotice_chans (s : State) (m : RppMsg) (peer : Nat) : (hEvictNotice s m peer).lnk.out.length = s.lnk.out.length := by
  unfold hEvictNotice
  split <;> simp

@[simp] theorem hRetireAck_chans (s : State) (m : RppMsg) (peer : Nat) : (hRetireAck s m peer).lnk.out.length = s.lnk.out.length := by
  unfold hRetireAck
  split <;> simp

@[simp] theorem hMoveBegin_chans (s : State) (m : RppMsg) (peer : Nat) : (hMoveBegin s m peer).lnk.out.length = s.lnk.out.length := by
  unfold hMoveBegin
  split
  · refine State.serveReq_chans _ _ _ _ fun t => ?_
    dsimp only
    repeat' split
    all_goals simp
  · split <;> simp
  · repeat' split
    all_goals simp

theorem State.moveLand_chans {s t : State} {v : Move} {e : Entry} {blobs : List (Nat × List Byte)} (h : s.moveLand v e blobs = some t) :
    t.lnk.out.length = s.lnk.out.length := by
  unfold State.moveLand at h
  obtain ⟨x, hx, rfl⟩ := Option.map_eq_some_iff.mp h
  rw [State.modPol_lnk]
  refine List.foldlRecOn (motive := fun o : Option (State × Entry) => ∀ x, o = some x → x.1.lnk.out.length = s.lnk.out.length) _ _
    ?_ ?_ x hx
  · rintro _ ⟨⟩
    rfl
  · intro o ho y _ x hx
    split at hx
    · cases hx
    · split at hx
      · cases hx
      · next h =>
        have e := (State.chans_of_pair h (State.charge_chans ..)).trans (ho _ rfl)
        split at hx <;> cases hx <;> simp [e]

@[simp] theorem hMoveData_chans (s : State) (m : RppMsg) (peer : Nat) : (hMoveData s m peer).lnk.out.length = s.lnk.out.length := by
  unfold hMoveData
  split
  · refine State.serveReq_chans _ _ _ _ fun t => ?_
    split
    · simp
    · split
      · next h => simp [State.moveLand_chans h]
      · simp
  · repeat' split
    all_goals simp

@[simp] theorem hMoveCommit_chans (s : State) (m : RppMsg) (peer : Nat) : (hMoveCommit s m peer).lnk.out.length = s.lnk.out.length := by
  unfold hMoveCommit
  split
  · split
    · simp
    · split
      · rfl
      · refine State.serveReq_chans _ _ _ _ fun t => ?_
        dsimp only
        split <;> simp
  · repeat' split
    all_goals simp

@[simp] theorem hMoveAbort_chans (s : State) (m : RppMsg) (peer : Nat) : (hMoveAbort s m peer).lnk.out.length = s.lnk.out.length := by
  unfold hMoveAbort
  dsimp only
  repeat' split
  all_goals simp

/-! ### Machine/Work -/

@[simp] theorem rppHandler_chans (ty : Nat) (s : State) (m : RppMsg) (peer : Nat) :
    (rppHandler ty s m peer).lnk.out.length = s.lnk.out.length := by
  unfold rppHandler
  split
  all_goals simp

@[simp] theorem State.setAsm_chans (s : State) (peer key : Nat) (l : List (List Byte)) :
    (s.setAsm peer key l).lnk.out.length = s.lnk.out.length := by
  simp [State.setAsm]

@[simp] theorem State.visitPart_chans (s : State) (m : RppMsg) (bs : List Byte) : (s.visitPart m bs).lnk.out.length = s.lnk.out.length := by
  unfold State.visitPart
  dsimp only
  repeat' split
  all_goals simp

@[simp] theorem State.deliver_chans (s : State) (m : RppMsg) : (s.deliver m).lnk.out.length = s.lnk.out.length := by
  unfold State.deliver
  split
  · simp
  · split <;> simp
  · split <;> simp

@[simp] theorem State.heldDue_chans (s : State) : s.heldDue.lnk.out.length = s.lnk.out.length := by simp [State.heldDue]

@[simp] theorem State.heartbeats_chans (s : State) : s.heartbeats.lnk.out.length = s.lnk.out.length := by simp [State.heartbeats]

@[simp] theorem State.sendBatch_chans (s : State) : s.sendBatch.lnk.out.length = s.lnk.out.length := by simp [State.sendBatch]

@[simp] theorem State.sendAcks_chans (s : State) : s.sendAcks.lnk.out.length = s.lnk.out.length := by simp [State.sendAcks]

@[simp] theorem State.askWindows_chans (s : State) : s.askWindows.lnk.out.length = s.lnk.out.length := by simp [State.askWindows]

@[simp] theorem State.takeSnap_chans (s : State) : s.takeSnap.lnk.out.length = s.lnk.out.length := by simp [State.takeSnap]

@[simp] theorem State.probeGroup_chans (s : State) (grp : Nat) : (s.probeGroup grp).lnk.out.length = s.lnk.out.length := by
  simp [State.probeGroup]

@[simp] theorem State.doItem_chans (s : State) (w : Work) : (s.doItem w).lnk.out.length = s.lnk.out.length := by
  unfold State.doItem
  cases w <;> simp

@[simp] theorem State.item_chans (s : State) (w : Work) : (s.item w).lnk.out.length = s.lnk.out.length := by simp [State.item]

@[simp] theorem State.runWork_chans (n : Nat) (s : State) : (State.runWork n s).lnk.out.length = s.lnk.out.length := by
  induction n generalizing s with
  | zero => rfl
  | succ n ih =>
    unfold State.runWork
    dsimp only
    split
    · simp
    · split
      · simp
      · simp [ih]

@[simp] theorem State.runPool_chans (s : State) : s.runPool.lnk.out.length = s.lnk.out.length := by
  simp [State.runPool]

@[simp] theorem State.runItem_chans (s : State) (w : Work) : (s.runItem w).lnk.out.length = s.lnk.out.length := by simp [State.runItem]

end Sys2Proof.Machine
end

section
/-! PROOF. The management window: where words lie, and what reads and writes of a range keep (R12, R621–R626). -/

namespace Sys2Proof.Machine

open Sys2Proof

/-! ### Places -/

/-- The block that a place names holds its address (R621). -/
theorem mem_blocks_of_placeOf {a : Nat} {x : Place} (h : placeOf a = some x) :
    ∃ b ∈ blocks, b.1 = x.blk ∧ b.2.1 ≤ a ∧ (a - b.2.1) / b.2.2.2 = x.k ∧ (a - b.2.1) % b.2.2.2 = x.off := by
  obtain ⟨b, hb, e⟩ := List.exists_of_findSome?_eq_some h
  split at e
  · next inside =>
    cases e
    exact ⟨b, hb, rfl, inside.1, rfl, rfl⟩
  · cases e

/-- A place in a hinge block names its address (R621). -/
theorem placeOf_hng {a k o : Nat} (h : placeOf a = some ⟨.hng, k, o⟩) : a = 0x80000 + 0x10000 * k + o := by
  obtain ⟨b, hb, blk, base, inst, off⟩ := mem_blocks_of_placeOf h
  have only : ∀ b ∈ blocks, b.1 = .hng → b.2.1 = 0x80000 ∧ b.2.2.2 = 0x10000 := by decide
  obtain ⟨e1, e2⟩ := only b hb blk
  rw [e1, e2] at inst off
  rw [e1] at base
  dsimp only at inst off
  omega

/-- The words of a partition's page (R621). -/
theorem placeOf_prt {p o : Nat} (hp : p < 32) (ho : o < 0x1000) : placeOf (0x100000 + 0x1000 * p + o) = some ⟨.prt, p, o⟩ := by
  have k : (0x100000 + 0x1000 * p + o - 0x100000) / 0x1000 = p := by omega
  have r : (0x100000 + 0x1000 * p + o - 0x100000) % 0x1000 = o := by omega
  simp (disch := omega) only [placeOf, blocks, List.findSome?_cons, if_neg, if_pos, k, r]

/-! ### Clearing reads of a range -/

/-- Two states that differ at most in the clearing fields of the hinge ports. -/
def State.ButRc (s t : State) : Prop :=
  { t with hng := s.hng } = s ∧ t.hng.length = s.hng.length
    ∧ ∀ k, { t.getHng k with hngBad := (s.getHng k).hngBad, lenMism := (s.getHng k).lenMism } = s.getHng k

theorem State.ButRc.refl (s : State) : s.ButRc s := ⟨rfl, rfl, fun _ => rfl⟩

theorem State.ButRc.trans {s t u : State} (h : s.ButRc t) (g : t.ButRc u) : s.ButRc u := by
  obtain ⟨h1, h2, h3⟩ := h
  obtain ⟨g1, g2, g3⟩ := g
  refine ⟨?_, g2.trans h2, fun k => ?_⟩
  · rw [← h1, ← g1]
  · rw [← h3 k, ← g3 k]

/-- The clearing field of a hinge port at an offset: `HNG_BAD` at 4, `LEN_MISM` at 8. -/
def Hng.rc (h : Hng) (o : Nat) : Word := if o = 4 then h.hngBad else h.lenMism

theorem State.clearRc_butRc (s : State) (x : Place) (ev : Nat) : s.ButRc (s.clearRc x ev) := by
  have mod (f : Hng → Hng) (hf : ∀ h, { f h with hngBad := h.hngBad, lenMism := h.lenMism } = h) : s.ButRc (s.modHng x.k f) := by
    refine ⟨rfl, modNth_length _ _ _, fun k => ?_⟩
    rw [State.getHng_modHng]
    split
    · exact hf _
    · rfl
  unfold State.clearRc
  split
  · exact .refl s
  · split
    · exact mod _ fun _ => rfl
    · split
      · exact mod _ fun _ => rfl
      · exact .refl s

/-- A clearing field that is read holds the events of the cycle. -/
theorem State.clearRc_rc_same {s : State} {k o : Nat} (ev : Nat) (ho : o = 4 ∨ o = 8) (hk : k < s.hng.length) :
    ((s.clearRc ⟨.hng, k, o⟩ ev).getHng k).rc o = BitVec.ofNat 32 (sat32 ev) := by
  rcases ho with rfl | rfl
  · simp [State.clearRc_hngBad, Hng.rc, hk]
  · simp [State.clearRc_lenMism, Hng.rc, hk]

/-- An update of a port that leaves a clearing field. -/
theorem State.modHng_rc {s : State} {n k o : Nat} {f : Hng → Hng} (hf : k = n → ∀ h, (f h).rc o = h.rc o) :
    ((s.modHng n f).getHng k).rc o = (s.getHng k).rc o := by
  rw [State.getHng_modHng]
  split
  · next h => exact hf h.1 _
  · rfl

/-- A clearing field that another word's read leaves. -/
theorem State.clearRc_rc_ne {s : State} {x : Place} {k o : Nat} (ev : Nat) (ho : o = 4 ∨ o = 8) (hx : x ≠ ⟨.hng, k, o⟩) :
    ((s.clearRc x ev).getHng k).rc o = (s.getHng k).rc o := by
  obtain ⟨b, n, off⟩ := x
  unfold State.clearRc
  split
  · rfl
  · next hb =>
    have other : k = n → off ≠ o := by
      rintro rfl rfl
      exact hx (not_not.mp hb ▸ rfl)
    split
    · next h4 =>
      refine State.modHng_rc fun hk h => ?_
      have : o ≠ 4 := fun e => other hk (h4.trans e.symm)
      simp [Hng.rc, this]
    · split
      · next h8 =>
        refine State.modHng_rc fun hk h => ?_
        have : o = 4 := ho.resolve_right fun e => other hk (h8.trans e.symm)
        simp [Hng.rc, this]
      · rfl

/-- The clearing read of the word at an index of a range, where that word is one that clears. -/
def State.clearWord (s : State) (a : Nat) (events : List Nat) (i : Nat) : State :=
  match placeOf (a + 4 * i) with
  | some x => s.clearRc x (nth events i 0)
  | none => s

theorem State.clearWord_butRc (s : State) (a : Nat) (events : List Nat) (i : Nat) : s.ButRc (s.clearWord a events i) := by
  unfold State.clearWord
  split
  · exact State.clearRc_butRc _ _ _
  · exact .refl s

/-- The clearing reads of the words at some indices of a range, as `State.rdRange` makes them. -/
def State.clearWords (s : State) (a : Nat) (events : List Nat) (l : List Nat) : State :=
  l.foldl (fun s i => s.clearWord a events i) s

theorem State.rdRange_eq (s : State) (a n : Nat) (events : List Nat) :
    s.rdRange a n events = ((List.range n).map fun i => s.rdWord (a + 4 * i), s.clearWords a events (List.range n)) := rfl

theorem State.clearWords_butRc (s : State) (a : Nat) (events : List Nat) (l : List Nat) : s.ButRc (s.clearWords a events l) := by
  induction l generalizing s with
  | nil => exact .refl s
  | cons i l ih => exact (s.clearWord_butRc a events i).trans (ih _)

/-- A range without a clearing field leaves the state. -/
theorem State.clearWords_none {s : State} {a : Nat} {events : List Nat} {l : List Nat}
    (h : ∀ i ∈ l, ∀ x, placeOf (a + 4 * i) = some x → ¬(x.blk = .hng ∧ (x.off = 4 ∨ x.off = 8))) : s.clearWords a events l = s := by
  refine List.foldlRecOn (motive := fun t => t = s) _ _ rfl ?_
  rintro t rfl i hi
  unfold State.clearWord
  split
  · next x hx =>
    have no := h i hi x hx
    unfold State.clearRc
    by_cases hb : x.blk = .hng
    · rw [if_neg (by simp [hb]), if_neg fun e => no ⟨hb, .inl e⟩, if_neg fun e => no ⟨hb, .inr e⟩]
    · rw [if_pos hb]
  · rfl

/-- A clearing field that no word of the range names keeps its value. -/
theorem State.clearWords_rc_other {s : State} {a k o : Nat} {events : List Nat} {l : List Nat} (ho : o = 4 ∨ o = 8)
    (h : ∀ i ∈ l, placeOf (a + 4 * i) ≠ some ⟨.hng, k, o⟩) : ((s.clearWords a events l).getHng k).rc o = (s.getHng k).rc o := by
  refine List.foldlRecOn (motive := fun t : State => (t.getHng k).rc o = (s.getHng k).rc o) _ _ rfl ?_
  intro t ht i hi
  unfold State.clearWord
  split
  · next x hx => exact (State.clearRc_rc_ne _ ho fun e => h i hi (e ▸ hx)).trans ht
  · exact ht

/-- A clearing field that the range names holds the events of its word's cycle. -/
theorem State.clearWords_rc {s : State} {a k o i : Nat} {events : List Nat} {l : List Nat} (ho : o = 4 ∨ o = 8) (hk : k < s.hng.length)
    (hl : l.Nodup) (hi : i ∈ l) (hx : placeOf (a + 4 * i) = some ⟨.hng, k, o⟩) :
    ((s.clearWords a events l).getHng k).rc o = BitVec.ofNat 32 (sat32 (nth events i 0)) := by
  have one (j : Nat) (h : placeOf (a + 4 * j) = some ⟨.hng, k, o⟩) : j = i := by
    have := placeOf_hng h
    have := placeOf_hng hx
    omega
  induction l generalizing s with
  | nil => cases hi
  | cons j l ih =>
    obtain ⟨hj, hl⟩ := List.nodup_cons.mp hl
    by_cases e : j = i
    · subst e
      have later : ∀ m ∈ l, placeOf (a + 4 * m) ≠ some ⟨.hng, k, o⟩ := fun m hm h => hj (one m h ▸ hm)
      have now : s.clearWord a events j = s.clearRc ⟨.hng, k, o⟩ (nth events j 0) := by rw [State.clearWord, hx]
      calc ((s.clearWords a events (j :: l)).getHng k).rc o
          = ((s.clearWord a events j).getHng k).rc o := State.clearWords_rc_other ho later
        _ = BitVec.ofNat 32 (sat32 (nth events j 0)) := now ▸ State.clearRc_rc_same _ ho hk
    · exact ih ((s.clearWord_butRc a events j).2.1 ▸ hk) hl ((List.mem_cons.mp hi).resolve_left (Ne.symm e))

/-! ### Commands that are answered at once -/

/-- The state in which a command's own checks begin differs in the link alone, and there not in what waits to leave. -/
theorem State.begun_eq (s : State) (code : Nat) (f : RclFrame) (urgent : Option Bool) :
    ∃ l, s.begun code f urgent = { s with lnk := l } ∧ l.out = s.lnk.out := by
  unfold State.begun
  split
  · exact ⟨_, rfl, rfl⟩
  · exact ⟨s.lnk, rfl, rfl⟩

/-- An admitted command whose meaning answers at once and keeps the link's channels. -/
theorem State.serve_begun {s t : State} {code : Nat} {f : RclFrame} {auth : Option Auth} {urgent : Option Bool}
    {body : Caller → State → Answer × State} {st : Status} {d : List Byte} (h : s.admits code f auth urgent = true)
    (hl : t.lnk.out.length = (s.begun code f urgent).lnk.out.length)
    (hb : body (s.callerOf code f urgent) (s.begun code f urgent) = (.now st d, t)) :
    ∃ l, (Host.Outcome.next (s.serve code auth urgent f body) : Host.Outcome State Fault Refusal) = .next { t with lnk := l }
      ∧ ({ t with lnk := l } : State).answers f st d := by
  obtain ⟨row, hr⟩ : ∃ row, cmdRow code = some row := by
    cases hr : cmdRow code with
    | none => simp [State.admits, hr] at h
    | some row => exact ⟨row, rfl⟩
  obtain ⟨l, e, out⟩ := s.begun_eq code f urgent
  have four : t.lnk.out.length = 4 := by rw [hl, e]; exact (congrArg List.length out).trans (State.admits_out h)
  have row_eq : s.begun code f urgent = s.entered row (urgent.getD row.urgent) f := by rw [State.begun, hr]
  obtain ⟨l, served, answered, -⟩ := State.serve_now hr h (row_eq ▸ hb) four
  exact ⟨l, congrArg _ served, answered⟩

/-! ### `REG_READ` -/

theorem State.ButRc.lnk {s t : State} (h : s.ButRc t) : t.lnk = s.lnk := (congrArg State.lnk h.1 :)

/-- The words that `REG_READ` reads, and the state it leaves (R466). -/
theorem exec_regRead {s : State} {f : RclFrame} {ev : List Nat}
    (h : s.admits 0x08 f (if f.pl 0 4 + 4 * fld (f.word 4) 8 0 ≤ 0x30000 then some .none else none) = true) (len : f.data.length = 8)
    (resv : fld (f.word 4) 31 9 = 0) (least : 1 ≤ fld (f.word 4) 8 0) (most : fld (f.word 4) 8 0 ≤ 256)
    (block : inOneBlock (f.pl 0 4) (fld (f.word 4) 8 0) = true) :
    ∃ l, exec (.regRead f ev) s = .next { (s.begun 0x08 f).clearWords (f.pl 0 4) ev (List.range (fld (f.word 4) 8 0)) with lnk := l }
      ∧ ({ (s.begun 0x08 f).clearWords (f.pl 0 4) ev (List.range (fld (f.word 4) 8 0)) with lnk := l } : State).answers f .ok
          (bytes4 ((List.range (fld (f.word 4) 8 0)).map fun i => (s.begun 0x08 f).rdWord (f.pl 0 4 + 4 * i))) :=
  State.serve_begun h (by rw [((s.begun 0x08 f).clearWords_butRc _ _ _).lnk]) (if_neg (by simp [len, resv, block]; omega))

/-- What `REG_READ` leaves, against the state before the command. -/
theorem State.begun_clearWords (s : State) (f : RclFrame) (a : Nat) (ev l : List Nat) (k : Lnk) :
    let t : State := { (s.begun 0x08 f).clearWords a ev l with lnk := k }
    { t with lnk := s.lnk, hng := s.hng } = s ∧ t.hng.length = s.hng.length
      ∧ ∀ n, { t.getHng n with hngBad := (s.getHng n).hngBad, lenMism := (s.getHng n).lenMism } = s.getHng n := by
  obtain ⟨b, e, -⟩ := s.begun_eq 0x08 f none
  obtain ⟨frame, len, ports⟩ := (s.begun 0x08 f).clearWords_butRc a ev l
  rw [e] at frame len ports ⊢
  exact ⟨congrArg (fun t : State => { t with lnk := s.lnk }) frame, len, ports⟩

/-! ### `REG_WRITE` of plain words -/

@[simp] theorem State.calTrigger_chans (s : State) : s.calTrigger.lnk.out.length = s.lnk.out.length := by simp [State.calTrigger]

@[simp] theorem State.pinTrigger_chans (s : State) : s.pinTrigger.lnk.out.length = s.lnk.out.length := by simp [State.pinTrigger]

@[simp] theorem State.wrWord_chans (s : State) (x : Place) (v : Nat) (hw : HwUpdate) :
    (s.wrWord x v hw).lnk.out.length = s.lnk.out.length := by
  unfold State.wrWord
  split
  case h_5 =>
    unfold State.wrLnk
    rw [State.modLnk_lnk]
    repeat' split
    all_goals rfl
  case h_8 => simp [State.wrCab, State.align]
  case h_10 => simp [State.wrPol, State.align]
  case h_14 => simp [State.wrFab, State.modPort]
  all_goals simp [State.wrPwr, State.wrRas, State.wrSec, State.wrHng, State.wrPrt, State.wrTum, State.wrHbm, State.modTum]

@[simp] theorem State.wrCtr_chans (s : State) (x : Place) (v : Nat) (hw : HwUpdate) :
    (s.wrCtr x v hw).lnk.out.length = s.lnk.out.length := by
  unfold State.wrCtr
  dsimp only
  split <;> simp [State.modPort, State.modTum]

/-- A write of a range keeps the link's channels, whatever the triggers among its words start (R640). -/
@[simp] theorem State.wrRange_chans (s : State) (a : Nat) (hw : List HwUpdate) (n : Nat) (vs : List Nat) :
    (s.wrRange a hw n vs).lnk.out.length = s.lnk.out.length := by
  induction n generalizing s a hw vs with
  | zero => rfl
  | succ n ih =>
    cases vs with
    | nil => rfl
    | cons v vs =>
      unfold State.wrRange
      split
      · rfl
      · split <;> simp [ih]

/-- The words of a range with their places, as `REG_WRITE` lists them. -/
theorem mem_places {a n : Nat} {vs : List Nat} {e : Place × Nat}
    (h : e ∈ (List.range n).filterMap fun i => (placeOf (a + 4 * i)).map fun x => (x, nth vs i 0)) :
    ∃ i < n, placeOf (a + 4 * i) = some e.1 := by
  obtain ⟨i, hi, hx⟩ := List.mem_filterMap.mp h
  obtain ⟨x, place, rfl⟩ := Option.map_eq_some_iff.mp hx
  exact ⟨i, List.mem_range.mp hi, place⟩

/-- A `REG_WRITE` of plain words writes the range (R466, R626). -/
theorem exec_regWrite_plain {s : State} {f : RclFrame} {hw : List HwUpdate} (h : s.admits 0x09 f = true)
    (len : f.data.length = 8 + 4 * fld (f.word 4) 8 0) (resv : fld (f.word 4) 31 9 = 0) (least : 1 ≤ fld (f.word 4) 8 0)
    (most : fld (f.word 4) 8 0 ≤ 256) (block : inOneBlock (f.pl 0 4) (fld (f.word 4) 8 0) = true)
    (plain : ∀ i < fld (f.word 4) 8 0, ∀ x, placeOf (f.pl 0 4 + 4 * i) = some x → x.isP = false) :
    let t := (s.begun 0x09 f).wrRange (f.pl 0 4) hw (fld (f.word 4) 8 0) ((List.range (fld (f.word 4) 8 0)).map fun i => f.pl (8 + 4 * i) 4)
    ∃ l, exec (.regWrite f hw) s = .next { t with lnk := l } ∧ ({ t with lnk := l } : State).answers f .ok [] := by
  have noP : (((List.range (fld (f.word 4) 8 0)).filterMap fun i => (placeOf (f.pl 0 4 + 4 * i)).map fun x =>
      (x, nth ((List.range (fld (f.word 4) 8 0)).map fun i => f.pl (8 + 4 * i) 4) i 0)).any fun e => e.1.isP) = false := by
    rw [List.any_eq_false]
    intro e he
    obtain ⟨i, hi, hx⟩ := mem_places he
    simp [plain i hi _ hx]
  refine State.serve_begun h (State.wrRange_chans ..) ?_
  rw [if_neg (by simp [len, resv, block]; omega)]
  dsimp only
  rw [noP]
  rfl

/-- A write of one word of a range of one. -/
theorem State.wrRange_one {s : State} {a : Nat} {x : Place} (hw : List HwUpdate) (v : Nat) (h : placeOf a = some x) :
    s.wrRange a hw 1 [v] = s.wrWord x v (nth hw 0 .none) := by
  unfold State.wrRange
  rw [h]
  dsimp only
  split
  · next vs => cases vs
  · rfl

/-- A write of a context bound (R636). -/
theorem State.wrRange_bound {s : State} {p n : Nat} (hw : List HwUpdate) (v : Nat) (hp : p < 32) (hn : n < 16) :
    s.wrRange (0x100300 + 0x1000 * p + 4 * n) hw 1 [v]
      = s.modP p fun q => { q with bound := modNth q.bound n fun _ => BitVec.ofNat 32 v } := by
  have place : placeOf (0x100300 + 0x1000 * p + 4 * n) = some ⟨.prt, p, 0x300 + 4 * n⟩ := by
    rw [← placeOf_prt hp (by omega)]
    congr 1
    omega
  have index : (0x300 + 4 * n - 0x300) / 4 = n := by omega
  rw [State.wrRange_one hw v place]
  change s.wrPrt p (0x300 + 4 * n) v = _
  rw [State.wrPrt, if_pos (by omega), index]

/-! ### `PART_SET` of plain words -/

/-- Two pages that agree in what the plain fields of a page do not touch. -/
structure Prt.SamePlan (q r : Prt) : Prop where
  tumOwn : r.tumOwn = q.tumOwn
  tumNext : r.tumNext = q.tumNext
  shfHost : r.shfHost = q.shfHost
  slowSpace : r.slowSpace = q.slowSpace
  slowBase : r.slowBase = q.slowBase
  slowSize : r.slowSize = q.slowSize

theorem Prt.SamePlan.refl (q : Prt) : q.SamePlan q := ⟨rfl, rfl, rfl, rfl, rfl, rfl⟩

theorem Prt.SamePlan.trans {q r t : Prt} (h : q.SamePlan r) (g : r.SamePlan t) : q.SamePlan t :=
  ⟨g.1.trans h.1, g.2.trans h.2, g.3.trans h.3, g.4.trans h.4, g.5.trans h.5, g.6.trans h.6⟩

theorem Prt.clearLost_samePlan (q : Prt) (off v : Nat) : q.SamePlan (q.clearLost off v) := by
  unfold Prt.clearLost
  repeat' split
  all_goals exact ⟨rfl, rfl, rfl, rfl, rfl, rfl⟩

theorem Prt.SamePlan.ite {q r t : Prt} {c : Prop} [Decidable c] (h : q.SamePlan r) (g : q.SamePlan t) : q.SamePlan (if c then r else t) := by
  split
  · exact h
  · exact g

theorem Prt.setPlain_samePlan (q : Prt) (off v : Nat) : q.SamePlan (q.setPlain off v) := by
  unfold Prt.setPlain
  repeat' apply Prt.SamePlan.ite
  all_goals exact ⟨rfl, rfl, rfl, rfl, rfl, rfl⟩

/-- A word of the share, quota, limit and wait fields leaves the tumblers, the host areas and the slower tier. -/
theorem Prt.setWord_samePlan (q : Prt) {off : Nat} (v : Nat) (lo : 0x20 ≤ off) (hi : off < 0x48) : q.SamePlan (q.setWord off v) := by
  unfold Prt.setWord
  rw [if_neg (by omega), if_pos hi]
  exact (q.clearLost_samePlan off v).trans (Prt.setPlain_samePlan _ off v)

theorem Prt.foldl_setWord_samePlan (l : List (Nat × Nat)) (h : ∀ x ∈ l, 0x20 ≤ x.1 ∧ x.1 < 0x48) (q : Prt) :
    q.SamePlan (l.foldl (fun (q : Prt) x => q.setWord x.1 x.2) q) := by
  refine List.foldlRecOn (motive := q.SamePlan) _ _ (.refl q) ?_
  intro r hr x hx
  exact hr.trans (r.setWord_samePlan x.2 (h x hx).1 (h x hx).2)

/-- Words of these fields are written as they come: no rule about the slower tier or a waiting mask meets them. -/
theorem Prt.setWords_eq {q : Prt} {l : List (Nat × Nat)} (h : ∀ x ∈ l, 0x20 ≤ x.1 ∧ x.1 < 0x48) (hq : q.tumNext = none) :
    q.setWords l = l.foldl (fun (q : Prt) x => q.setWord x.1 x.2) q := by
  have same := Prt.foldl_setWord_samePlan l h q
  unfold Prt.setWords
  generalize l.foldl (fun (q : Prt) x => q.setWord x.1 x.2) q = n at same ⊢
  have next : n.tumNext = none := same.tumNext.trans hq
  have noTum : n.tumNext ≠ some n.tumOwn := next ▸ nofun
  dsimp only
  rw [if_neg noTum, ← same.slowBase, ← same.slowSize, ite_self, ite_self]

/-- A page in which no reassignment waits. -/
theorem State.tumNext_none {s : State} (h : ∀ q ∈ s.prt, q.tumNext = none) (p : Nat) : (s.getP p).tumNext = none := by
  rcases Nat.lt_or_ge p s.prt.length with hp | hp
  · rw [State.getP, nth, List.getD_eq_getElem _ _ hp]
    exact h _ (List.getElem_mem hp)
  · rw [State.getP_beyond hp]
    rfl

/-- Where no reassignment waits, none takes effect (R41). -/
theorem State.takeTum_none {s : State} (h : ∀ q, (s.getP q).tumNext = none) (p : Nat) : s.takeTum p = s := by
  have settled (q : Nat) : s.settleTum q = s := by rw [State.settleTum, h q]
  unfold State.takeTum
  rw [settled]
  refine List.foldlRecOn (motive := fun t => t = s) _ _ rfl ?_
  rintro t rfl q -
  exact settled q

/-- Host areas that keep their size stay (R646). -/
theorem State.resizeHost_same {s : State} {p q n : Nat} (h : n = (s.hostArea p q).2) : s.resizeHost p q n = some s := by
  rw [State.resizeHost, if_pos h]

/-- A page is replaced by what a function makes of it. -/
theorem modNth_getP (s : State) (p : Nat) (f : Prt → Prt) : modNth s.prt p (fun _ => f (s.getP p)) = modNth s.prt p f := by
  apply List.ext_getElem (by simp)
  intro j h1 h2
  simp only [modNth, List.getElem_mapIdx]
  split
  · next e =>
    subst e
    rw [State.getP, nth, List.getD_eq_getElem]
  · rfl

/-- Write the P words of a `PART_SET` in the order of its pairs. -/
def Prt.setPairs (l : List ConfPair) (q : Prt) : Prt := (l.map fun x => (x.off, x.v)).foldl (fun (q : Prt) x => q.setWord x.1 x.2) q

/-- A pair that names a share, quota, limit or wait word of a page. -/
def ConfPair.Plain (x : ConfPair) : Prop := 0x20 ≤ x.off ∧ x.off < 0x44 ∧ x.off % 4 = 0 ∧ x.cab = false

/-- The place and the value of a pair of partition p's page. -/
def ConfPair.atPage (p : Nat) (x : ConfPair) : Place × Nat := (⟨.prt, p, x.off⟩, x.v)

/-- The P words from `TUM_SHARES` to `LAT_WAIT`. -/
theorem prtPWords_of_plain {off : Nat} (lo : 0x20 ≤ off) (hi : off < 0x44) (align : off % 4 = 0) : off ∈ prtPWords := by
  obtain ⟨k, rfl⟩ : ∃ k, off = 0x20 + 4 * k := ⟨(off - 0x20) / 4, by omega⟩
  have : k < 9 := by omega
  interval_cases k <;> decide

theorem ConfPair.Plain.isP {x : ConfPair} (h : x.Plain) (p : Nat) : (x.atPage p).1.isP = true :=
  List.contains_iff_mem.mpr (prtPWords_of_plain h.1 h.2.1 h.2.2.1)

/-- A pair of a page is what its place and its value make again. -/
theorem ConfPair.Plain.of_atPage {x : ConfPair} (h : x.Plain) (p : Nat) :
    ({ off := (x.atPage p).1.off, cab := (x.atPage p).1.blk == .cab, v := (x.atPage p).2 } : ConfPair) = x := by
  obtain ⟨-, -, -, page⟩ := h
  rw [ConfPair.mk.injEq]
  exact ⟨rfl, page.symm, rfl⟩

/-- Host areas that all keep their size stay (R646). -/
theorem State.resizeHosts_same {s : State} {p : Nat} {l : List (BitVec 10)} (h : (s.getP p).shfHost = l) (dies : List Nat) :
    dies.foldl (fun (o : Option State) q => o.bind fun s => s.resizeHost p q (nth (l.map (·.toNat)) q 0)) (some s) = some s := by
  refine List.foldlRecOn (motive := fun o => o = some s) _ _ rfl ?_
  rintro o rfl q -
  exact State.resizeHost_same (by rw [State.hostArea, h]; exact List.getD_map l (0 : BitVec 10) BitVec.toNat)

/-- A `PART_SET` of share, quota, limit and wait words that leaves a configuration the device accepts (R374, R628). -/
theorem State.partSet_plain {s : State} {p : Nat} {pairs : List ConfPair}
    (plain : ∀ x ∈ pairs, x.Plain) (settled : ∀ q ∈ s.prt, q.tumNext = none)
    (alive : ∀ t ∈ tumsOf (s.getP p).tumOwn, s.ras.fencePair.getLsbD (t / 2) = false)
    (ok : s.configOk (modNth s.prt p (Prt.setPairs pairs)) s.cab (s.shf.map fun x => x.cap.toNat) = true) :
    s.partSet p pairs [] = (.ok, { s with prt := modNth s.prt p (Prt.setPairs pairs) }) := by
  have listed : (pairs.any fun x => !(if x.cab then cabPWords else prtPWords).contains x.off) = false := by
    rw [List.any_eq_false]
    intro x hx
    obtain ⟨lo, hi, align, cab⟩ := plain x hx
    simp [cab, prtPWords_of_plain lo hi align]
  have mine : (pairs.filter fun x => !x.cab) = pairs := List.filter_eq_self.mpr fun x hx => by simp [(plain x hx).2.2.2]
  have none_cab : pairs.filter (·.cab) = [] := List.filter_eq_nil_iff.mpr fun x hx => by simp [(plain x hx).2.2.2]
  have range : ∀ x ∈ pairs.map fun x => (x.off, x.v), 0x20 ≤ x.1 ∧ x.1 < 0x48 := by
    intro y hy
    obtain ⟨x, hx, rfl⟩ := List.mem_map.mp hy
    obtain ⟨lo, hi, -⟩ := plain x hx
    exact ⟨lo, by dsimp only; omega⟩
  have next : (s.getP p).tumNext = none := State.tumNext_none settled p
  have words : (s.getP p).setWords (pairs.map fun x => (x.off, x.v)) = Prt.setPairs pairs (s.getP p) := Prt.setWords_eq range next
  have same : (s.getP p).SamePlan (Prt.setPairs pairs (s.getP p)) := Prt.foldl_setWord_samePlan _ range _
  have ok' := ok
  rw [← modNth_getP] at ok'
  have after : modNth s.prt p (fun _ => Prt.setPairs pairs (s.getP p)) = modNth s.prt p (Prt.setPairs pairs) := modNth_getP s p _
  have unfenced : (pairs.any fun x => ([] : List Nat).contains x.off && hwclrWord x.off) = false := by simp
  have healthy : ((tumsOf (Prt.setPairs pairs (s.getP p)).tumConf).any fun t => s.ras.fencePair.getLsbD (t / 2)) = false := by
    rw [Prt.tumConf, same.tumNext, next, List.any_eq_false]
    intro t ht
    rw [alive t (same.tumOwn ▸ ht)]
    exact Bool.false_ne_true
  unfold State.partSet
  dsimp only
  rw [if_neg (ne_true_of_eq_false listed), mine, none_cab, words, if_neg (ne_true_of_eq_false unfenced)]
  generalize Prt.setPairs pairs (s.getP p) = n at *
  have slow : decide (n.slowSpace ≠ (s.getP p).slowSpace ∨ n.slowBase ≠ (s.getP p).slowBase
      ∨ n.slowSize ≠ (s.getP p).slowSize) = false := by
    simp [same.slowSpace, same.slowBase, same.slowSize]
  rw [healthy, slow, List.foldl_nil, ok', if_neg (by simp), ← same.shfHost, ← after]
  have page (q : Nat) : (s.modP p fun _ => n).getP q = n ∨ (s.modP p fun _ => n).getP q = s.getP q := by
    rw [State.getP_modP]
    split
    · exact .inl rfl
    · exact .inr rfl
  have area : ((s.modP p fun _ => n).getP p).shfHost = n.shfHost := by
    rcases page p with e | e
    · rw [e]
    · rw [e, same.shfHost]
  have waits (q : Nat) : ((s.modP p fun _ => n).getP q).tumNext = none := by
    rcases page q with e | e
    · rw [e, same.tumNext, next]
    · rw [e, State.tumNext_none settled]
  have kept := State.resizeHosts_same area (List.range 4)
  split
  · next t ht =>
    obtain rfl : s.modP p (fun _ => n) = t := Option.some.inj (kept.symm.trans (ht))
    exact congrArg (Prod.mk _) (State.takeTum_none waits p)
  · next none => exact absurd (kept.symm.trans (none)) nofun

/-- A range inside one page lies inside one block. -/
theorem inOneBlock_prt {p o n : Nat} (hp : p < 32) (align : o % 4 = 0) (least : 1 ≤ n) (most : o + 4 * n ≤ 0x1000) :
    inOneBlock (0x100000 + 0x1000 * p + o) n = true := by
  have last : 0x100000 + 0x1000 * p + o + 4 * n - 4 = 0x100000 + 0x1000 * p + (o + 4 * n - 4) := by omega
  have whole : (0x100000 + 0x1000 * p + o) % 4 = 0 := by omega
  rw [inOneBlock, last, placeOf_prt hp (by omega), placeOf_prt hp (by omega)]
  simp [whole]

/-- The words of a `REG_WRITE` as the pairs of a `PART_SET`. -/
def regPairs (f : RclFrame) (off n : Nat) : List ConfPair := (List.range n).map fun i => ⟨off + 4 * i, false, f.pl (8 + 4 * i) 4⟩

theorem regPairs_plain {f : RclFrame} {off n : Nat} (align : off % 4 = 0) (lo : 0x20 ≤ off) (hi : off + 4 * n ≤ 0x44) :
    ∀ x ∈ regPairs f off n, x.Plain := by
  intro x hx
  obtain ⟨i, hi, rfl⟩ := List.mem_map.mp hx
  have hi := List.mem_range.mp hi
  exact ⟨Nat.le_add_right_of_le lo, by dsimp only; omega, by dsimp only; omega, rfl⟩

theorem Prt.setPairs_regPairs (f : RclFrame) (off n : Nat) :
    Prt.setPairs (regPairs f off n)
      = fun q => (List.range n).foldl (fun (q : Prt) i => q.setWord (off + 4 * i) (f.pl (8 + 4 * i) 4)) q := by
  funext q
  rw [Prt.setPairs, regPairs, List.map_map, List.foldl_map]
  rfl

/-- The places of words inside one page, with the values that `REG_WRITE` brings. -/
theorem places_prt {p o n : Nat} (f : RclFrame) (hp : p < 32) (most : o + 4 * n ≤ 0x1000) :
    ((List.range n).filterMap fun i => (placeOf (0x100000 + 0x1000 * p + o + 4 * i)).map fun x =>
        (x, nth ((List.range n).map fun i => f.pl (8 + 4 * i) 4) i 0))
      = (regPairs f o n).map (ConfPair.atPage p) := by
  rw [regPairs, List.map_map]
  refine Eq.trans (List.filterMap_congr fun i hi => ?_) (congrFun List.filterMap_eq_map _)
  have hi := List.mem_range.mp hi
  rw [Nat.add_assoc _ o, placeOf_prt hp (by omega)]
  simp [nth, hi, ConfPair.atPage]

/-- The first word of a `REG_WRITE` names its page. -/
theorem regPairs_head (f : RclFrame) (p off : Nat) {n : Nat} (least : 1 ≤ n) :
    ((regPairs f off n).map (ConfPair.atPage p)).head? = some (⟨.prt, p, off⟩, f.pl 8 4) := by
  obtain ⟨m, rfl⟩ : ∃ m, n = m + 1 := ⟨_, (Nat.sub_add_cancel least).symm⟩
  rw [regPairs, List.range_succ_eq_map]
  rfl

/-- A `REG_WRITE` of share, quota, limit and wait words alone is a `PART_SET` of them (R466, R628). -/
theorem exec_regWrite_plan {s : State} {f : RclFrame} {hw : List HwUpdate} {p off : Nat} {l : List ConfPair} (h : s.admits 0x09 f = true)
    (len : f.data.length = 8 + 4 * fld (f.word 4) 8 0) (resv : fld (f.word 4) 31 9 = 0) (least : 1 ≤ fld (f.word 4) 8 0) (hp : p < 32)
    (addr : f.pl 0 4 = 0x100000 + 0x1000 * p + off) (align : off % 4 = 0) (lo : 0x20 ≤ off) (hi : off + 4 * fld (f.word 4) 8 0 ≤ 0x44)
    (unfenced : ∀ i < fld (f.word 4) 8 0, nth hw i .none ≠ .clear) (settled : ∀ q ∈ s.prt, q.tumNext = none)
    (alive : ∀ t ∈ tumsOf (s.getP p).tumOwn, s.ras.fencePair.getLsbD (t / 2) = false) (hl : regPairs f off (fld (f.word 4) 8 0) = l)
    (ok : s.configOk (modNth s.prt p (Prt.setPairs l)) s.cab (s.shf.map fun x => x.cap.toNat) = true) :
    let t : State := { s with prt := modNth s.prt p (Prt.setPairs l) }
    ∃ k, exec (.regWrite f hw) s = .next { t with lnk := k } ∧ ({ t with lnk := k } : State).answers f .ok [] := by
  obtain ⟨b, e, -⟩ := s.begun_eq 0x09 f none
  have plain : ∀ x ∈ l, x.Plain := hl ▸ regPairs_plain align lo hi
  have set : ({ s with lnk := b } : State).partSet p l [] = (.ok, { s with lnk := b, prt := modNth s.prt p (Prt.setPairs l) }) :=
    State.partSet_plain (s := { s with lnk := b }) plain settled alive ok
  have clears : ((List.range (fld (f.word 4) 8 0)).filterMap fun i =>
      if nth hw i .none = .clear then (placeOf (f.pl 0 4 + 4 * i)).map (·.off) else none) = [] :=
    List.filterMap_eq_nil_iff.mpr fun i hi => if_neg (unfenced i (List.mem_range.mp hi))
  have block : inOneBlock (f.pl 0 4) (fld (f.word 4) 8 0) = true := addr ▸ inOneBlock_prt hp align least (by omega)
  have first : (l.map (ConfPair.atPage p)).head? = some (⟨.prt, p, off⟩, f.pl 8 4) := hl ▸ regPairs_head f p off least
  have allP : ∀ e ∈ l.map (ConfPair.atPage p), e.1.isP = true := List.forall_mem_map.mpr fun x hx => (plain x hx).isP p
  have someP : ((l.map (ConfPair.atPage p)).any fun e => e.1.isP) = true :=
    List.any_eq_true.mpr ⟨_, List.mem_of_mem_head? first, allP _ (List.mem_of_mem_head? first)⟩
  have noOther : ((l.map (ConfPair.atPage p)).any fun e => !e.1.isP && e.1.listed) = false :=
    List.any_eq_false.mpr fun e he => by simp [allP e he]
  have back : ((l.map (ConfPair.atPage p)).map fun e => ({ off := e.1.off, cab := e.1.blk == .cab, v := e.2 } : ConfPair)) = l := by
    rw [List.map_map]
    exact (List.map_congr_left fun x hx => (plain x hx).of_atPage p).trans (List.map_id l)
  refine State.serve_begun (t := { s with lnk := b, prt := modNth s.prt p (Prt.setPairs l) }) (st := .ok) (d := []) h (by rw [e]) ?_
  rw [e, if_neg (by simp [len, resv, block]; omega)]
  dsimp only
  rw [clears, addr, places_prt f hp (by omega), hl, if_pos someP, if_neg (ne_true_of_eq_false noOther), List.filter_eq_self.mpr allP,
    first, back]
  dsimp only [Option.map_some, Option.getD_some]
  rw [set]

/-! ### O15 -/

/-- What `REG_READ` leaves in the clearing fields of the hinge ports. -/
theorem State.begun_clearWords_rc (s : State) {f : RclFrame} {a n i k o : Nat} {ev : List Nat} (b : Lnk) (ho : o = 4 ∨ o = 8)
    (hk : k < s.hng.length) (hi : i < n) (hx : placeOf (a + 4 * i) = some ⟨.hng, k, o⟩) :
    (({ (s.begun 0x08 f).clearWords a ev (List.range n) with lnk := b } : State).getHng k).rc o = BitVec.ofNat 32 (sat32 (nth ev i 0)) := by
  obtain ⟨l, e, -⟩ := s.begun_eq 0x08 f none
  exact State.clearWords_rc ho (by rw [e]; exact hk) List.nodup_range (List.mem_range.mpr hi) hx

/-- Settles O15: what each command does once it is admitted, from the rules of the clearing reads, of a write of a range and of a
`PART_SET`. -/
theorem registersAreReadAndWrittenOverTheLink : Obligations.RegistersAreReadAndWrittenOverTheLink := by
  unfold Obligations.RegistersAreReadAndWrittenOverTheLink
  refine ⟨?_, ?_, ?_⟩
  · intro s f ev h len resv least most block
    obtain ⟨l, run, answer⟩ := exec_regRead h len resv least most block
    obtain ⟨frame, size, ports⟩ := s.begun_clearWords f (f.pl 0 4) ev (List.range (fld (f.word 4) 8 0)) l
    refine ⟨_, run, answer, frame, size, fun k _ => ports k, fun i hi k hk => ⟨fun hx => ?_, fun hx => ?_⟩, fun plain => ?_⟩
    · exact s.begun_clearWords_rc l (.inl rfl) hk hi hx
    · exact s.begun_clearWords_rc l (.inr rfl) hk hi hx
    · obtain ⟨b, e, -⟩ := s.begun_eq 0x08 f none
      dsimp only
      rw [State.clearWords_none fun i hi => plain i (List.mem_range.mp hi), e]
  · intro s f hw h len resv least most block plain
    obtain ⟨l, run, answer⟩ := exec_regWrite_plain h len resv least most block plain
    refine ⟨_, run, answer, rfl, fun p n hp hn addr one => ?_⟩
    obtain ⟨b, e, -⟩ := s.begun_eq 0x09 f none
    have write : (s.begun 0x09 f).wrRange (0x100300 + 0x1000 * p + 4 * n) hw 1 ((List.range 1).map fun i => f.pl (8 + 4 * i) 4) = _ :=
      State.wrRange_bound hw (f.pl 8 4) hp hn
    rw [addr, one, write, e]
    rfl
  · intro s f hw p off h len resv least hp addr align lo hi unfenced settled alive set ok
    have words := Prt.setPairs_regPairs f off (fld (f.word 4) 8 0)
    obtain ⟨l, run, answer⟩ := exec_regWrite_plan h len resv least hp addr align lo hi unfenced settled alive rfl (words ▸ ok)
    exact ⟨_, run, answer, by rw [words]⟩

end Sys2Proof.Machine
end

section
/-! PROOF. Sparse tables, tumblers and switched domains: reading after an update. -/

namespace Sys2Proof.Machine

open Sys2Proof

/-! ### Tables -/

theorem SMap.get_insert {α : Type} (d : α) (m : SMap α) (i : Nat) (v : α) (k : Nat) :
    (m.insert i v).get d k = if k = i then v else m.get d k := by
  induction m with
  | nil => rfl
  | cons e m ih =>
    obtain ⟨j, x⟩ := e
    unfold SMap.insert
    split
    · rfl
    · split
      · next e => 
        subst e
        simp only [SMap.get]
        split <;> rfl
      · next ne =>
        simp only [SMap.get, ih]
        split
        · next e => rw [if_neg fun h => ne (h.symm.trans e)]
        · rfl

theorem SMap.get_erase_ne {α : Type} (d : α) (m : SMap α) {i k : Nat} (h : k ≠ i) : (m.erase i).get d k = m.get d k := by
  induction m with
  | nil => rfl
  | cons e m ih =>
    obtain ⟨j, x⟩ := e
    unfold SMap.erase
    split
    · next e => simp only [SMap.get, if_neg (e ▸ h)]
    · simp only [SMap.get, ih]

/-- An index that is not listed reads the default. -/
theorem SMap.get_of_forall_ne {α : Type} (d : α) {m : SMap α} {k : Nat} (h : ∀ e ∈ m, e.1 ≠ k) : m.get d k = d := by
  induction m with
  | nil => rfl
  | cons e m ih =>
    obtain ⟨j, x⟩ := e
    rw [SMap.get, if_neg fun e => h _ (List.mem_cons_self ..) e.symm, ih fun e he => h e (List.mem_cons_of_mem _ he)]

theorem SMap.get_erase_same {α : Type} (d : α) {m : SMap α} (i : Nat) (h : m.Pairwise fun a b => a.1 < b.1) : (m.erase i).get d i = d := by
  induction m with
  | nil => rfl
  | cons e m ih =>
    obtain ⟨first, rest⟩ := List.pairwise_cons.mp h
    unfold SMap.erase
    split
    · next e => exact SMap.get_of_forall_ne d fun x hx => (e ▸ first x hx).ne'
    · next ne => rw [SMap.get, if_neg ne, ih rest]

theorem SMap.get_set_ne {α : Type} [DecidableEq α] (d : α) (m : SMap α) {i k : Nat} (v : α) (h : k ≠ i) :
    (SMap.set d m i v).get d k = m.get d k := by
  unfold SMap.set
  split
  · exact SMap.get_erase_ne d m h
  · rw [SMap.get_insert, if_neg h]

/-- A value that is not the default is read back, whatever the table's form. -/
theorem SMap.get_set_same {α : Type} [DecidableEq α] {d : α} (m : SMap α) (i : Nat) {v : α} (h : v ≠ d) : (SMap.set d m i v).get d i = v := by
  rw [SMap.set, if_neg h, SMap.get_insert, if_pos rfl]

theorem SMap.get_set {α : Type} [DecidableEq α] {d : α} {m : SMap α} (i : Nat) (v : α) (k : Nat) (h : SMap.wf d m = true) :
    (SMap.set d m i v).get d k = if k = i then v else m.get d k := by
  by_cases hk : k = i
  · subst hk
    rw [if_pos rfl]
    by_cases hv : v = d
    · rw [SMap.set, if_pos hv, SMap.get_erase_same d k ((SMap.wf_iff d m).mp h).1, hv]
    · exact SMap.get_set_same m k hv
  · rw [if_neg hk, SMap.get_set_ne d m v hk]

/-! ### Tumblers -/

theorem State.tumOf_modTum {s : State} (t n : Nat) (f : Tum → Tum) (h : SMap.wf Tum.reset s.tum = true) :
    (s.modTum t f).tumOf n = if n = t then f (s.tumOf n) else s.tumOf n := by
  refine (SMap.get_set t _ n h).trans ?_
  split
  · next e => rw [e]; rfl
  · rfl

theorem State.wf_modTum {s : State} (t : Nat) (f : Tum → Tum) (h : SMap.wf Tum.reset s.tum = true) :
    SMap.wf Tum.reset (s.modTum t f).tum = true := SMap.wf_upd t f h

/-- The two tumblers of a pair are updated alike. -/
theorem State.tumOf_modPair {s : State} (d k : Nat) (f : Tum → Tum) (hk : k < 2) (h : SMap.wf Tum.reset s.tum = true) :
    (([2 * d, 2 * d + 1].foldl (fun (s : State) t => s.modTum t f) s).tumOf (2 * d + k)) = f (s.tumOf (2 * d + k)) := by
  simp only [List.foldl_cons, List.foldl_nil]
  rw [State.tumOf_modTum _ _ _ (State.wf_modTum _ _ h), State.tumOf_modTum _ _ _ h]
  obtain rfl | rfl : k = 0 ∨ k = 1 := by omega
  · simp
  · simp

/-! ### Domains -/

theorem getLsbD_ofNat_two_pow (w d e : Nat) : (BitVec.ofNat w (2 ^ d)).getLsbD e = (decide (e < w) && decide (d = e)) := by
  rw [BitVec.getLsbD_ofNat, Nat.testBit_two_pow]

theorem State.awake_setAwake (s : State) {d : Nat} (e : Nat) (b : Bool) (h : d < 96) :
    (s.setAwake d b).awake e = if e = d then b else s.awake e := by
  have one : (BitVec.ofNat 96 (2 ^ d)).getLsbD e = decide (e = d) := by
    rw [getLsbD_ofNat_two_pow]
    rcases eq_or_ne e d with rfl | ne
    · simp [h]
    · simp [ne, ne.symm]
  have inside : e < 96 ∨ s.awake e = false := (Nat.lt_or_ge e 96).imp_right (BitVec.getLsbD_of_ge _ _)
  change BitVec.getLsbD (if b then s.pwr.domAwake ||| _ else s.pwr.domAwake &&& ~~~_) e = _
  rw [State.awake] at inside ⊢
  generalize BitVec.ofNat 96 (2 ^ d) = m at one ⊢
  cases b
  · rw [if_neg Bool.false_ne_true, BitVec.getLsbD_and, BitVec.getLsbD_not, one]
    rcases inside with small | off
    · rw [decide_eq_true small]
      by_cases he : e = d <;> simp [he]
    · simp [off]
  · rw [if_pos rfl, BitVec.getLsbD_or, one]
    by_cases he : e = d <;> simp [he]

end Sys2Proof.Machine
end

section
/-! PROOF. Switched domains (R562–R564): going idle, the admission of a wake and its end, and the obligation. -/

namespace Sys2Proof.Machine

open Sys2Proof

/-- Two updates of an entry that agree on what stands there. -/
theorem modNth_congr {α : Type} {l : List α} {i : Nat} {f g : α → α} (d : α) (h : f (nth l i d) = g (nth l i d)) : modNth l i f = modNth l i g := by
  refine List.mapIdx_eq_mapIdx_iff.mpr fun j hj => ?_
  split
  · next e =>
    subst e
    simpa [nth, List.getD_eq_getElem?_getD, List.getElem?_eq_getElem hj] using h
  · rfl

/-! ### Going idle (R563) -/

theorem exec_idleHold_early {s : State} {d : Nat} (h : s.now < SMap.get 0 s.pwr.lastUse d + usTicks (s.pwr.n 1)) : exec (.idleHold d) s = .next s :=
  congrArg Host.Outcome.next (if_pos (.inr (.inr (.inr (.inr h)))))

/-- A domain that is awake, not used, not asked to wake, and has been so for `IDLE_HOLD`, goes idle. -/
theorem exec_idleHold_due {s : State} {d : Nat} (small : d < 92) (up : s.awake d = true) (free : s.domUsed d = false)
    (asked : ∀ w ∈ s.pwr.wakes, w.dom ≠ d) (due : SMap.get 0 s.pwr.lastUse d + usTicks (s.pwr.n 1) ≤ s.now) :
    exec (.idleHold d) s = .next (s.domIdle d) :=
  congrArg Host.Outcome.next (if_neg (by simpa [up, free, small] using ⟨asked, due⟩))

/-- Of the domains, going idle changes that domain alone. -/
theorem State.domIdle_pwr (s : State) (d : Nat) : (s.domIdle d).pwr = (s.setAwake d false).pwr := by
  unfold State.domIdle
  dsimp only
  repeat' split
  all_goals rfl

theorem State.awake_domIdle (s : State) {d : Nat} (e : Nat) (h : d < 96) : (s.domIdle d).awake e = if e = d then false else s.awake e := by
  rw [State.awake, s.domIdle_pwr]
  exact s.awake_setAwake e false h

/-- Both tumblers of a pair that goes idle are OFF. -/
theorem State.tumOf_domIdle {s : State} {d k : Nat} (pair : d < 64) (hk : k < 2) (h : SMap.wf Tum.reset s.tum = true) :
    ((s.domIdle d).tumOf (2 * d + k)).st = .off := by
  have run : s.domIdle d = [2 * d, 2 * d + 1].foldl (fun (s : State) t => s.modTum t fun x => { x with st := .off }) (s.setAwake d false) :=
    if_pos pair
  rw [run, State.tumOf_modPair (s := s.setAwake d false) d k _ hk h]

/-! ### Admission (R564) -/

/-- The load of the rail of a domain, by a list of admissions. -/
theorem rail_load_append (l : List (Nat × Nat)) (d t : Nat) :
    (((l ++ [(d, t)]).filter fun x => domRail x.1 == domRail d).map fun x => domLoad x.1).sum
      = ((l.filter fun x => domRail x.1 == domRail d).map fun x => domLoad x.1).sum + domLoad d := by
  simp

/-- A wake that may be admitted waits, and its load fits the ramp of its rail. -/
theorem State.admissible_spec {s : State} {w : WakeReq} (h : s.admissible = some w) :
    w ∈ s.pwr.wakes
      ∧ ((s.inRamp.filter fun x => domRail x.1 == domRail w.dom).map fun x => domLoad x.1).sum + domLoad w.dom ≤ s.pwr.n (3 + domRail w.dom) := by
  have fits := List.find?_some h
  simp only [Bool.and_eq_true, decide_eq_true_eq] at fits
  exact ⟨(List.mem_filter.mp (List.mem_of_find?_eq_some h)).1, fits.2⟩

theorem exec_wakeAdmit {s : State} {w : WakeReq} (h : s.admissible = some w) :
    exec .wakeAdmit s = .next { s with pwr := { s.pwr with
      wakes := updFirst s.pwr.wakes (fun y => y.dom == w.dom) fun y => { y with admitted := some s.now }
      ramp := s.inRamp ++ [(w.dom, s.now)] } } := by
  change execWakeAdmit s = _
  rw [execWakeAdmit, h]
  rfl

/-- The only wake that waits may be admitted once its common is awake and its load fits. -/
theorem State.admissible_only {s : State} {w : WakeReq} (only : (s.pwr.wakes.filter fun x => x.admitted.isNone) = [w])
    (common : ∀ q, domDie w.dom = some q → s.awake (domCommon q) = true)
    (fits : ((s.inRamp.filter fun x => domRail x.1 == domRail w.dom).map fun x => domLoad x.1).sum + domLoad w.dom ≤ s.pwr.n (3 + domRail w.dom)) :
    s.admissible = some w := by
  have up : (match domDie w.dom with | some q => s.awake (domCommon q) | none => true) = true := by
    split
    · next h => exact common _ h
    · rfl
  unfold State.admissible
  dsimp only
  rw [only]
  refine List.find?_cons_of_pos ?_
  simp only [List.find?_cons_of_pos, beq_self_eq_true, Option.any_some, Bool.true_and, Bool.and_eq_true, decide_eq_true_eq]
  exact ⟨up, fits⟩

/-- The request of a domain that is admitted keeps its place with the edge of its admission. -/
theorem mem_wakes_admitted {l : List WakeReq} {w : WakeReq} (t : Nat) (h : w ∈ l) :
    ∃ x ∈ updFirst l (fun y => y.dom == w.dom) (fun y => { y with admitted := some t }), x.dom = w.dom ∧ x.admitted = some t := by
  have found := updFirst_find? l (fun y => y.dom == w.dom) (fun y => { y with admitted := some t }) fun _ => rfl
  obtain ⟨y, hy⟩ := Option.isSome_iff_exists.mp (List.find?_isSome (p := fun y : WakeReq => y.dom == w.dom).mpr ⟨w, h, beq_self_eq_true w.dom⟩)
  rw [hy] at found
  exact ⟨_, List.mem_of_find?_eq_some found, by simpa using List.find?_some hy, rfl⟩

/-! ### The end of a wake (R52, R563, R564) -/

theorem exec_wakeComplete {s : State} {d t0 : Nat} {w : WakeReq} (asked : s.pwr.wakes.find? (fun w => w.dom == d) = some w)
    (admitted : w.admitted = some t0) (due : t0 + domTime d ≤ s.now) :
    exec (.wakeComplete d) s = .next (({ s with pwr := { s.pwr with wakes := s.pwr.wakes.filter fun y => y.dom != d } } : State).domWake d) := by
  change execWakeComplete d s = _
  rw [execWakeComplete, asked]
  dsimp only
  rw [admitted]
  exact congrArg Host.Outcome.next (if_neg (Nat.not_lt.mpr due))

/-- A pair none of whose rows waits for a repair has nothing to repair. -/
theorem State.repairPair_none {s : State} {d : Nat} (h : ∀ e ∈ s.ras.repair, e.1.kind = 2 → e.1.n = d → e.2 = true) : s.repairPair d = s := by
  have none : (s.ras.repair.filter fun e => e.1.kind == 2 && e.1.n == d && !e.2) = [] :=
    List.filter_eq_nil_iff.mpr fun e he => by simpa using h e he
  rw [State.repairPair, none]
  rfl

theorem State.domWake_pair {s : State} {d : Nat} (pair : d < 64) (whole : ∀ e ∈ s.ras.repair, e.1.kind = 2 → e.1.n = d → e.2 = true) :
    s.domWake d = [2 * d, 2 * d + 1].foldl (fun (s : State) t => s.modTum t fun x => if x.st = .off then { x with st := .idle } else x)
      (s.setAwake d true) :=
  (if_pos pair).trans (State.repairPair_none whole)

theorem State.domWake_half {s : State} {d : Nat} (lo : 64 ≤ d) (hi : d < 72) : s.domWake d = s.setAwake d true :=
  (if_neg (Nat.not_lt.mpr lo)).trans (if_pos hi)

/-- A hinge port in L1 becomes active, and the vectors that it holds go on. -/
theorem State.domWake_common {s : State} {d : Nat} (lo : 72 ≤ d) (hi : d < 76) (port : d - 72 < s.hng.length) (asleep : (s.getHng (d - 72)).lstate = 3) :
    let u : State := { s.setAwake d true with hng := modNth s.hng (d - 72) fun h => { h with lstate := 2 } }
    s.domWake d = (u.getHng (d - 72)).turns.foldl (fun (s : State) p => s.releaseHeld p) u := by
  have woken : modNth s.hng (d - 72) (fun h => if h.lstate = 3 then { h with lstate := 2 } else h)
      = modNth s.hng (d - 72) fun h => { h with lstate := 2 } := modNth_congr Hng.reset (if_pos asleep)
  have turns : (nth (modNth s.hng (d - 72) fun h => { h with lstate := 2 }) (d - 72) Hng.reset).turns = (s.getHng (d - 72)).turns := by
    rw [nth_modNth_same _ _ port]
    rfl
  rw [State.domWake]
  dsimp only
  rw [if_neg (by omega), if_neg (by omega), if_pos hi, State.modHng]
  dsimp only [State.setAwake, State.modPwr, State.getHng] at turns ⊢
  rw [woken, turns]

theorem State.domWake_hbm {s : State} {d : Nat} (lo : 76 ≤ d) (hi : d < 84) (asleep : (nth s.hbmStk (d - 76) Hbm.reset).st = 3) :
    s.domWake d = parts.foldl (fun (s : State) p =>
        if (s.ctxOf p).any (fun c => [Phase.load, .table, .check].contains c.phase) then s.resumeIssue p else s)
      { s.setAwake d true with hbmStk := modNth s.hbmStk (d - 76) fun h => { h with st := 2 } } := by
  have woken : modNth s.hbmStk (d - 76) (fun h => if h.st = 3 then { h with st := 2 } else h)
      = modNth s.hbmStk (d - 76) fun h => { h with st := 2 } := modNth_congr Hbm.reset (if_pos asleep)
  rw [State.domWake]
  dsimp only
  rw [if_neg (by omega), if_neg (by omega), if_neg (by omega), if_pos hi, ← woken]
  rfl

theorem State.domWake_fab {s : State} {d : Nat} (lo : 84 ≤ d) (asleep : (s.getPort (d - 84)).lstate = 3) :
    s.domWake d = State.heldGo (State.fabGo
      { s.setAwake d true with fab := { s.fab with ports := modNth s.fab.ports (d - 84) fun x => { x with lstate := 2 } } }) := by
  have woken : modNth s.fab.ports (d - 84) (fun x => if x.lstate = 3 then { x with lstate := 2 } else x)
      = modNth s.fab.ports (d - 84) fun x => { x with lstate := 2 } := modNth_congr _ (if_pos asleep)
  rw [State.domWake]
  dsimp only
  rw [if_neg (by omega), if_neg (by omega), if_neg (by omega), if_neg (by omega), ← woken]
  rfl

/-! ### O52 -/

/-- Settles O52: going idle, the admission of a wake, and the end of a wake by the kind of its domain. -/
theorem domainsIdleAndWake : Obligations.DomainsIdleAndWake := by
  unfold Obligations.DomainsIdleAndWake
  intro s
  refine ⟨?_, ?_, ?_, ?_⟩
  · intro d small up free asked
    refine ⟨exec_idleHold_early, fun due => ⟨s.domIdle d, exec_idleHold_due small up free asked due, ?_, ?_, ?_⟩⟩
    · rw [s.awake_domIdle d (by omega), if_pos rfl]
    · intro e ne
      rw [s.awake_domIdle e (by omega), if_neg ne]
    · exact fun pair wf => ⟨State.tumOf_domIdle (k := 0) pair (by decide) wf, State.tumOf_domIdle (k := 1) pair (by decide) wf⟩
  · intro w admissible
    obtain ⟨waits, fits⟩ := State.admissible_spec admissible
    refine ⟨_, exec_wakeAdmit admissible, rfl, mem_wakes_admitted s.now waits, rfl, ?_⟩
    dsimp only
    rw [rail_load_append]
    exact fits
  · exact fun w only common fits => exec_wakeAdmit (State.admissible_only only common fits)
  · intro d w t0 small asked admitted due v
    have run := exec_wakeComplete asked admitted due
    refine ⟨?_, ?_, ?_, ?_, ?_, ?_⟩
    · exact (State.awake_setAwake _ d true (by omega)).trans (if_pos rfl)
    · intro pair whole
      refine ⟨_, run.trans (congrArg _ (State.domWake_pair pair whole)), rfl, fun wf k hk => ?_⟩
      exact State.tumOf_modPair (s := v) d k _ hk wf
    · exact fun lo hi => run.trans (congrArg _ (State.domWake_half lo hi))
    · exact fun lo hi port asleep => ⟨_, run.trans (congrArg _ (State.domWake_common lo hi port asleep)), rfl⟩
    · exact fun lo hi _ asleep => ⟨_, run.trans (congrArg _ (State.domWake_hbm lo hi asleep)), rfl⟩
    · exact fun lo _ asleep => ⟨_, run.trans (congrArg _ (State.domWake_fab lo asleep)), rfl⟩

end Sys2Proof.Machine
end

section
/-! PROOF. Core faults (R42, R409, R533, R555): what an error's report and a change of the operating point touch, the latches of a core,
and the obligation. -/

namespace Sys2Proof.Machine

open Sys2Proof

/-! ### What shared operations change -/

/-- A notice changes the command link alone. -/
theorem State.notice_eq (s : State) (opc : Nat) (data : List Byte) : ∃ l, s.notice opc data = { s with lnk := l } := ⟨_, rfl⟩

/-- A `FAULT` notice changes the pending mark, the board's interrupts and the command link. -/
theorem State.faultSend_eq (s : State) (h : HeldFault) :
    ∃ b d l, s.faultSend h = { s with ras := { s.ras with faultPend := b }, side := d, lnk := l } := by
  have pend : ∃ b d, (if s.ras.faultPend then s
      else (s.modRas fun r => { r with faultPend := true }).modSide fun d => { d with ibi := d.ibi ++ [1] })
        = { s with ras := { s.ras with faultPend := b }, side := d } := by
    split
    · exact ⟨s.ras.faultPend, s.side, rfl⟩
    · exact ⟨true, { s.side with ibi := s.side.ibi ++ [1] }, rfl⟩
  obtain ⟨b, d, e⟩ := pend
  rw [State.faultSend, e]
  split
  · exact ⟨b, d, s.lnk, rfl⟩
  · obtain ⟨l, e⟩ := State.notice_eq { s with ras := { s.ras with faultPend := b }, side := d } 0x62
      (bytes4 [h.kind + at_ h.index 8 + at_ h.sev 24, h.mask] ++ leBytes 8 h.lseq)
    exact ⟨b, d, l, e⟩

/-- Logging an error changes the log, the command link and the board's interrupts; the log's sequence number rises by 1 (R578, R580). -/
theorem State.rasError_eq (s : State) (kind index sev etype part addr mask : Nat) :
    ∃ r d l, s.rasError kind index sev etype part addr mask = { s with ras := r, side := d, lnk := l } ∧ r.lseqLast = s.ras.lseqLast + 1 := by
  have next : (s.rasLog kind index sev etype part addr).ras.lseqLast = s.ras.lseqLast + 1 := by
    simp [State.rasLog, State.modRas, BitVec.ofNat_add]
  rw [State.rasError]
  split
  · obtain ⟨b, d, l, e⟩ := (s.rasLog kind index sev etype part addr).faultSend_eq
      { kind := kind, index := index, sev := sev, mask := mask, lseq := (s.rasLog kind index sev etype part addr).ras.lseqLast.toNat }
    exact ⟨_, d, l, e, next⟩
  · exact ⟨_, s.side, s.lnk, rfl, next⟩

/-- CCLK switches to a point with a notice at most. -/
theorem State.switchTo_eq (s : State) (j reason : Nat) (tell : Bool) :
    ∃ w l, s.switchTo j reason tell = { s with pwr := w, lnk := l } ∧ w.fallback = s.pwr.fallback := by
  unfold State.switchTo
  dsimp only
  split
  · exact ⟨s.pwr, s.lnk, rfl, rfl⟩
  · split
    · obtain ⟨l, e⟩ := State.notice_eq (s.modPwr fun w => { w with
        opPoint := BitVec.ofNat 3 j, cclkMhz := BitVec.ofNat 16 (pointMhz j), govReason := BitVec.ofNat 4 reason }) 0x63
        (bytes4 [pointMhz j + at_ s.pwr.cclkMhz.toNat 16, reason])
      exact ⟨_, l, e, rfl⟩
    · exact ⟨_, s.lnk, rfl, rfl⟩

/-- A change of the operating point changes power, the command link and the requested voltages. -/
theorem State.goPoint_eq (s : State) (j reason : Nat) (tell : Bool) :
    ∃ w l d, s.goPoint j reason tell = { s with pwr := w, lnk := l, side := d } ∧ w.fallback = s.pwr.fallback := by
  obtain ⟨w, l, e, kept⟩ := s.switchTo_eq j reason tell
  unfold State.goPoint
  dsimp only
  split
  · rw [e]
    exact ⟨_, l, _, rfl, kept⟩
  · split
    · exact ⟨s.pwr, s.lnk, s.side, rfl, rfl⟩
    · exact ⟨_, s.lnk, _, rfl, rfl⟩

/-- A response changes the command link alone. -/
theorem State.respondAt_eq (s : State) (took vc : Nat) (tag : Word) (se : Nat) (st : Status) (h q : Nat) (d : List Byte) :
    s.respondAt took vc tag se st h q d = { s with lnk := (s.respondAt took vc tag se st h q d).lnk } := by
  have link : ∃ l, s.respondAt took vc tag se st h q d = { s with lnk := l } := ⟨_, rfl⟩
  obtain ⟨l, e⟩ := link
  rw [e]

/-- The answer to a long command changes the link and the extents of the Cabinet. -/
theorem State.endLong_eq (s : State) (id : Nat) (st : Status) (data : List Byte) :
    ∃ c l, s.endLong id st data = { s with cab := c, lnk := l } := by
  unfold State.endLong
  split
  · exact ⟨s.cab, s.lnk, rfl⟩
  · dsimp only
    rw [State.respondAt_eq]
    split
    · exact ⟨_, _, rfl⟩
    · exact ⟨s.cab, _, rfl⟩

/-- Failing the open claims changes the pool's next view, the link and the Cabinet's extents (R534). -/
theorem State.failClaims_eq (s : State) : ∃ q c l, s.failClaims = { s with pol := q, cab := c, lnk := l } := by
  unfold State.failClaims
  refine List.foldlRecOn (motive := fun t : State => ∃ q c l, t = { s with pol := q, cab := c, lnk := l }) _ _ ⟨_, _, _, rfl⟩ ?_
  rintro t ⟨q, c, l, rfl⟩ x -
  split
  · obtain ⟨c', l', e⟩ := State.endLong_eq _ x.id .internal []
    exact ⟨_, c', l', e⟩
  · exact ⟨q, c, l, rfl⟩

/-! ### Live cores -/

theorem bitN_toNat {w : Nat} (x : BitVec w) (n : Nat) : bitN x.toNat n = x.getLsbD n := by
  rw [bitN, BitVec.getLsbD, Nat.testBit_eq_decide_div_mod_eq]
  rfl

/-- A core that is taken out of `CORE_LIVE` is not live. -/
theorem coreLive_cleared (x : BitVec 6) {c : Nat} (h : c < 6) : bitN (x &&& ~~~(BitVec.ofNat 6 (2 ^ c))).toNat c = false := by
  have own : (BitVec.ofNat 6 (2 ^ c)).getLsbD c = true := by rw [getLsbD_ofNat_two_pow]; simp only [h, decide_true, Bool.and_true]
  rw [bitN_toNat, BitVec.getLsbD_and, BitVec.getLsbD_not, own]
  simp

/-! ### Latches -/

/-- A table whose entries are written one after another into an empty one, each index once. -/
theorem SMap.get_foldl_set {α : Type} [DecidableEq α] {d : α} (f : α → α) (l m : SMap α) (k : Nat) (once : (l.map (·.1)).Nodup)
    (wf : SMap.wf d m = true) :
    (l.foldl (fun m e => SMap.set d m e.1 (f e.2)) m).get d k = if k ∈ l.map (·.1) then f (l.get d k) else m.get d k := by
  induction l generalizing m with
  | nil => rfl
  | cons e l ih =>
    obtain ⟨i, x⟩ := e
    obtain ⟨new, once⟩ := List.nodup_cons.mp once
    rw [List.foldl_cons, ih _ once (SMap.wf_set i (f x) wf), SMap.get_set i (f x) k wf, SMap.get, List.map_cons]
    dsimp only at new ⊢
    by_cases e : k = i
    · subst e
      rw [if_neg new, if_pos rfl, if_pos rfl, if_pos (List.mem_cons_self ..)]
    · simp only [List.mem_cons, e, false_or, if_false]

/-- An update of all latches that leaves the one the image does not assign. -/
theorem State.latchAt_modLatches {s : State} {f : Latch → Latch} (n : Nat) (once : (s.latch.map (·.1)).Nodup) (fresh : f Latch.fresh = Latch.fresh) :
    (s.modLatches f).latchAt n = f (s.latchAt n) := by
  refine (SMap.get_foldl_set f s.latch [] n once (SMap.wf_nil _)).trans ?_
  split
  · rfl
  · next unlisted =>
    have default : s.latchAt n = Latch.fresh := SMap.get_of_forall_ne _ fun e he h => unlisted (List.mem_map.mpr ⟨e, he, h⟩)
    rw [default, fresh]
    rfl

/-- The latches that a core holds break, and no others (R409). -/
theorem State.latchAt_breakCore {s : State} (c n : Nat) (once : (s.latch.map (·.1)).Nodup) :
    (s.breakCore c).latchAt n = if (s.latchAt n).st = .held ∧ (s.latchAt n).okind = .core ∧ (s.latchAt n).oid = c
      then (s.latchAt n).leave .broken else s.latchAt n := by
  rw [State.breakCore, State.latchAt_modLatches n once rfl]
  simp only [Bool.and_eq_true, beq_iff_eq, and_assoc]

/-! ### O50 -/

/-- A core's fault up to its log record: the core is not live and its latches are broken. -/
def State.coreLost (s : State) (c : Nat) : State :=
  (s.modMgt fun m => { m with coreLive := m.coreLive &&& ~~~(BitVec.ofNat 6 (2 ^ c)) }).breakCore c

/-- Without core 5 the always-on domain holds the operating point (R555, R570). -/
def State.holdPoint (s : State) : State :=
  let s := s.modPwr fun w => { w with fallback := true }
  if s.mgt.applied = false ∨ s.pwr.trip = true then s else s.goPoint (s.pwr.n 24 % 8) 1 (s.coreUp 0)

theorem State.holdPoint_eq (s : State) : ∃ w l d, s.holdPoint = { s with pwr := w, lnk := l, side := d } ∧ w.fallback = true := by
  rw [State.holdPoint]
  split
  · exact ⟨_, s.lnk, s.side, rfl, rfl⟩
  · exact State.goPoint_eq (s.modPwr fun w => { w with fallback := true }) _ 1 _

/-- The fault of a management core that is live. -/
theorem exec_managementCoreFault {s : State} {c : Nat} (small : c < 6) (ours : c ≠ 4) (up : s.coreUp c = true) :
    exec (.managementCoreFault c) s =
      .next (if c ≠ 5 then (s.coreLost c).rasError 7 c 3 9 0 0 0 else ((s.coreLost c).rasError 7 c 3 9 0 0 0).holdPoint) :=
  congrArg Host.Outcome.next (if_neg (by simp [small, ours, up]))

/-- Beyond the core's own loss the log, the board, the link and power change; after core 5 the fall-back holds. -/
theorem exec_managementCoreFault_frame {s : State} {c : Nat} (small : c < 6) (ours : c ≠ 4) (up : s.coreUp c = true) :
    ∃ r d l w, exec (.managementCoreFault c) s = .next { s.coreLost c with ras := r, side := d, lnk := l, pwr := w }
      ∧ (c = 5 → w.fallback = true) := by
  obtain ⟨r, d, l, logged, -⟩ := (s.coreLost c).rasError_eq 7 c 3 9 0 0 0
  rw [exec_managementCoreFault small ours up, logged]
  by_cases five : c = 5
  · obtain ⟨w, l', d', held, fallback⟩ := State.holdPoint_eq { s.coreLost c with ras := r, side := d, lnk := l }
    rw [if_neg (not_not.mpr five), held]
    exact ⟨r, d', l', w, rfl, fun _ => fallback⟩
  · rw [if_pos five]
    exact ⟨r, d, l, _, rfl, fun h => absurd h five⟩

/-- The security core's fault changes, besides its own mark and `CORE_LIVE`, what failing the claims and the log record change. -/
theorem exec_securityCoreFault {s : State} (up : s.sec.coreFault = false) :
    ∃ q c r d l, exec .securityCoreFault s = .next { s with
        sec := { s.sec with coreFault := true }, mgt := { s.mgt with coreLive := s.mgt.coreLive &&& ~~~(BitVec.ofNat 6 (2 ^ 4)) }
        pol := q, cab := c, ras := r, side := d, lnk := l }
      ∧ r.lseqLast = s.ras.lseqLast + 1 := by
  obtain ⟨q, c, l0, failed⟩ := s.failClaims_eq
  obtain ⟨r, d, l, logged, count⟩ := State.rasError_eq
    { s with sec := { s.sec with coreFault := true }, mgt := { s.mgt with coreLive := s.mgt.coreLive &&& ~~~(BitVec.ofNat 6 (2 ^ 4)) }
             pol := q, cab := c, lnk := l0 } 7 4 3 9 0 0 0
  refine ⟨q, c, r, d, l, ?_, count⟩
  change execSecurityCoreFault s = _
  rw [execSecurityCoreFault, if_neg (ne_true_of_eq_false up), failed]
  exact congrArg _ logged

/-- Settles O50: the core's bit in `CORE_LIVE`, its latches, the fall-back, and the security core's fault. -/
theorem coreFaultsStopServices : Obligations.CoreFaultsStopServices := by
  unfold Obligations.CoreFaultsStopServices
  constructor
  · intro s c small ours up once
    obtain ⟨r, d, l, w, run, fallback⟩ := exec_managementCoreFault_frame small ours up
    exact ⟨_, run, coreLive_cleared _ small, fallback, fun n => State.latchAt_breakCore c n once⟩
  · intro s up
    obtain ⟨q, c, r, d, l, run, count⟩ := exec_securityCoreFault up
    exact ⟨_, run, rfl, coreLive_cleared _ (by decide), count⟩

end Sys2Proof.Machine
end

section
/-! PROOF. What a teardown passes through keeps every partition's issued step in place: one lemma for each function, in the order of the
model's files. A function that does not reach the pages keeps them (`_prt`); one that does keeps the submission of each issued step (`_subs`). -/

namespace Sys2Proof.Machine

open Sys2Proof

/-- The submission of the issued step of each partition. -/
def subsOf (l : List Prt) : List (Option Sub) := l.map fun q => q.ctx.map (·.sub)

/-! ### Shapes of definitions -/

@[simp] theorem State.ite_prt {c : Prop} [Decidable c] (a b : State) : (if c then a else b).prt = if c then a.prt else b.prt :=
  apply_ite State.prt c a b

@[simp] theorem subsOf_ite {c : Prop} [Decidable c] (a b : List Prt) : subsOf (if c then a else b) = if c then subsOf a else subsOf b :=
  apply_ite subsOf c a b

@[simp] theorem subsOf_modNth (l : List Prt) (p : Nat) (f : Prt → Prt) (h : ∀ q, (f q).ctx.map (·.sub) = q.ctx.map (·.sub)) :
    subsOf (modNth l p f) = subsOf l := by
  refine List.ext_getElem (by simp [subsOf]) fun i _ hi => ?_
  simp only [subsOf, modNth, List.getElem_map, List.getElem_mapIdx]
  split
  · exact h _
  · rfl

@[simp] theorem State.foldl_prt {α : Type} (l : List α) (f : State → α → State) (s : State) (h : ∀ s a, (f s a).prt = s.prt) :
    (l.foldl f s).prt = s.prt := by
  induction l generalizing s with
  | nil => rfl
  | cons a l ih => rw [List.foldl_cons, ih, h]

@[simp] theorem State.foldl_subs {α : Type} (l : List α) (f : State → α → State) (s : State) (h : ∀ s a, subsOf (f s a).prt = subsOf s.prt) :
    subsOf (l.foldl f s).prt = subsOf s.prt := by
  induction l generalizing s with
  | nil => rfl
  | cons a l ih => rw [List.foldl_cons, ih, h]

/-- The state beside which a fold collects its results. -/
@[simp] theorem State.foldl_fst_subs {α β : Type} (l : List α) (f : State × β → α → State × β) (x : State × β)
    (h : ∀ x a, subsOf (f x a).1.prt = subsOf x.1.prt) : subsOf (l.foldl f x).1.prt = subsOf x.1.prt := by
  induction l generalizing x with
  | nil => rfl
  | cons a l ih => rw [List.foldl_cons, ih, h]

/-- A step whose submission stays is still issued. -/
theorem State.ctxOf_of_subs {s t : State} {p : Nat} {c : Ctx} (h : subsOf t.prt = subsOf s.prt) (hc : s.ctxOf p = some c) :
    ∃ d, t.ctxOf p = some d ∧ d.sub = c.sub := by
  have read (u : State) : (u.ctxOf p).map (·.sub) = nth (subsOf u.prt) p none := by
    rw [State.ctxOf, State.getP, nth, nth, subsOf, List.getD_eq_getElem?_getD, List.getD_eq_getElem?_getD, List.getElem?_map]
    cases u.prt[p]? <;> rfl
  have same : (t.ctxOf p).map (·.sub) = some c.sub := by rw [read, h, ← read, hc]; rfl
  exact Option.map_eq_some_iff.mp same

/-! ### Machine/Ops -/

@[simp] theorem State.requestWakes_prt (s : State) (doms : List Nat) : (s.requestWakes doms).prt = s.prt := rfl

@[simp] theorem State.wakeHbm_prt (s : State) (ks : List Nat) : (s.wakeHbm ks).prt = s.prt := rfl

@[simp] theorem State.land_prt (s : State) (space addr : Nat) (bytes : List Byte) : (s.land space addr bytes).prt = s.prt := by
  simp [State.land]

@[simp] theorem State.fabCount_prt (s : State) (port : Option Nat) (sent : Bool) (n : Nat) : (s.fabCount port sent n).prt = s.prt := by
  unfold State.fabCount
  split <;> rfl

@[simp] theorem State.putXfer_prt (s : State) (x : Xfer) : (s.putXfer x).prt = s.prt := by simp [State.putXfer]

@[simp] theorem State.sendXfer_prt (s : State) (space addr len : Nat) (write : Option (List Byte)) (use : XferFor) :
    (s.sendXfer space addr len write use).prt = s.prt := by
  unfold State.sendXfer
  dsimp only
  split <;> simp

@[simp] theorem State.putFrame_prt (s : State) (port : Option Nat) (peer n : Nat) (m : RppMsg) : (s.putFrame port peer n m).prt = s.prt := by
  unfold State.putFrame
  split <;> simp

/-! ### Machine/Latches -/

@[simp] theorem State.modLatches_prt (s : State) (f : Latch → Latch) : (s.modLatches f).prt = s.prt := rfl

@[simp] theorem State.breakStep_prt (s : State) (p : Nat) (sav : Bool) : (s.breakStep p sav).prt = s.prt := rfl

@[simp] theorem State.gateRelease_prt (s : State) (p : Nat) : (s.gateRelease p).prt = s.prt := rfl

/-! ### Machine/Cabinet and Machine/Descs -/

@[simp] theorem State.modEntry_prt (s : State) (aid : Nat) (f : Entry → Entry) : (s.modEntry aid f).prt = s.prt := rfl

@[simp] theorem State.setSlot_prt (s : State) (i : Nat) (v : DescSlot) : (s.setSlot i v).prt = s.prt := rfl

@[simp] theorem State.dropRef_prt (s : State) (i : Nat) : (s.dropRef i).prt = s.prt := by
  unfold State.dropRef
  dsimp only
  split
  · exact State.foldl_prt _ _ _ fun _ _ => rfl
  · rfl

@[simp] theorem State.sweepAllocs_prt (s : State) : s.sweepAllocs.prt = s.prt := by simp [State.sweepAllocs]

/-! ### Machine/PoolBase -/

@[simp] theorem State.touchGroup_prt (s : State) (peer ty : Nat) : (s.touchGroup peer ty).prt = s.prt := by
  unfold State.touchGroup
  split <;> rfl

@[simp] theorem State.sendFrame_prt (s : State) (peer : Nat) (m : RppMsg) : (s.sendFrame peer m).prt = s.prt := by
  unfold State.sendFrame
  split <;> simp

@[simp] theorem State.sendFrames_prt (s : State) (peer : Nat) (l : List RppMsg) : (s.sendFrames peer l).prt = s.prt := by
  simp [State.sendFrames]

@[simp] theorem State.openSess_prt (s : State) (peer : Nat) : (s.openSess peer).prt = s.prt := by
  unfold State.openSess
  dsimp only
  split <;> simp

@[simp] theorem State.launch_prt (s : State) (id : Nat) : (s.launch id).prt = s.prt := by
  unfold State.launch
  repeat' split
  all_goals simp

@[simp] theorem State.queueRpp_prt (s : State) (peer : Nat) (kind : ReqKind) (msg : RppMsg) : (s.queueRpp peer kind msg).prt = s.prt := by
  simp [State.queueRpp]

@[simp] theorem State.sendRpp_prt (s : State) (peer ty tag : Nat) (st : Status) (aid ep : Nat) (pl : RppPl) :
    (s.sendRpp peer ty tag st aid ep pl).prt = s.prt := by
  simp [State.sendRpp, State.pushRpp]

@[simp] theorem State.finishReq_prt (s : State) (peer tag ty : Nat) (st : Status) (aid ep : Nat) (pl : RppPl) :
    (s.finishReq peer tag ty st aid ep pl).prt = s.prt := by
  unfold State.finishReq
  split <;> simp

/-! ### Machine/Versions -/

@[simp] theorem State.sendRetired_prt (s : State) (l : List (Nat × Nat)) : (s.sendRetired l).prt = s.prt := by simp [State.sendRetired]

@[simp] theorem State.freeEntry_prt (s : State) (e : Entry) : (s.freeEntry e).prt = s.prt := rfl

@[simp] theorem State.reclaim_prt (s : State) : s.reclaim.prt = s.prt := by
  rw [State.reclaim, State.foldl_prt, State.sendRetired_prt, State.foldl_prt]
  · exact fun _ _ => rfl
  · intro t e
    split <;> rfl

@[simp] theorem State.dropCached_prt (s : State) (aid ep : Nat) : (s.dropCached aid ep).prt = s.prt := rfl

@[simp] theorem State.evict_prt (s : State) (aid ep : Nat) : (s.evict aid ep).prt = s.prt := by
  unfold State.evict
  dsimp only
  split <;> simp

@[simp] theorem State.evictInval_prt (s : State) : s.evictInval.prt = s.prt := by simp [State.evictInval]

@[simp] theorem State.freeRef_prt (s : State) (aid ep : Nat) : (s.freeRef aid ep).prt = s.prt := rfl

/-! ### Machine/Jobs -/

@[simp] theorem State.modTum_prt (s : State) (t : Nat) (f : Tum → Tum) : (s.modTum t f).prt = s.prt := rfl

@[simp] theorem State.setTums_prt (s : State) (p : Nat) (st : TumState) : (s.setTums p st).prt = s.prt :=
  State.foldl_prt _ _ _ fun _ _ => rfl

@[simp] theorem State.dropRefs_prt (s : State) (l : List Nat) : (s.dropRefs l).prt = s.prt := by simp [State.dropRefs]

@[simp] theorem State.popSub_subs (s : State) (p : Nat) (c : Ctx) : subsOf (s.popSub p c).prt = subsOf s.prt := by
  simp [State.popSub, State.modJob]

/-! ### Machine/Tensor and Machine/Load -/

@[simp] theorem State.stepWrite_prt (s : State) (space addr : Nat) (bytes : List Byte) (tag : WriteTag) (drw key ew page : Nat) :
    (s.stepWrite space addr bytes tag drw key ew page).prt = s.prt := by
  simp [State.stepWrite]

@[simp] theorem State.addRec_subs (s : State) (p i rd wr : Nat) : subsOf (s.addRec p i rd wr).prt = subsOf s.prt := by
  simp [State.addRec, Function.comp_def]

/-! ### Machine/Deliver -/

@[simp] theorem State.pushResp_prt (s : State) (port : Nat) (r : Resp) : (s.pushResp port r).prt = s.prt := rfl

@[simp] theorem State.unStat_prt (s : State) (c : Ctx) : (s.unStat c).prt = s.prt := rfl

@[simp] theorem State.sendResp_subs (s : State) (p slot off proj : Nat) (zero placed : Bool) (ofmt : Nat) (data : List Nat) :
    subsOf (s.sendResp p slot off proj zero placed ofmt data).prt = subsOf s.prt := by
  unfold State.sendResp
  split <;> simp [Ctx.answered, Function.comp_def]

@[simp] theorem State.answerZero_subs (s : State) (p slot off proj : Nat) : subsOf (s.answerZero p slot off proj).prt = subsOf s.prt := by
  unfold State.answerZero
  split <;> simp

@[simp] theorem State.settleRow_subs (s : State) (p slot : Nat) (st : Status) : subsOf (s.settleRow p slot st).prt = subsOf s.prt := by
  unfold State.settleRow
  split <;> simp [Function.comp_def]

@[simp] theorem Ctx.putAcc_sub (c : Ctx) (a : OutAcc) : (c.putAcc a).sub = c.sub := by
  unfold Ctx.putAcc
  split <;> rfl

@[simp] theorem State.settleOut_subs (s : State) (p mi slot off : Nat) : subsOf (s.settleOut p mi slot off).prt = subsOf s.prt := by
  unfold State.settleOut
  split <;> simp [Function.comp_def]

@[simp] theorem State.emit_subs (s : State) (p mi drw key space a : Nat) (bs : List Byte) (ew page : Nat) :
    subsOf (s.emit p mi drw key space a bs ew page).1.prt = subsOf s.prt := by
  unfold State.emit
  split <;> simp [Function.comp_def]

@[simp] theorem State.putRow_subs (s : State) (p mi drw key : Nat) (v : View) (d : Desc) (cs : List Nat) (lo : Nat) (els : List (List Byte)) :
    subsOf (s.putRow p mi drw key v d cs lo els).1.prt = subsOf s.prt := by
  unfold State.putRow
  dsimp only
  repeat' split
  all_goals simp

@[simp] theorem State.placeVec_subs (s : State) (p pi drw slot off lo : Nat) (els : List (List Byte)) :
    subsOf (s.placeVec p pi drw slot off lo els).1.prt = subsOf s.prt := by
  unfold State.placeVec
  split
  · rfl
  · extract_lets m v t key
    split
    · rfl
    · split
      · simp
      · split
        · rfl
        · split
          · simp
          · extract_lets b u g s1 e s2 pg keep
            have e1 : subsOf s1.prt = subsOf s.prt := by simp [s1]
            have e2 : subsOf s2.prt = subsOf s.prt := by
              unfold s2
              split <;> simp [e1, Function.comp_def]
            repeat' split
            all_goals simp [e1, e2, Function.comp_def]
      · split
        · rfl
        · extract_lets zeros
          split
          · split
            · refine State.foldl_fst_subs _ _ _ fun y a => ?_
              dsimp only
              repeat' split
              all_goals simp
            · next k s1 _ _ =>
              have e1 : subsOf s1.prt = subsOf s.prt := by simp [s1]
              split <;> simp [e1]
          · refine State.foldl_fst_subs _ _ _ fun y a => ?_
            dsimp only
            repeat' split
            all_goals simp

/-! ### Machine/Run -/

@[simp] theorem State.putLanes_subs (s : State) (p i k slot off lo : Nat) (vals : List Nat) (zero : Bool) :
    subsOf (s.putLanes p i k slot off lo vals zero).prt = subsOf s.prt := by
  unfold State.putLanes
  dsimp only
  repeat' split
  all_goals simp [Function.comp_def]

@[simp] theorem State.addCycles_subs (s : State) (p t : Nat) : subsOf (s.addCycles p t).prt = subsOf s.prt := by
  simp [State.addCycles, Function.comp_def]

/-! ### Machine/Issue and Machine/Serial -/

@[simp] theorem State.dropPins_prt (s : State) (c : Ctx) : (s.dropPins c).prt = s.prt := by
  rw [State.dropPins, State.reclaim_prt, State.evictInval_prt, State.foldl_prt]
  exact fun _ _ => rfl

@[simp] theorem State.dropGradNew_prt (s : State) (p : Nat) (l : List (Nat × Nat)) : (s.dropGradNew p l).prt = s.prt := by
  simp [State.dropGradNew]

@[simp] theorem State.dropGrad_prt (s : State) (p aid base : Nat) : (s.dropGrad p aid base).prt = s.prt := rfl

/-! ### Machine/Report -/

@[simp] theorem State.tearWrite_prt (s : State) (w : PWrite) : (s.tearWrite w).prt = s.prt := by simp [State.tearWrite]

@[simp] theorem State.tearUnit_subs (s : State) (p : Nat) (c : Ctx) (u : WUnit) : subsOf (s.tearUnit p c u).prt = subsOf s.prt := by
  simp [State.tearUnit]

@[simp] theorem State.serveFail_prt (s : State) (d : Drawer) (st : Status) : (s.serveFail d st).prt = s.prt := by simp [State.serveFail]

/-- An update of a step, wherever it stands, that keeps its submission. -/
theorem State.modStep_subs (s : State) (p sseq : Nat) (f : Ctx → Ctx) (h : ∀ c, (f c).sub = c.sub) :
    subsOf (s.modStep p sseq f).prt = subsOf s.prt := by
  simp [State.modStep, Function.comp_def, apply_ite Ctx.sub, h]

@[simp] theorem State.dropCands_subs (s : State) (p sseq : Nat) : subsOf (s.dropCands p sseq).prt = subsOf s.prt :=
  State.foldl_subs _ _ _ fun _ _ => State.modStep_subs _ _ _ _ fun _ => rfl

@[simp] theorem State.tearGrads_subs (s : State) (p sseq : Nat) : subsOf (s.tearGrads p sseq).prt = subsOf s.prt :=
  State.foldl_subs _ _ _ fun _ _ => State.modStep_subs _ _ _ _ fun _ => rfl

@[simp] theorem Ctx.tornCtx_sub (c : Ctx) (cause : Nat) : (c.tornCtx cause).sub = c.sub := rfl

/-- A teardown ends with what `Ctx.tornCtx` leaves of the step, which is still the same submission, before held vectors go on (R399). -/
theorem State.teardown_eq {s : State} {p cause : Nat} {c : Ctx} (hc : s.ctxOf p = some c) (live : c.phase ≠ .ending) (saved : c.phase ≠ .saving) :
    ∃ (u : State) (d : Ctx), s.teardown p cause = u.releaseHeld p ∧ u.ctxOf p = some (d.tornCtx cause) ∧ d.sub = c.sub := by
  unfold State.teardown
  split
  · next none => rw [hc] at none; cases none
  · next c' found =>
    obtain rfl : c = c' := Option.some.inj (hc.symm.trans found)
    rw [if_neg live]
    extract_lets slots restored cause' s1 s2 s3 s4 s5 s6 s7 s8 s9 s10 s11 s12
    have same : cause' = cause := if_neg fun h => saved h.1
    have e2 : subsOf s2.prt = subsOf s.prt := by simp [s2, s1]
    have e4 : subsOf s4.prt = subsOf s.prt := by simp [s4, s3, e2]
    have e6 : subsOf s6.prt = subsOf s.prt := by simp [s6, s5, e4]
    have e8 : subsOf s8.prt = subsOf s.prt := by simp [s8, s7, e6]
    have e10 : subsOf s10.prt = subsOf s.prt := by simp [s10, s9, e8]
    have e11 : subsOf s11.prt = subsOf s.prt := by
      unfold s11
      split <;> simp [e10]
    have e12 : subsOf s12.prt = subsOf s.prt := by simp [s12, e11]
    obtain ⟨d, hd, sub⟩ := State.ctxOf_of_subs e12 hc
    exact ⟨_, d, rfl, same ▸ State.ctxOf_modCtx _ hd, sub⟩

end Sys2Proof.Machine
end

section
/-! PROOF. From the reservation of a step to its run (R34, R213, R387–R389, R397, R483), and the obligation. -/

namespace Sys2Proof.Machine

open Sys2Proof

/-! ### Wakes that are asked for (R564) -/

theorem mem_insSort {α : Type} (lt : α → α → Bool) (l : List α) (x : α) : x ∈ insSort lt l ↔ x ∈ l := by
  have put (y : α) (l : List α) : x ∈ insSort.ins lt y l ↔ x = y ∨ x ∈ l := by
    induction l with
    | nil => simp [insSort.ins]
    | cons z l ih =>
      unfold insSort.ins
      split
      · simp only [List.mem_cons, ih]
        exact or_left_comm
      · simp
  induction l with
  | nil => rfl
  | cons y l ih => exact (put y _).trans ((or_congr_right ih).trans List.mem_cons.symm)

/-- A domain that is not fenced is awake or asked to wake. -/
theorem State.requestWakes_asked {s : State} {doms : List Nat} {d : Nat} (h : d ∈ doms) (live : s.fencedDom d = false) :
    s.awake d = true ∨ ∃ w ∈ (s.requestWakes doms).pwr.wakes, w.dom = d := by
  refine or_iff_not_imp_left.mpr fun asleep => ?_
  by_cases old : ∃ w ∈ s.pwr.wakes, w.dom = d
  · obtain ⟨w, hw, e⟩ := old
    exact ⟨w, List.mem_append_left _ hw, e⟩
  · refine ⟨{ dom := d, at_ := s.now, admitted := none }, List.mem_append_right _ (List.mem_map.mpr ⟨d, ?_, rfl⟩), rfl⟩
    rw [mem_insSort, List.mem_filter, List.mem_eraseDups]
    exact ⟨List.mem_append_left _ h, by simpa [asleep, live] using old⟩

/-- Fenced domains are left out of those that a step uses (R563). -/
theorem State.stepDoms_live {s : State} {p d : Nat} {c : Ctx} (h : d ∈ s.stepDoms p c) : s.fencedDom d = false := by
  simpa using (List.mem_filter.mp h).2

/-- The domains that a step uses follow from the partition's tumblers, whatever else of its page changes. -/
theorem State.stepDoms_modP {s : State} {p : Nat} {c : Ctx} {f : Prt → Prt} (h : ∀ q, (f q).tumOwn = q.tumOwn) :
    (s.modP p f).stepDoms p c = s.stepDoms p c := by
  have own : ((s.modP p f).getP p).tumOwn = (s.getP p).tumOwn := by
    rw [State.getP_modP]
    split
    · exact h _
    · rfl
  unfold State.stepDoms
  rw [own]
  rfl

/-! ### The reservation (R34, R387–R389, R397) -/

/-- A step that has its reservation waits for its domains. -/
def State.reserved (s : State) (p : Nat) (c : Ctx) : State :=
  { (s.requestWakes (s.stepDoms p c)).modCtx p (fun c => { c with phase := .wake }) with arb := some (s.now, p) }

theorem State.waits_of_ctxOf {s : State} {p : Nat} {c : Ctx} (hc : s.ctxOf p = some c) (h : c.phase = .reserve ∨ c.phase = .restore) :
    (s.getP p).waits = true := by
  rw [State.ctxOf] at hc
  rw [Prt.waits, hc]
  simpa using h

theorem State.reserved_asked {s : State} {p : Nat} {c : Ctx} {d : Nat} (h : d ∈ s.stepDoms p c) :
    s.awake d = true ∨ ∃ w ∈ (s.reserved p c).pwr.wakes, w.dom = d :=
  State.requestWakes_asked h (State.stepDoms_live h)

theorem State.ctxOf_reserved {s : State} {p : Nat} {c : Ctx} (hc : s.ctxOf p = some c) :
    (s.reserved p c).ctxOf p = some { c with phase := .wake } :=
  State.ctxOf_modCtx (s := s.requestWakes (s.stepDoms p c)) _ hc

/-- Waiting for its domains changes the step's phase alone of its page. -/
theorem State.getP_reserved {s : State} {p : Nat} {c : Ctx} (hp : p < s.prt.length) :
    (s.reserved p c).getP p = { s.getP p with ctx := (s.getP p).ctx.map fun c => { c with phase := .wake } } :=
  State.getP_modP_same (s := s.requestWakes (s.stepDoms p c)) _ hp

/-- Nothing holds the arbiter back from a partition (R388). -/
def State.Passable (s : State) (p : Nat) : Prop := s.issueHeld = false ∧ s.arbBlocked p = false ∧ s.arbPassed p = false

/-- A waiting step that nothing holds back. -/
theorem exec_reservation_passable {s : State} {p : Nat} {c : Ctx} (hc : s.ctxOf p = some c) (h : c.phase = .reserve ∨ c.phase = .restore)
    (free : s.Passable p) :
    exec (.reservation p) s = .next (
      let new := c.phase == .reserve || c.resume == .reserve
      if c.phase = .restore ∧ ((s.getP p).tumOwn ≠ c.saveMask ∨ (tumsOf (s.getP p).tumOwn).any (fun t => (s.tumOf t).st == .fenced) = true) then
        s.teardown p 4
      else if new = true ∧ (s.getP p).levelsOk = false then s
      else
        let t := State.reserved (if new then s.chargeLevels p c else s) p c
        if c.phase = .restore then t.setTums p .restore else t) := by
  obtain ⟨held, blocked, passed⟩ := free
  change execReservation p s = _
  rw [execReservation, hc]
  dsimp only
  rw [if_neg (by simp [State.waits_of_ctxOf hc h, held, blocked, passed])]
  rfl

/-- A step that was not issued before is charged and obtains its reservation. -/
theorem exec_reservation_new {s : State} {p : Nat} {c : Ctx} (hc : s.ctxOf p = some c) (phase : c.phase = .reserve) (free : s.Passable p)
    (levels : (s.getP p).levelsOk = true) : exec (.reservation p) s = .next ((s.chargeLevels p c).reserved p c) := by
  rw [exec_reservation_passable hc (.inl phase) free]
  simp [phase, levels]

/-- The regulators keep a step waiting whose bucket is in debt (R389). -/
theorem exec_reservation_short {s : State} {p : Nat} {c : Ctx} (hc : s.ctxOf p = some c) (phase : c.phase = .reserve)
    (levels : (s.getP p).levelsOk = false) : exec (.reservation p) s = .next s := by
  change execReservation p s = _
  simp only [execReservation, hc, phase, levels]
  split
  · rfl
  · simp

/-- A restored step whose tumblers are no longer those of its save is torn down (R397). -/
theorem exec_reservation_reshaped {s : State} {p : Nat} {c : Ctx} (hc : s.ctxOf p = some c) (phase : c.phase = .restore) (free : s.Passable p)
    (moved : (s.getP p).tumOwn ≠ c.saveMask) : exec (.reservation p) s = .next (s.teardown p 4) := by
  rw [exec_reservation_passable hc (.inr phase) free]
  exact congrArg _ (if_pos ⟨phase, .inl moved⟩)

/-- Another restored step obtains its reservation without a charge, and its tumblers are restored (R389, R397). -/
theorem exec_reservation_restored {s : State} {p : Nat} {c : Ctx} (hc : s.ctxOf p = some c) (phase : c.phase = .restore) (free : s.Passable p)
    (same : (s.getP p).tumOwn = c.saveMask) (whole : ∀ t ∈ tumsOf (s.getP p).tumOwn, (s.tumOf t).st ≠ .fenced) (old : c.resume ≠ .reserve) :
    exec (.reservation p) s = .next ((s.reserved p c).setTums p .restore) := by
  have sound : (tumsOf (s.getP p).tumOwn).any (fun t => (s.tumOf t).st == .fenced) = false :=
    List.any_eq_false.mpr fun t ht => by simpa using whole t ht
  rw [exec_reservation_passable hc (.inr phase) free]
  rw [same] at sound
  simp [phase, same, sound, old]

/-- The domains of a step that is being charged. -/
theorem State.stepDoms_chargeLevels (s : State) (p : Nat) (c : Ctx) : (s.chargeLevels p c).stepDoms p c = s.stepDoms p c :=
  State.stepDoms_modP fun _ => rfl

/-- The page of a partition whose step is charged and obtains its reservation (R389). -/
theorem State.getP_chargeLevels {s : State} {p : Nat} {c : Ctx} (hp : p < s.prt.length) :
    (s.chargeLevels p c).getP p = { s.getP p with
      tbHbmLvl := if (s.getP p).rate 0 = 0 then (s.getP p).tbHbmLvl else (s.getP p).tbHbmLvl - (s.hbmCharge p c : Int)
      tbHngLvl := if (s.getP p).rate 1 = 0 then (s.getP p).tbHngLvl else (s.getP p).tbHngLvl - (s.hngCharge c : Int)
      tbFabLvl := if (s.getP p).rate 2 = 0 then (s.getP p).tbFabLvl else (s.getP p).tbFabLvl - (s.fabCharge p c : Int) } :=
  State.getP_modP_same _ hp

/-- What a charged step finds: its domains awake or asked, and the buckets charged. -/
theorem State.charged_reserved {s : State} {p : Nat} {c : Ctx} (hc : s.ctxOf p = some c) :
    ((s.chargeLevels p c).reserved p c).ctxOf p = some { c with phase := .wake }
      ∧ (∀ d ∈ s.stepDoms p c, s.awake d = true ∨ ∃ w ∈ ((s.chargeLevels p c).reserved p c).pwr.wakes, w.dom = d)
      ∧ ((s.chargeLevels p c).reserved p c).getP p
        = { (s.chargeLevels p c).getP p with ctx := ((s.chargeLevels p c).getP p).ctx.map fun c => { c with phase := .wake } } := by
  have hp := State.lt_of_ctxOf hc
  refine ⟨State.ctxOf_reserved ?_, fun d hd => ?_, State.getP_reserved ?_⟩
  · rw [State.chargeLevels, State.ctxOf_modP]
    · exact hc
    · exact fun _ => rfl
  · exact State.reserved_asked (s := s.chargeLevels p c) (s.stepDoms_chargeLevels p c ▸ hd)
  · simpa [State.chargeLevels] using hp

/-- A tumbler that is not fenced takes a state (R643). -/
def Tum.enter (st : TumState) (x : Tum) : Tum := if x.st = .fenced then x else { x with st := st }

theorem State.setTums_eq (s : State) (p : Nat) (st : TumState) :
    s.setTums p st = (tumsOf (s.getP p).tumOwn).foldl (fun (s : State) t => s.modTum t (Tum.enter st)) s := rfl

theorem State.setTums_pwr (s : State) (p : Nat) (st : TumState) : (s.setTums p st).pwr = s.pwr := by
  rw [State.setTums_eq]
  exact List.foldlRecOn (motive := fun t : State => t.pwr = s.pwr) _ _ rfl fun _ h _ _ => h

theorem State.tumOf_foldl_enter {st : TumState} (sound : st ≠ .fenced) (listed : st ≠ Tum.reset.st) (l : List Nat) (s : State) {n : Nat}
    (whole : ∀ t ∈ l, (s.tumOf t).st ≠ .fenced) (h : n ∈ l ∨ (s.tumOf n).st = st) :
    ((l.foldl (fun (s : State) t => s.modTum t (Tum.enter st)) s).tumOf n).st = st := by
  induction l generalizing s with
  | nil => exact h.resolve_left List.not_mem_nil
  | cons a l ih =>
    obtain ⟨first, rest⟩ := List.forall_mem_cons.mp whole
    have entered : Tum.enter st (s.tumOf a) = { s.tumOf a with st := st } := if_neg first
    have same : (s.modTum a (Tum.enter st)).tumOf a = { s.tumOf a with st := st } :=
      (SMap.get_set_same s.tum a fun e => listed (congrArg Tum.st (entered.symm.trans e))).trans entered
    have other {k : Nat} (ne : k ≠ a) : (s.modTum a (Tum.enter st)).tumOf k = s.tumOf k := SMap.get_set_ne _ _ _ ne
    refine ih _ (fun t ht => ?_) ?_
    · by_cases e : t = a
      · rw [e, same]
        exact sound
      · rw [other e]
        exact rest t ht
    · by_cases e : n = a
      · rw [e, same]
        exact .inr rfl
      · rw [other e]
        exact h.imp_left fun hn => (List.mem_cons.mp hn).resolve_left e

/-- Every tumbler of a partition takes a state, where none is fenced (R643). -/
theorem State.tumOf_setTums {s : State} {p n : Nat} {st : TumState} (sound : st ≠ .fenced) (listed : st ≠ Tum.reset.st)
    (h : n ∈ tumsOf (s.getP p).tumOwn) (whole : ∀ t ∈ tumsOf (s.getP p).tumOwn, (s.tumOf t).st ≠ .fenced) :
    ((s.setTums p st).tumOf n).st = st :=
  State.tumOf_foldl_enter sound listed _ s whole (.inl h)

/-! ### The start of the run (R210, R296, R397, R483) -/

/-- Passing over instructions moves the program position forwards and marks them as reached. -/
theorem Ctx.advance_eq (n : Nat) (c : Ctx) : ∃ r k, Ctx.advance n c = { c with recs := r, pc := k } ∧ c.pc ≤ k := by
  induction n generalizing c with
  | zero => exact ⟨c.recs, c.pc, rfl, le_rfl⟩
  | succ n ih =>
    unfold Ctx.advance
    split
    · obtain ⟨r, k, e, le⟩ := ih { c with recs := modNth c.recs c.pc fun r => { r with reached := true }, pc := c.pc + 1 }
      exact ⟨r, k, e, Nat.le_of_succ_le le⟩
    · exact ⟨c.recs, c.pc, rfl, le_rfl⟩

/-- Phase 8 of a step that is no serve step begins: its units wait and its program goes on after `SORT`. -/
theorem State.startRun_eq {s : State} {p : Nat} {c : Ctx} (hc : s.ctxOf p = some c) (role : c.role ≠ .serve) :
    ∃ (u : State) (c' : Ctx), s.startRun p = u.pump p ∧ { u with prt := s.prt } = s ∧ u.ctxOf p = some c'
      ∧ c'.phase = .run ∧ c'.units = s.listUnits p c ∧ c'.streams = s.listStreams c (s.listUnits p c)
      ∧ (c.prog.findIdx? fun m => m.op == 2).getD 0 < c'.pc := by
  rw [State.startRun, hc]
  refine ⟨s.modCtx p _, _, rfl, rfl, State.ctxOf_modCtx _ hc, ?_⟩
  dsimp only
  rw [if_neg role]
  obtain ⟨r, k, e, le⟩ := Ctx.advance_eq c.prog.length { c with
    units := s.listUnits p c, nextUnit := (s.listUnits p c).length + 1, streams := s.listStreams c (s.listUnits p c), phase := .run, phaseAt := s.now
    pc := (c.prog.findIdx? fun m => m.op == 2).getD 0 + 1 }
  rw [e]
  exact ⟨rfl, rfl, rfl, le⟩

/-- A step whose domains are all awake goes on: a restored one where it was, another at the start of its run. -/
theorem exec_runStart_awake {s : State} {p : Nat} {c : Ctx} (hc : s.ctxOf p = some c) (phase : c.phase = .wake)
    (up : ∀ d ∈ s.stepDoms p c, s.awake d = true) :
    exec (.runStart p) s = .next (if (s.getP p).saved ∧ (s.getP p).svCtx.isNone then s.restored p c else s.startRun p) := by
  have none : (s.stepDoms p c).any (fun d => !s.awake d) = false := List.any_eq_false.mpr fun d hd => by simp [up d hd]
  change execRunStart p s = _
  rw [execRunStart, hc]
  dsimp only
  rw [if_neg (by simp [phase, none])]

/-- Of a page, what the accounts of its tumblers leave: whether the step was saved, and its units. -/
def Prt.savedUnits (q : Prt) : Bool × Option (List WUnit) := (q.saved, q.ctx.map (·.units))

theorem State.savedUnits_modP (s : State) (p q : Nat) {f : Prt → Prt} (h : ∀ x, (f x).savedUnits = x.savedUnits) :
    ((s.modP p f).getP q).savedUnits = (s.getP q).savedUnits := by
  rw [State.getP_modP]
  split
  · exact h _
  · rfl

/-- Tumbler cycles are counted beside them. -/
theorem State.savedUnits_addCycles (s : State) (p t q : Nat) : ((s.addCycles p t).getP q).savedUnits = (s.getP q).savedUnits := by
  have counted := State.savedUnits_modP s.fresh.2 p q (f := fun q =>
    { q with engCycles := wrapAdd q.engCycles s.fresh.1, winCycles := satAdd q.winCycles s.fresh.1 }) fun _ => rfl
  refine Eq.trans (State.savedUnits_modP _ p q fun x => ?_) counted
  simp [Prt.savedUnits, Function.comp_def]

theorem State.savedUnits_foldl_addCycles (p q : Nat) (l : List Nat) (s : State) :
    ((l.foldl (fun s t => s.addCycles p t) s).getP q).savedUnits = (s.getP q).savedUnits := by
  induction l generalizing s with
  | nil => rfl
  | cons t l ih => rw [List.foldl_cons, ih, State.savedUnits_addCycles]

theorem State.getP_eq_of_prt {s t : State} (p : Nat) (h : t.prt = s.prt) : t.getP p = s.getP p := by rw [State.getP, State.getP, h]

/-- A restored step that was running goes on with its units, and is saved no longer. -/
theorem State.restored_eq {s : State} {p : Nat} {c : Ctx} (hc : s.ctxOf p = some c) (resume : c.resume = .run) :
    ∃ (u : State) (c' : Ctx), s.restored p c = ((u.releaseHeld p).pump p).flushQueued ∧ u.ctxOf p = some c' ∧ c'.phase = .run
      ∧ c'.units = c.units ∧ (u.getP p).saved = false := by
  obtain ⟨w, h, k, read⟩ := s.hbmRead_eq
  unfold State.restored
  extract_lets s1 s2 s3 fresh back s4 s5
  have running : back = .run := by simp only [back, resume]
  have start : (s1.getP p).savedUnits = (false, some c.units) := by
    have page : s1.prt = modNth s.prt p fun q => { q with saved := false } := by
      simp only [s1, State.setTums_prt, State.setOsav, State.modLatches_prt, State.modP_prt, read]
    rw [State.getP, page, nth_modNth_same _ _ (State.lt_of_ctxOf hc), Prt.savedUnits]
    exact congrArg (fun x : Option Ctx => (false, x.map (·.units))) hc
  have kept : (s3.getP p).savedUnits = (false, some c.units) := by
    have pages : s3.prt = s2.prt := State.foldl_prt _ _ _ fun _ _ => rfl
    rw [State.getP_eq_of_prt p pages, ← start]
    exact State.savedUnits_foldl_addCycles p p _ s1
  obtain ⟨saved, units⟩ := Prod.mk.inj kept
  obtain ⟨d, hd, same⟩ := Option.map_eq_some_iff.mp units
  have last : s5 = s4 := by simp only [s5, running, resume, ne_eq, not_true, if_false, if_true]
  refine ⟨s4, _, by rw [last], State.ctxOf_modCtx _ hd, running, same, ?_⟩
  change ((s3.modP p _).getP p).saved = false
  rw [State.getP_modP]
  split <;> exact saved

/-! ### Waiting for vectors (R213) -/

theorem MacRec.overdue_of_le {r : MacRec} {us now t0 : Nat} (since : r.since = some t0) (late : t0 + usTicks us ≤ now) : r.overdue us now = true := by
  rw [MacRec.overdue, since]
  exact decide_eq_true late

theorem MacRec.not_overdue {r : MacRec} {us now : Nat} (early : ∀ t0, r.since = some t0 → now < t0 + usTicks us) : r.overdue us now = false := by
  unfold MacRec.overdue
  cases since : r.since with
  | none => rfl
  | some t0 => exact decide_eq_false (Nat.not_le.mpr (early t0 since))

/-- A unit whose instruction is reached waits for its vectors until the limit has passed; then its step is torn down. -/
theorem exec_vecWait_waiting {s : State} {p u : Nat} {c : Ctx} {w : WUnit} (hc : s.ctxOf p = some c)
    (hu : c.units.find? (fun x => x.id == u) = some w) (phase : c.phase = .run) (limit : (s.getP p).vecWait ≠ 0) (waits : w.st = .waiting)
    (reached : (nth c.recs w.mi freshRec).reached = true) (missing : c.vecsHere w = false) :
    ∃ mv, exec (.vecWait p u) s = .next (if (nth c.recs w.mi freshRec).overdue (s.getP p).vecWait.toNat s.now = false then s
      else (s.modCtx p fun c => { c with mv := mv }).teardown p 2) := by
  change ∃ mv, execVecWait p u s = _
  rw [execVecWait, hc]
  dsimp only
  rw [hu]
  dsimp only
  exact ⟨_, congrArg _ (if_congr (by simp only [phase, limit, waits, reached, missing, ne_eq, not_true, false_or, Bool.true_eq_false,
    Bool.false_eq_true]) rfl rfl)⟩

/-- A teardown of a running step after its missing vector has been noted. -/
theorem State.teardown_running {s : State} {p cause : Nat} {c : Ctx} (mv : Option (Nat × Nat × Nat)) (hc : s.ctxOf p = some c)
    (phase : c.phase = .run) :
    ∃ (v : State) (c' : Ctx), (s.modCtx p fun c => { c with mv := mv }).teardown p cause = v.releaseHeld p ∧ v.ctxOf p = some c'
      ∧ c'.torn = true ∧ c'.cause = cause ∧ c'.phase = .ending ∧ c'.units = [] ∧ c'.sub = c.sub := by
  obtain ⟨v, d, torn, ctx, sub⟩ := State.teardown_eq (cause := cause) (State.ctxOf_modCtx (fun c => { c with mv := mv }) hc)
    (by simp [phase]) (by simp [phase])
  exact ⟨v, _, torn, ctx, rfl, rfl, rfl, rfl, sub⟩

/-! ### O35 -/

/-- Settles O35: the reservation of a step by whether it is new, in debt, reshaped or restored; the start of its run by whether it was saved;
and the end of its wait for vectors. -/
theorem stepsReserveAndRun : Obligations.StepsReserveAndRun := by
  unfold Obligations.StepsReserveAndRun
  intro s p c hc
  have hp := State.lt_of_ctxOf hc
  refine ⟨?_, exec_reservation_short hc, ?_, ?_, ?_, ?_, ?_⟩
  · intro phase held blocked passed levels
    obtain ⟨ctx, asked, page⟩ := State.charged_reserved hc
    rw [State.getP_chargeLevels hp] at page
    exact ⟨_, _, exec_reservation_new hc phase ⟨held, blocked, passed⟩ levels, ctx, rfl, asked, by rw [page], by rw [page], by rw [page]⟩
  · intro phase held blocked passed moved
    obtain ⟨u, d, torn, ctx, -⟩ := State.teardown_eq (cause := 4) hc (by simp [phase]) (by simp [phase])
    exact ⟨u, _, (exec_reservation_reshaped hc phase ⟨held, blocked, passed⟩ moved).trans (congrArg _ torn), ctx, rfl, rfl⟩
  · intro phase held blocked passed same whole old
    have page : ((s.reserved p c).setTums p .restore).getP p = _ :=
      (State.getP_eq_of_prt p (State.setTums_prt _ p .restore)).trans (State.getP_reserved hp)
    have own : ((s.reserved p c).getP p).tumOwn = (s.getP p).tumOwn := by rw [State.getP_reserved hp]
    refine ⟨_, exec_reservation_restored hc phase ⟨held, blocked, passed⟩ same whole old, ?_, by rw [page], ?_, ?_⟩
    · exact (State.ctxOf_eq_of_prt p (State.setTums_prt _ p .restore)).trans (State.ctxOf_reserved hc)
    · intro d hd
      rw [State.setTums_pwr]
      exact State.reserved_asked hd
    · intro n hn
      rw [← own] at hn whole
      exact State.tumOf_setTums (by decide) (by decide) hn whole
  · intro phase up fresh role
    obtain ⟨u, c', run, rest⟩ := State.startRun_eq hc role
    refine ⟨u, c', (exec_runStart_awake hc phase up).trans (congrArg _ (Eq.trans (if_neg ?_) run)), rest⟩
    rintro ⟨saved, none⟩
    rcases fresh with h | h
    · rw [h] at saved; cases saved
    · exact h (Option.isNone_iff_eq_none.mp none)
  · intro phase up saved none resume
    obtain ⟨u, c', run, rest⟩ := State.restored_eq hc resume
    exact ⟨u, c', (exec_runStart_awake hc phase up).trans (congrArg _ ((if_pos ⟨saved, by rw [none]; rfl⟩).trans run)), rest⟩
  · intro u w hu phase limit waits reached missing
    obtain ⟨mv, run⟩ := exec_vecWait_waiting hc hu phase limit waits reached missing
    refine ⟨fun t0 since late => ?_, fun early => ?_⟩
    · obtain ⟨v, c', torn, rest⟩ := State.teardown_running (cause := 2) mv hc phase
      have expired : (nth c.recs w.mi freshRec).overdue (s.getP p).vecWait.toNat s.now ≠ false := ne_false_of_eq_true (MacRec.overdue_of_le since late)
      exact ⟨v, c', run.trans (congrArg _ ((if_neg expired).trans torn)), rest⟩
    · exact run.trans (congrArg _ (if_pos (MacRec.not_overdue early)))

end Sys2Proof.Machine
end

section
/-! PROOF. The instructions that end at their place (R83, R415, R429, R441, R443): the program position that passes one, the pairs
that a `STAT` commits, and the obligation. -/

namespace Sys2Proof.Machine

open Sys2Proof

/-! ### The context of a step after updates -/

theorem State.modCtx_modCtx (s : State) (p : Nat) (f g : Ctx → Ctx) : (s.modCtx p f).modCtx p g = s.modCtx p fun c => g (f c) := by
  simp only [State.modCtx, State.modP, modNth_modNth, Option.map_map, Function.comp_def]

/-- An update of an issued step writes the context that it makes of the present one. -/
theorem State.modCtx_of_ctxOf {s : State} {p : Nat} {c : Ctx} (f : Ctx → Ctx) (hc : s.ctxOf p = some c) :
    s.modCtx p f = { s with prt := modNth s.prt p fun q => { q with ctx := some (f c) } } := by
  have page : (nth s.prt p Prt.reset).ctx = some c := hc
  have same : modNth s.prt p (fun q => { q with ctx := q.ctx.map f }) = modNth s.prt p fun q => { q with ctx := some (f c) } :=
    modNth_congr Prt.reset (by rw [page]; rfl)
  rw [State.modCtx, State.modP, same]

/-! ### The program position passes an instruction -/

/-- Passing over instructions takes back no mark of any instruction. -/
theorem Ctx.advance_rec {n i : Nat} {c : Ctx} (reached : (nth c.recs i freshRec).reached = true) (done : (nth c.recs i freshRec).done = true) :
    (nth (Ctx.advance n c).recs i freshRec).reached = true ∧ (nth (Ctx.advance n c).recs i freshRec).done = true := by
  induction n generalizing c with
  | zero => exact ⟨reached, done⟩
  | succ n ih =>
    unfold Ctx.advance
    split
    · apply ih
      · rw [nth_modNth]
        split <;> simp [reached]
      · rw [nth_modNth]
        split <;> simp [done]
    · exact ⟨reached, done⟩

/-- The context with instruction i complete and the position behind it. -/
def Ctx.behind (c : Ctx) (i : Nat) : Ctx :=
  { c with recs := modNth c.recs i fun r => { r with reached := true, done := true }, pc := i + 1 }

theorem State.serialDone_eq (s : State) (p i : Nat) :
    s.serialDone p i = (s.modCtx p fun c => Ctx.advance c.prog.length (c.behind i)).pump p := by
  rw [State.serialDone, State.modRec, State.modCtx_modCtx]
  rfl

/-- An instruction that completes at the position is behind it before the step goes on, and only the page of its partition changes. -/
theorem State.serialDone_passed {s : State} {p i : Nat} {c : Ctx} (hc : s.ctxOf p = some c) (hi : i < c.recs.length) :
    ∃ u : State, s.serialDone p i = u.pump p ∧ u.passed p i ∧ { u with prt := s.prt } = s := by
  have record : nth (c.behind i).recs i freshRec = { nth c.recs i freshRec with reached := true, done := true } := nth_modNth_same _ _ hi
  obtain ⟨reached, done⟩ := Ctx.advance_rec (n := c.prog.length) (c := c.behind i) (i := i) (by rw [record]) (by rw [record])
  obtain ⟨r, k, moved, le⟩ := Ctx.advance_eq c.prog.length (c.behind i)
  refine ⟨_, State.serialDone_eq s p i, ⟨_, State.ctxOf_modCtx _ hc, reached, done, ?_⟩, rfl⟩
  rw [moved]
  exact le

theorem State.serialAt_spec {s : State} {p op i : Nat} {c : Ctx} (h : s.serialAt p op = some (c, i)) :
    s.ctxOf p = some c ∧ (c.mi i).op = op := by
  unfold State.serialAt at h
  split at h
  · cases h
  · next c' hc =>
    split at h
    · next cond =>
      obtain ⟨-, -, -, op, -⟩ := cond
      cases h
      exact ⟨hc, op⟩
    · cases h

/-! ### Directory entries after an update -/

/-- Updating the first element that passes a test leaves the search for elements that fail it. -/
theorem updFirst_find?_other {α : Type} (l : List α) {t u : α → Bool} {f : α → α} (hu : ∀ x, u (f x) = u x)
    (apart : ∀ x, t x = true → u x = false) :
    (updFirst l t f).find? u = l.find? u := by
  induction l with
  | nil => rfl
  | cons x xs ih =>
    by_cases hx : t x = true
    · simp [updFirst, hx, hu, apart x hx]
    · simp only [updFirst, hx, List.find?_cons, ih, Bool.false_eq_true, if_false]

theorem State.entry_eq_of_cab {s t : State} (aid : Nat) (h : t.cab = s.cab) : t.entry aid = s.entry aid := by
  rw [State.entry, State.entry, h]

theorem State.entry_modEntry {s : State} (aid b : Nat) {f : Entry → Entry} (h : ∀ e, (f e).aid = e.aid) :
    (s.modEntry aid f).entry b = if b = aid then (s.entry b).map f else s.entry b := by
  split
  · next same =>
    subst same
    exact updFirst_find? s.cab.dir _ f fun e => by rw [h]
  · next other =>
    refine updFirst_find?_other s.cab.dir (fun e => by rw [h]) fun e he => ?_
    rw [beq_eq_false_iff_ne, beq_iff_eq.mp he]
    exact fun eq => other eq.symm

/-! ### The start of a `STAT` -/

/-- An instruction that has started, or that names no list, starts at once; its list and the context's other fields stay. -/
theorem State.startList_plain {s : State} {p i : Nat} {c : Ctx} (hc : s.ctxOf p = some c)
    (h : (c.mi i).hasList = false ∨ (nth c.recs i freshRec).reached = true) :
    ∃ (t : State) (r : List MacRec), s.startList p i c = (true, t) ∧ { t with prt := s.prt } = s ∧ t.ctxOf p = some { c with recs := r }
      ∧ r.length = c.recs.length ∧ (nth r i freshRec).list = (nth c.recs i freshRec).list := by
  unfold State.startList
  by_cases started : (nth c.recs i freshRec).reached = true
  · exact ⟨s, c.recs, if_pos started, rfl, hc, rfl, rfl⟩
  · rw [if_neg started, if_pos (h.resolve_right started)]
    refine ⟨_, _, rfl, rfl, State.ctxOf_modCtx _ hc, modNth_length .., ?_⟩
    rw [nth_modNth]
    split <;> rfl

/-- The pairs of a `STAT` depend on the Cabinet, the program, the drawers and its list only. -/
theorem State.statPairs_congr {s t : State} {c : Ctx} {i : Nat} {r : List MacRec} (cab : t.cab = s.cab)
    (list : (nth r i freshRec).list = (nth c.recs i freshRec).list) : t.statPairs { c with recs := r } i = s.statPairs c i := by
  have entry : t.entry = s.entry := funext fun a => State.entry_eq_of_cab a cab
  simp only [State.statPairs, entry, list] <;> rfl

/-! ### One pair -/

/-- Counts of the STAT unit (R83): adapter, projection, elements, saturated elements, non-zero inputs quantized to zero. -/
abbrev StatCounts : Type := Nat × Nat × Nat × Nat × Nat

/-- The counts of a pair that a commit finds ready: 4,096 elements or more (R83). -/
def State.statDue (s : State) (aid proj : Nat) : Option StatCounts :=
  (s.stat.find? fun e => e.1 == aid && e.2.1 == proj).filter fun e => decide (4096 ≤ e.2.2.1)

/-- The offset of a projection's activations, after a commit of these counts. -/
def statNew (x : StatCounts) (k : Nat) : Nat := offCode (statCommit (offVal k) x.2.2.1 x.2.2.2.1 x.2.2.2.2)

/-- A directory entry after a commit of counts for one of its projections. -/
def Entry.commitStat (proj : Nat) (x : StatCounts) (e : Entry) : Entry :=
  match e.projs.findIdx? (· == proj) with
  | some j => { e with statoff := modNth ((List.range e.projs.length).map fun k => nth e.statoff k 0) j (statNew x) }
  | none => e

/-- The adapter's entry has the projection at index j, with offset code v. -/
def State.HasOffset (s : State) (aid proj j v : Nat) : Prop :=
  ∃ d, s.entry aid = some d ∧ d.projs.findIdx? (· == proj) = some j ∧ nth d.statoff j 0 = v

theorem Entry.commitStat_aid (proj : Nat) (x : StatCounts) (e : Entry) : (e.commitStat proj x).aid = e.aid := by
  unfold Entry.commitStat
  split <;> rfl

theorem Entry.commitStat_projs (proj : Nat) (x : StatCounts) (e : Entry) : (e.commitStat proj x).projs = e.projs := by
  unfold Entry.commitStat
  split <;> rfl

theorem nth_range_map {n k : Nat} (f : Nat → Nat) (h : k < n) : nth ((List.range n).map f) k 0 = f k := by
  simp [nth, List.getD_eq_getElem?_getD, h]

/-- A commit moves the offset of its own projection and no other. -/
theorem Entry.commitStat_statoff {e : Entry} {proj own j : Nat} (x : StatCounts) (h : e.projs.findIdx? (· == proj) = some j) :
    nth (e.commitStat own x).statoff j 0 = if proj = own then statNew x (nth e.statoff j 0) else nth e.statoff j 0 := by
  obtain ⟨hj, at_j, -⟩ := List.findIdx?_eq_some_iff_getElem.mp h
  by_cases same : proj = own
  · subst same
    simp [Entry.commitStat, h, nth_modNth_same, nth_range_map _ hj, hj]
  · rw [if_neg same]
    unfold Entry.commitStat
    split
    · next k hk =>
      obtain ⟨_, at_k, -⟩ := List.findIdx?_eq_some_iff_getElem.mp hk
      have apart : j ≠ k := by
        rintro rfl
        exact same ((beq_iff_eq.mp at_j).symm.trans (beq_iff_eq.mp at_k))
      simp [nth_modNth, apart, nth_range_map _ hj]
    · rfl

theorem State.statPair_idle {s : State} {aid proj : Nat} (h : s.statDue aid proj = none) : s.statPair aid proj = s := by
  unfold State.statPair
  split
  · rfl
  · next x found =>
    rw [State.statDue, found] at h
    exact if_pos (by simpa [Option.filter] using h)

/-- A commit of counts that are ready takes them out of the STAT unit and into the adapter's entry. -/
theorem State.statPair_due {s : State} {aid proj : Nat} {x : StatCounts} (h : s.statDue aid proj = some x) :
    (s.statPair aid proj).stat = (s.stat.filter fun e => !(e.1 == aid && e.2.1 == proj))
      ∧ (s.statPair aid proj).cab = (s.modEntry aid (Entry.commitStat proj x)).cab := by
  obtain ⟨found, ready⟩ := Option.filter_eq_some_iff.mp h
  have enough : ¬ x.2.2.1 < 4096 := Nat.not_lt.mpr (of_decide_eq_true ready)
  rw [State.statPair, found]
  dsimp only
  rw [if_neg enough]
  exact ⟨rfl, rfl⟩

/-- After a commit of counts that are ready, an adapter's entry. -/
theorem State.entry_statPair {s : State} {aid proj : Nat} {x : StatCounts} (h : s.statDue aid proj = some x) (b : Nat) :
    (s.statPair aid proj).entry b = if b = aid then (s.entry b).map (Entry.commitStat proj x) else s.entry b := by
  rw [State.entry_eq_of_cab b (State.statPair_due h).2, State.entry_modEntry aid b (Entry.commitStat_aid proj x)]

theorem State.statPair_stat_subset (s : State) (aid proj : Nat) : (s.statPair aid proj).stat ⊆ s.stat := by
  cases h : s.statDue aid proj with
  | none => rw [State.statPair_idle h]; exact List.Subset.refl _
  | some x => rw [(State.statPair_due h).1]; exact List.filter_subset_self _

/-- A commit changes nothing of an issued step but the counts that it would take back. -/
theorem State.ctxOf_statPair {s : State} {p : Nat} {c : Ctx} (aid proj : Nat) (hc : s.ctxOf p = some c) :
    ∃ l, (s.statPair aid proj).ctxOf p = some { c with stats := l } := by
  have hp := State.lt_of_ctxOf hc
  unfold State.statPair
  split
  · exact ⟨_, hc⟩
  · split
    · exact ⟨_, hc⟩
    · rw [State.ctxOf, State.getP, nth, List.getD_eq_getElem?_getD, List.getElem?_eq_getElem hp] at hc
      refine ⟨c.stats.filter fun e => !(e.aid == aid && e.proj == proj), ?_⟩
      simp only [Option.getD_some] at hc
      simp [State.ctxOf, State.getP, nth, List.getD_eq_getElem?_getD, hp, hc]

/-- What a commit of one pair leaves of another, or of one that has no counts ready: its counts and its offset. -/
theorem State.statPair_keeps {s : State} {aid proj b k : Nat} (h : s.statDue aid proj = none ∨ (aid, proj) ≠ (b, k)) :
    (s.statPair b k).statDue aid proj = s.statDue aid proj
      ∧ (∀ e ∈ s.stat, (e.1, e.2.1) = (aid, proj) → e ∈ (s.statPair b k).stat)
      ∧ ∀ j v, s.HasOffset aid proj j v → (s.statPair b k).HasOffset aid proj j v := by
  cases due : s.statDue b k with
  | none =>
    rw [State.statPair_idle due]
    exact ⟨rfl, fun _ he _ => he, fun _ _ ho => ho⟩
  | some x =>
    obtain ⟨stat, -⟩ := State.statPair_due due
    have apart : (aid, proj) ≠ (b, k) := by
      rintro e
      cases e
      rcases h with h | h
      · rw [h] at due; cases due
      · exact h rfl
    have other (e : StatCounts) (key : (e.1 == aid && e.2.1 == proj) = true) : (!(e.1 == b && e.2.1 == k)) = true := by
      simp only [Bool.and_eq_true, beq_iff_eq] at key
      rw [Bool.not_eq_true', Bool.and_eq_false_imp]
      intro eb
      rw [beq_eq_false_iff_ne]
      exact fun ek => apart (by rw [← key.1, ← key.2, beq_iff_eq.mp eb, ek])
    refine ⟨?_, fun e he key => ?_, ?_⟩
    · rw [State.statDue, State.statDue, stat, List.find?_filter]
      congr 2
      funext e
      cases key : (e.1 == aid && e.2.1 == proj)
      · simp
      · simp [other e key]
    · rw [stat]
      exact List.mem_filter.mpr ⟨he, other e (by cases key; simp)⟩
    · rintro j v ⟨d, hd, hj, hv⟩
      by_cases own : aid = b
      · subst own
        refine ⟨d.commitStat k x, ?_, (Entry.commitStat_projs k x d).symm ▸ hj, ?_⟩
        · rw [State.entry_statPair due, if_pos rfl, hd]
          rfl
        · rw [Entry.commitStat_statoff x hj, if_neg fun e => apart (by rw [e]), hv]
      · exact ⟨d, by rw [State.entry_statPair due, if_neg own, hd], hj, hv⟩

/-- A commit of a pair with counts ready takes them away and moves the offset by them. -/
theorem State.statPair_commits {s : State} {aid proj : Nat} {x : StatCounts} (due : s.statDue aid proj = some x) :
    (∀ e ∈ (s.statPair aid proj).stat, (e.1, e.2.1) ≠ (aid, proj)) ∧ (s.statPair aid proj).statDue aid proj = none
      ∧ ∀ j v, s.HasOffset aid proj j v → (s.statPair aid proj).HasOffset aid proj j (statNew x v) := by
  obtain ⟨stat, -⟩ := State.statPair_due due
  have gone : ∀ e ∈ (s.statPair aid proj).stat, (e.1, e.2.1) ≠ (aid, proj) := by
    rw [stat]
    intro e he key
    cases key
    simp at he
  refine ⟨gone, ?_, ?_⟩
  · rw [State.statDue, List.find?_eq_none.mpr]
    · rfl
    · intro e he key
      simp only [Bool.and_eq_true, beq_iff_eq] at key
      exact gone e he (Prod.ext key.1 key.2)
  · rintro j v ⟨d, hd, hj, rfl⟩
    refine ⟨d.commitStat proj x, ?_, (Entry.commitStat_projs proj x d).symm ▸ hj, ?_⟩
    · rw [State.entry_statPair due, if_pos rfl, hd]
      rfl
    · rw [Entry.commitStat_statoff x hj, if_pos rfl]

/-! ### A list of pairs -/

/-- Pairs committed one after another. -/
def State.statAll (s : State) (l : List (Nat × Nat)) : State := l.foldl (fun (s : State) x => s.statPair x.1 x.2) s

theorem State.ctxOf_statAll {s : State} {p : Nat} {c : Ctx} (l : List (Nat × Nat)) (hc : s.ctxOf p = some c) :
    ∃ k, (s.statAll l).ctxOf p = some { c with stats := k } := by
  induction l generalizing s c with
  | nil => exact ⟨_, hc⟩
  | cons x l ih =>
    obtain ⟨k, hk⟩ := State.ctxOf_statPair x.1 x.2 hc
    exact ih (c := { c with stats := k }) hk

theorem State.statAll_stat_subset (s : State) (l : List (Nat × Nat)) : (s.statAll l).stat ⊆ s.stat := by
  induction l generalizing s with
  | nil => exact List.Subset.refl _
  | cons x l ih => exact List.Subset.trans (ih (s.statPair x.1 x.2)) (s.statPair_stat_subset x.1 x.2)

/-- A pair that is not listed, or has no counts ready, keeps its counts and its offset. -/
theorem State.statAll_keeps {s : State} {aid proj : Nat} {l : List (Nat × Nat)} (h : s.statDue aid proj = none ∨ (aid, proj) ∉ l) :
    (s.statAll l).statDue aid proj = s.statDue aid proj
      ∧ (∀ e ∈ s.stat, (e.1, e.2.1) = (aid, proj) → e ∈ (s.statAll l).stat)
      ∧ ∀ j v, s.HasOffset aid proj j v → (s.statAll l).HasOffset aid proj j v := by
  induction l generalizing s with
  | nil => exact ⟨rfl, fun _ he _ => he, fun _ _ ho => ho⟩
  | cons x l ih =>
    obtain ⟨due, counts, offset⟩ := State.statPair_keeps (b := x.1) (k := x.2) (h.imp_right List.ne_of_not_mem_cons)
    obtain ⟨due', counts', offset'⟩ := ih (s := s.statPair x.1 x.2) (h.imp due.trans List.not_mem_of_not_mem_cons)
    exact ⟨due'.trans due, fun e he key => counts' e (counts e he key) key, fun j v ho => offset' j v (offset j v ho)⟩

/-- A listed pair with counts ready is committed once: at its first place in the list. -/
theorem State.statAll_commits {s : State} {aid proj : Nat} {l : List (Nat × Nat)} {x : StatCounts}
    (due : s.statDue aid proj = some x) (listed : (aid, proj) ∈ l) :
    (∀ e ∈ (s.statAll l).stat, (e.1, e.2.1) ≠ (aid, proj))
      ∧ ∀ j v, s.HasOffset aid proj j v → (s.statAll l).HasOffset aid proj j (statNew x v) := by
  obtain ⟨before, after, rfl, first⟩ := List.eq_append_cons_of_mem listed
  have split : s.statAll (before ++ (aid, proj) :: after) = ((s.statAll before).statPair aid proj).statAll after := List.foldl_append
  obtain ⟨due1, -, offset1⟩ := State.statAll_keeps (s := s) (l := before) (.inr first)
  obtain ⟨gone, due2, offset2⟩ := State.statPair_commits (due1.trans due)
  obtain ⟨-, -, offset3⟩ := State.statAll_keeps (l := after) (.inl due2)
  rw [split]
  exact ⟨fun e he => gone e (State.statAll_stat_subset _ after he), fun j v ho => offset3 j _ (offset2 j _ (offset1 j v ho))⟩

/-- The counts that the STAT unit holds of a pair, where it holds one entry for each pair. -/
theorem State.statDue_of_mem {s : State} {e : StatCounts} (once : (s.stat.map fun e => (e.1, e.2.1)).Nodup) (he : e ∈ s.stat) :
    s.statDue e.1 e.2.1 = if 4096 ≤ e.2.2.1 then some e else none := by
  have found : (s.stat.find? fun x => x.1 == e.1 && x.2.1 == e.2.1) = some e := by
    cases h : s.stat.find? fun x => x.1 == e.1 && x.2.1 == e.2.1 with
    | none => simpa using List.find?_eq_none.mp h e he
    | some x =>
      have key := List.find?_some h
      simp only [Bool.and_eq_true, beq_iff_eq] at key
      rw [List.inj_on_of_nodup_map once (List.mem_of_find?_eq_some h) he (Prod.ext key.1 key.2)]
  rw [State.statDue, found, Option.filter_some]
  simp

/-! ### O29 -/

theorem exec_fence_at {s : State} {p i : Nat} {c : Ctx} (h : s.serialAt p 0x43 = some (c, i)) :
    exec (.fence p) s = .next (if s.quiet p c i then s.serialDone p i else s) := by
  change execFence p s = _
  rw [execFence, h]

/-- A `STAT` that starts at once commits its pairs, with the counts and the Cabinet as they stand, and is passed. -/
theorem exec_stat_at {s : State} {p i : Nat} {c : Ctx} (h : s.serialAt p 0x38 = some (c, i)) (hi : i < c.recs.length)
    (start : (c.mi i).flag = false ∨ (nth c.recs i freshRec).reached = true) :
    ∃ t u : State, exec (.stat p) s = .next (u.pump p) ∧ u.passed p i ∧ t.stat = s.stat ∧ t.cab = s.cab
      ∧ u.stat = (t.statAll (s.statPairs c i)).stat ∧ u.cab = (t.statAll (s.statPairs c i)).cab := by
  obtain ⟨hc, op⟩ := State.serialAt_spec h
  have list : (c.mi i).hasList = false ∨ (nth c.recs i freshRec).reached = true :=
    start.imp_left fun flag => by simp [MI.hasList, op, flag]
  obtain ⟨t, r, begun, rest, ht, len, same⟩ := State.startList_plain hc list
  have cab : t.cab = s.cab := (congrArg State.cab rest :)
  have stat : t.stat = s.stat := (congrArg State.stat rest :)
  have pairs : t.statPairs { c with recs := r } i = s.statPairs c i := State.statPairs_congr cab same
  obtain ⟨k, hk⟩ := State.ctxOf_statAll (s.statPairs c i) ht
  obtain ⟨u, done, passed, others⟩ := State.serialDone_passed hk (len.symm ▸ hi : i < r.length)
  refine ⟨t, u, ?_, passed, stat, cab, (congrArg State.stat others :), (congrArg State.cab others :)⟩
  change execStat p s = _
  rw [execStat, h]
  dsimp only
  rw [begun]
  dsimp only
  rw [ht]
  dsimp only
  rw [pairs]
  exact congrArg _ done

/-- An `END` at the position is passed. -/
theorem exec_endProg_at {s : State} {p : Nat} {c : Ctx} (hc : s.ctxOf p = some c) (phase : c.phase = .run) (role : c.role ≠ .serve)
    (more : c.pc < c.prog.length) (op : (c.mi c.pc).op = 0x4F) :
    exec (.endProg p) s = .next { s with prt := modNth s.prt p fun q =>
      { q with ctx := some { c with recs := modNth c.recs c.pc fun r => { r with reached := true, done := true }, pc := c.pc + 1 } } } := by
  change execEndProg p s = _
  rw [execEndProg, hc]
  dsimp only
  rw [if_pos ⟨phase, role, more, op⟩, State.modRec, State.modCtx_modCtx, State.modCtx_of_ctxOf _ hc]

/-- The gate of a step has acquired latch n. -/
def Ctx.acquired (c : Ctx) (n : Nat) : Bool :=
  c.gate.any fun g => g.latch == n && match g.done with | .acquired _ => true | _ => false

theorem Ctx.acquired_iff (c : Ctx) (n : Nat) : c.acquired n = true ↔ ∃ g ∈ c.gate, g.latch = n ∧ ∃ b, g.done = .acquired b := by
  simp only [Ctx.acquired, List.any_eq_true, Bool.and_eq_true, beq_iff_eq]
  refine exists_congr fun g => and_congr_right fun _ => and_congr_right fun _ => ?_
  cases g.done <;> simp

/-- What a `LATCH_REL` does to its latch: where the gate acquired it, REL or RELFIX. -/
def State.letGo (s : State) (p : Nat) (c : Ctx) (i : Nat) : State :=
  if c.acquired (fld (c.mi i).op0 14 0) then (s.latchOp (.context p) (fld (c.mi i).op0 14 0) (if (c.mi i).flag then 3 else 2) 0).2 else s

theorem State.latchOp_prt (s : State) (ag : Agent) (n op d : Nat) : (s.latchOp ag n op d).2.prt = s.prt := by
  unfold State.latchOp
  split
  · rfl
  · dsimp only
    split <;> rfl

theorem State.letGo_prt (s : State) (p : Nat) (c : Ctx) (i : Nat) : (s.letGo p c i).prt = s.prt := by
  unfold State.letGo
  split
  · exact State.latchOp_prt ..
  · rfl

theorem State.letGo_acquired {s : State} {p i : Nat} {c : Ctx} (held : ∃ g ∈ c.gate, g.latch = fld (c.mi i).op0 14 0 ∧ ∃ b, g.done = .acquired b) :
    s.letGo p c i = (s.latchOp (.context p) (fld (c.mi i).op0 14 0) (if (c.mi i).flag then 3 else 2) 0).2 :=
  if_pos ((Ctx.acquired_iff c _).mpr held)

theorem State.letGo_free {s : State} {p i : Nat} {c : Ctx} (free : ∀ g ∈ c.gate, g.latch = fld (c.mi i).op0 14 0 → ∀ b, g.done ≠ .acquired b) :
    s.letGo p c i = s := by
  refine if_neg fun held => ?_
  obtain ⟨g, hg, latch, b, acquired⟩ := (Ctx.acquired_iff c _).mp held
  exact free g hg latch b acquired

/-- The first `LATCH_REL` that can complete does. -/
theorem exec_latchRel_at {s : State} {p i : Nat} {c : Ctx} (hc : s.ctxOf p = some c) (phase : c.phase = .run)
    (first : (List.range c.prog.length).find? (fun k => (c.mi k).op == 0x41 && (nth c.recs k freshRec).reached
      && !(nth c.recs k freshRec).done && s.quiet p c k) = some i) :
    exec (.latchRel p) s = .next (((s.letGo p c i).modRec p i fun r => { r with done := true }).pump p) := by
  change execLatchRel p s = _
  rw [execLatchRel, hc]
  dsimp only
  rw [if_neg (not_not_intro phase), first]
  rfl

/-- Settles O29: `FENCE` by whether earlier writes are visible, `STAT` by its pairs, each committed at most once, `END` and `LATCH_REL`. -/
theorem fencesStatsAndLatchesComplete : Obligations.FencesStatsAndLatchesComplete := by
  unfold Obligations.FencesStatsAndLatchesComplete
  intro s p c i hi
  refine ⟨fun at_fence => ⟨fun quiet => ?_, fun busy => ?_⟩, fun at_stat once start => ?_, exec_endProg_at, fun hc phase first => ?_⟩
  · obtain ⟨u, done, passed, others⟩ := State.serialDone_passed (State.serialAt_spec at_fence).1 hi
    exact ⟨u, by rw [exec_fence_at at_fence, if_pos quiet, done], passed, others⟩
  · rw [exec_fence_at at_fence, if_neg (by rw [busy]; exact Bool.false_ne_true)]
  · obtain ⟨t, u, run, passed, stat, cab, counts, entries⟩ := exec_stat_at at_stat hi start
    rw [← stat] at once ⊢
    refine ⟨u, run, passed, fun e he few => ?_, fun e he many listed => ?_⟩
    · rw [counts]
      have stays : t.statDue e.1 e.2.1 = none ∨ (e.1, e.2.1) ∉ s.statPairs c i :=
        few.imp_left fun few => by rw [State.statDue_of_mem once he, if_neg (Nat.not_le.mpr few)]
      exact (State.statAll_keeps stays).2.1 e he rfl
    · have due : t.statDue e.1 e.2.1 = some e := by rw [State.statDue_of_mem once he, if_pos many]
      obtain ⟨gone, moved⟩ := State.statAll_commits due listed
      refine ⟨fun x hx => gone x (counts ▸ hx), fun d j hd hj => ?_⟩
      obtain ⟨d', hd', -, offset⟩ := moved j _ ⟨d, (State.entry_eq_of_cab e.1 cab).trans hd, hj, rfl⟩
      exact ⟨d', (State.entry_eq_of_cab e.1 entries).trans hd', offset⟩
  · have here : (s.letGo p c i).ctxOf p = some c := (State.ctxOf_eq_of_prt p (State.letGo_prt s p c i)).trans hc
    refine ⟨_, _, exec_latchRel_at hc phase first, State.ctxOf_modCtx _ here, ?_, fun held => ?_, fun free => ?_⟩
    · rw [nth_modNth_same _ _ hi]
    · exact (congrArg State.latch (State.letGo_acquired held) :)
    · exact (congrArg State.latch (State.letGo_free free) :)

end Sys2Proof.Machine
end

section
/-! PROOF. The values of element codes, of FP32 and BF16 patterns and of scales (R55–R57), and the obligation: every format reads its fields
as R55 says, so a code is taken apart once and valued once. -/

namespace Sys2Proof.Machine

open Sys2Proof

/-! ### Taking a code apart -/

/-- A code of sign S, exponent E and mantissa M, with `eb` and `mb` bits of exponent and mantissa. -/
def fieldCode (eb mb S E M : Nat) : Nat := S * 2 ^ (eb + mb) + E * 2 ^ mb + M

theorem field_lt {eb mb E M : Nat} (hE : E < 2 ^ eb) (hM : M < 2 ^ mb) : E * 2 ^ mb + M < 2 ^ (eb + mb) := by
  rw [pow_add]
  calc E * 2 ^ mb + M < (E + 1) * 2 ^ mb := by rw [Nat.succ_mul]; exact Nat.add_lt_add_left hM _
    _ ≤ 2 ^ eb * 2 ^ mb := Nat.mul_le_mul_right _ hE

theorem field_div {mb M : Nat} (E : Nat) (hM : M < 2 ^ mb) : (E * 2 ^ mb + M) / 2 ^ mb = E := by
  rw [Nat.mul_comm, Nat.mul_add_div (Nat.two_pow_pos mb), Nat.div_eq_of_lt hM, Nat.add_zero]

theorem field_mod {mb M : Nat} (E : Nat) (hM : M < 2 ^ mb) : (E * 2 ^ mb + M) % 2 ^ mb = M := by
  rw [Nat.mul_comm, Nat.mul_add_mod, Nat.mod_eq_of_lt hM]

section
variable {eb mb S E M : Nat}

theorem fieldCode_eq : fieldCode eb mb S E M = S * 2 ^ (eb + mb) + (E * 2 ^ mb + M) := Nat.add_assoc ..

theorem bitN_fieldCode (hS : S < 2) (hE : E < 2 ^ eb) (hM : M < 2 ^ mb) : bitN (fieldCode eb mb S E M) (eb + mb) = decide (S = 1) := by
  rw [bitN, fieldCode_eq, field_div S (field_lt hE hM), Nat.mod_eq_of_lt hS]
  exact beq_eq_decide ..

theorem fieldCode_mod (hE : E < 2 ^ eb) (hM : M < 2 ^ mb) : fieldCode eb mb S E M % 2 ^ (eb + mb) = E * 2 ^ mb + M := by
  rw [fieldCode_eq, field_mod S (field_lt hE hM)]

end

/-! ### Values -/

theorem Dy.int_cast (neg : Bool) (m : Nat) (e : Int) : ((Dy.mk neg m e).int : Rat) = (if neg then -1 else 1) * (m : Rat) := by
  cases neg <;> simp [Dy.int]

theorem sign_pow {S : Nat} (hS : S < 2) : (-1 : Rat) ^ S = if decide (S = 1) then -1 else 1 := by
  interval_cases S <;> simp

/-- A magnitude without a hidden bit: exponent field 0 (R55). -/
theorem Dy.val_subnormal {S : Nat} (mb bias M : Nat) (hS : S < 2) :
    (Dy.mk (decide (S = 1)) M (1 - (bias : Int) - mb)).val = fieldVal mb bias S 0 M := by
  rw [Dy.val, Dy.int_cast, fieldVal, if_pos rfl, sign_pow hS, zpow_sub₀ two_ne_zero, zpow_natCast]
  ring

/-- A magnitude with its hidden bit (R55). -/
theorem Dy.val_normal {S E : Nat} (mb bias M : Nat) (hS : S < 2) (hE : E ≠ 0) :
    (Dy.mk (decide (S = 1)) (2 ^ mb + M) ((E : Int) - bias - mb)).val = fieldVal mb bias S E M := by
  rw [Dy.val, Dy.int_cast, fieldVal, if_neg hE, sign_pow hS, zpow_sub₀ two_ne_zero _ (mb : Int), zpow_natCast]
  push_cast
  field_simp

/-- A magnitude code has the value of its fields. -/
theorem EFmt.dy_val (f : EFmt) {S M : Nat} (E : Nat) (hS : S < 2) (hM : M < 2 ^ f.mb) :
    (f.dy (decide (S = 1)) (E * 2 ^ f.mb + M)).val = fieldVal f.mb f.bias S E M := by
  rw [EFmt.dy, field_div E hM, field_mod E hM]
  by_cases hE : E = 0
  · subst hE
    exact Dy.val_subnormal f.mb f.bias M hS
  · rw [if_neg hE]
    exact Dy.val_normal f.mb f.bias M hS hE

/-! ### Element codes (R55, R78) -/

section
variable {fmt S E M : Nat}

theorem elem_fieldCode (hS : S < 2) (hE : E < 2 ^ (efmt fmt).eb) (hM : M < 2 ^ (efmt fmt).mb) :
    elem fmt (fieldCode (efmt fmt).eb (efmt fmt).mb S E M) =
      let mag := E * 2 ^ (efmt fmt).mb + M
      if fmt = 2 ∧ mag = 0x7F then (Dy.zero, 1)
      else if fmt = 3 ∧ mag = 0x7C then ((efmt fmt).dy (decide (S = 1)) 0x7B, 1)
      else if fmt = 3 ∧ 0x7C < mag then (Dy.zero, 1)
      else ((efmt fmt).dy (decide (S = 1)) mag, 0) := by
  rw [elem, bitN_fieldCode hS hE hM, fieldCode_mod hE hM]

/-- A code that is no special has the value of its fields, and nothing is counted. -/
theorem elem_finite (hS : S < 2) (hE : E < 2 ^ (efmt fmt).eb) (hM : M < 2 ^ (efmt fmt).mb)
    (nan : ¬(fmt = 2 ∧ E = 15 ∧ M = 7)) (special : ¬(fmt = 3 ∧ E = 31)) :
    (elem fmt (fieldCode (efmt fmt).eb (efmt fmt).mb S E M)).2 = 0
      ∧ (elem fmt (fieldCode (efmt fmt).eb (efmt fmt).mb S E M)).1.val = fieldVal (efmt fmt).mb (efmt fmt).bias S E M := by
  have no7F : ¬(fmt = 2 ∧ E * 2 ^ (efmt fmt).mb + M = 0x7F) := by
    rintro ⟨rfl, h⟩
    change M < 2 ^ 3 at hM
    change E * 2 ^ 3 + M = 0x7F at h
    omega
  have below : fmt = 3 → E * 2 ^ (efmt fmt).mb + M < 0x7C := by
    rintro rfl
    change E < 2 ^ 5 at hE
    change M < 2 ^ 2 at hM
    change E * 2 ^ 2 + M < 0x7C
    omega
  rw [elem_fieldCode hS hE hM]
  dsimp only
  rw [if_neg no7F, if_neg fun h => (below h.1).ne h.2, if_neg fun h => (below h.1).not_gt h.2]
  exact ⟨rfl, EFmt.dy_val (efmt fmt) E hS hM⟩

/-- The NaN of E4M3 reads as +0, counted. -/
theorem elem_e4m3_nan (hS : S < 2) : elem 2 (fieldCode 4 3 S 15 7) = (Dy.zero, 1) :=
  elem_fieldCode (fmt := 2) hS (by decide) (by decide)

/-- The NaNs of E5M2 read as +0, counted. -/
theorem elem_e5m2_nan (hS : S < 2) (hM : M < 2 ^ 2) (nan : M ≠ 0) : elem 3 (fieldCode 5 2 S 31 M) = (Dy.zero, 1) := by
  have mag : 31 * 2 ^ (efmt 3).mb + M = 124 + M := rfl
  refine (elem_fieldCode (fmt := 3) hS (by decide) hM).trans ?_
  dsimp only
  rw [mag, if_neg (by omega), if_neg (by omega), if_pos (by omega)]

/-- The infinities of E5M2 read as the largest finite value of their sign, counted. -/
theorem elem_e5m2_inf (hS : S < 2) :
    (elem 3 (fieldCode 5 2 S 31 0)).2 = 1 ∧ (elem 3 (fieldCode 5 2 S 31 0)).1.val = if S = 0 then 57344 else -57344 := by
  have read : elem 3 (fieldCode 5 2 S 31 0) = ((efmt 3).dy (decide (S = 1)) (30 * 2 ^ (efmt 3).mb + 3), 1) :=
    elem_fieldCode (fmt := 3) (M := 0) hS (by decide) (by decide)
  rw [read]
  refine ⟨rfl, (EFmt.dy_val (efmt 3) 30 hS (by decide)).trans ?_⟩
  change fieldVal 2 15 S 30 3 = _
  interval_cases S <;> norm_num [fieldVal]

end

/-! ### FP32 and BF16 patterns -/

section
variable {S E M : Nat}

theorem expo32_fieldCode (hE : E < 256) (hM : M < 2 ^ 23) : expo32 (fieldCode 8 23 S E M) = E := by
  change (S * 2 ^ 31 + E * 2 ^ 23 + M) / 2 ^ 23 % 2 ^ 8 = E
  omega

theorem mant32_fieldCode (hM : M < 2 ^ 23) : mant32 (fieldCode 8 23 S E M) = M := by
  change (S * 2 ^ 31 + E * 2 ^ 23 + M) / 2 ^ 0 % 2 ^ 23 = M
  omega

theorem sign32_fieldCode (hS : S < 2) (hE : E < 256) (hM : M < 2 ^ 23) : sign32 (fieldCode 8 23 S E M) = decide (S = 1) :=
  bitN_fieldCode (eb := 8) (mb := 23) hS hE hM

/-- What an FP32 pattern is, by its fields: a value, an infinity or a NaN. -/
theorem fp32_fieldCode (hS : S < 2) (hE : E < 256) (hM : M < 2 ^ 23) :
    let w := fieldCode 8 23 S E M
    (E ≠ 255 → isNan w = false ∧ isInf w = false ∧ (dyIeee w).val = fieldVal 23 127 S E M)
      ∧ (E = 255 → isInf w = decide (M = 0) ∧ isNan w = decide (M ≠ 0)) := by
  intro w
  have expo : expo32 w = E := expo32_fieldCode hE hM
  have mant : mant32 w = M := mant32_fieldCode hM
  have sign : sign32 w = decide (S = 1) := sign32_fieldCode hS hE hM
  refine ⟨fun finite => ⟨by simp [isNan, expo, finite], by simp [isInf, expo, finite], ?_⟩, fun special => ⟨?_, ?_⟩⟩
  · rw [dyIeee, expo, mant, sign]
    by_cases hE0 : E = 0
    · subst hE0
      exact Dy.val_subnormal 23 127 M hS
    · rw [if_neg hE0, show (E : Int) - 150 = E - (127 : Nat) - (23 : Nat) by omega]
      exact Dy.val_normal 23 127 M hS hE0
  · simp [isInf, expo, mant, special, beq_eq_decide]
  · simp [isNan, expo, mant, special, bne, beq_eq_decide]

/-- A BF16 pattern is the upper half of its FP32 pattern. -/
theorem wide_fieldCode : wide (fieldCode 8 7 S E M) = fieldCode 8 23 S E (2 ^ 16 * M) := by
  change 65536 * (S * 2 ^ 15 + E * 2 ^ 7 + M) = S * 2 ^ 31 + E * 2 ^ 23 + 2 ^ 16 * M
  ring

theorem fieldVal_wide : fieldVal 23 127 S E (2 ^ 16 * M) = fieldVal 7 127 S E M := by
  have part : ((2 ^ 16 * M : Nat) : Rat) / 2 ^ 23 = (M : Rat) / 2 ^ 7 := by
    push_cast
    ring
  rw [fieldVal, fieldVal, part]

end

/-! ### Scales (R56, R57) -/

theorem e8m0_val {c : Nat} (h : c < 255) : ∃ d, e8m0 c = some d ∧ d.val = (2 : Rat) ^ ((c : Int) - 127) :=
  ⟨_, if_neg h.ne, by simp [Dy.val, Dy.int]⟩

theorem ue5m3_val {e m : Nat} (hm : m < 8) :
    (ue5m3 (8 * e + m)).val = if e = 0 then (m : Rat) * (2 : Rat) ^ (-17 : Int) else (1 + (m : Rat) / 8) * (2 : Rat) ^ ((e : Int) - 15) := by
  rw [ue5m3, show (8 * e + m) / 8 = e by omega, show (8 * e + m) % 8 = m by omega]
  by_cases he : e = 0
  · rw [if_pos he, if_pos he]
    simp [Dy.val, Dy.int]
  · have value := Dy.val_normal (S := 0) 3 15 m (by decide) he
    rw [if_neg he, if_neg he, show (e : Int) - 18 = e - (15 : Nat) - (3 : Nat) by omega]
    refine value.trans ?_
    rw [fieldVal, if_neg he, pow_zero, one_mul, mul_comm]
    norm_num

/-! ### O6 -/

/-- Settles O6: each code is written by its fields, whose value the format gives. -/
theorem elementsAndScalesDecode : Obligations.ElementsAndScalesDecode := by
  unfold Obligations.ElementsAndScalesDecode
  refine ⟨fun fmt eb mb bias S E M format hS hE hM => ?_, fun S E M hS hE hM => fp32_fieldCode hS hE hM, fun S E M hS hE hM => ?_,
    fun c hc => e8m0_val hc, rfl, fun e m _ hm _ => ue5m3_val hm⟩
  · obtain ⟨rfl, rfl, rfl⟩ : eb = (efmt fmt).eb ∧ mb = (efmt fmt).mb ∧ bias = (efmt fmt).bias := by
      simp only [List.mem_cons, Prod.mk.injEq, List.not_mem_nil, or_false] at format
      rcases format with h | h | h | h | h <;> obtain ⟨rfl, rfl, rfl, rfl⟩ := h <;> exact ⟨rfl, rfl, rfl⟩
    refine ⟨elem_finite hS hE hM, ?_, ?_, ?_⟩
    · rintro rfl rfl rfl
      exact elem_e4m3_nan hS
    · rintro rfl rfl nan
      exact elem_e5m2_nan hS hM nan
    · rintro rfl rfl rfl
      exact elem_e5m2_inf hS
  · have low : 2 ^ 16 * M < 2 ^ 23 := by omega
    have fields := fp32_fieldCode hS hE low
    have zero : 2 ^ 16 * M = 0 ↔ M = 0 := by omega
    simp only [← wide_fieldCode, fieldVal_wide, ne_eq, zero] at fields
    exact fields

end Sys2Proof.Machine
end

section
/-! PROOF. The memories (R98, R103, R278; their form is the model's, log entry 4): what they read after a write, the uniqueness of the
canonical form, and the obligation. -/

namespace Sys2Proof.Machine

open Sys2Proof

/-! ### Reading after a write -/

theorem Memory.read_write {m : Memory} (a : Nat) (b : Byte) (k : Nat) (h : m.wf = true) :
    (m.write a b).read k = if k = a then b else m.read k := SMap.get_set a b k h

theorem Memory.read_writeN {m : Memory} (a : Nat) (bs : List Byte) (k : Nat) (h : m.wf = true) :
    (m.writeN a bs).read k = if a ≤ k ∧ k < a + bs.length then nth bs (k - a) 0 else m.read k := by
  induction bs generalizing m a with
  | nil => exact (if_neg fun e => Nat.not_lt.mpr e.1 e.2).symm
  | cons b bs ih =>
    rw [Memory.writeN, ih (a + 1) (Memory.wf_write a b h), Memory.read_write a b k h, List.length_cons]
    rcases Nat.lt_trichotomy k a with lt | rfl | gt
    · rw [if_neg (by omega), if_neg (by omega), if_neg (by omega)]
    · rw [if_neg (by omega), if_pos rfl, if_pos (by omega), Nat.sub_self]
      rfl
    · obtain ⟨j, rfl⟩ := Nat.exists_eq_add_of_lt gt
      rw [if_neg (Nat.ne_of_gt gt), show a + j + 1 - (a + 1) = j by omega, show a + j + 1 - a = j + 1 by omega]
      exact if_congr (by omega) rfl rfl

/-- A run of bytes reads back as it was written. -/
theorem Memory.readN_writeN {m : Memory} (a : Nat) (bs : List Byte) (h : m.wf = true) : (m.writeN a bs).readN a bs.length = bs := by
  refine List.ext_getElem (by simp [Memory.readN]) fun i _ hi => ?_
  simp only [Memory.readN, List.getElem_map, List.getElem_range]
  rw [Memory.read_writeN a bs _ h, if_pos (by omega), Nat.add_sub_cancel_left]
  exact List.getD_eq_getElem bs 0 hi

/-! ### The canonical form -/

theorem SMap.wf_cons {α : Type} [DecidableEq α] {d : α} {i : Nat} {x : α} {m : SMap α} (h : SMap.wf d ((i, x) :: m) = true) :
    x ≠ d ∧ (∀ e ∈ m, i < e.1) ∧ SMap.wf d m = true := by
  have tail := SMap.wf_sublist h (List.sublist_cons_self _ _)
  rw [SMap.wf_iff] at h
  exact ⟨h.2 _ (List.mem_cons_self ..), (List.pairwise_cons.mp h.1).1, tail⟩

/-- An index below all listed ones reads the default. -/
theorem SMap.get_below {α : Type} [DecidableEq α] {d : α} {i k : Nat} {x : α} {m : SMap α} (h : SMap.wf d ((i, x) :: m) = true) (lt : k < i) :
    SMap.get d ((i, x) :: m) k = d := by
  obtain ⟨-, above, -⟩ := SMap.wf_cons h
  refine SMap.get_of_forall_ne d fun e he => ?_
  rcases List.mem_cons.mp he with rfl | he
  · exact lt.ne'
  · exact (lt.trans (above e he)).ne'

/-- Tables in the canonical form that list their first entries at different indices differ at the lower one. -/
theorem SMap.first_le {α : Type} [DecidableEq α] {d : α} {i j : Nat} {x y : α} {m n : SMap α} (hm : SMap.wf d ((i, x) :: m) = true)
    (hn : SMap.wf d ((j, y) :: n) = true) (same : ∀ k, SMap.get d ((i, x) :: m) k = SMap.get d ((j, y) :: n) k) : j ≤ i := by
  by_contra lt
  have read := same i
  rw [SMap.get_below hn (Nat.lt_of_not_le lt), SMap.get, if_pos rfl] at read
  exact (SMap.wf_cons hm).1 read

theorem SMap.eq_of_get {α : Type} [DecidableEq α] {d : α} {m n : SMap α} (hm : SMap.wf d m = true) (hn : SMap.wf d n = true)
    (same : ∀ k, SMap.get d m k = SMap.get d n k) : m = n := by
  induction m generalizing n with
  | nil =>
    cases n with
    | nil => rfl
    | cons e n =>
      have read := same e.1
      rw [SMap.get, SMap.get, if_pos rfl] at read
      exact absurd read.symm (SMap.wf_cons hn).1
  | cons e m ih =>
    obtain ⟨i, x⟩ := e
    obtain ⟨listed, above, hm'⟩ := SMap.wf_cons hm
    cases n with
    | nil =>
      have read := same i
      rw [SMap.get, SMap.get, if_pos rfl] at read
      exact absurd read listed
    | cons e n =>
      obtain ⟨j, y⟩ := e
      obtain ⟨-, above', hn'⟩ := SMap.wf_cons hn
      obtain rfl : i = j := Nat.le_antisymm (SMap.first_le hn hm fun k => (same k).symm) (SMap.first_le hm hn same)
      obtain rfl : x = y := by simpa [SMap.get] using same i
      rw [ih hm' hn' fun k => ?_]
      by_cases hk : k = i
      · rw [hk, SMap.get_of_forall_ne d fun e he => (above e he).ne', SMap.get_of_forall_ne d fun e he => (above' e he).ne']
      · simpa [SMap.get, hk] using same k

/-! ### O4 -/

/-- Settles O4: a run of bytes is written byte by byte, and two tables in the canonical form list the same first entry, then the same rest. -/
theorem memoriesReadAsWritten : Obligations.MemoriesReadAsWritten := by
  intro m hm
  refine ⟨fun a b k => Memory.read_write a b k hm, fun a bs k => Memory.read_writeN a bs k hm, ?_, fun n hn same => SMap.eq_of_get hm hn same⟩
  rintro a _ bs rfl
  exact Memory.readN_writeN a bs hm

end Sys2Proof.Machine
end

section
/-! PROOF. Descriptors and allocations (R102–R119, R280, R467): slots and handles, the sweep of freed allocations, and the obligations. -/

namespace Sys2Proof.Machine

open Sys2Proof

/-! ### Slots and handles -/

theorem SMap.insert_insert {α : Type} (m : SMap α) (i : Nat) (v w : α) : (m.insert i v).insert i w = m.insert i w := by
  induction m with
  | nil => simp [SMap.insert]
  | cons e m ih =>
    obtain ⟨j, x⟩ := e
    rcases Nat.lt_trichotomy i j with lt | rfl | gt
    · simp [SMap.insert, lt]
    · simp [SMap.insert]
    · simp [SMap.insert, Nat.not_lt.mpr gt.le, gt.ne', ih]

theorem State.slot_setSlot_same (s : State) (i : Nat) {v : DescSlot} (h : v ≠ DescSlot.fresh) : (s.setSlot i v).slot i = v :=
  SMap.get_set_same s.desc i h

theorem State.slot_setSlot_ne (s : State) {i j : Nat} (v : DescSlot) (h : j ≠ i) : (s.setSlot i v).slot j = s.slot j :=
  SMap.get_set_ne _ s.desc v h

/-- Of two values written to one slot the later one stands. -/
theorem State.setSlot_setSlot (s : State) (i : Nat) {v w : DescSlot} (hv : v ≠ DescSlot.fresh) (hw : w ≠ DescSlot.fresh) :
    (s.setSlot i v).setSlot i w = s.setSlot i w := by
  simp only [State.setSlot, SMap.set, if_neg hv, if_neg hw, SMap.insert_insert]

theorem DescSlot.ne_fresh_of_tag {v : DescSlot} (h : v.tag ≠ 1) : v ≠ DescSlot.fresh := fun e => h (congrArg DescSlot.tag e)

/-- A slot that has become free: it carries the next tag (R115). -/
def DescSlot.freed (v : DescSlot) : DescSlot := { tag := v.tag + 1, desc := none, dead := false, refs := 0, retired := v.retired }

theorem DescSlot.freed_ne_fresh {v : DescSlot} (h : v.tag ≠ 0) : v.freed ≠ DescSlot.fresh :=
  DescSlot.ne_fresh_of_tag fun e => h (Nat.succ.inj e)

/-- A handle that names a live descriptor carries the tag of its slot (R113, R119). -/
theorem State.handle_live {s : State} {h : Word} {i : Nat} {d : Desc} (live : s.handle h = .live i d) :
    i = hSlot h ∧ h ≠ 0 ∧ hTag h ≠ 0 ∧ (s.slot i).desc = some d ∧ (s.slot i).tag = hTag h := by
  unfold State.handle at live
  split at live
  · cases live
  · next nonnull =>
    split at live
    · cases live
    · next tagged =>
      dsimp only at live
      split at live
      · next held =>
        split at live
        · next same =>
          cases live
          rw [Bool.and_eq_true, beq_iff_eq] at same
          exact ⟨rfl, nonnull, tagged, held, same.2⟩
        · cases live
      · cases live

/-- A handle of a free slot is stale (R119). -/
theorem State.handle_free {s : State} {h : Word} (nonnull : h ≠ 0) (tagged : hTag h ≠ 0) (free : (s.slot (hSlot h)).desc = none) :
    s.handle h = .stale := by
  simp only [State.handle, if_neg nonnull, if_neg tagged, free]

/-! ### References -/

/-- References are taken in the descriptor table alone. -/
theorem State.foldl_addRef_frame (l : List Nat) (s : State) : { l.foldl State.addRef s with desc := s.desc } = s := by
  induction l generalizing s with
  | nil => rfl
  | cons i l ih => exact congrArg (fun t : State => { t with desc := s.desc }) (ih (s.addRef i))

/-- References are taken alike whatever the command link holds. -/
theorem State.foldl_addRef_link (l : List Nat) (s : State) (k : Lnk) :
    l.foldl State.addRef { s with lnk := k } = { l.foldl State.addRef s with lnk := k } := by
  induction l generalizing s with
  | nil => rfl
  | cons i l ih => exact ih (s.addRef i)

/-- The last reference of a destroyed descriptor without auxiliary ones frees its slot (R115). -/
theorem State.dropRef_last {s : State} {i : Nat} {d : Desc} (held : (s.slot i).desc = some d) (dead : (s.slot i).dead = true)
    (one : (s.slot i).refs = 1) (aux : d.aux = []) :
    s.dropRef i = s.setSlot i { s.slot i with desc := none, dead := false, refs := 0 } := by
  have settled : DescSlot.settle { s.slot i with refs := (s.slot i).refs - 1 } = { s.slot i with desc := none, dead := false, refs := 0 } := by
    simp [DescSlot.settle, dead, one]
  rw [State.dropRef]
  dsimp only
  rw [settled, held]
  dsimp only
  rw [aux, List.foldl_nil]

/-! ### The sweep of freed allocations (R108) -/

theorem foldl_keeps {α β : Type} {f : β → α → β} {b : β} {l : List α} (h : ∀ a ∈ l, f b a = b) : l.foldl f b = b := by
  induction l with
  | nil => rfl
  | cons a l ih => rw [List.foldl_cons, h a (List.mem_cons_self ..), ih fun x hx => h x (List.mem_cons_of_mem _ hx)]

/-- What the sweep does for one listed allocation. -/
def State.sweepOne (s : State) (e : Nat × Alloc) : State :=
  if e.2.freed ∧ (s.desc.any fun x => match x.2.desc with
      | some d => x.2.dead && d.liesIn e.2.part e.2.space e.2.base e.2.size
      | none => false) = false then
    { (s.modCab fun c => c.release (.alloc e.1)) with allocs := SMap.erase s.allocs e.1 }
  else s

theorem State.sweepAllocs_eq (s : State) : s.sweepAllocs = s.allocs.foldl State.sweepOne s := rfl

theorem State.sweepOne_kept (s : State) {e : Nat × Alloc} (h : e.2.freed = false) : s.sweepOne e = s := if_neg (by simp [h])

/-- No descriptor lies in an allocation. -/
def State.vacant (s : State) (a : Alloc) : Prop :=
  ∀ e ∈ s.desc, ∀ d, e.2.desc = some d → d.liesIn a.part a.space a.base a.size = false

theorem State.sweepOne_vacant {s : State} {i : Nat} {a : Alloc} (vacant : s.vacant a) :
    s.sweepOne (i, { a with freed := true }) = { s with allocs := SMap.erase s.allocs i, cab := s.cab.release (.alloc i) } := by
  refine if_pos ⟨rfl, List.any_eq_false.mpr fun x hx => ?_⟩
  cases hd : x.2.desc with
  | none => simp
  | some d => simp [vacant x hx d hd]

theorem State.sweepAllocs_kept {s : State} (h : ∀ a ∈ s.allocs, a.2.freed = false) : s.sweepAllocs = s := by
  rw [State.sweepAllocs_eq]
  exact foldl_keeps fun e he => s.sweepOne_kept (h e he)

/-- Destroying the descriptors of an allocation in which none lies. -/
theorem State.destroyIn_vacant {s : State} {a : Alloc} (vacant : s.vacant a) : s.destroyIn a.part a.space a.base a.size = s := by
  refine foldl_keeps fun e he => ?_
  cases hd : e.2.desc with
  | none => rfl
  | some d => simp [vacant e he d hd]

/-- An index listed behind lower ones, written and erased. -/
theorem SMap.insert_behind {α : Type} {l m : SMap α} {i : Nat} {x : α} (v : α) (h : ∀ e ∈ l, e.1 < i) :
    SMap.insert (l ++ (i, x) :: m) i v = l ++ (i, v) :: m := by
  induction l with
  | nil => simp [SMap.insert]
  | cons e l ih =>
    have lt := h e (List.mem_cons_self ..)
    simp [SMap.insert, Nat.not_lt.mpr lt.le, lt.ne', ih fun x hx => h x (List.mem_cons_of_mem _ hx)]

theorem SMap.erase_behind {α : Type} {l m : SMap α} {i : Nat} {x : α} (h : ∀ e ∈ l, e.1 < i) :
    SMap.erase (l ++ (i, x) :: m) i = l ++ m := by
  induction l with
  | nil => simp [SMap.erase]
  | cons e l ih =>
    simp [SMap.erase, (h e (List.mem_cons_self ..)).ne', ih fun x hx => h x (List.mem_cons_of_mem _ hx)]

/-- An allocation in which no descriptor lies goes with its range of the Cabinet in the sweep that follows its release (R108). -/
theorem State.sweepAllocs_freed {s : State} {i : Nat} {a : Alloc} (listed : s.allocs.find? (fun e => e.1 == i) = some (i, a))
    (order : (s.allocs.map (·.1)).Pairwise (· < ·)) (kept : ∀ e ∈ s.allocs, e.2.freed = false) (vacant : s.vacant a) :
    State.sweepAllocs { s with allocs := SMap.insert s.allocs i { a with freed := true } }
      = { s with allocs := SMap.erase s.allocs i, cab := s.cab.release (.alloc i) } := by
  obtain ⟨-, l, m, split, -⟩ := List.find?_eq_some_iff_append.mp listed
  have below : ∀ e ∈ l, e.1 < i := by
    rw [split, List.map_append, List.pairwise_append] at order
    exact fun e he => order.2.2 _ (List.mem_map_of_mem he) i (by simp)
  rw [split] at kept
  rw [State.sweepAllocs_eq, split, SMap.insert_behind _ below, SMap.erase_behind below, List.foldl_append, List.foldl_cons,
    foldl_keeps (l := l) fun e he => State.sweepOne_kept _ (kept e (by simp [he])),
    State.sweepOne_vacant (s := { s with allocs := l ++ (i, { a with freed := true }) :: m }) vacant,
    foldl_keeps fun e he => State.sweepOne_kept _ (kept e (by simp [he]))]
  simp only [SMap.erase_behind below]

/-! ### Creating and destroying descriptors -/

/-- A descriptor passes every check of R109 and finds the free slot i, with this tag, under its partition's quota. -/
structure State.CanCreate (s : State) (d : Desc) (i tag : Nat) : Prop where
  check1 : d.check1 = true
  check2 : d.check2 = true
  current : ∀ h ∈ [d.scaleH, d.pscaleH, d.escH], s.handle h ≠ .stale
  check4 : s.check4 d = true
  aligned : d.aligned = true → d.base % 64 = 0 ∧ ∀ k < d.rank, d.stride k % 64 = 0
  granted : s.inGrant d.part d.space d.base d.footprint = true
  free : s.freeSlot = some (i, tag)
  quota : s.dscUse d.part < (s.getP d.part).dscQuota.toNat

/-- The checks do not look at the command link. -/
theorem State.CanCreate.link {s : State} {d : Desc} {i tag : Nat} (h : s.CanCreate d i tag) (b : Lnk) :
    State.CanCreate { s with lnk := b } d i tag :=
  ⟨h.check1, h.check2, h.current, h.check4, h.aligned, h.granted, h.free, h.quota⟩

/-- A descriptor with the flags of R104 and R110. -/
def Desc.flagged (d : Desc) : Desc := { d with overlap := d.overlaps, misaligned := d.misaligns }

/-- The state in which a descriptor fills a slot, its auxiliary ones referenced (R102). -/
def State.fillSlot (s : State) (d : Desc) (i tag : Nat) : State :=
  d.aux.foldl State.addRef (s.setSlot i { tag := tag, desc := some d, dead := false, refs := 0, retired := false })

theorem State.createDesc_ok {s : State} {d0 : Desc} {p i tag : Nat} {img : List Word}
    (image : d0 = { part := p, words := img, overlap := false, misaligned := false }) (can : s.CanCreate d0 i tag) :
    s.createDesc p img = (.ok (BitVec.ofNat 32 (2 ^ 18 * tag + i), d0.flagged), s.fillSlot d0.flagged i tag) := by
  obtain ⟨check1, check2, current, check4, aligned, granted, free, quota⟩ := can
  have fresh : ¬([d0.scaleH, d0.pscaleH, d0.escH].any fun h => s.handle h == .stale) = true := by
    rw [Bool.not_eq_true, List.any_eq_false]
    exact fun h hh => by simpa using current h hh
  have straight : ¬(d0.aligned ∧ (d0.base % 64 ≠ 0 ∨ ((List.range d0.rank).any fun k => d0.stride k % 64 != 0) = true)) := fun ⟨h, odd⟩ => by
    obtain ⟨base, strides⟩ := aligned h
    rcases odd with odd | odd
    · exact odd base
    · obtain ⟨k, hk, e⟩ := List.any_eq_true.mp odd
      exact absurd (strides k (List.mem_range.mp hk)) (by simpa using e)
  subst image
  unfold State.createDesc
  dsimp only
  rw [if_neg (by simp [check1]), if_neg (by simp [check2]), if_neg fresh, if_neg (by simp [check4]), if_neg straight,
    if_neg (by simp [granted]), free]
  dsimp only
  rw [if_neg (Nat.not_le.mpr quota)]
  rfl

/-- A live descriptor that nothing references is destroyed: its slot is free with the next tag (R115). -/
theorem State.destroySlot_unreferenced {s : State} {i : Nat} {d : Desc} (held : (s.slot i).desc = some d) (tagged : (s.slot i).tag ≠ 0)
    (unused : (s.slot i).refs = 0) (last : (s.slot i).tag < 0x3FFF) (aux : d.aux = []) (kept : ∀ a ∈ s.allocs, a.2.freed = false) :
    s.destroySlot i = s.setSlot i (s.slot i).freed := by
  let marked : DescSlot := { tag := (s.slot i).tag + 1, desc := some d, dead := true, refs := 1, retired := (s.slot i).retired }
  have listed : marked ≠ DescSlot.fresh := DescSlot.ne_fresh_of_tag fun e => tagged (Nat.succ.inj e)
  have here : (s.setSlot i marked).slot i = marked := s.slot_setSlot_same i listed
  have dropped : (s.setSlot i marked).dropRef i = s.setSlot i (s.slot i).freed := by
    rw [State.dropRef_last (d := d) (by rw [here]) (by rw [here]) (by rw [here]) aux, here]
    exact s.setSlot_setSlot i listed (DescSlot.freed_ne_fresh tagged)
  have mark : ({ s.slot i with dead := true, refs := (s.slot i).refs + 1
                               tag := if (s.slot i).tag = 0x3FFF then (s.slot i).tag else (s.slot i).tag + 1
                               retired := (s.slot i).retired || decide ((s.slot i).tag = 0x3FFF) } : DescSlot) = marked := by
    simp [marked, held, unused, last.ne]
  rw [State.destroySlot, mark, if_neg last.ne, dropped]
  exact State.sweepAllocs_kept kept

/-- `DESC_CREATE` of an image that passes the checks of R109, where a slot is free under the quota. -/
theorem exec_descCreate {s : State} {f : RclFrame} {d0 : Desc} {i tag : Nat} (h : s.admits 0x10 f = true) (len : f.data.length = 128)
    (resv : fld (f.word 0) 31 5 = 0) (zero : ((f.data.drop 4).take 28).all (· == 0) = true)
    (image : d0 = { part := fld (f.word 0) 4 0, words := wordsOf (f.data.drop 32) 24, overlap := false, misaligned := false })
    (can : s.CanCreate d0 i tag) :
    let t := s.fillSlot d0.flagged i tag
    ∃ l, exec (.descCreate f) s = .next { t with lnk := l }
      ∧ ({ t with lnk := l } : State).answers f .ok
          (bytes4 [(BitVec.ofNat 32 (2 ^ 18 * tag + i)).toNat, b2n d0.overlaps + at_ (b2n d0.misaligns) 1]) := by
  intro t
  obtain ⟨b, begun, -⟩ := s.begun_eq 0x10 f none
  have created : (s.begun 0x10 f).createDesc (fld (f.word 0) 4 0) (wordsOf (f.data.drop 32) 24)
      = (.ok (BitVec.ofNat 32 (2 ^ 18 * tag + i), d0.flagged), { t with lnk := b }) := by
    rw [begun, State.createDesc_ok image (can.link b), State.fillSlot]
    exact congrArg (Prod.mk _) (State.foldl_addRef_link _ (s.setSlot i _) b)
  refine State.serve_begun (t := { t with lnk := b }) h (by rw [begun]) ?_
  refine (if_neg ?_).trans ?_
  · simpa [len, resv] using zero
  · rw [created]
    rfl

/-- `DESC_DESTROY` of a live handle. -/
theorem exec_descDestroy {s : State} {f : RclFrame} {i : Nat} {d : Desc} (h : s.admits 0x11 f = true) (len : f.data.length = 4)
    (live : s.handle (f.word 0) = .live i d) (unused : (s.slot i).refs = 0) (last : (s.slot i).tag < 0x3FFF) (aux : d.aux = [])
    (kept : ∀ a ∈ s.allocs, a.2.freed = false) :
    let t := s.setSlot i (s.slot i).freed
    ∃ l, exec (.descDestroy f) s = .next { t with lnk := l } ∧ ({ t with lnk := l } : State).answers f .ok [] := by
  intro t
  obtain ⟨-, -, tagged, held, tag⟩ := State.handle_live live
  obtain ⟨b, begun, -⟩ := s.begun_eq 0x11 f none
  have found : (s.begun 0x11 f).handle (f.word 0) = .live i d := by rw [begun]; exact live
  have destroyed : (s.begun 0x11 f).destroySlot i = { t with lnk := b } := by
    rw [begun]
    exact State.destroySlot_unreferenced (s := { s with lnk := b }) held (tag ▸ tagged) unused last aux kept
  refine State.serve_begun (t := { t with lnk := b }) h (by rw [begun]) ?_
  refine (if_neg (by simp [len])).trans ?_
  rw [found, ← destroyed]

/-! ### O17 -/

/-- Settles O17: the image passes the checks in their order and its descriptor fills the free slot; the destroyed one, which nothing
references, frees it. -/
theorem descriptorsAreCreatedAndDestroyed : Obligations.DescriptorsAreCreatedAndDestroyed := by
  constructor
  · intro s f d0 i tag h len resv zero image check1 check2 current check4 aligned granted free quota d
    obtain ⟨l, run, answered⟩ := exec_descCreate h len resv zero image ⟨check1, check2, current, check4, aligned, granted, free, quota⟩
    refine ⟨_, run, answered, ?_, rfl⟩
    exact congrArg (fun t : State => { t with lnk := s.lnk, desc := s.desc }) (State.foldl_addRef_frame d.aux (s.setSlot i _))
  · intro s f i d h len live unused last aux kept
    obtain ⟨l, run, answered⟩ := exec_descDestroy h len live unused last aux kept
    obtain ⟨slot, nonnull, tagged, -, tag⟩ := State.handle_live live
    have same := s.slot_setSlot_same i (DescSlot.freed_ne_fresh (tag ▸ tagged))
    refine ⟨_, run, answered, rfl, same, fun j ne => State.slot_setSlot_ne s _ ne, ?_⟩
    exact State.handle_free nonnull tagged (slot ▸ congrArg DescSlot.desc same)

/-! ### Allocations -/

/-- A range under the quota is reserved where the lowest free one begins (R280, R281). -/
theorem State.charge_ok {s : State} {p len g : Nat} (o : CabObj) (quota : s.cabUse p + len ≤ (s.getP p).cabQuota.toNat)
    (free : lowestFree len s.cab.exportBase 0 s.cab.extents = some g) :
    s.charge p len o = (some g, s.modCab fun c => { c with extents := addExtent ⟨g, len, p, o⟩ c.extents }) := by
  rw [State.charge, if_pos quota, free]

/-- The state in which the next allocation is listed. -/
def State.allocate (s : State) (p space base size : Nat) : State :=
  { s with
    allocs := SMap.insert s.allocs s.allocNext { part := p, space := space, base := base, size := size, freed := false }
    allocNext := s.allocNext + 1 }

/-- A payload of `ALLOC` whose reserved fields are zero and whose size is some granules (R467). -/
structure RclFrame.AsksRange (f : RclFrame) : Prop where
  len : f.data.length = 24
  part : fld (f.word 0) 7 5 = 0
  space : fld (f.word 0) 31 11 = 0
  resv : f.word 4 = 0
  nonempty : f.pl 8 8 ≠ 0
  whole : f.pl 8 8 % granule = 0

/-- `ALLOC` of a range of HBM (R467). -/
theorem exec_alloc_hbm {s : State} {f : RclFrame} {g : Nat} (h : s.admits 0x12 f = true) (asks : f.AsksRange)
    (space : fld (f.word 0) 10 8 = 0) (base : f.pl 16 8 = 0)
    (quota : s.cabUse (fld (f.word 0) 4 0) + f.pl 8 8 / granule ≤ (s.getP (fld (f.word 0) 4 0)).cabQuota.toNat)
    (free : lowestFree (f.pl 8 8 / granule) s.cab.exportBase 0 s.cab.extents = some g) :
    let t := (s.modCab fun c => { c with
        extents := addExtent ⟨g, f.pl 8 8 / granule, fld (f.word 0) 4 0, .alloc s.allocNext⟩ c.extents }).allocate
          (fld (f.word 0) 4 0) 0 (gAddr g) (f.pl 8 8)
    ∃ l, exec (.alloc f) s = .next { t with lnk := l }
      ∧ ({ t with lnk := l } : State).answers f .ok (leBytes 8 s.allocNext ++ leBytes 8 (gAddr g)) := by
  intro t
  obtain ⟨b, begun, -⟩ := s.begun_eq 0x12 f none
  refine State.serve_begun (t := { t with lnk := b }) h (by rw [begun]) ?_
  rw [begun]
  refine (if_neg (by simp [asks.len, asks.part, asks.space, asks.resv])).trans ?_
  refine (if_neg (by simp [space, asks.nonempty, asks.whole, base])).trans ?_
  refine (if_pos space).trans ?_
  refine (if_neg (not_not.mpr base)).trans ?_
  rw [State.charge_ok (s := { s with lnk := b }) _ quota free]
  dsimp only
  rw [space]
  rfl

/-- `ALLOC` of a range of the host space (R467). -/
theorem exec_alloc_host {s : State} {f : RclFrame} (h : s.admits 0x12 f = true) (asks : f.AsksRange)
    (space : fld (f.word 0) 10 8 = 2) (aligned : f.pl 16 8 % granule = 0) (inside : f.pl 16 8 + f.pl 8 8 ≤ 2 ^ 56)
    (apart : ∀ e ∈ s.allocs, e.2.space = 2 → e.2.part ≠ fld (f.word 0) 4 0 →
      e.2.base + e.2.size ≤ f.pl 16 8 ∨ f.pl 16 8 + f.pl 8 8 ≤ e.2.base) :
    let t := s.allocate (fld (f.word 0) 4 0) 2 (f.pl 16 8) (f.pl 8 8)
    ∃ l, exec (.alloc f) s = .next { t with lnk := l }
      ∧ ({ t with lnk := l } : State).answers f .ok (leBytes 8 s.allocNext ++ leBytes 8 (f.pl 16 8)) := by
  intro t
  obtain ⟨b, begun, -⟩ := s.begun_eq 0x12 f none
  have clear : ¬(2 ^ 56 < f.pl 16 8 + f.pl 8 8 ∨ (s.allocs.any fun e => e.2.space == 2 && e.2.part != fld (f.word 0) 4 0
      && decide (f.pl 16 8 < e.2.base + e.2.size) && decide (e.2.base < f.pl 16 8 + f.pl 8 8)) = true) := by
    rintro (beyond | clash)
    · exact Nat.not_lt.mpr inside beyond
    · obtain ⟨e, he, meets⟩ := List.any_eq_true.mp clash
      simp only [Bool.and_eq_true, beq_iff_eq, bne_iff_ne, decide_eq_true_eq, and_assoc] at meets
      obtain ⟨host, other, above, below⟩ := meets
      rcases apart e he host other with h | h
      · exact Nat.not_lt.mpr h above
      · exact Nat.not_lt.mpr h below
  refine State.serve_begun (t := { t with lnk := b }) h (by rw [begun]) ?_
  rw [begun]
  refine (if_neg (by simp [asks.len, asks.part, asks.space, asks.resv])).trans ?_
  refine (if_neg (by simp [space, asks.nonempty, asks.whole, aligned])).trans ?_
  refine (if_neg (by simp [space])).trans ?_
  refine (if_neg clear).trans ?_
  rw [space]
  rfl

/-- `ALLOC_FREE` of an allocation in which no descriptor lies (R108). -/
theorem exec_allocFree {s : State} {f : RclFrame} {a : Alloc} (h : s.admits 0x13 f = true) (len : f.data.length = 4)
    (listed : s.allocs.find? (fun e => e.1 == f.pl 0 4) = some (f.pl 0 4, a)) (order : (s.allocs.map (·.1)).Pairwise (· < ·))
    (kept : ∀ e ∈ s.allocs, e.2.freed = false) (vacant : s.vacant a) :
    let t := { s with allocs := SMap.erase s.allocs (f.pl 0 4), cab := s.cab.release (.alloc (f.pl 0 4)) }
    ∃ l, exec (.allocFree f) s = .next { t with lnk := l } ∧ ({ t with lnk := l } : State).answers f .ok [] := by
  intro t
  obtain ⟨b, begun, -⟩ := s.begun_eq 0x13 f none
  have live : a.freed = false := kept _ (List.mem_of_find?_eq_some listed)
  have found : (s.begun 0x13 f).allocs.find? (fun e => e.1 == f.pl 0 4) = some (f.pl 0 4, a) := by rw [begun]; exact listed
  have swept := State.sweepAllocs_freed (s := { s with lnk := b }) listed order kept vacant
  refine State.serve_begun (t := { t with lnk := b }) h (by rw [begun]) ?_
  dsimp only
  rw [found]
  refine (if_neg (by simp [len, live])).trans ?_
  rw [begun, State.destroyIn_vacant (s := { s with lnk := b }) vacant]
  exact congrArg (Prod.mk _) swept

/-! ### O18 -/

/-- Settles O18: a free range of HBM is charged, a range of the host space is only listed; a released allocation goes in the sweep. -/
theorem rangesAreAllocatedAndFreed : Obligations.RangesAreAllocatedAndFreed := by
  constructor
  · intro s f h len part space resv nonempty whole
    have asks : f.AsksRange := ⟨len, part, space, resv, nonempty, whole⟩
    constructor
    · intro g space base quota free
      obtain ⟨l, run, answered⟩ := exec_alloc_hbm h asks space base quota free
      exact ⟨_, run, answered, rfl⟩
    · intro space aligned inside apart
      obtain ⟨l, run, answered⟩ := exec_alloc_host h asks space aligned inside apart
      exact ⟨_, run, answered, rfl⟩
  · intro s f a h len listed order kept vacant
    obtain ⟨l, run, answered⟩ := exec_allocFree h len listed order kept vacant
    exact ⟨_, run, answered, rfl⟩

end Sys2Proof.Machine
end

section
/-! PROOF. Writes that become visible (R416) and `COPY` of a dense vector (R125, R442): what each step of it reads and emits, and the
obligation. -/

namespace Sys2Proof.Machine

open Sys2Proof

/-! ### A write becomes visible -/

/-- Bytes that land in HBM change it, its counters, wakes that are asked for, and poison. -/
theorem State.land_hbm (s : State) (a : Nat) (bs : List Byte) :
    ∃ w k r, s.land 0 a bs = { s with hbm := Memory.writeN s.hbm a bs, hbmStk := k, ras := r, pwr := w } := ⟨_, _, _, rfl⟩

theorem State.land_shelf (s : State) (a : Nat) (bs : List Byte) : s.land 1 a bs = { s with shelf := Memory.writeN s.shelf a bs } := rfl

/-- The state in which an acknowledged write has landed and no longer waits. -/
def State.landed (s : State) (w : PWrite) : State :=
  State.land { s with writes := s.writes.filter fun x => x.id != w.id } w.space w.addr w.bytes

/-- An acknowledged write that carries no order lands as it is. -/
theorem exec_writeAck {s : State} {id : Nat} {w : PWrite} (found : s.writes.find? (fun x => x.id == id) = some w) (device : w.space < 2)
    (plain : w.key = 0) :
    exec (.writeAck id) s = .next (match w.tag with | .step p n _ => (s.landed w).settleWrite p n id | _ => s.landed w) := by
  have named : w.id = id := by simpa using List.find?_some found
  subst named
  have waits : s.writes.any (fun x => x.id == w.id && decide (x.space < 2)) = true :=
    List.any_eq_true.mpr ⟨w, List.mem_of_find?_eq_some found, by simp [device]⟩
  refine congrArg Host.Outcome.next ((if_pos waits).trans ?_)
  simp only [State.ackWrite, found, if_pos plain, List.foldl_cons, List.foldl_nil]
  rfl

/-- What a landed write changes. -/
theorem State.landed_frame (s : State) {w : PWrite} (device : w.space < 2) :
    let u := s.landed w
    u.writes = s.writes.filter (fun x => x.id != w.id)
      ∧ { u with hbm := s.hbm, shelf := s.shelf, writes := s.writes, hbmStk := s.hbmStk, ras := s.ras, pwr := s.pwr } = s
      ∧ u.hbm = (if w.space = 0 then Memory.writeN s.hbm w.addr w.bytes else s.hbm)
      ∧ u.shelf = (if w.space = 0 then s.shelf else Memory.writeN s.shelf w.addr w.bytes) := by
  obtain e | e : w.space = 0 ∨ w.space = 1 := by omega
  · obtain ⟨p, k, r, eq⟩ := State.land_hbm { s with writes := s.writes.filter fun x => x.id != w.id } w.addr w.bytes
    rw [State.landed, e, eq]
    exact ⟨rfl, rfl, rfl, rfl⟩
  · rw [State.landed, e, State.land_shelf]
    exact ⟨rfl, rfl, rfl, rfl⟩

/-! ### Dense vectors -/

/-- A dense FP32 vector in device memory, with no auxiliary arrays. -/
structure Desc.DenseVec (d : Desc) : Prop where
  fmt : d.fmt = 0
  rank : d.rank = 1
  blkAxis : d.blkAxis = 0
  paged : d.paged = false
  device : d.space < 2
  scaleH : d.scaleH = 0
  pscaleH : d.pscaleH = 0
  escH : d.escH = 0

theorem Desc.DenseVec.sizes {d : Desc} (h : d.DenseVec) : d.sizes = [d.size 0] := by simp [Desc.sizes, h.rank]

/-- The single row begins at the base. -/
theorem Desc.DenseVec.rowAddr {d : Desc} (h : d.DenseVec) (s : State) (v : View) : s.rowAddr v d [] = some d.base := by
  simp [State.rowAddr, h.rank, h.paged]

/-- Elements take four bytes each. -/
theorem Desc.DenseVec.rowLen {d : Desc} (h : d.DenseVec) (n : Nat) : rowLen d.fmt (32 * n) / 32 = 4 * n := by
  rw [h.fmt]
  change 32 * n * 4 / 32 = 4 * n
  omega

theorem Desc.DenseVec.memOf {d : Desc} (h : d.DenseVec) (s : State) (v : View) : s.memOf v d = [(d.space, d.base, 4 * d.size 0)] := by
  simp [State.memOf, h.sizes, allCoords, h.rowAddr, h.rowLen, State.auxDesc, h.scaleH, h.pscaleH, h.escH]

/-- Two dense vectors apart in memory. -/
theorem Desc.DenseVec.not_overlapping {a b : Desc} (ha : a.DenseVec) (hb : b.DenseVec) (s : State) (v : View)
    (apart : a.space ≠ b.space ∨ a.base + 4 * a.size 0 ≤ b.base ∨ b.base + 4 * b.size 0 ≤ a.base) : s.overlapping v a b = false := by
  simp only [State.overlapping, ha.memOf, hb.memOf, List.any_cons, List.any_nil, Bool.or_false]
  rw [← Bool.not_eq_true]
  simp only [Bool.and_eq_true, beq_iff_eq, decide_eq_true_eq]
  omega

/-- The bytes of one element. -/
theorem Desc.DenseVec.rawAt {d : Desc} (h : d.DenseVec) (s : State) (v : View) {k : Nat} (hk : k < d.size 0) :
    s.rawAt v d [k] 1 = some ((List.range 4).map fun n => v d.space (d.base + 4 * k + n)) := by
  have inside : nth [k] 0 0 + 1 ≤ d.size 0 := hk
  rw [State.rawAt, if_pos inside, show [k].drop 1 = [] from rfl, h.rowAddr, h.rowLen, h.rowLen]
  rfl

/-! ### A job without lists, bounds or transposition -/

/-- A `COPY` of a dense vector to another of the same length that it does not overlap. -/
structure CopyJob.Plain (j : CopyJob) : Prop where
  src : j.a.DenseVec
  dst : j.b.DenseVec
  size : j.a.size 0 = j.b.size 0
  iform : j.m.iform = 0
  flag : j.m.flag = false
  bnd : j.bnd = none
  clash : j.clash = false

theorem CopyJob.Plain.gather {j : CopyJob} (h : j.Plain) : j.gather = false := by simp [CopyJob.gather, h.iform]
theorem CopyJob.Plain.scatter {j : CopyJob} (h : j.Plain) : j.scatter = false := by simp [CopyJob.scatter, h.iform]
theorem CopyJob.Plain.tr {j : CopyJob} (h : j.Plain) : j.tr = false := h.flag
theorem CopyJob.Plain.bits {j : CopyJob} (h : j.Plain) : j.bits = true := by
  simp [CopyJob.bits, h.src.fmt, h.dst.fmt, h.src.blkAxis, h.dst.blkAxis]

theorem CopyJob.Plain.walkSizes {j : CopyJob} (h : j.Plain) : j.walkSizes = [j.a.size 0] := by
  simp [CopyJob.walkSizes, h.gather, h.bnd, h.src.sizes]

theorem CopyJob.Plain.sqSizes {j : CopyJob} (h : j.Plain) : j.sqSizes = [j.a.size 0] := by simp [CopyJob.sqSizes, h.tr, h.walkSizes]

/-- Each operand element is at its own place in the source … -/
theorem CopyJob.Plain.copySrc {j : CopyJob} (h : j.Plain) (s : State) (v : View) {k : Nat} (hk : k < j.a.size 0) :
    s.copySrc v j [k] = (some [k], false, 0) := by
  have edge : j.edge [k] = false := by simp [CopyJob.edge, h.walkSizes, hk]
  simp [State.copySrc, edge, h.gather]

/-- … and in the destination. -/
theorem CopyJob.Plain.copyDst {j : CopyJob} (h : j.Plain) (s : State) (v : View) (k : Nat) : s.copyDst v j [k] = (some [k], 0, 0) := by
  simp [State.copyDst, h.tr, h.scatter, h.dst.rank, nth]

theorem CopyJob.Plain.copyRngs {j : CopyJob} (h : j.Plain) (s : State) (v : View) (l : j.l = none) : s.copyRngs v j = [] := by
  simp [State.copyRngs, h.src.device, l, h.dst.paged]

/-! ### One element -/

/-- A write of a step without an order enters the pending writes. -/
theorem State.emit_device {s : State} {p : Nat} {c : Ctx} (i drw space a ew page : Nat) {bs : List Byte} (hc : s.ctxOf p = some c)
    (device : space < 2) (nonempty : bs ≠ []) :
    (s.emit p i drw 0 space a bs ew page).1 = s.putWrite space a bs (.step p c.sub.sseq i) drw 0 ew page := by
  simp [State.emit, hc, State.stepWrite, device, nonempty]

/-- The write by which element k of a plain `COPY` leaves. -/
def CopyJob.write (j : CopyJob) (v : View) (p sseq i id k : Nat) : PWrite :=
  { id := id, space := j.b.space, addr := j.b.base + 4 * k
    bytes := (List.range 4).map fun n => v j.a.space (j.a.base + 4 * k + n)
    tag := .step p sseq i, drw := 0xFFFF, key := 0, ew := 32, page := 0 }

/-- A plain `COPY` moves one element: one write with the source's bytes enters the pending ones. -/
theorem CopyJob.Plain.copyAtom {j : CopyJob} (h : j.Plain) {s : State} {p : Nat} {c : Ctx} (i : Nat) (v : View) {k : Nat}
    (hc : s.ctxOf p = some c) (hk : k < j.a.size 0) :
    s.copyAtom p i 0 v j 1 [k]
      = { s with writes := s.writes ++ [j.write v p c.sub.sseq i s.nextWrite k], nextWrite := s.nextWrite + 1 } := by
  have inside : nth [k] 0 0 + 1 ≤ j.b.size 0 := h.size ▸ hk
  have put (bs : List Byte) (nonempty : bs ≠ []) : s.copyPut p i 0 v j [k] 1 bs
      = (s.putWrite j.b.space (j.b.base + 4 * k) bs (.step p c.sub.sseq i) 0xFFFF 0 32 0, true) := by
    rw [State.copyPut, if_pos inside, show [k].drop 1 = [] from rfl, h.dst.rowAddr]
    dsimp only
    rw [h.dst.rowLen, State.copyEmit, if_neg (by simp [h.clash]), State.emit_device _ _ _ _ _ _ hc h.dst.device nonempty, h.dst.fmt]
    rfl
  have uncounted : s.addRec p i 0 0 = s := rfl
  simp [State.copyAtom, h.copySrc s v hk, h.copyDst, h.src.rawAt s v hk, uncounted, put, h.dst.scaleH, State.putWrite, CopyJob.write]

/-! ### The whole vector -/

/-- The first n elements leave in order. -/
theorem CopyJob.Plain.foldl_copyAtom {j : CopyJob} (h : j.Plain) {s : State} {p : Nat} {c : Ctx} (i : Nat) (v : View) {n : Nat}
    (hc : s.ctxOf p = some c) (hn : n ≤ j.a.size 0) :
    (List.range n).foldl (fun s k => s.copyAtom p i 0 v j 1 [k]) s
      = { s with
          writes := s.writes ++ (List.range n).map fun k => j.write v p c.sub.sseq i (s.nextWrite + k) k
          nextWrite := s.nextWrite + n } := by
  induction n with
  | zero => simp
  | succ n ih =>
    rw [List.range_succ, List.foldl_append, ih (Nat.le_of_succ_le hn), List.foldl_cons, List.foldl_nil]
    refine Eq.trans (h.copyAtom (s := { s with
        writes := s.writes ++ (List.range n).map fun k => j.write v p c.sub.sseq i (s.nextWrite + k) k
        nextWrite := s.nextWrite + n }) i v hc hn) ?_
    simp [Nat.add_assoc]

theorem CopyJob.Plain.copyRun {j : CopyJob} (h : j.Plain) {s : State} {p : Nat} {c : Ctx} (i : Nat) (v : View) (hc : s.ctxOf p = some c) :
    s.copyRun p i v j
      = { s with
          writes := s.writes ++ (List.range (j.a.size 0)).map fun k => j.write v p c.sub.sseq i (s.nextWrite + k) k
          nextWrite := s.nextWrite + j.a.size 0 } := by
  have coords : allCoords [j.a.size 0] = (List.range (j.a.size 0)).map fun k => [k] := by simp [allCoords]
  have whole : (j.a.blkAxis == 1 && !j.tr) = false := by simp [h.src.blkAxis]
  rw [← h.foldl_copyAtom i v hc le_rfl, State.copyRun]
  simp only [h.bits, whole, h.sqSizes, coords, List.foldl_map, if_true, CopyJob.key, h.scatter, Bool.false_eq_true, if_false]

/-- The `COPY` that is first in line runs: HBM counts what it reads, its elements leave, and it is done. -/
theorem exec_copy_plain {s : State} {p i : Nat} {c : Ctx} {a b : Desc} (hc : s.ctxOf p = some c) (run : c.phase = .run)
    (first : (List.range c.prog.length).find? (fun i => (c.mi i).op == 0x48 && (nth c.recs i freshRec).reached && !(nth c.recs i freshRec).done)
      = some i)
    (ready : s.readsReady p c i none = true) (ha : s.dOf (c.mi i).op0 = some a) (hb : s.dOf (c.mi i).op1 = some b)
    (unbounded : nth c.bounds i 0 = 0) (list : (c.mi i).ih = 0)
    (plain : (CopyJob.mk (c.mi i) a b none none false).Plain)
    (apart : a.space ≠ b.space ∨ a.base + 4 * a.size 0 ≤ b.base ∨ b.base + 4 * b.size 0 ≤ a.base) :
    exec (.copy p) s = .next (((s.hbmRead.copyRun p i (s.view c i) (CopyJob.mk (c.mi i) a b none none false)).modCtx p fun c =>
      { c with recs := modNth c.recs i fun r => { r with done := true } }).pump p) := by
  obtain ⟨w, k, n, read⟩ := s.hbmRead_eq
  have same : s.hbmRead.ctxOf p = some c := (State.ctxOf_eq_of_prt p (by rw [read])).trans hc
  have view : s.hbmRead.view c i = s.view c i := by rw [read]; rfl
  have unlisted : s.dOf 0 = none := rfl
  have here : s.want p i [] = (true, s) := State.want_here fun r hr => absurd hr List.not_mem_nil
  change Host.Outcome.next _ = _
  simp only [hc, run, ne_eq, not_true_eq_false, if_false, first, ready, Bool.true_eq_false, ha, hb, unbounded, if_true, list, unlisted,
    plain.copyRngs s _ rfl, here, same, view, plain.src.not_overlapping plain.dst s.hbmRead _ apart]

/-! ### O37 -/

/-- Settles O37: an acknowledged write lands and no longer waits; a `COPY` of a dense vector is the fold of one write for each element. -/
theorem writesAndCopiesMoveBytes : Obligations.WritesAndCopiesMoveBytes := by
  constructor
  · intro s id w found device plain
    have named : w.id = id := by simpa using List.find?_some found
    refine ⟨s.landed w, ?_, ?_⟩
    · refine (exec_writeAck found device plain).trans ?_
      cases w.tag <;> rfl
    · rw [← named]
      exact s.landed_frame device
  · intro s p i c a b hc run first ready ha hb unbounded iform list flag dense size apart hi
    have denseVec : ∀ d ∈ [a, b], d.DenseVec := fun d hd => by
      obtain ⟨fmt, rank, blkAxis, paged, device, scaleH, pscaleH, escH⟩ := dense d hd
      exact ⟨fmt, rank, blkAxis, paged, device, scaleH, pscaleH, escH⟩
    have plain : (CopyJob.mk (c.mi i) a b none none false).Plain :=
      ⟨denseVec a (by simp), denseVec b (by simp), size, iform, flag, rfl, rfl⟩
    obtain ⟨w, k, n, read⟩ := s.hbmRead_eq
    have same : s.hbmRead.ctxOf p = some c := (State.ctxOf_eq_of_prt p (by rw [read])).trans hc
    have moved := plain.copyRun i (s.view c i) same
    refine ⟨_, _, exec_copy_plain hc run first ready ha hb unbounded list plain apart, State.ctxOf_modCtx _ (c := c) ?_, ?_, ?_⟩
    · rw [moved]
      exact same
    · rw [nth_modNth_same _ _ hi]
    · rw [State.modCtx_writes, moved, read]
      rfl

end Sys2Proof.Machine
end

section
/-! PROOF. The register words after reset release (R404, R625, R629–R643), and the obligation: no word depends on the straps, so all but the
latches' words are those of one closed state. -/

namespace Sys2Proof.Machine

open Sys2Proof

/-- The two words of a latch (R621). -/
theorem placeOf_lat {n o : Nat} (hn : n < 32768) (ho : o < 8) : placeOf (0x180000 + 8 * n + o) = some ⟨.lat, n, o⟩ := by
  have k : (0x180000 + 8 * n + o - 0x180000) / 8 = n := by omega
  have r : (0x180000 + 8 * n + o - 0x180000) % 8 = o := by omega
  simp (disch := omega) only [placeOf, blocks, List.findSome?_cons, if_neg, if_pos, k, r]

theorem State.rdWord_lat (s : State) {n o : Nat} (hn : n < 32768) (ho : o < 8) : s.rdWord (0x180000 + 8 * n + o) = s.rdLat n o := by
  rw [State.rdWord, placeOf_lat hn ho]

/-- No word of the window shows the side ports. -/
theorem State.rdWord_side (s : State) (d : Side) (a : Nat) : State.rdWord { s with side := d } a = s.rdWord a := by
  unfold State.rdWord
  split
  · rfl
  · next x _ =>
    cases x.blk <;> rfl

/-- The first state after reset release. -/
def State.released (straps : Nat) : State :=
  (State.reset.modSide fun d => { d with rstN := true, straps := BitVec.ofNat 2 straps, tapIr := .bypass, pinsOut := none }).startBoot

theorem exec_resetRelease_reset (straps : Nat) : exec (.resetRelease straps) State.reset = .next (State.released straps) := rfl

theorem State.rdWord_released (straps a : Nat) : (State.released straps).rdWord a = (State.released 0).rdWord a :=
  State.rdWord_side (State.released 0) (State.released straps).side a

/-- The words of a latch that the image does not assign: free, with the domain that admits every agent (R404). -/
theorem State.rdLat_fresh {s : State} {n : Nat} (h : s.latchAt n = Latch.fresh) : s.rdLat n 0 = 0x200000 ∧ s.rdLat n 4 = 0 := by
  simp only [State.rdLat, h]
  decide

/-- Settles O1: the words at fixed addresses are evaluated, those of a latch are found by their place. -/
theorem resetValues : Obligations.ResetValues := by
  refine ⟨rfl, fun straps => ⟨State.released straps, exec_resetRelease_reset straps, ?_, ?_, ?_, ?_, fun i => ⟨rfl, rfl⟩⟩⟩
  · simp only [State.rdWord_released straps]
    decide +kernel
  · simp only [State.rdWord_released straps]
    decide +kernel
  · simp only [State.rdWord_released straps]
    decide +kernel
  · intro n hn
    obtain ⟨low, high⟩ := State.rdLat_fresh (s := State.released straps) (n := n) rfl
    exact ⟨((State.released straps).rdWord_lat hn (by decide)).trans low, ((State.released straps).rdWord_lat hn (by decide)).trans high⟩

end Sys2Proof.Machine
end

section
/-! PROOF. The commands that only report (R465): an answer that leaves the state as it stands changes the command link alone. -/

namespace Sys2Proof.Machine

open Sys2Proof

/-- An admitted command whose meaning answers at once and leaves the state as it stands, whatever the link holds. -/
theorem State.serve_reports {s : State} {code : Nat} {f : RclFrame} {body : Caller → State → Answer × State} {d : List Byte}
    (h : s.admits code f = true)
    (report : ∀ b : Lnk, body (s.callerOf code f) { s with lnk := b } = (.now .ok d, { s with lnk := b })) :
    ∃ t, (Host.Outcome.next (s.serve code none none f body) : Host.Outcome State Fault Refusal) = .next t ∧ s.onlyLink t
      ∧ t.answers f .ok d := by
  obtain ⟨b, begun, -⟩ := s.begun_eq code f none
  obtain ⟨l, run, answered⟩ := State.serve_begun (t := { s with lnk := b }) (body := body) h (by rw [begun])
    (by rw [begun]; exact report b)
  exact ⟨_, run, rfl, answered⟩

/-- A session may act on an adapter of its ward, an OPERATOR on any (R521). -/
theorem State.adapterFor_ok {s : State} {cl : Caller} {aid : Nat} {e : Entry} (found : s.entry aid = some e)
    (may : cl.sess.any (fun x => x.operator || e.ward == x.ward) = true) : s.adapterFor cl aid = .ok e := by
  obtain ⟨x, sess, ok⟩ := (Option.any_eq_true _ _).mp may
  rw [State.adapterFor, found, sess]
  exact if_pos (by simpa using ok)

/-- A session may act on a job of a ward that it may act for (R428). -/
theorem State.jobFor_ok {s : State} {cl : Caller} {id p : Nat} {j : Job} (found : s.jobOf id = some (p, j))
    (may : cl.mayActFor j.ward = true) : s.jobFor cl id = .ok (p, j) := by
  rw [State.jobFor, found]
  exact if_pos may

section
variable {s : State} {f : RclFrame}

theorem exec_logRead_reports (h : s.admits 0x0B f = true) (len : f.data.length = 12) (resv : fld (f.word 8) 31 7 = 0)
    (least : 1 ≤ fld (f.word 8) 6 0) (most : fld (f.word 8) 6 0 ≤ 64) :
    ∃ t, exec (.logRead f) s = .next t ∧ s.onlyLink t
      ∧ t.answers f .ok (((s.cab.log.filter fun r => decide (f.pl 0 8 ≤ r.lseq)).take (fld (f.word 8) 6 0)).flatMap CommitRec.bytes) :=
  State.serve_reports h fun _ => if_neg (by omega)

theorem exec_calRead_reports {x : Snap} (h : s.admits 0x0C f = true) (len : f.data.length = 8)
    (found : s.pol.snaps.find? (fun y => y.id == if f.pl 0 8 = 0 then s.pol.snapLast.toNat else f.pl 0 8) = some x) :
    ∃ t, exec (.calRead f) s = .next t ∧ s.onlyLink t
      ∧ t.answers f .ok (leBytes 8 x.id ++ leBytes 8 x.stamp ++ (List.range 256).flatMap fun g =>
          bytes4 [(nth x.grps g ⟨0, 0, 0, 0⟩).latV, (nth x.grps g ⟨0, 0, 0, 0⟩).bwV, (nth x.grps g ⟨0, 0, 0, 0⟩).latF,
            (nth x.grps g ⟨0, 0, 0, 0⟩).bwF]) :=
  State.serve_reports h fun b => by
    refine (if_neg (not_not.mpr len)).trans ?_
    dsimp only
    rw [found]

theorem exec_wardJobs_reports (h : s.admits 0x0D f = true) (len : f.data.length = 4) (resv : fld (f.word 0) 31 12 = 0) :
    ∃ t, exec (.wardJobs f) s = .next t ∧ s.onlyLink t
      ∧ t.answers f .ok (((s.mgt.wardJobs.drop (fld (f.word 0) 11 0)).take 256).flatMap fun e => bytes4 [e.1, e.2.1, e.2.2, 0]) :=
  State.serve_reports h fun _ => if_neg (by omega)

theorem exec_jobQuery_reports {p : Nat} {j : Job} (h : s.admits 0x23 f = true) (len : f.data.length = 8)
    (found : s.jobOf (f.pl 0 8) = some (p, j)) (may : (s.callerOf 0x23 f).mayActFor j.ward = true) :
    ∃ t, exec (.jobQuery f) s = .next t ∧ s.onlyLink t
      ∧ t.answers f .ok (leBytes 8 (jobCode j.st + at_ j.queue.length 8
          + at_ (min (((s.getP p).ctx.map fun c => if c.job = j.num then c.npre else 0).getD 0) 255) 13) ++ leBytes 8 j.last) :=
  State.serve_reports h fun b => by
    refine (if_neg (not_not.mpr len)).trans ?_
    rw [State.jobFor_ok (s := { s with lnk := b }) found may]
    change (Answer.now .ok (leBytes 8 (_ + at_ (min (match (s.getP p).ctx with | some c => _ | none => 0) 255) 13) ++ _), _) = _
    cases (s.getP p).ctx <;> rfl

theorem exec_poolQuery_reports (h : s.admits 0x32 f = true) (len : f.data.length = 0) :
    ∃ t, exec (.poolQuery f) s = .next t ∧ s.onlyLink t ∧ t.answers f .ok (poolReply s) :=
  State.serve_reports h fun _ => if_neg (not_not.mpr len)

theorem exec_adapterQuery_reports {e : Entry} (h : s.admits 0x1A f = true) (len : f.data.length = 4) (resv : fld (f.word 0) 31 24 = 0)
    (named : fld (f.word 0) 23 0 ≠ 0) (found : s.entry (fld (f.word 0) 23 0) = some e)
    (may : (s.sessOf f).any (fun x => x.operator || e.ward == x.ward) = true) :
    ∃ t, exec (.adapterQuery f) s = .next t ∧ s.onlyLink t ∧ t.answers f .ok (s.entryBytes e ++ e.vtabBytes) :=
  State.serve_reports h fun b => by
    refine (if_neg (by omega)).trans ?_
    refine (if_neg named).trans ?_
    rw [State.adapterFor_ok (s := { s with lnk := b }) found may]
    rfl

end

/-- Settles O16: each of the six passes its own checks and answers from the state as it stands. -/
theorem queriesReportAndChangeNothing : Obligations.QueriesReportAndChangeNothing :=
  fun _ _ => ⟨exec_logRead_reports, fun _ => exec_calRead_reports, exec_wardJobs_reports, fun _ _ => exec_jobQuery_reports,
    exec_poolQuery_reports, fun _ => exec_adapterQuery_reports⟩

end Sys2Proof.Machine
end

section
/-! PROOF. Words of a payload: a list of words spelled as bytes reads back word by word (R7). -/

namespace Sys2Proof.Machine

open Sys2Proof

@[simp] theorem leBytes_length (n v : Nat) : (leBytes n v).length = n := by
  induction n generalizing v with
  | zero => rfl
  | succ n ih => rw [leBytes, List.length_cons, ih]

theorem leNat_leBytes {n v : Nat} (h : v < 256 ^ n) : leNat (leBytes n v) = v := by
  induction n generalizing v with
  | zero => rw [pow_zero, Nat.lt_one_iff] at h; rw [h]; rfl
  | succ n ih =>
    have rest : leNat (leBytes n (v / 256)) = v / 256 := ih (Nat.div_lt_of_lt_mul (by rwa [pow_succ'] at h))
    rw [leBytes, leNat, rest, BitVec.toNat_ofNat]
    exact Nat.mod_add_div v 256

theorem bytes4_cons (a : Nat) (l : List Nat) : bytes4 (a :: l) = leBytes 4 a ++ bytes4 l := rfl

@[simp] theorem bytes4_length (l : List Nat) : (bytes4 l).length = 4 * l.length := by
  induction l with
  | nil => rfl
  | cons a l ih => rw [bytes4_cons, List.length_append, leBytes_length, ih, List.length_cons, Nat.mul_succ, Nat.add_comm]

theorem leAt_bytes4 {l : List Nat} (small : ∀ a ∈ l, a < 2 ^ 32) (i : Nat) (h : i < l.length) : leAt (bytes4 l) (4 * i) 4 = l[i] := by
  induction l generalizing i with
  | nil => cases h
  | cons a l ih =>
    cases i with
    | zero =>
      rw [leAt, bytes4_cons, Nat.mul_zero, List.drop_zero, List.take_left' (leBytes_length 4 a)]
      exact leNat_leBytes (small a (List.mem_cons_self ..))
    | succ i =>
      have skip : (bytes4 (a :: l)).drop (4 * (i + 1)) = (bytes4 l).drop (4 * i) := by
        rw [bytes4_cons, Nat.mul_succ, Nat.add_comm, ← List.drop_drop, List.drop_left' (leBytes_length 4 a)]
      rw [leAt, skip]
      exact ih (fun b hb => small b (List.mem_cons_of_mem _ hb)) i (Nat.lt_of_succ_lt_succ h)

/-- A payload of words gives back its words. -/
theorem words_of_bytes4 {l : List Nat} (small : ∀ a ∈ l, a < 2 ^ 32) :
    ((List.range l.length).map fun i => leAt (bytes4 l) (4 * i) 4) = l :=
  List.ext_getElem (by simp) fun i _ h => by simp [leAt_bytes4 small i h]

end Sys2Proof.Machine
end

section
/-! PROOF. Turns of the pool pair that find nothing else to do (R553, R554). -/

namespace Sys2Proof.Machine

open Sys2Proof

/-- Where no frame waits for a view, none is acted on. -/
theorem State.heldDue_none {s : State} (held : s.pol.heldMsgs = []) : s.heldDue = s := by
  rw [State.heldDue, held]
  rfl

/-- A pair with nothing to do does nothing. -/
theorem State.runWork_none {s : State} (work : s.pol.work = []) (held : s.pol.heldMsgs = []) (n : Nat) : State.runWork n s = s := by
  cases n with
  | zero => rfl
  | succ n =>
    rw [State.runWork, State.heldDue_none held, work]
    exact ite_self _

theorem State.runPool_none {s : State} (work : s.pol.work = []) (held : s.pol.heldMsgs = []) : s.runPool = s :=
  State.runWork_none work held _

/-- The only item of a list is taken first, of whatever class it is. -/
theorem Work.first_singleton (w : Work) : Work.first [w] = some w := by
  have cls : w.cls ∈ [1, 2, 3, 4, 5] := by
    unfold Work.cls
    split
    · dsimp only
      split_ifs <;> simp
    all_goals simp
  unfold Work.first
  simp only [List.mem_cons, List.not_mem_nil, or_false] at cls
  rcases cls with e | e | e | e | e <;> simp [List.find?_cons, e]

/-- The state with this work list. -/
def State.withWork (s : State) (l : List Work) : State := { s with pol := { s.pol with work := l } }

theorem State.item_new {s : State} {w : Work} (new : w ∉ s.pol.work) : s.item w = s.withWork (s.pol.work ++ [w]) := by
  rw [State.item, if_neg (by simpa using new)]
  rfl

/-- The pair takes the only item of its list. -/
theorem State.runWork_one {s : State} {w : Work} (up : s.serviceUp 2 3 = true) (held : s.pol.heldMsgs = []) (n : Nat) :
    State.runWork (n + 1) (s.withWork [w]) = State.runWork n ((s.withWork []).doItem w) := by
  have runs : ¬(s.withWork [w]).serviceUp 2 3 = false := (Bool.not_eq_false _).mpr up
  have alone : Work.first (s.withWork [w]).pol.work = some w := Work.first_singleton w
  have rest : ((s.withWork [w]).modPol fun q => { q with work := q.work.erase w }) = s.withWork [] :=
    congrArg s.withWork (List.erase_cons_head ..)
  rw [State.runWork, State.heldDue_none (s := s.withWork [w]) held]
  refine (if_neg runs).trans ?_
  rw [alone]
  dsimp only
  rw [rest]

theorem State.withWork_nil {s : State} (work : s.pol.work = []) : s.withWork [] = s := by rw [State.withWork, ← work]

/-- A pair with one item takes it first. -/
theorem State.runPool_one {s : State} {w : Work} (up : s.serviceUp 2 3 = true) (work : s.pol.work = []) (held : s.pol.heldMsgs = []) :
    (s.withWork [w]).runPool = State.runWork 8 (s.doItem w) := by
  have length : (s.withWork [w]).pol.work.length + (s.withWork [w]).pol.heldMsgs.length + 8 = 8 + 1 := by
    change 1 + s.pol.heldMsgs.length + 8 = 9
    rw [held]
    rfl
  rw [State.runPool, length, State.runWork_one up held, State.withWork_nil work]

/-- An item that is due while the pair has nothing else to do is taken at once; where it leaves nothing to do, that is all. -/
theorem State.runItem_idle {s : State} (w : Work) (up : s.serviceUp 2 3 = true) (work : s.pol.work = []) (held : s.pol.heldMsgs = [])
    (work' : (s.doItem w).pol.work = []) (held' : (s.doItem w).pol.heldMsgs = []) : s.runItem w = s.doItem w := by
  rw [State.runItem, State.item_new (by simp [work]), work, List.nil_append, State.runPool_one up work held, State.runWork_none work' held']

end Sys2Proof.Machine
end

section
/-! PROOF. Common adapters and the pinned set (R150, R289–R291, R640), and the obligation. -/

namespace Sys2Proof.Machine

open Sys2Proof

/-! ### The lists -/

/-- An adapter that is known as READY, published and of ward COMMON. -/
theorem exec_commonSet_ok {s : State} {f : RclFrame} (h : s.admits 0x1C f = true) (set : bit (f.word 0) 8 = false) (len : f.data.length = 8)
    (resv : fld (f.word 0) 7 5 = 0) (resv' : fld (f.word 0) 31 9 = 0) (resv4 : fld (f.word 4) 31 24 = 0) (named : fld (f.word 4) 23 0 ≠ 0)
    (known : s.commonInfo (fld (f.word 4) 23 0) = some (wardCommon, true, false)) :
    let t := s.modP (fld (f.word 0) 4 0) fun q => { q with common := fld (f.word 4) 23 0 }
    ∃ l, exec (.commonSet f) s = .next { t with lnk := l } ∧ ({ t with lnk := l } : State).answers f .ok [] := by
  intro t
  obtain ⟨b, begun, -⟩ := s.begun_eq 0x1C f none
  change ∃ l, Host.Outcome.next (s.commonSet f false) = _ ∧ _
  rw [State.commonSet, if_neg (not_not.mpr set)]
  refine State.serve_begun (t := { t with lnk := b }) h (by rw [begun]) ?_
  rw [begun]
  refine (if_neg (by simp [len, resv, resv', resv4])).trans ?_
  refine (if_neg Bool.false_ne_true).trans ?_
  refine (if_neg named).trans ?_
  have known' : State.commonInfo { s with lnk := b } (fld (f.word 4) 23 0) = some (wardCommon, true, false) := known
  rw [known']
  rfl

theorem exec_commonSetClear_ok {s : State} {f : RclFrame} (h : s.admits 0x1C f = true) (clear : bit (f.word 0) 8 = true)
    (len : f.data.length = 8) (resv : fld (f.word 0) 7 5 = 0) (resv' : fld (f.word 0) 31 9 = 0) (zero : f.word 4 = 0) :
    let t := s.modP (fld (f.word 0) 4 0) fun q => { q with common := 0 }
    ∃ l, exec (.commonSetClear f) s = .next { t with lnk := l } ∧ ({ t with lnk := l } : State).answers f .ok [] := by
  intro t
  obtain ⟨b, begun, -⟩ := s.begun_eq 0x1C f none
  have none4 : ∀ hi lo, fld (f.word 4) hi lo = 0 := fun hi lo => by rw [zero, fld, bitsN]; exact (congrArg (· % _) (Nat.zero_div _)).trans (Nat.zero_mod _)
  change ∃ l, Host.Outcome.next (s.commonSet f true) = _ ∧ _
  rw [State.commonSet, if_neg (not_not.mpr clear)]
  refine State.serve_begun (t := { t with lnk := b }) h (by rw [begun]) ?_
  rw [begun]
  exact (if_neg (by simp [len, resv, resv', none4])).trans (if_pos rfl)

theorem exec_pinList_ok {s : State} {f : RclFrame} {l : List Nat} (h : s.admits 0x1D f = true) (data : f.data = bytes4 l)
    (most : l.length ≤ 262144) (small : ∀ a ∈ l, a < 2 ^ 24) :
    let t := s.modCab fun c => { c with pinList := l }
    ∃ k, exec (.pinList f) s = .next { t with lnk := k } ∧ ({ t with lnk := k } : State).answers f .ok [] := by
  intro t
  obtain ⟨b, begun, -⟩ := s.begun_eq 0x1D f none
  have count : f.data.length / 4 = l.length := by rw [data, bytes4_length, Nat.mul_div_cancel_left _ (by decide)]
  have listed : ((List.range (f.data.length / 4)).map fun i => f.pl (4 * i) 4) = l := by
    rw [count]
    simp only [RclFrame.pl, data]
    exact words_of_bytes4 fun a ha => (small a ha).trans (by decide)
  refine State.serve_begun (t := { t with lnk := b }) h (by rw [begun]) ?_
  rw [begun]
  dsimp only
  rw [listed, count]
  refine if_neg ?_
  rintro (odd | many | large)
  · rw [data, bytes4_length] at odd
    omega
  · omega
  · obtain ⟨a, ha, big⟩ := List.any_eq_true.mp large
    exact Nat.not_le.mpr (small a ha) (of_decide_eq_true big)

/-! ### A refresh -/

/-- A refresh that is about one adapter: no partition has a common adapter, and the list names one of another device, whose current version
is known, in the cache, and within `PIN_LIMIT`. -/
structure State.RefreshesOne (s : State) (a : Nat) (n : NoteRec) : Prop where
  quiet : s.cab.pinBusy = false
  uncommon : ∀ q ∈ s.prt, q.common = 0
  list : s.cab.pinList = [a]
  foreign : (s.entry a).any (·.owned) = false
  remote : s.mine a = false
  known : s.fillRec a = some n
  readable : n.bminor ≤ blobMinorMax
  cached : s.holds a n.epoch = true
  asked : s.pinAsking = false
  fits : ceilDiv (n.blen * 64) granule ≤ min s.cab.pinLimit.toNat s.cab.cacheSize.toNat

/-- The Cabinet in which adapter `a` alone is pinned, at an epoch, and the refresh has ended. -/
def Cab.pinnedOnly (c : Cab) (a epoch : Nat) : Cab :=
  { c with
    dir := updFirst (c.dir.map fun e => { e with pinned := e.pinned && a == e.aid }) (fun e => e.aid == a)
      fun e => { e with pinned := true, pinEpoch := epoch }
    pinShort := 0, pinBusy := false, pinAsk := false }

section
variable {s : State} {a : Nat} {n : NoteRec}

theorem State.RefreshesOne.pinIds (h : s.RefreshesOne a n) : s.pinIds = ([], [a]) := by
  have heads : (s.prt.filterMap fun q => if q.common = 0 then none else some q.common) = [] :=
    List.filterMap_eq_nil_iff.mpr fun q hq => if_pos (h.uncommon q hq)
  rw [State.pinIds, heads, h.list]
  simp [h.foreign, h.remote, List.eraseDups_cons]

theorem State.RefreshesOne.pinPick (h : s.RefreshesOne a n) :
    s.pinPick true ⟨[], 0, 0, false⟩ a = ⟨[(a, n)], ceilDiv (n.blen * 64) granule, 0, false⟩ := by
  have room : ¬(true = true ∧ min s.cab.pinLimit.toNat s.cab.cacheSize.toNat < 0 + ceilDiv (n.blen * 64) granule) := by
    rw [Nat.zero_add]
    exact fun full => Nat.not_lt.mpr h.fits full.2
  rw [State.pinPick, if_neg (by simp), h.known]
  dsimp only
  rw [if_neg (Nat.not_lt.mpr h.readable), if_neg room]
  simp

theorem State.fetchFor_nil (s : State) : s.fetchFor [] = ([], s) := rfl

/-- The adapter is held, so it is pinned and nothing has to be filled. -/
theorem State.RefreshesOne.pinFill (h : s.RefreshesOne a n) : s.pinFill = { s with cab := s.cab.pinnedOnly a n.epoch } := by
  have held : [(a, n)].filter (fun x => s.holds x.1 x.2.epoch) = [(a, n)] := by simp [h.cached]
  have todo : [(a, n)].filter (fun x => !s.holds x.1 x.2.epoch) = [] := by simp [h.cached]
  unfold State.pinFill
  rw [h.pinIds]
  simp only [List.foldl_nil, List.foldl_cons, h.pinPick, held, todo, State.fetchFor_nil, List.any_cons, List.any_nil, Bool.or_false,
    State.pinAt, State.modEntry, State.modCab]
  rfl

theorem State.RefreshesOne.pinStart (h : s.RefreshesOne a n) : s.pinStart = { s with cab := s.cab.pinnedOnly a n.epoch } := by
  have told : (([] ++ [a] : List Nat).filter fun a => (s.fillRec a).isNone) = [] := by simp [h.known]
  rw [State.pinStart, if_neg (by simp [h.quiet]), State.pinRefresh, h.pinIds]
  dsimp only
  rw [told]
  exact (if_pos ⟨rfl, h.asked⟩).trans h.pinFill

/-- The state in which the period of the refresh counts as taken, and a late start has been told. -/
def State.pinTaken (s : State) (l : Lnk) (k : Nat) : State :=
  { s.align perPin (100000 * s.cab.pinPeriod.toNat) with lnk := l, freeCtr := k }

/-- A refresh depends on neither the command link, the free numbers nor the timers. -/
theorem State.RefreshesOne.pinTaken (h : s.RefreshesOne a n) (l : Lnk) (k : Nat) : (s.pinTaken l k).RefreshesOne a n :=
  ⟨h.quiet, h.uncommon, h.list, h.foreign, h.remote, h.known, h.readable, h.cached, h.asked, h.fits⟩

end

/-! ### Periods -/

/-- The notice of a late start changes the link and takes at most a free number; a service that starts when it is due sends none (R475). -/
theorem State.lagNotice_eq (s : State) (svc due : Nat) :
    ∃ l k, s.lagNotice svc due = { s with lnk := l, freeCtr := k } ∧ (due = s.now → l = s.lnk ∧ k = s.freeCtr) := by
  unfold State.lagNotice
  dsimp only
  split
  · exact ⟨s.lnk, s.freeCtr, rfl, fun _ => ⟨rfl, rfl⟩⟩
  next late =>
    split
    all_goals exact ⟨_, _, rfl, fun e => absurd (by rw [e, Nat.sub_self]) late⟩

theorem exec_pinPeriod_due {s : State} (booted : s.booted = true) (due : s.due perPin = true) :
    ∃ l k, exec .pinPeriod s = .next ((s.pinTaken l k).runItem .pin) ∧ (s.dueOf perPin = s.now → l = s.lnk ∧ k = s.freeCtr) := by
  obtain ⟨l, k, lag, silent⟩ := State.lagNotice_eq (s.align perPin (100000 * s.cab.pinPeriod.toNat)) 1 (s.dueOf perPin)
  refine ⟨l, k, ?_, silent⟩
  change Host.Outcome.next (if s.booted = false then s else s.periodic perPin _ 1 fun s => s.runItem .pin) = _
  rw [if_neg (by simp [booted]), State.periodic, if_pos due, lag]
  rfl

theorem exec_pinPeriod_running {s : State} (due : s.due perPin = false) : exec .pinPeriod s = .next s := by
  change Host.Outcome.next (if s.booted = false then s else s.periodic perPin _ 1 _) = _
  rw [State.periodic, if_neg (c := s.due perPin = true) (by simp [due]), ite_self]

theorem exec_pinRefresh_idle {s : State} (booted : s.booted = true) (quiet : s.cab.pinBusy = false) :
    exec .pinRefresh s = .next (s.runItem .pin) :=
  congrArg Host.Outcome.next (if_neg (by simp [booted, quiet]))

theorem exec_pinRefresh_busy {s : State} (busy : s.cab.pinBusy = true) : exec .pinRefresh s = .next s :=
  congrArg Host.Outcome.next (if_pos (.inl busy))

/-- While a refresh runs, one more may follow (R290). -/
theorem State.pinStart_busy {s : State} (busy : s.cab.pinBusy = true) :
    s.pinStart = { s with cab := { s.cab with pinAgain := some (s.cab.pinAgain.getD s.now) } } := by
  rw [State.pinStart, if_pos busy]
  rfl

/-- A refresh that the pair takes at once (R554). -/
theorem State.runItem_pin {s : State} {c : Cab} (up : s.serviceUp 2 3 = true) (work : s.pol.work = []) (held : s.pol.heldMsgs = [])
    (start : s.pinStart = { s with cab := c }) : s.runItem .pin = { s with cab := c } := by
  have took : s.doItem .pin = { s with cab := c } := start
  rw [State.runItem_idle .pin up work held (by rw [took]; exact work) (by rw [took]; exact held), took]

/-- Settles O20: the three commands set their list; a refresh of one adapter pins it, at once or when its period ends, unless one runs. -/
theorem commonAndPinnedAdaptersAreSet : Obligations.CommonAndPinnedAdaptersAreSet := by
  refine ⟨fun s f => ⟨?_, ?_, ?_⟩, fun s booted up work held => ⟨?_, fun busy => ⟨exec_pinRefresh_busy busy, fun due => ?_⟩,
    exec_pinPeriod_running⟩⟩
  · intro h set len resv resv' resv4 named known
    obtain ⟨l, run, answered⟩ := exec_commonSet_ok h set len resv resv' resv4 named known
    exact ⟨_, run, answered, rfl⟩
  · intro h clear len resv resv' zero
    obtain ⟨l, run, answered⟩ := exec_commonSetClear_ok h clear len resv resv' zero
    exact ⟨_, run, answered, rfl⟩
  · intro l h data most small
    obtain ⟨k, run, answered⟩ := exec_pinList_ok h data most small
    exact ⟨_, run, answered, rfl⟩
  · intro a n quiet uncommon list foreign remote known readable cached asked fits cab
    have one : s.RefreshesOne a n := ⟨quiet, uncommon, list, foreign, remote, known, readable, cached, asked, fits⟩
    refine ⟨?_, fun due => ?_⟩
    · rw [exec_pinRefresh_idle booted quiet, State.runItem_pin up work held one.pinStart]
      rfl
    · obtain ⟨l, k, run, silent⟩ := exec_pinPeriod_due booted due
      rw [State.runItem_pin (s := s.pinTaken l k) up work held (one.pinTaken l k).pinStart] at run
      exact ⟨_, run, rfl, rfl, silent⟩
  · obtain ⟨l, k, run, -⟩ := exec_pinPeriod_due booted due
    rw [State.runItem_pin (s := s.pinTaken l k) up work held (State.pinStart_busy busy)] at run
    exact ⟨_, run, rfl, rfl⟩

end Sys2Proof.Machine
end

section
/-! PROOF. Uploads (R162, R163, R472, R528): what the Cabinet charges beside a new range, a blob that passes its checks, and the obligation. -/

namespace Sys2Proof.Machine

open Sys2Proof

/-! ### Charges beside a new range -/

/-- Granules of a list of ranges that are charged to a partition, its save area apart (R281). -/
def chargedTo (p : Nat) (es : List Extent) : Nat := (es.map fun e => if e.part = p ∧ e.obj ≠ .save p then e.len else 0).sum

theorem State.cabUse_eq (s : State) (p : Nat) : s.cabUse p = s.saveCharge p + chargedTo p s.cab.extents := by
  rw [State.cabUse]
  generalize s.saveCharge p = n
  induction s.cab.extents generalizing n with
  | nil => rfl
  | cons e es ih =>
    rw [List.foldl_cons, ih, chargedTo, chargedTo, List.map_cons, List.sum_cons, ← Nat.add_assoc]
    split <;> rfl

theorem addExtent_perm (x : Extent) (es : List Extent) : (addExtent x es).Perm (x :: es) := by
  induction es with
  | nil => exact .refl _
  | cons e es ih =>
    rw [addExtent]
    split
    · exact .refl _
    · exact (ih.cons e).trans (.swap x e es)

theorem chargedTo_addExtent (p : Nat) (x : Extent) (es : List Extent) :
    chargedTo p (addExtent x es) = chargedTo p [x] + chargedTo p es :=
  ((addExtent_perm x es).map _).sum_eq.trans (by simp [chargedTo])

theorem find?_addExtent {t : Extent → Bool} {x : Extent} (es : List Extent) (h : t x = false) : (addExtent x es).find? t = es.find? t := by
  induction es with
  | nil => simp [addExtent, h]
  | cons e es ih =>
    rw [addExtent]
    split
    · simp [h]
    · rw [List.find?_cons, ih, List.find?_cons]

/-- What a new range adds to the use of a partition (R281). -/
theorem State.cabUse_addExtent (s : State) {p : Nat} {x : Extent} (h : x.obj ≠ .save p) :
    (s.modCab fun c => { c with extents := addExtent x c.extents }).cabUse p = s.cabUse p + if x.part = p then x.len else 0 := by
  have added : chargedTo p [x] = if x.part = p then x.len else 0 := by simp [chargedTo, h]
  rw [State.cabUse_eq, s.cabUse_eq, Nat.add_assoc, ← added, Nat.add_comm (chargedTo p s.cab.extents)]
  exact congrArg (s.saveCharge p + ·) (chargedTo_addExtent p x s.cab.extents)

/-- A master area is charged where there is none yet (R164). -/
theorem State.chargeMaster_ok {s : State} {e : Entry} {len g : Nat} (unmastered : s.cab.extentOf (.master e.aid) = none)
    (quota : s.cabUse e.home + len ≤ (s.getP e.home).cabQuota.toNat) (free : lowestFree len s.cab.exportBase 0 s.cab.extents = some g) :
    s.chargeMaster e len = (true, s.modCab fun c => { c with extents := addExtent ⟨g, len, e.home, .master e.aid⟩ c.extents }) := by
  rw [State.chargeMaster, unmastered]
  dsimp only
  rw [State.charge_ok _ quota free]
  rfl

/-- Room that is there without evictions is reserved in the cache region (R287). -/
theorem State.cacheReserve_ok {s : State} {len b : Nat} (o : CabObj) (room : s.cacheFit len s.cab.extents = some b) :
    s.cacheReserve len o = some (b, s.modCab fun c => { c with extents := addExtent ⟨b, len, 32, o⟩ c.extents }) := by
  have stay : s.roomAfter len s.cab.extents s.evictList = some [] := by
    rw [State.roomAfter.eq_def]
    exact if_pos (by rw [room]; rfl)
  rw [State.cacheReserve, stay]
  dsimp only
  rw [List.foldl_nil, room]
  rfl

/-! ### A candidate -/

theorem insSort_length {α : Type} (lt : α → α → Bool) (l : List α) : (insSort lt l).length = l.length := by
  have put (x : α) (l : List α) : (insSort.ins lt x l).length = l.length + 1 := by
    induction l with
    | nil => rfl
    | cons y l ih =>
      rw [insSort.ins]
      split <;> simp [ih]
  induction l with
  | nil => rfl
  | cons x l ih => rw [insSort, put, ih, List.length_cons]

/-- A candidate reaches the engine beside those that are there (R358). -/
theorem State.candidate_eq (s : State) (c : Candidate) :
    ∃ l, s.candidate c = s.modCab (fun b => { b with cands := l }) ∧ l.length = s.cab.cands.length + 1 ∧ { c with since := s.now } ∈ l := by
  refine ⟨_, rfl, ?_, ?_⟩
  · have parts : s.cab.cands.length = (s.cab.cands.filter fun x => x.since != s.now).length
        + (s.cab.cands.filter fun x => x.since == s.now).length := by
      rw [List.length_eq_length_filter_add (l := s.cab.cands) fun x => x.since != s.now]
      simp only [bne, Bool.not_not]
    rw [List.length_append, insSort_length, List.length_append, List.length_singleton, parts, Nat.add_assoc]
  · exact List.mem_append_right _ ((mem_insSort _ _ _).mpr (List.mem_append_right _ (List.mem_singleton.mpr rfl)))

/-- The candidate of a blob that lies at `base` under reservation n (R163). -/
def Entry.newCand (e : Entry) (n base blen esc tau : Nat) (up : Option Nat) (since : Nat) : Candidate :=
  { aid := e.aid, kind := 1, target := nextEpoch e.curEpoch, part := e.home, sseq := 0, base := base, blen := blen, esc := esc, tau := tau
    resv := n, up := up, boot := false, sat := 0, since := since }

/-- A blob lies where it is charged, its entry is written, and its candidate is with the engine: what that leaves. -/
theorem State.fileBlob (s : State) (aid : Nat) (e d : Entry) (bs : List Byte) (n g esc tau : Nat) (up : Option Nat) :
    ∃ w k r l, (((s.modEntry aid fun _ => d).land 0 (gAddr g) bs).newCand e 1 n g bs.length esc tau up false)
        = { s with
            hbm := Memory.writeN s.hbm (gAddr g) bs, hbmStk := k, ras := r, pwr := w
            cab := { s.cab with dir := updFirst s.cab.dir (fun y => y.aid == aid) fun _ => d, nextResv := n + 1, cands := l } }
      ∧ l.length = s.cab.cands.length + 1 ∧ e.newCand n g bs.length esc tau up s.now ∈ l := by
  obtain ⟨w, k, r, landed⟩ := (s.modEntry aid fun _ => d).land_hbm (gAddr g) bs
  rw [landed]
  obtain ⟨l, filed, len, mem⟩ := State.candidate_eq
    (State.modCab { s.modEntry aid fun _ => d with hbm := Memory.writeN s.hbm (gAddr g) bs, hbmStk := k, ras := r, pwr := w }
      fun c => { c with nextResv := n + 1 }) (e.newCand n g bs.length esc tau up 0)
  exact ⟨w, k, r, l, filed, len, mem⟩

/-! ### The checks of a blob -/

/-- The projections that a blob covers. -/
def blobProjs (bs : List Byte) : List Nat :=
  (List.range (listReader bs).hdr.nproj).map fun i => ((listReader bs).mrec (2 * i)).proj

/-- The matrix records of a blob. -/
def blobRecs (bs : List Byte) : List MRec := (List.range (2 * (listReader bs).hdr.nproj)).map (listReader bs).mrec

/-- A blob passes checks 2 to 9 of R162 for the entry that it names. -/
structure State.TakesBlob (s : State) (bs : List Byte) (ward : Nat) (e : Entry) : Prop where
  long : 0x80 ≤ bs.length
  magic : (listReader bs).hdr.magic = 0x54424C42
  major : (listReader bs).hdr.major = 1
  minor : (listReader bs).hdr.minor ≤ blobMinorMax
  check3 : uploadCheck3 (listReader bs).hdr (listReader bs) bs.length s.mgt.projTab = true
  entry : s.entry (listReader bs).hdr.aid = some e
  ward : e.ward = ward
  owned : e.owned = true
  state : e.state = .empty ∨ e.state = .ready
  named : (listReader bs).hdr.ward = e.ward
  shape : s.shapeFixed e = true → e.sameShape (listReader bs).hdr (blobProjs bs) = true
  check7 : ∀ r ∈ blobRecs bs, uploadCheck7 (listReader bs).hdr (listReader bs) r (s.shape r.proj) = true
  escapes : ∀ r ∈ blobRecs bs, r.nesc ≤ (mkMat (listReader bs).hdr r (s.shape r.proj)).nblk / 64
  live : e.frozen = false

/-- The entry with the blob's shape, where no upload has fixed it yet (R146). -/
def State.shapedBy (s : State) (e : Entry) (bs : List Byte) : Entry :=
  if s.shapeFixed e then e else e.shaped (listReader bs).hdr (blobProjs bs)

/-- A candidate does not depend on the shape. -/
theorem State.shapedBy_newCand (s : State) (e : Entry) (bs : List Byte) (n base blen esc tau : Nat) (up : Option Nat) (since : Nat) :
    (s.shapedBy e bs).newCand n base blen esc tau up since = e.newCand n base blen esc tau up since := by
  unfold State.shapedBy
  split <;> rfl

/-- The master area that a `LEARN` blob becomes (R163). -/
def State.masterOf (s : State) (bs : List Byte) : Master :=
  ((listReader bs).master (listReader bs).hdr s.mgt.projTab).padded (listReader bs).hdr.rank ((blobProjs bs).map s.shape)

/-- The granules of that master area (R164). -/
def State.masterLen (s : State) (bs : List Byte) : Nat :=
  ceilDiv (s.masterBytes (listReader bs).hdr.rank (listReader bs).hdr.opt.kind (blobProjs bs)) granule

section
variable {s : State} {bs : List Byte} {ward : Nat} {e : Entry}

/-- A blob that passes its checks: a published one is charged and lies where it is charged; of a `LEARN` one the master area is charged and
kept, and the version published from it lies where that is charged (R163). -/
theorem State.TakesBlob.takeBlob (h : s.TakesBlob bs ward e) (tenant : Bool) (up : Option Nat) :
    ((listReader bs).hdr.learn = false → ∀ g s1, s.charge e.home (ceilDiv bs.length granule) (.resv s.cab.nextResv) = (some g, s1) →
      s.takeBlob bs ward tenant up false
        = (none, ((s1.modEntry e.aid fun _ => s.shapedBy e bs).land 0 (gAddr g) bs).newCand (s.shapedBy e bs) 1 s.cab.nextResv g bs.length
            (min ((blobRecs bs).foldl (fun k r => k + r.nesc) 0) 65535) (listReader bs).hdr.tau up false))
    ∧ ((listReader bs).hdr.learn = true → ∀ g s1 s2 pb esc c, s.chargeMaster e (s.masterLen bs) = (true, s1) →
      s1.charge e.home (ceilDiv (pubSize (s.shapedBy e bs) ((blobProjs bs).map s.shape)) granule) (.resv s.cab.nextResv) = (some g, s2) →
      publishBlob (s.shapedBy e bs) (s.masterOf bs) ((blobProjs bs).map s.shape) (listReader bs).hdr.alpha (listReader bs).hdr.tau
        (listReader bs).hdr.tau (nextEpoch e.curEpoch) s.pol.pubMinor.toNat = (some pb, esc, c) →
      s.takeBlob bs ward tenant up false
        = (none, ((s2.modEntry e.aid fun _ => { s.shapedBy e bs with
              master := some (s.masterOf bs), badMaster := false, dirty := true, target := nextEpoch e.curEpoch }).land 0 (gAddr g) pb).newCand
            (s.shapedBy e bs) 1 s.cab.nextResv g pb.length esc (listReader bs).hdr.tau up false)) := by
  have header : ¬(bs.length < 0x80 ∨ (listReader bs).hdr.magic ≠ 0x54424C42 ∨ (listReader bs).hdr.major ≠ 1
      ∨ blobMinorMax < (listReader bs).hdr.minor) := by
    simp [h.long, h.magic, h.major, h.minor]
  have state : ¬(e.owned = false ∨ (e.state ≠ .empty ∧ e.state ≠ .ready)) := by
    rcases h.state with st | st <;> simp [h.owned, st]
  have shape : ¬(s.shapeFixed e = true ∧ e.sameShape (listReader bs).hdr (blobProjs bs) = false) := fun ⟨fixed, other⟩ => by
    rw [h.shape fixed] at other
    cases other
  have check7 : ¬(blobRecs bs).any (fun r => !uploadCheck7 (listReader bs).hdr (listReader bs) r (s.shape r.proj)) = true := by
    simpa using h.check7
  have escapes : ¬(blobRecs bs).any (fun r => decide ((mkMat (listReader bs).hdr r (s.shape r.proj)).nblk / 64 < r.nesc)) = true := by
    simpa using h.escapes
  obtain ⟨t, taken⟩ : ∃ t, t = s.takeBlob bs ward tenant up false := ⟨_, rfl⟩
  rw [← taken]
  replace taken := (taken.trans (if_neg header)).trans (if_neg (by simp [h.check3]))
  rw [h.entry] at taken
  replace taken := (taken.trans (if_neg (by simp [h.ward]))).trans (if_neg state)
  replace taken := ((taken.trans (if_neg (by simp [h.named, h.ward]))).trans (if_neg shape)).trans (if_neg check7)
  replace taken := (taken.trans (if_neg escapes)).trans (if_neg (by simp [h.live]))
  refine ⟨fun plain g s1 charged => ?_, fun learn g s1 s2 pb esc c master charged published => ?_⟩
  · replace taken := taken.trans (if_pos plain)
    rw [charged] at taken
    exact taken
  · replace taken := taken.trans (if_neg (by simp [learn]))
    simp only [State.masterLen, State.masterOf, State.shapedBy, blobProjs] at master charged published ⊢
    rw [master] at taken
    dsimp only at taken
    rw [charged] at taken
    dsimp only at taken
    rw [published] at taken
    exact taken

end

/-! ### The envelope -/

/-- The cache region holds a range for an upload's transfer, its session's use counter has moved on (R528), and its response waits (R472). -/
def State.holdUpload (s : State) (cl : Caller) (f : RclFrame) (x : Session) (b : Nat) : State :=
  let s1 := s.modCab fun c => { c with extents := addExtent ⟨b, ceilDiv (f.pl 0x10 8) granule, 32, .resv s.cab.nextResv⟩ c.extents }
  let s2 := s1.modCab fun c => { c with nextResv := s.cab.nextResv + 1 }
  (s2.modSec fun c => { c with sessions := SMap.insert c.sessions cl.idx { x with upCtr := f.pl 8 8 } }).putLong f cl
    (.upload (f.pl 4 3) s.cab.nextResv)

/-- An upload is admitted and its envelope passes check 1 of R162, with room for the transfer. -/
structure State.AcceptsUpload (s : State) (f : RclFrame) (pl : Plain) (x : Session) (b : Nat) : Prop where
  admits : s.admits 0x1B f = true
  session : s.sessOf f = some x
  long : 80 ≤ f.data.length
  deployed : s.sec.lcState = 2
  powered : s.pwr.powering = false
  few : (s.lnk.longs.filter fun l => match l.kind with | .upload .. => true | _ => false).length < 16
  secure : s.sec.coreFault = false
  room : s.cacheFit (ceilDiv (f.pl 0x10 8) granule) s.cab.extents = some b
  check1 : uploadCheck1 f pl x s.mgt.devId.toNat = true
  named : f.pl 4 3 ≠ 0

theorem State.begun_longs (s : State) (code : Nat) (f : RclFrame) :
    ∃ l, s.begun code f = { s with lnk := l } ∧ l.longs = s.lnk.longs ∧ l.nextLong = s.lnk.nextLong := by
  unfold State.begun
  split
  · exact ⟨_, rfl, rfl, rfl⟩
  · exact ⟨s.lnk, rfl, rfl, rfl⟩

/-- An admitted command whose response waits (R472). -/
theorem State.serve_later {s t : State} {code : Nat} {f : RclFrame} {body : Caller → State → Answer × State} (h : s.admits code f = true)
    (hb : body (s.callerOf code f) (s.begun code f) = (.later, t)) : s.serve code none none f body = t.drain := by
  obtain ⟨row, hr⟩ : ∃ row, cmdRow code = some row := by
    cases hr : cmdRow code with
    | none => simp [State.admits, hr] at h
    | some row => exact ⟨row, rfl⟩
  rw [State.begun, hr] at hb
  rw [State.serve_admits body hr h]
  dsimp only at hb ⊢
  rw [hb]

/-- The ranges of the Cabinet once the transfer's is held. -/
def State.holdExts (s : State) (f : RclFrame) (b : Nat) : List Extent :=
  addExtent ⟨b, ceilDiv (f.pl 0x10 8) granule, 32, .resv s.cab.nextResv⟩ s.cab.extents

/-- The long command that an upload waits as (R472). -/
def State.uploadLong (s : State) (f : RclFrame) (x : Session) : Long :=
  { id := s.lnk.nextLong, tag := f.w1, session := f.session, vc := f.vc, urgent := (s.callerOf 0x1B f).q == 2, ward := x.ward, took := s.now
    kind := .upload (f.pl 4 3) s.cab.nextResv }

/-- What holding an upload leaves of the state before it. -/
structure State.HoldsUpload (s : State) (f : RclFrame) (x : Session) (b : Nat) (v : State) : Prop where
  longs : v.lnk.longs = s.lnk.longs ++ [s.uploadLong f x]
  sec : v.sec = { s.sec with sessions := SMap.insert s.sec.sessions f.session { x with upCtr := f.pl 8 8 } }
  cab : v.cab = { s.cab with extents := s.holdExts f b, nextResv := s.cab.nextResv + 1 }
  prt : v.prt = s.prt
  pol : v.pol = s.pol
  mgt : v.mgt = s.mgt
  hbm : v.hbm = s.hbm

theorem State.holdsUpload {s : State} {f : RclFrame} {x : Session} (b : Nat) {l : Lnk} (session : s.sessOf f = some x)
    (longs : l.longs = s.lnk.longs) (next : l.nextLong = s.lnk.nextLong) :
    s.HoldsUpload f x b (State.holdUpload { s with lnk := l } (s.callerOf 0x1B f) f x b) := by
  have ward : ((s.callerOf 0x1B f).sess.map (·.ward)).getD 0 = x.ward := by
    rw [show (s.callerOf 0x1B f).sess = some x from session]
    rfl
  refine ⟨?_, rfl, rfl, rfl, rfl, rfl, rfl⟩
  rw [State.uploadLong, ← ward, ← longs, ← next]
  rfl

/-- An accepted upload whose blob passes its checks waits as a long command. -/
theorem State.AcceptsUpload.waits {s : State} {f : RclFrame} {pl : Plain} {x : Session} {b : Nat} (h : s.AcceptsUpload f pl x b) :
    ∃ v, s.HoldsUpload f x b v ∧ ∀ t,
      v.takeBlob pl.blob (if x.operator then wardCommon else x.ward) (!x.operator) (some s.lnk.nextLong) false = (none, t) →
        exec (.adapterUpload f pl) s = .next t.drain := by
  obtain ⟨l, begun, longs, next⟩ := s.begun_longs 0x1B f
  refine ⟨_, State.holdsUpload b h.session longs next, fun t taken => congrArg Host.Outcome.next (State.serve_later h.admits ?_)⟩
  have caller : (s.callerOf 0x1B f).sess = some x := h.session
  have few : ¬16 ≤ (l.longs.filter fun l => match l.kind with | .upload .. => true | _ => false).length := by
    rw [longs]
    exact Nat.not_le.mpr h.few
  rw [begun]
  dsimp only
  rw [caller]
  refine (if_neg (Nat.not_lt.mpr h.long)).trans ?_
  refine (if_neg (not_not.mpr h.deployed)).trans ?_
  refine (if_neg (by simp [h.powered])).trans ?_
  refine (if_neg few).trans ?_
  refine (if_neg (by simp [h.secure])).trans ?_
  rw [State.cacheReserve_ok (s := { s with lnk := l }) _ h.room]
  refine (if_neg (by simp [h.check1])).trans ?_
  refine (if_neg h.named).trans ?_
  unfold State.holdUpload at taken
  rw [← next] at taken
  dsimp only [modSec_lnk, modCab_lnk] at taken ⊢
  rw [taken]

/-! ### What an accepted upload leaves -/

/-- The response waits, the session's use counter is the upload's, and one more candidate is with the engine. -/
structure State.UploadTaken (s : State) (f : RclFrame) (x : Session) (t : State) : Prop where
  longs : t.lnk.longs = s.lnk.longs ++ [s.uploadLong f x]
  sec : t.sec = { s.sec with sessions := SMap.insert s.sec.sessions f.session { x with upCtr := f.pl 8 8 } }
  cands : t.cab.cands.length = s.cab.cands.length + 1
  prt : t.prt = s.prt
  pol : t.pol = s.pol

theorem State.drain_longs (s : State) : s.drain.lnk.longs = s.lnk.longs := by
  obtain ⟨sent, -⟩ := Lnk.drain_same s.now s.lnk
  exact (congrArg Lnk.longs sent).symm

section
variable {s v : State} {f : RclFrame} {pl : Plain} {x : Session} {b : Nat} {e : Entry}

theorem State.HoldsUpload.shape (h : s.HoldsUpload f x b v) : v.shape = s.shape := by
  funext p
  rw [State.shape, State.shape, h.mgt]

theorem State.HoldsUpload.shapeFixed (h : s.HoldsUpload f x b v) (e : Entry) : v.shapeFixed e = s.shapeFixed e := by
  rw [State.shapeFixed, State.shapeFixed, h.cab]

theorem State.HoldsUpload.shapedBy (h : s.HoldsUpload f x b v) (e : Entry) (bs : List Byte) : v.shapedBy e bs = s.shapedBy e bs := by
  rw [State.shapedBy, State.shapedBy, h.shapeFixed]

theorem State.HoldsUpload.masterOf (h : s.HoldsUpload f x b v) (bs : List Byte) : v.masterOf bs = s.masterOf bs := by
  rw [State.masterOf, State.masterOf, h.mgt, h.shape]

theorem State.HoldsUpload.masterLen (h : s.HoldsUpload f x b v) (bs : List Byte) : v.masterLen bs = s.masterLen bs := by
  rw [State.masterLen, State.masterLen, State.masterBytes, State.masterBytes, h.shape]

theorem State.HoldsUpload.getP (h : s.HoldsUpload f x b v) (p : Nat) : v.getP p = s.getP p := by
  rw [State.getP, State.getP, h.prt]

/-- The transfer's range is charged to the cache region, to no partition. -/
theorem State.HoldsUpload.cabUse (h : s.HoldsUpload f x b v) {p : Nat} (hp : p ≠ 32) : v.cabUse p = s.cabUse p := by
  have save : v.saveCharge p = s.saveCharge p := by
    rw [State.saveCharge, State.saveCharge, h.getP, State.saveChargeOf, State.saveChargeOf, State.returnArea, State.returnArea, State.wMax,
      State.wMax, h.mgt]
  have charged : chargedTo p v.cab.extents = chargedTo p s.cab.extents := by
    rw [h.cab, State.holdExts, chargedTo_addExtent]
    simp [chargedTo, hp.symm]
  rw [State.cabUse_eq, s.cabUse_eq, save, charged]

theorem State.HoldsUpload.extentOf (h : s.HoldsUpload f x b v) (aid : Nat) : v.cab.extentOf (.master aid) = s.cab.extentOf (.master aid) := by
  rw [h.cab]
  exact find?_addExtent s.cab.extents (decide_eq_false nofun)

theorem State.HoldsUpload.exportBase (h : s.HoldsUpload f x b v) : v.cab.exportBase = s.cab.exportBase := by
  rw [h.cab]
  rfl

theorem State.HoldsUpload.extents (h : s.HoldsUpload f x b v) : v.cab.extents = s.holdExts f b := by rw [h.cab]

theorem State.HoldsUpload.nextResv (h : s.HoldsUpload f x b v) : v.cab.nextResv = s.cab.nextResv + 1 := by rw [h.cab]

/-- The blob's checks look at nothing that holding the upload changes. -/
theorem State.HoldsUpload.takesBlob {bs : List Byte} {ward : Nat} (h : s.HoldsUpload f x b v) (takes : s.TakesBlob bs ward e) :
    v.TakesBlob bs ward e where
  long := takes.long
  magic := takes.magic
  major := takes.major
  minor := takes.minor
  check3 := by rw [h.mgt]; exact takes.check3
  entry := by rw [State.entry, h.cab]; exact takes.entry
  ward := takes.ward
  owned := takes.owned
  state := takes.state
  named := takes.named
  shape := by rw [h.shapeFixed]; exact takes.shape
  check7 := by rw [h.shape]; exact takes.check7
  escapes := by rw [h.shape]; exact takes.escapes
  live := takes.live

/-- A blob that is filed after its upload is held, in whatever ranges. -/
theorem State.HoldsUpload.filed {u : State} {exts : List Extent} {d : Entry} {bs : List Byte} {g esc tau : Nat} (h : s.HoldsUpload f x b v)
    (charged : u = v.modCab fun c => { c with extents := exts }) (shaped : List Byte) :
    let t := State.drain ((((u.modEntry e.aid fun _ => d).land 0 (gAddr g) bs).newCand
      (s.shapedBy e shaped) 1 (s.cab.nextResv + 1) g bs.length esc tau (some s.lnk.nextLong) false))
    s.UploadTaken f x t ∧ t.hbm = Memory.writeN s.hbm (gAddr g) bs
      ∧ e.newCand (s.cab.nextResv + 1) g bs.length esc tau (some s.lnk.nextLong) s.now ∈ t.cab.cands
      ∧ t.cab.dir = updFirst s.cab.dir (fun y => y.aid == e.aid) fun _ => d := by
  intro t
  obtain ⟨w, k, r, cands, filed, len, mem⟩ := u.fileBlob e.aid (s.shapedBy e shaped) d bs (s.cab.nextResv + 1) g esc tau
    (some s.lnk.nextLong)
  have now : u.now = s.now := by
    rw [charged, State.now, State.now, modCab_mgt, h.mgt]
  have dir : u.cab.dir = s.cab.dir ∧ u.cab.cands = s.cab.cands := by
    rw [charged, modCab_cab, h.cab]
    exact ⟨rfl, rfl⟩
  rw [State.shapedBy_newCand, now] at mem
  rw [dir.2] at len
  have drained : t = State.drain _ := congrArg State.drain filed
  rw [drained]
  refine ⟨⟨?_, ?_, ?_, ?_, ?_⟩, ?_, ?_, ?_⟩
  · rw [State.drain_longs, charged]
    exact h.longs
  · rw [State.drain_sec, charged]
    exact h.sec
  · rw [State.drain_cab]
    exact len
  · rw [State.drain_prt, charged]
    exact h.prt
  · rw [State.drain_pol, charged]
    exact h.pol
  · rw [State.drain_hbm, charged]
    exact congrArg (fun m : Memory => m.writeN (gAddr g) bs) h.hbm
  · rw [State.drain_cab]
    exact mem
  · rw [State.drain_cab, ← dir.1]

/-- An accepted upload of a published blob. -/
theorem State.AcceptsUpload.published {g : Nat} (accepts : s.AcceptsUpload f pl x b)
    (takes : s.TakesBlob pl.blob (if x.operator then wardCommon else x.ward) e) (home : e.home ≠ 32)
    (published : (listReader pl.blob).hdr.learn = false)
    (quota : s.cabUse e.home + ceilDiv pl.blob.length granule ≤ (s.getP e.home).cabQuota.toNat)
    (free : lowestFree (ceilDiv pl.blob.length granule) s.cab.exportBase 0 (s.holdExts f b) = some g) :
    ∃ t, exec (.adapterUpload f pl) s = .next t ∧ s.UploadTaken f x t ∧ t.hbm = Memory.writeN s.hbm (gAddr g) pl.blob
      ∧ e.newCand (s.cab.nextResv + 1) g pl.blob.length (min ((blobRecs pl.blob).foldl (fun k r => k + r.nesc) 0) 65535)
          (listReader pl.blob).hdr.tau (some s.lnk.nextLong) s.now ∈ t.cab.cands
      ∧ t.cab.dir = updFirst s.cab.dir (fun y => y.aid == e.aid) fun _ => s.shapedBy e pl.blob := by
  obtain ⟨v, held, run⟩ := accepts.waits
  obtain ⟨plain, -⟩ := (held.takesBlob takes).takeBlob (!x.operator) (some s.lnk.nextLong)
  rw [held.shapedBy, held.nextResv] at plain
  rw [← held.cabUse home, ← held.getP] at quota
  rw [← held.exportBase, ← held.extents] at free
  exact ⟨_, run _ (plain published g _ (State.charge_ok _ quota free)), held.filed rfl pl.blob⟩

/-- An accepted upload of a `LEARN` blob, from which a version is published. -/
theorem State.AcceptsUpload.learned {gm g esc plen : Nat} {pb : List Byte} {c : Cnt} (accepts : s.AcceptsUpload f pl x b)
    (takes : s.TakesBlob pl.blob (if x.operator then wardCommon else x.ward) e) (home : e.home ≠ 32)
    (learns : (listReader pl.blob).hdr.learn = true) (unmastered : s.cab.extentOf (.master e.aid) = none)
    (size : plen = ceilDiv (pubSize (s.shapedBy e pl.blob) ((blobProjs pl.blob).map s.shape)) granule)
    (quota : s.cabUse e.home + s.masterLen pl.blob + plen ≤ (s.getP e.home).cabQuota.toNat)
    (freeM : lowestFree (s.masterLen pl.blob) s.cab.exportBase 0 (s.holdExts f b) = some gm)
    (free : lowestFree plen s.cab.exportBase 0 (addExtent ⟨gm, s.masterLen pl.blob, e.home, .master e.aid⟩ (s.holdExts f b)) = some g)
    (made : publishBlob (s.shapedBy e pl.blob) (s.masterOf pl.blob) ((blobProjs pl.blob).map s.shape) (listReader pl.blob).hdr.alpha
      (listReader pl.blob).hdr.tau (listReader pl.blob).hdr.tau (nextEpoch e.curEpoch) s.pol.pubMinor.toNat = (some pb, esc, c)) :
    ∃ t, exec (.adapterUpload f pl) s = .next t ∧ s.UploadTaken f x t ∧ t.hbm = Memory.writeN s.hbm (gAddr g) pb
      ∧ e.newCand (s.cab.nextResv + 1) g pb.length esc (listReader pl.blob).hdr.tau (some s.lnk.nextLong) s.now ∈ t.cab.cands
      ∧ t.cab.dir = updFirst s.cab.dir (fun y => y.aid == e.aid) fun _ => { s.shapedBy e pl.blob with
          master := some (s.masterOf pl.blob), badMaster := false, dirty := true, target := nextEpoch e.curEpoch } := by
  obtain ⟨v, held, run⟩ := accepts.waits
  obtain ⟨-, learn⟩ := (held.takesBlob takes).takeBlob (!x.operator) (some s.lnk.nextLong)
  rw [held.shapedBy, held.masterOf, held.masterLen, held.shape, held.nextResv, held.pol, ← size] at learn
  rw [← held.extentOf] at unmastered
  rw [← held.cabUse home, ← held.getP] at quota
  rw [← held.exportBase, ← held.extents] at freeM free
  have both := v.cabUse_addExtent (p := e.home) (x := ⟨gm, s.masterLen pl.blob, e.home, .master e.aid⟩) nofun
  rw [if_pos rfl] at both
  exact ⟨_, run _ (learn learns g _ _ pb esc c (State.chargeMaster_ok unmastered ((Nat.le_add_right _ _).trans quota) freeM)
    (State.charge_ok _ ((congrArg (· + plen) both).le.trans quota) free) made), held.filed rfl pl.blob⟩

end

/-- Settles O21: the envelope holds the upload, and its blob passes the checks, is charged and is filed; of a `LEARN` blob the master area is
charged first. -/
theorem uploadHandsACandidateToTheEngine : Obligations.UploadHandsACandidateToTheEngine := by
  unfold Obligations.UploadHandsACandidateToTheEngine
  intro s f pl x e b g rd h projs recs n len up admits session long deployed powered few secure room check1 aid size magic major minor check3
    entry ward owned state named shape check7 escapes live home e1 taken cand
  have accepts : s.AcceptsUpload f pl x b := ⟨admits, session, long, deployed, powered, few, secure, room, check1, aid⟩
  have takes : s.TakesBlob pl.blob (if x.operator then wardCommon else x.ward) e :=
    ⟨size, magic, major, minor, check3, entry, ward, owned, state, named, shape, check7, escapes, live⟩
  constructor
  · intro plain quota free
    obtain ⟨t, run, ⟨longs, sec, cands, prt, pol⟩, rest⟩ := accepts.published takes home plain quota free
    exact ⟨t, run, ⟨longs, sec, cands, prt, pol⟩, rest⟩
  · intro gm esc pb c learns shapes m mlen plen unmastered quota freeM free made
    obtain ⟨t, run, ⟨longs, sec, cands, prt, pol⟩, rest⟩ := accepts.learned takes home learns unmastered rfl quota freeM free made
    exact ⟨t, run, ⟨longs, sec, cands, prt, pol⟩, rest⟩

end Sys2Proof.Machine
end

section
/-! PROOF. Sending over the pool's fabric (R338, R339): what a frame that leaves or waits changes, and where it is afterwards. -/

namespace Sys2Proof.Machine

open Sys2Proof

/-! ### Sessions -/

theorem map_updFirst {α β : Type} {g : α → β} {f : α → α} (h : ∀ x, g (f x) = g x) (l : List α) (t : α → Bool) :
    (updFirst l t f).map g = l.map g := by
  induction l with
  | nil => rfl
  | cons x xs ih =>
    rw [updFirst]
    split
    · rw [List.map_cons, h, List.map_cons]
    · rw [List.map_cons, ih, List.map_cons]

theorem mem_updFirst_of_mem {α : Type} {l : List α} {x : α} (t : α → Bool) (f : α → α) (h : x ∈ l) :
    x ∈ updFirst l t f ∨ f x ∈ updFirst l t f := by
  induction l with
  | nil => cases h
  | cons y ys ih =>
    rw [updFirst]
    rcases List.mem_cons.mp h with rfl | h
    · split
      · exact .inr (List.mem_cons_self ..)
      · exact .inl (List.mem_cons_self ..)
    · split
      · exact .inl (List.mem_cons_of_mem _ h)
      · exact (ih h).imp (List.mem_cons_of_mem _) (List.mem_cons_of_mem _)

theorem mem_updFirst_of_find? {α : Type} {l : List α} {t : α → Bool} {x : α} (f : α → α) (h : l.find? t = some x) : f x ∈ updFirst l t f := by
  induction l with
  | nil => cases h
  | cons y ys ih =>
    rw [updFirst]
    rw [List.find?_cons] at h
    split at h
    next hy =>
      cases h
      rw [if_pos hy]
      exact List.mem_cons_self ..
    next hy =>
      rw [if_neg (by rw [hy]; exact Bool.false_ne_true)]
      exact List.mem_cons_of_mem _ (ih h)

/-- A session without its credits, its waiting frames and its signs of life: what messages and their tags depend on. -/
def RppSess.talk (x : RppSess) : RppSess := { x with unreach := false, idle := 0, used := 0, used0 := 0, wait := [] }

theorem RppSess.talk_take (x : RppSess) : x.take.talk = x.talk := by
  unfold RppSess.take
  split <;> rfl

/-! ### What sending changes -/

/-- A state after frames have been sent or heard: credits, waiting and sent frames, wakes of sub-ports, counters, signs of life, free numbers. -/
structure State.Traffic (s t : State) : Prop where
  rest : { s with pwr := t.pwr, fab := t.fab, freeCtr := t.freeCtr
                  pol := { s.pol with sess := t.pol.sess, sent := t.pol.sent, groupAt := t.pol.groupAt, quiet := t.pol.quiet } } = t
  talk : t.pol.sess.map RppSess.talk = s.pol.sess.map RppSess.talk

theorem State.Traffic.refl (s : State) : s.Traffic s := ⟨rfl, rfl⟩

theorem State.Traffic.trans {s t u : State} (h : s.Traffic t) (g : t.Traffic u) : s.Traffic u :=
  ⟨by rw [← g.rest, ← h.rest], g.talk.trans h.talk⟩

theorem State.traffic_foldl {α : Type} (l : List α) {f : State → α → State} (h : ∀ (s : State) a, s.Traffic (f s a)) (s : State) :
    s.Traffic (l.foldl f s) := by
  induction l generalizing s with
  | nil => exact .refl s
  | cons a l ih => exact (h s a).trans (ih (f s a))

/-- An update of a session that messages do not depend on. -/
theorem State.traffic_modSess (s : State) (peer : Nat) {f : RppSess → RppSess} (h : ∀ x, (f x).talk = x.talk) :
    s.Traffic (s.modPol fun q => q.modSess peer f) :=
  ⟨rfl, map_updFirst h _ _⟩

theorem State.traffic_fabCount (s : State) (port : Option Nat) (sent : Bool) (n : Nat) : s.Traffic (s.fabCount port sent n) := by
  unfold State.fabCount
  split
  · exact .refl s
  · exact ⟨rfl, rfl⟩

theorem State.traffic_touchGroup (s : State) (peer ty : Nat) : s.Traffic (s.touchGroup peer ty) := by
  unfold State.touchGroup
  split
  · exact ⟨rfl, rfl⟩
  · exact .refl s

theorem State.traffic_putFrame (s : State) (port : Option Nat) (peer n : Nat) (m : RppMsg) : s.Traffic (s.putFrame port peer n m) := by
  unfold State.putFrame
  split
  · exact ⟨rfl, rfl⟩
  · have sent : s.Traffic (s.modPol fun q => { q with sent := q.sent ++ [(peer, m)] }) := ⟨rfl, rfl⟩
    exact sent.trans (State.traffic_fabCount ..)

theorem State.traffic_sendFrame (s : State) (peer : Nat) (m : RppMsg) : s.Traffic (s.sendFrame peer m) := by
  have go (s : State) : s.Traffic ((s.touchGroup peer m.type).putFrame (s.rppPort m) peer (32 + m.len) m) :=
    (s.traffic_touchGroup peer m.type).trans (State.traffic_putFrame ..)
  unfold State.sendFrame
  split
  · exact go s
  · split
    · exact (s.traffic_modSess peer RppSess.talk_take).trans (go _)
    · exact s.traffic_modSess peer fun _ => rfl

theorem State.traffic_sendFrames (s : State) (peer : Nat) (l : List RppMsg) : s.Traffic (s.sendFrames peer l) :=
  State.traffic_foldl l (fun s m => s.traffic_sendFrame peer m) s

theorem State.traffic_heard (s : State) (peer ty : Nat) : s.Traffic (s.heard peer ty) := by
  have alive : s.Traffic (s.modPol fun q =>
      { (q.modSess peer fun x => { x with unreach := false, idle := s.now }) with
        quiet := SMap.set (0, 0) q.quiet peer (s.now + msTicks q.peerDead.toNat, s.now + msTicks q.lease.toNat) }) :=
    ⟨rfl, map_updFirst (f := fun x : RppSess => { x with unreach := false, idle := s.now }) (fun _ => rfl) _ _⟩
  exact alive.trans (State.traffic_touchGroup _ peer ty)

theorem State.traffic_creditsBack (s : State) (peer : Nat) : s.Traffic (s.creditsBack peer) := by
  unfold State.creditsBack
  split
  · exact .refl s
  · split
    · exact .refl s
    · have free : s.Traffic s.fresh.2.fresh.2 := ⟨rfl, rfl⟩
      have back := free.trans (s.fresh.2.fresh.2.traffic_modSess peer (f := fun y => { y with
        used := y.used - s.fresh.1 % (y.used + 1), used0 := y.used0 - s.fresh.2.fresh.1 % (y.used0 + 1), wait := [] }) fun _ => rfl)
      exact back.trans (State.traffic_sendFrames ..)

/-- Hearing a message is traffic (R311, R338, R635). -/
theorem State.traffic_hearing (s : State) (m : RppMsg) : s.Traffic (s.hearing m) :=
  ((s.traffic_fabCount _ _ _).trans (State.traffic_heard _ m.peer m.type)).trans (State.traffic_creditsBack _ m.peer)

section
variable {s t : State}

theorem State.Traffic.mgt (h : s.Traffic t) : t.mgt = s.mgt := (congrArg State.mgt h.rest).symm
theorem State.Traffic.cab (h : s.Traffic t) : t.cab = s.cab := (congrArg State.cab h.rest).symm
theorem State.Traffic.hbm (h : s.Traffic t) : t.hbm = s.hbm := (congrArg State.hbm h.rest).symm
theorem State.Traffic.prt (h : s.Traffic t) : t.prt = s.prt := (congrArg State.prt h.rest).symm
theorem State.Traffic.pol (h : s.Traffic t) : { s.pol with sess := t.pol.sess, sent := t.pol.sent, groupAt := t.pol.groupAt, quiet := t.pol.quiet } = t.pol :=
  congrArg State.pol h.rest
theorem State.Traffic.reqs (h : s.Traffic t) : t.pol.reqs = s.pol.reqs := (congrArg Pol.reqs h.pol).symm
theorem State.Traffic.exports (h : s.Traffic t) : t.pol.exports = s.pol.exports := (congrArg Pol.exports h.pol).symm

/-- A session keeps what messages depend on. -/
theorem State.Traffic.session (h : s.Traffic t) (peer : Nat) : (t.pol.session peer).map RppSess.talk = (s.pol.session peer).map RppSess.talk := by
  have found (l : List RppSess) : (l.find? fun x => x.inst == peer).map RppSess.talk = (l.map RppSess.talk).find? fun x => x.inst == peer := by
    rw [List.find?_map]
    rfl
  rw [Pol.session, Pol.session, found, found, h.talk]

/-- What a session's part that messages depend on decides, traffic does not change. -/
theorem State.Traffic.session_map {α : Type} (h : s.Traffic t) (peer : Nat) {g : RppSess → α} (hg : ∀ x, g x.talk = g x) :
    (t.pol.session peer).map g = (s.pol.session peer).map g := by
  have through (o : Option RppSess) : o.map g = (o.map RppSess.talk).map g := by
    rw [Option.map_map]
    exact congrArg (fun k => o.map k) (funext fun x => (hg x).symm)
  rw [through, h.session, ← through]

theorem State.Traffic.sessOpen (h : s.Traffic t) (peer : Nat) : t.sessOpen peer = s.sessOpen peer := by
  have through (o : Option RppSess) : o.any (!·.opening) = (o.map (!·.opening)).getD false := by cases o <;> rfl
  rw [State.sessOpen, State.sessOpen, through, through, h.session_map peer fun _ => rfl]

theorem State.Traffic.newTag (h : s.Traffic t) (m : RppMsg) : t.newTag m = s.newTag m := by
  have through (o : Option RppSess) : (o.all fun x => !x.busyTags.contains m.tag && !(x.doneTags.any fun e => e.1 == m.tag))
      = (o.map fun x => !x.busyTags.contains m.tag && !(x.doneTags.any fun e => e.1 == m.tag)).getD true := by cases o <;> rfl
  rw [State.newTag, State.newTag, through, through, h.session_map m.peer fun _ => rfl]

theorem State.Traffic.reqOf (h : s.Traffic t) (peer tag : Nat) : t.reqOf peer tag = s.reqOf peer tag := by
  rw [State.reqOf, State.reqOf, h.reqs]

theorem State.Traffic.entry (h : s.Traffic t) (aid : Nat) : t.entry aid = s.entry aid := State.entry_eq_of_cab aid h.cab

theorem State.Traffic.inWindow (h : s.Traffic t) (inst off len : Nat) : t.inWindow inst off len = s.inWindow inst off len := by
  rw [State.inWindow, State.inWindow, h.exports]

end

/-! ### Where a frame is that has been sent -/

/-- The messages that a state would write do not depend on the tags that its sessions remember, nor on traffic. -/
theorem State.rppMsg_congr {s t : State} {peer : Nat} (valid : t.pol.instValid = s.pol.instValid) (inst : t.pol.instId = s.pol.instId)
    (view : t.pol.viewNum = s.pol.viewNum) (minor : (t.pol.session peer).map (·.minor) = (s.pol.session peer).map (·.minor))
    (ty tag : Nat) (st : Status) (aid ep : Nat) (pl : RppPl) : t.rppMsg peer ty tag st aid ep pl = s.rppMsg peer ty tag st aid ep pl := by
  rw [State.rppMsg, State.rppMsg, State.me, State.me, valid, inst, view, minor]

theorem State.Traffic.rppMsg {s t : State} (h : s.Traffic t) (peer ty tag : Nat) (st : Status) (aid ep : Nat) (pl : RppPl) :
    t.rppMsg peer ty tag st aid ep pl = s.rppMsg peer ty tag st aid ep pl :=
  State.rppMsg_congr (congrArg Pol.instValid h.pol).symm (congrArg Pol.instId h.pol).symm (congrArg Pol.viewNum h.pol).symm
    (h.session_map peer fun _ => rfl) ..

/-- An update of a session that keeps its waiting frames keeps what is on its way. -/
theorem State.outgoing_modSess {s : State} {p : Nat} {m : RppMsg} (peer : Nat) {f : RppSess → RppSess} (inst : ∀ x, (f x).inst = x.inst)
    (wait : ∀ x, x.wait ⊆ (f x).wait) (h : s.outgoing p m) : (s.modPol fun q => q.modSess peer f).outgoing p m := by
  obtain sent | frames | ⟨x, hx, hp, hm⟩ := h
  · exact .inl sent
  · exact .inr (.inl frames)
  · refine .inr (.inr ?_)
    rcases mem_updFirst_of_mem (fun x => x.inst == peer) f hx with hx | hx
    · exact ⟨x, hx, hp, hm⟩
    · exact ⟨f x, hx, (inst x).trans hp, wait x hm⟩

theorem State.outgoing_touchGroup {s : State} {p : Nat} {m : RppMsg} (peer ty : Nat) (h : s.outgoing p m) :
    (s.touchGroup peer ty).outgoing p m := by
  unfold State.touchGroup
  split
  · exact h
  · exact h

/-- A frame that is put on the fabric has left or waits for its sub-port's domain, beside those that have or do. -/
theorem State.outgoing_putFrame {s : State} (port : Option Nat) (peer n : Nat) (m : RppMsg) :
    (s.putFrame port peer n m).outgoing peer m ∧ ∀ p k, s.outgoing p k → (s.putFrame port peer n m).outgoing p k := by
  unfold State.putFrame
  split
  next i _ =>
    refine ⟨.inr (.inl ⟨i, List.mem_append_right _ (List.mem_singleton.mpr rfl)⟩), fun p k h => ?_⟩
    obtain sent | ⟨j, frames⟩ | wait := h
    · exact .inl sent
    · exact .inr (.inl ⟨j, List.mem_append_left _ frames⟩)
    · exact .inr (.inr wait)
  · have counted (t : State) (p : Nat) (k : RppMsg) (h : t.outgoing p k) : (t.fabCount port true n).outgoing p k := by
      unfold State.fabCount
      split
      · exact h
      · exact h
    refine ⟨counted _ _ _ (.inl (List.mem_append_right _ (List.mem_singleton.mpr rfl))), fun p k h => counted _ _ _ ?_⟩
    exact h.imp_left (List.mem_append_left _)

/-- A frame that is sent is on its way, beside those that are. -/
theorem State.outgoing_sendFrame (s : State) (peer : Nat) (m : RppMsg) :
    (s.sendFrame peer m).outgoing peer m ∧ ∀ p k, s.outgoing p k → (s.sendFrame peer m).outgoing p k := by
  have go (s : State) : let t := (s.touchGroup peer m.type).putFrame (s.rppPort m) peer (32 + m.len) m
      t.outgoing peer m ∧ ∀ p k, s.outgoing p k → t.outgoing p k := by
    obtain ⟨self, others⟩ := State.outgoing_putFrame (s := s.touchGroup peer m.type) (s.rppPort m) peer (32 + m.len) m
    exact ⟨self, fun p k h => others p k (State.outgoing_touchGroup peer m.type h)⟩
  have inst (x : RppSess) : x.take.inst = x.inst := (congrArg RppSess.inst x.talk_take :)
  have wait (x : RppSess) : x.take.wait = x.wait := by
    unfold RppSess.take
    split <;> rfl
  unfold State.sendFrame
  split
  · exact go s
  next x found =>
    split
    · obtain ⟨self, others⟩ := go (s.modPol fun q => q.modSess peer (·.take))
      exact ⟨self, fun p k h => others p k (State.outgoing_modSess peer inst (fun x => (wait x).symm ▸ List.Subset.refl _) h)⟩
    · refine ⟨.inr (.inr ?_), fun p k h => State.outgoing_modSess peer (fun _ => rfl) (fun _ => List.subset_append_left ..) h⟩
      have listed : s.pol.session peer = some x := by
        obtain ⟨listed, -⟩ := Option.filter_eq_some_iff.mp found
        exact listed
      exact ⟨_, mem_updFirst_of_find? _ listed, by simpa using List.find?_some listed, List.mem_append_right _ (List.mem_singleton.mpr rfl)⟩

theorem State.outgoing_sendFrames (s : State) (peer : Nat) (l : List RppMsg) :
    (∀ m ∈ l, (s.sendFrames peer l).outgoing peer m) ∧ ∀ p k, s.outgoing p k → (s.sendFrames peer l).outgoing p k := by
  induction l generalizing s with
  | nil => exact ⟨nofun, fun _ _ h => h⟩
  | cons m l ih =>
    obtain ⟨self, kept⟩ := s.outgoing_sendFrame peer m
    obtain ⟨those, others⟩ := ih (s.sendFrame peer m)
    refine ⟨fun k hk => ?_, fun p k h => others p k (kept p k h)⟩
    rcases List.mem_cons.mp hk with rfl | hk
    · exact others _ _ self
    · exact those k hk

/-- On an open session a message that is no request is pushed at once (R337). -/
theorem State.sendRpp_open {s : State} {peer : Nat} (h : s.sessOpen peer = true) (ty tag : Nat) (st : Status) (aid ep : Nat) (pl : RppPl) :
    s.sendRpp peer ty tag st aid ep pl = s.sendFrames peer (s.rppMsg peer ty tag st aid ep pl).frames :=
  if_pos (.inr (.inr (.inr h)))

/-- A reply on an open session: every frame of it is on its way. -/
theorem State.reply_told {s : State} {peer : Nat} (h : s.sessOpen peer = true) (m : RppMsg) (ty : Nat) (st : Status) (pl : RppPl) :
    s.Traffic (s.reply m peer ty st pl) ∧ (s.reply m peer ty st pl).told peer ty m.tag st m.aid m.epoch pl := by
  rw [State.reply, State.sendRpp_open h]
  have traffic := s.traffic_sendFrames peer (s.rppMsg peer ty m.tag st m.aid m.epoch pl).frames
  refine ⟨traffic, fun f hf => ?_⟩
  rw [traffic.rppMsg] at hf
  exact (s.outgoing_sendFrames peer _).1 f hf

/-! ### Requests that are served once (R342) -/

/-- A state in which the session of a peer remembers other tags. -/
def State.retag (s : State) (peer : Nat) (f : RppSess → List Nat × List (Nat × RppMsg)) : State :=
  s.modPol fun q => q.modSess peer fun y => { y with busyTags := (f y).1, doneTags := (f y).2 }

theorem State.retag_butSess (s : State) (peer : Nat) (f : RppSess → List Nat × List (Nat × RppMsg)) : (s.retag peer f).butSess s := rfl

theorem State.retag_told {s : State} {p : Nat} (peer : Nat) (f : RppSess → List Nat × List (Nat × RppMsg)) {ty tag : Nat} {st : Status}
    {aid ep : Nat} {pl : RppPl} (h : s.told p ty tag st aid ep pl) : (s.retag peer f).told p ty tag st aid ep pl := by
  have minor : ((s.retag peer f).pol.session p).map (·.minor) = (s.pol.session p).map (·.minor) := by
    have found (l : List RppSess) : (l.find? fun x => x.inst == p).map (·.minor)
        = ((l.map fun x => (x.inst, x.minor)).find? fun x => x.1 == p).map (·.2) := by
      rw [List.find?_map, Option.map_map]
      rfl
    have same : ((s.retag peer f).pol.sess.map fun x => (x.inst, x.minor)) = s.pol.sess.map fun x => (x.inst, x.minor) :=
      map_updFirst (f := fun y : RppSess => { y with busyTags := (f y).1, doneTags := (f y).2 }) (fun _ => rfl) _ _
    rw [Pol.session, Pol.session, found, found, same]
  intro k hk
  rw [State.rppMsg_congr (s := s) (t := s.retag peer f) rfl rfl rfl minor] at hk
  exact State.outgoing_modSess peer (fun _ => rfl) (fun _ => List.Subset.refl _) (h k hk)

theorem State.modSess_eq_retag (s : State) (peer : Nat) {g : RppSess → RppSess}
    (h : ∀ y, g y = { y with busyTags := (g y).busyTags, doneTags := (g y).doneTags }) :
    (s.modPol fun q => q.modSess peer g) = s.retag peer fun y => ((g y).busyTags, (g y).doneTags) :=
  congrArg (fun g => s.modPol fun q => q.modSess peer g) (funext h)

/-- A request whose tag is new to an open session is served; the session then remembers it (R342). -/
theorem State.serveReq_new {s : State} {m : RppMsg} (new : s.newTag m = true) (open_ : s.sessOpen m.peer = true) (body : State → State) :
    ∃ f, s.serveReq m m.peer body = (body s).retag m.peer f := by
  obtain ⟨x, session, -⟩ := (Option.any_eq_true _ _).mp open_
  rw [State.newTag, session] at new
  obtain ⟨idle, undone⟩ : x.busyTags.contains m.tag = false ∧ (x.doneTags.any fun e => e.1 == m.tag) = false := by simpa using new
  have none_done : x.doneTags.filter (fun e => e.1 == m.tag) = [] := by
    rw [List.filter_eq_nil_iff]
    simpa [List.any_eq_false] using undone
  unfold State.serveReq
  rw [session]
  dsimp only
  rw [idle, if_neg Bool.false_ne_true, none_done]
  refine ⟨_, State.modSess_eq_retag _ _ fun y => ?_⟩
  split
  · rfl
  · split <;> rfl

end Sys2Proof.Machine
end

section
/-! PROOF. A message that is acted on at once (R339, R341, R553): from its arrival to its handler. -/

namespace Sys2Proof.Machine

open Sys2Proof

/-- What a message that is heard brings along (`State.hears`). -/
structure State.Hearing (s : State) (m : RppMsg) (ty : Nat) : Prop where
  type : m.type = ty
  booted : s.booted = true
  powered : s.pwr.pdStage.toNat < 5
  awake : (s.rppPort m).all (fun k => s.awake (domFab k)) = true
  good : s.rppOk m = true
  viewed : (s.hearing m).waitsView m = false
  up : rppHw ty = true ∨ s.serviceUp 2 3 = true
  work : s.pol.work = []
  held : s.pol.heldMsgs = []
  whole : (match m.pl with | .part _ => false | .cont => false | _ => true) = true

theorem State.hears_iff (s : State) (m : RppMsg) (ty : Nat) : s.hears m ty = true ↔ s.Hearing m ty := by
  unfold State.hears
  simp only [Bool.and_eq_true, beq_iff_eq, decide_eq_true_eq, Bool.not_eq_true', Bool.or_eq_true, List.isEmpty_iff, and_assoc]
  exact ⟨fun ⟨a, b, c, d, e, f, g, h, i, j⟩ => ⟨a, b, c, d, e, f, g, h, i, j⟩,
    fun ⟨a, b, c, d, e, f, g, h, i, j⟩ => ⟨a, b, c, d, e, f, g, h, i, j⟩⟩

/-- A message that is heard is acted on in the state in which its bytes are counted and its sender is known to live. -/
theorem State.Hearing.rpp {s : State} {m : RppMsg} {ty : Nat} (h : s.Hearing m ty) : s.rpp m ty = ((s.hearing m).deliver m).afterFrame := by
  have here : ¬(m.type ≠ ty ∨ s.booted = false ∨ 5 ≤ s.pwr.pdStage.toNat) := by
    simp [h.type, h.booted, h.powered]
  have awake : ((s.rppPort m).filter fun k => !s.awake (domFab k)) = none := by
    have all := h.awake
    cases hp : s.rppPort m with
    | none => rfl
    | some k =>
      rw [hp, Option.all_some] at all
      simp [all]
  rw [State.rpp, if_neg here, awake]
  dsimp only
  rw [State.rppArrive, if_neg (by simp [h.good])]
  dsimp only
  rw [if_neg (by simp [h.viewed])]

/-- A message of the pool pair's work is the pair's only item, and its handler runs at once (R553, R554). -/
theorem State.Hearing.handled {s : State} {m : RppMsg} {ty : Nat} (h : s.Hearing m ty) (pair : rppHw ty = false) :
    s.rpp m ty = (rppHandler ty (s.hearing m) m m.peer).afterMsg ty := by
  have traffic := s.traffic_hearing m
  have work : (s.hearing m).pol.work = [] := ((congrArg Pol.work traffic.pol).symm).trans h.work
  have held : (s.hearing m).pol.heldMsgs = [] := ((congrArg Pol.heldMsgs traffic.pol).symm).trans h.held
  have up : (s.hearing m).serviceUp 2 3 = true := by
    rw [State.serviceUp, State.booted, traffic.mgt]
    exact h.up.resolve_left (by simp [pair])
  have listed : (s.hearing m).deliver m = (s.hearing m).withWork [.msg m] := by
    have notPart (bs : List Byte) (part : m.pl = .part bs) : False := by
      have whole := h.whole
      rw [part] at whole
      exact Bool.false_ne_true whole
    have notCont (cont : m.pl = .cont) : False := by
      have whole := h.whole
      rw [cont] at whole
      exact Bool.false_ne_true whole
    rw [State.deliver]
    split
    · exact (notPart _ ‹_›).elim
    · exact (notCont ‹_›).elim
    · rw [if_neg (by simp [h.type, pair]), State.withWork, State.modPol, work]
      rfl
  rw [h.rpp, listed, State.afterFrame, State.runPool_one up work held, State.afterMsg, if_neg (by simp [pair]), State.doItem, h.type]

/-- The session of a message's sender is open, for the types that need one (R337, R346). -/
theorem State.Hearing.sessOpen {s : State} {m : RppMsg} {ty : Nat} (h : s.Hearing m ty)
    (needs : ty ≠ 1 ∧ ty ≠ 2 ∧ ty ≠ 3 ∧ ty ≠ 4 ∧ ty ≠ 0x0A) : (s.hearing m).sessOpen m.peer = true := by
  have good := h.good
  rw [State.rppOk, h.type] at good
  rw [(s.traffic_hearing m).sessOpen, State.sessOpen]
  obtain ⟨n1, n2, n3, n4, n5⟩ := needs
  simp only [Bool.and_eq_true, Bool.or_eq_true, beq_iff_eq, n1, n2, n3, n4, n5, false_or] at good
  exact good.1.2

end Sys2Proof.Machine
end

section
/-! PROOF. Ranges, windows and probes (R141, R300, R302, R316, R321, R329): what each message leaves, and the obligation. -/

namespace Sys2Proof.Machine

open Sys2Proof

/-! ### A view to come -/

/-- A state after messages have been sent or queued: traffic, sessions and requests. -/
structure State.Asks (s t : State) : Prop where
  rest : { s with pwr := t.pwr, fab := t.fab, freeCtr := t.freeCtr
                  pol := { s.pol with sess := t.pol.sess, sent := t.pol.sent, groupAt := t.pol.groupAt, quiet := t.pol.quiet
                                      reqs := t.pol.reqs, nextReq := t.pol.nextReq } } = t

theorem State.Asks.refl (s : State) : s.Asks s := ⟨rfl⟩

theorem State.Asks.trans {s t u : State} (h : s.Asks t) (g : t.Asks u) : s.Asks u := ⟨by rw [← g.rest, ← h.rest]⟩

theorem State.Traffic.asks {s t : State} (h : s.Traffic t) : s.Asks t := ⟨by rw [← h.rest]⟩

theorem State.asks_openSess (s : State) (peer : Nat) : s.Asks (s.openSess peer) := by
  unfold State.openSess
  dsimp only
  split
  · exact .refl s
  · split
    · exact .refl s
    · exact State.Asks.trans ⟨rfl⟩ (State.traffic_sendFrames ..).asks

theorem State.asks_launch (s : State) (id : Nat) : s.Asks (s.launch id) := by
  unfold State.launch
  split
  · exact .refl s
  · split
    · split
      · exact .refl s
      · exact State.Asks.trans ⟨rfl⟩ (State.traffic_sendFrames ..).asks
    · exact .refl s

theorem State.asks_queueRpp (s : State) (peer : Nat) (kind : ReqKind) (msg : RppMsg) : s.Asks (s.queueRpp peer kind msg) := by
  have opened : s.Asks (if (s.pol.session peer).isSome then s else s.openSess peer) := by
    split
    · exact .refl s
    · exact s.asks_openSess peer
  exact (opened.trans ⟨rfl⟩).trans (State.asks_launch _ _)

theorem State.asks_sendRpp (s : State) (peer ty tag : Nat) (st : Status) (aid ep : Nat) (pl : RppPl) :
    s.Asks (s.sendRpp peer ty tag st aid ep pl) := by
  unfold State.sendRpp
  dsimp only
  split
  · exact (s.traffic_sendFrames peer _).asks
  · exact s.asks_queueRpp ..

theorem State.asks_foldl {α : Type} (l : List α) {f : State → α → State} (h : ∀ (s : State) a, s.Asks (f s a)) (s : State) :
    s.Asks (l.foldl f s) := by
  induction l generalizing s with
  | nil => exact .refl s
  | cons a l ih => exact (h s a).trans (ih (f s a))

/-- With two seeds or more, the registrar's own acknowledgement is no majority: the view waits (R307). -/
theorem State.tryIssue_alone {s : State} {a : Nat} (two : 2 ≤ s.pol.seedCnt.toNat) (nodup : (s.pol.members.map (·.inst)).Nodup)
    (acks : s.pol.pendAcks = [a]) : s.tryIssue = s := by
  have once : s.seedMembers.Nodup := nodup.sublist (List.filter_sublist.map _)
  have got : (s.seedMembers.filter fun i => s.pol.pendAcks.contains i).length ≤ 1 := by
    rw [acks]
    have same : (s.seedMembers.filter fun i => [a].contains i) = s.seedMembers.filter (· == a) :=
      List.filter_congr fun i _ => by simp [beq_eq_decide]
    rw [same, ← List.countP_eq_length_filter]
    exact List.nodup_iff_count_le_one.mp once a
  unfold State.tryIssue
  split
  · rfl
  · exact if_neg (by omega)

/-- A change that is put into the next view stands there, or in the view that now waits for its acknowledgements (R306, R307). -/
theorem State.propose_keeps {s : State} (two : 2 ≤ s.pol.seedCnt.toNat) (nodup : (s.pol.members.map (·.inst)).Nodup) (w : ViewPl) :
    (s.propose w).pol.grants = s.pol.grants
      ∧ ∀ r ∈ w.ranges, ∃ v ∈ (s.propose w).pol.nextView ++ (s.propose w).pol.pend.toList, r ∈ v.ranges := by
  obtain ⟨t, ht⟩ : ∃ t, t = s.modPol fun q => { q with nextView := q.nextView ++ [w] } := ⟨_, rfl⟩
  have listed : w ∈ t.pol.nextView := by
    rw [ht]
    exact List.mem_append_right _ (List.mem_singleton.mpr rfl)
  have same : t.pol.grants = s.pol.grants ∧ t.pol.seedCnt = s.pol.seedCnt ∧ t.pol.members = s.pol.members := by
    rw [ht]
    exact ⟨rfl, rfl, rfl⟩
  obtain ⟨grants, seeds, members⟩ := same
  rw [State.propose, ← ht, ← grants]
  rw [← seeds] at two
  rw [← members] at nodup
  unfold State.issueView
  split
  · exact ⟨rfl, fun r hr => ⟨w, List.mem_append_left _ listed, hr⟩⟩
  · dsimp only
    obtain ⟨x, hx⟩ : ∃ x, x = t.modPol fun q => { q with pend := some t.nextViewOf, pendAt := t.nextViewOf.num, pendAcks := [t.me], nextView := [] } :=
      ⟨_, rfl⟩
    rw [← hx]
    have sent := x.asks_foldl (f := fun s i => s.sendRpp i 6 0 .ok 0 0 (.view t.nextViewOf)) (x.seedMembers.filter (· != x.me))
      (fun s i => s.asks_sendRpp ..)
    generalize List.foldl _ x _ = y at sent
    have pol := congrArg State.pol sent.rest
    have waits : y.tryIssue = y := by
      refine State.tryIssue_alone (a := t.me) ?_ ?_ ?_
      · rw [← pol, hx]
        exact two
      · rw [← pol, hx]
        exact nodup
      · rw [← pol, hx]
        rfl
    rw [waits, ← pol, hx]
    refine ⟨rfl, fun r hr => ⟨t.nextViewOf, by simp, ?_⟩⟩
    exact List.mem_append_left _ (List.mem_flatMap.mpr ⟨w, listed, hr⟩)

/-! ### Handlers -/

section
variable {s : State} {m : RppMsg}

/-- A free range is granted: the grant waits for the view that holds it (R316). -/
theorem hRangeReq_granted {k : Nat} (registrar : s.isRegistrar = true) (majority : s.majority = true) (new : s.newTag m = true)
    (open_ : s.sessOpen m.peer = true) (free : lowestRange s.rangesBusy s.pol.ranges 65536 0 = some k) :
    ∃ f, hRangeReq s m m.peer = (State.propose (s.modPol fun q => { q with grants := q.grants ++ [(m.peer, m.tag, k)] })
      { noChange with ranges := [(k, { state := .held, inst := m.peer })] }).retag m.peer f := by
  obtain ⟨f, served⟩ := State.serveReq_new new open_ fun s =>
    match s.grantRange m.peer m.tag with
    | (some st, s) => s.reply m m.peer 0x0C st .none
    | (none, s) => s
  rw [State.grantRange, free] at served
  exact ⟨f, (if_neg (by simp [registrar])).trans ((if_neg (by simp [majority])).trans served)⟩

/-- With no free range the request is refused (R316). -/
theorem hRangeReq_exhausted (registrar : s.isRegistrar = true) (majority : s.majority = true) (new : s.newTag m = true)
    (open_ : s.sessOpen m.peer = true) (none_free : lowestRange s.rangesBusy s.pol.ranges 65536 0 = none) :
    (hRangeReq s m m.peer).told m.peer 0x0C m.tag .idExhausted m.aid m.epoch .none := by
  obtain ⟨f, served⟩ := State.serveReq_new new open_ fun s =>
    match s.grantRange m.peer m.tag with
    | (some st, s) => s.reply m m.peer 0x0C st .none
    | (none, s) => s
  rw [State.grantRange, none_free] at served
  have run : hRangeReq s m m.peer = (s.reply m m.peer 0x0C .idExhausted .none).retag m.peer f :=
    (if_neg (by simp [registrar])).trans ((if_neg (by simp [majority])).trans served)
  obtain ⟨-, told⟩ := State.reply_told open_ m 0x0C .idExhausted .none
  rw [run]
  exact State.retag_told m.peer f told

/-- A message that is pushed as it stands is on its way (R337). -/
theorem State.pushRpp_outgoing (s : State) (peer : Nat) {r : RppMsg} (one : r.frames = [r]) :
    s.Traffic (s.pushRpp peer r) ∧ (s.pushRpp peer r).outgoing peer r := by
  rw [State.pushRpp, one]
  exact ⟨s.traffic_sendFrames peer [r], (s.outgoing_sendFrames peer [r]).1 r (List.mem_singleton.mpr rfl)⟩

theorem State.redirect_redirected (s : State) (m : RppMsg) : (s.redirect m m.peer).redirected m := by
  obtain ⟨traffic, out⟩ := s.pushRpp_outgoing m.peer
    (r := (s.rppMsg m.peer 0x0A m.tag .ok m.aid m.epoch (.num s.pol.viewNum.toNat)).onVc m.vc) rfl
  have view : (s.redirect m m.peer).pol.viewNum = s.pol.viewNum := (congrArg Pol.viewNum traffic.pol).symm
  have sent : s.Traffic (s.redirect m m.peer) := traffic
  rw [State.redirected, view, sent.rppMsg]
  exact out

theorem ceilDiv_pos {n k : Nat} (hn : n ≠ 0) (hk : 0 < k) : ceilDiv n k ≠ 0 := by
  rw [ceilDiv]
  exact (Nat.div_pos (by omega) hk).ne'

/-- A window is granted at the lowest free place of the export window (R321). -/
theorem hExportReq_granted {bytes b : Nat} (pl : m.pl = .num bytes) (new : s.newTag m = true) (open_ : s.sessOpen m.peer = true)
    (some_bytes : bytes ≠ 0)
    (free : lowestFree (ceilDiv bytes granule) s.cab.cacheBase s.cab.exportBase (s.cab.extents.filter fun e => e.part == 33) = some b) :
    (hExportReq s m m.peer).pol.exports = s.pol.exports ++ [{ inst := m.peer, base := granule * (b - s.cab.exportBase), bytes := bytes }]
      ∧ (hExportReq s m m.peer).cab = { s.cab with extents := addExtent ⟨b, ceilDiv bytes granule, 33, .window m.peer⟩ s.cab.extents }
      ∧ (hExportReq s m m.peer).told m.peer 0x0E m.tag .ok m.aid m.epoch (.window (granule * (b - s.cab.exportBase)) bytes) := by
  obtain ⟨f, served⟩ := State.serveReq_new new open_ fun s =>
    let base := s.cab.exportBase
    let len := ceilDiv bytes granule
    match lowestFree len s.cab.cacheBase base (s.cab.extents.filter fun e => e.part == 33) with
    | some b =>
      if len = 0 then s.reply m m.peer 0x0E .noCapacity .none
      else
        ((s.modCab fun c => { c with extents := addExtent ⟨b, len, 33, .window m.peer⟩ c.extents }).modPol fun q =>
          { q with exports := q.exports ++ [{ inst := m.peer, base := granule * (b - base), bytes := bytes }] }).reply m m.peer 0x0E .ok
            (.window (granule * (b - base)) bytes)
    | none => s.reply m m.peer 0x0E .noCapacity .none
  dsimp only at served
  rw [free] at served
  dsimp only at served
  rw [if_neg (ceilDiv_pos some_bytes (by decide))] at served
  obtain ⟨t, ht⟩ : ∃ t, t = (s.modCab fun c => { c with extents := addExtent ⟨b, ceilDiv bytes granule, 33, .window m.peer⟩ c.extents }).modPol
    fun q => { q with exports := q.exports ++ [{ inst := m.peer, base := granule * (b - s.cab.exportBase), bytes := bytes }] } := ⟨_, rfl⟩
  have run : hExportReq s m m.peer = (t.reply m m.peer 0x0E .ok (.window (granule * (b - s.cab.exportBase)) bytes)).retag m.peer f := by
    rw [hExportReq, pl, ht]
    exact served
  have open' : t.sessOpen m.peer = true := by
    rw [ht]
    exact open_
  obtain ⟨traffic, told⟩ := State.reply_told open' m 0x0E .ok (.window (granule * (b - s.cab.exportBase)) bytes)
  rw [run]
  refine ⟨?_, ?_, State.retag_told m.peer f told⟩
  · refine (traffic.exports : _).trans ?_
    rw [ht]
    rfl
  · refine (traffic.cab : _).trans ?_
    rw [ht]
    rfl

/-- A request that is answered no longer waits. -/
theorem State.dropReq_gone (s : State) (id : Nat) : ∀ y ∈ (s.dropReq id).pol.reqs, y.id ≠ id := fun y hy => by
  obtain ⟨-, other⟩ := List.mem_filter.mp hy
  simpa using other

theorem hRangeGrant_granted {r : PReq} {long k : Nat} (req : s.reqOf m.peer m.tag = some r) (kind : r.kind = .range long) (ok : m.status = .ok)
    (pl : m.pl = .num k) : hRangeGrant s m m.peer = (s.dropReq r.id).rangeFor long k := by
  rw [hRangeGrant, req]
  dsimp only
  rw [kind, ok, pl]

theorem hExportGrant_granted {r : PReq} {p base n : Nat} (req : s.reqOf m.peer m.tag = some r) (kind : r.kind = .winReq p) (ok : m.status = .ok)
    (pl : m.pl = .window base n) : hExportGrant s m m.peer = (s.dropReq r.id).modP p fun q => { q with slowAt := base + 1 } := by
  rw [hExportGrant, req]
  dsimp only
  rw [kind, ok, pl]

/-- The bytes of a window that its member exports are answered (R321). -/
theorem hSlowRd_answered {off len : Nat} (pl : m.pl = .window off len) (open_ : s.sessOpen m.peer = true) (win : s.inWindow m.peer off len = true) :
    (hSlowRd s m m.peer).told m.peer 0x1D m.tag .ok m.aid m.epoch (.data 0 (Memory.readN s.hbm (gAddr s.cab.exportBase + off) len) true) := by
  obtain ⟨-, told⟩ := State.reply_told open_ m 0x1D .ok (.data 0 (Memory.readN s.hbm (gAddr s.cab.exportBase + off) len) true)
  rw [hSlowRd, pl]
  dsimp only
  rw [if_pos win]
  exact told

theorem hSlowRd_outside {off len : Nat} (pl : m.pl = .window off len) (win : s.inWindow m.peer off len = false) : hSlowRd s m m.peer = s := by
  rw [hSlowRd, pl]
  dsimp only
  rw [if_neg (by simp [win])]

/-- A frame of a sealed blob joins those that came before; the last one opens it (R302, R303). -/
theorem hSlowData_eq {r : PReq} {p aid ep : Nat} {bs : List Byte} {ok : Bool} (req : s.reqOf m.peer m.tag = some r)
    (kind : r.kind = .slowRd p aid ep) (pl : m.pl = .data r.buf.length bs ok) :
    hSlowData s m m.peer = if m.last then (s.dropReq r.id).promotionEnd aid ep
        (Config.opened p aid ep (granule * (((s.entry aid).bind fun e => e.slot ep).bind (·.slowLoc)).getD 0) (r.buf ++ bs))
      else (s.gotFrame r bs.length).modReq r.id fun x => { x with buf := r.buf ++ bs } := by
  rw [hSlowData, req]
  dsimp only
  rw [kind, pl]
  exact if_neg (by simp)

/-- A request that waits is still there, changed, after an update by its number. -/
theorem State.modReq_changed {s : State} {y : PReq} {id : Nat} (h : y ∈ s.pol.reqs) (hid : y.id = id) (f : PReq → PReq) :
    ∃ x ∈ s.pol.reqs, x.id = id ∧ f x ∈ (s.modReq id f).pol.reqs := by
  obtain ⟨x, found⟩ : ∃ x, s.pol.reqs.find? (fun r => r.id == id) = some x := by
    rw [← Option.isSome_iff_exists, List.find?_isSome]
    exact ⟨y, h, by simpa using hid⟩
  exact ⟨x, List.mem_of_find?_eq_some found, by simpa using List.find?_some found, mem_updFirst_of_find? f found⟩

theorem State.reqOf_mem {r : PReq} {peer tag : Nat} (req : s.reqOf peer tag = some r) : r ∈ s.pol.reqs := List.mem_of_find?_eq_some req

/-- A frame of a sealed blob that is not the last lies with its request. -/
theorem hSlowData_buffered {r : PReq} {p aid ep : Nat} {bs : List Byte} {ok : Bool} (req : s.reqOf m.peer m.tag = some r)
    (kind : r.kind = .slowRd p aid ep) (pl : m.pl = .data r.buf.length bs ok) (more : m.last = false) :
    ∃ y ∈ (hSlowData s m m.peer).pol.reqs, y.id = r.id ∧ y.buf = r.buf ++ bs := by
  obtain ⟨x, -, hx, got⟩ := State.modReq_changed (State.reqOf_mem req) rfl fun x : PReq =>
    { x with t0 := s.now, due := s.now + usTicks s.pol.tGap.toNat, tFirst := if x.tFirst = 0 then s.now else x.tFirst, got := x.got + bs.length }
  obtain ⟨y, -, hy, kept⟩ := State.modReq_changed (s := s.gotFrame r bs.length) got hx fun x => { x with buf := r.buf ++ bs }
  rw [hSlowData_eq req kind pl, if_neg (by simp [more])]
  exact ⟨_, kept, hy, rfl⟩

/-- A demoted blob's bytes land in the exported window; the last frame is acknowledged (R321). -/
theorem hSlowWr_landed {off : Nat} {bs : List Byte} {ok : Bool} (pl : m.pl = .data off bs ok) (open_ : s.sessOpen m.peer = true)
    (win : s.inWindow m.peer off bs.length = true) :
    (hSlowWr s m m.peer).hbm = Memory.writeN s.hbm (gAddr s.cab.exportBase + off) bs
      ∧ (m.last = true → (hSlowWr s m m.peer).told m.peer 0x1F m.tag .ok m.aid m.epoch .none) := by
  obtain ⟨w, k, r, landed⟩ := s.land_hbm (gAddr s.cab.exportBase + off) bs
  obtain ⟨t, ht⟩ : ∃ t, t = s.land 0 (gAddr s.cab.exportBase + off) bs := ⟨_, rfl⟩
  have hbm : t.hbm = Memory.writeN s.hbm (gAddr s.cab.exportBase + off) bs := by rw [ht, landed]
  have open' : t.sessOpen m.peer = true := by
    rw [ht, landed]
    exact open_
  obtain ⟨traffic, told⟩ := State.reply_told open' m 0x1F .ok .none
  rw [hSlowWr, pl]
  dsimp only
  rw [if_pos win, ← ht]
  split
  · exact ⟨traffic.hbm.trans hbm, fun _ => told⟩
  next more => exact ⟨hbm, fun last => absurd last more⟩

theorem hSlowAck_demoted {r : PReq} {p aid ep : Nat} (req : s.reqOf m.peer m.tag = some r) (kind : r.kind = .slowWr p aid ep)
    (ok : m.status = .ok) : hSlowAck s m m.peer = (s.dropReq r.id).demoted aid ep := by
  rw [hSlowAck, req]
  dsimp only
  rw [kind]
  exact if_pos ok

/-- A probe is echoed (R329). -/
theorem hProbe_echoed (s : State) (m : RppMsg) :
    (hProbe s m m.peer).outgoing m.peer ((hProbe s m m.peer).rppMsg m.peer 0x1B m.tag .ok 0 0 .none).long := by
  obtain ⟨traffic, out⟩ := s.pushRpp_outgoing m.peer (r := (s.rppMsg m.peer 0x1B m.tag .ok 0 0 .none).long) rfl
  have sent : s.Traffic (hProbe s m m.peer) := traffic
  rw [sent.rppMsg]
  exact out

/-- An echo answers its probe and feeds the latencies of its group (R329). -/
theorem hProbeEcho_estimates {r : PReq} {grp : Nat} (d : CalGrp) (req : s.reqOf m.peer m.tag = some r) (kind : r.kind = .probe grp)
    (listed : grp < s.pol.cal.length) :
    (∀ y ∈ (hProbeEcho s m m.peer).pol.reqs, y.id ≠ r.id)
      ∧ (nth (hProbeEcho s m m.peer).pol.cal grp d).latV = estNext (nth s.pol.cal grp d).latV (nsOf (s.now - r.t0))
      ∧ (nth (hProbeEcho s m m.peer).pol.cal grp d).latF = estNext (nth s.pol.cal grp d).latF (nsOf (s.now - r.t0)) := by
  rw [hProbeEcho, req]
  dsimp only
  rw [kind]
  refine ⟨s.dropReq_gone r.id, ?_, ?_⟩
  · exact congrArg CalGrp.latV (nth_modNth_same _ d listed)
  · exact congrArg CalGrp.latF (nth_modNth_same _ d listed)

end

/-! ### The obligation -/

section
variable {s t : State}

theorem State.Traffic.rangesBusy (h : s.Traffic t) : t.rangesBusy = s.rangesBusy := by
  rw [State.rangesBusy, State.rangesBusy, ← h.pol]

theorem State.Traffic.ranges (h : s.Traffic t) : t.pol.ranges = s.pol.ranges := (congrArg Pol.ranges h.pol).symm
theorem State.Traffic.cal (h : s.Traffic t) : t.pol.cal = s.pol.cal := (congrArg Pol.cal h.pol).symm
theorem State.Traffic.grants (h : s.Traffic t) : t.pol.grants = s.pol.grants := (congrArg Pol.grants h.pol).symm
theorem State.Traffic.seedCnt (h : s.Traffic t) : t.pol.seedCnt = s.pol.seedCnt := (congrArg Pol.seedCnt h.pol).symm
theorem State.Traffic.members (h : s.Traffic t) : t.pol.members = s.pol.members := (congrArg Pol.members h.pol).symm
theorem State.Traffic.now (h : s.Traffic t) : t.now = s.now := (congrArg State.now h.rest).symm

end

/-- Settles O43: each message reaches its handler in the state in which it is heard, which differs from the old one by traffic only. -/
theorem rangesAndWindowsAreGranted : Obligations.RangesAndWindowsAreGranted := by
  intro s m v
  have traffic : s.Traffic v := s.traffic_hearing m
  have heard {ty : Nat} (h : s.hears m ty = true) : s.Hearing m ty := (s.hears_iff m ty).mp h
  have acted {ty : Nat} {u : State} (h : s.hears m ty = true) (pair : rppHw ty = false) (run : rppHandler ty v m m.peer = u) :
      (Host.Outcome.next (s.rpp m ty) : Host.Outcome State Fault Refusal) = .next (u.afterMsg ty) := by
    rw [(heard h).handled pair, run]
  have open_ {ty : Nat} (h : s.hears m ty = true) (needs : ty ≠ 1 ∧ ty ≠ 2 ∧ ty ≠ 3 ∧ ty ≠ 4 ∧ ty ≠ 0x0A) : v.sessOpen m.peer = true :=
    (heard h).sessOpen needs
  clear_value v
  have req {r : PReq} (h : s.reqOf m.peer m.tag = some r) : v.reqOf m.peer m.tag = some r := (traffic.reqOf ..).trans h
  have new (h : s.newTag m = true) : v.newTag m = true := (traffic.newTag m).trans h
  have range {o : Option Nat} (h : lowestRange s.rangesBusy s.pol.ranges 65536 0 = o) : lowestRange v.rangesBusy v.pol.ranges 65536 0 = o := by
    rw [traffic.rangesBusy, traffic.ranges, h]
  refine ⟨?rangeReq, ?exhausted, ?redirected, ?rangeGrant, ?exportReq, ?exportGrant, ?slowRd, ?slowData, ?slowWr, ?slowAck, ?probe, ?probeEcho⟩
  case rangeReq =>
    intro k h registrar majority fresh free
    obtain ⟨f, granted⟩ := hRangeReq_granted registrar majority (new fresh) (open_ h (by decide)) (range free)
    have keeps (two : 2 ≤ s.pol.seedCnt.toNat) (nodup : (s.pol.members.map (·.inst)).Nodup) :=
      State.propose_keeps (s := v.modPol fun q => { q with grants := q.grants ++ [(m.peer, m.tag, k)] })
        (traffic.seedCnt.symm ▸ two) (traffic.members.symm ▸ nodup) { noChange with ranges := [(k, { state := .held, inst := m.peer })] }
    generalize State.propose _ _ = t at granted keeps ⊢
    refine ⟨_, acted h rfl granted, t.retag_butSess m.peer f, fun two nodup => ?_⟩
    obtain ⟨grants, listed⟩ := keeps two nodup
    exact ⟨grants.trans (congrArg (· ++ _) traffic.grants), listed _ (List.mem_singleton.mpr rfl)⟩
  case exhausted =>
    intro h registrar majority fresh none_free
    exact ⟨hRangeReq v m m.peer, acted h rfl rfl,
      hRangeReq_exhausted registrar majority (new fresh) (open_ h (by decide)) (range none_free)⟩
  case redirected =>
    intro h registrar
    exact ⟨_, acted h rfl (if_pos registrar), v.redirect_redirected m⟩
  case rangeGrant =>
    intro r long k h answers kind ok pl
    exact acted h rfl (hRangeGrant_granted (req answers) kind ok pl)
  case exportReq =>
    intro bytes b h pl fresh some_bytes free
    rw [← traffic.cab] at free
    have granted := hExportReq_granted pl (new fresh) (open_ h (by decide)) some_bytes free
    rw [traffic.cab, traffic.exports] at granted
    exact ⟨hExportReq v m m.peer, acted h rfl rfl, granted⟩
  case exportGrant =>
    intro r p base n h answers kind ok pl listed
    have there : p < (v.dropReq r.id).prt.length := traffic.prt.symm ▸ listed
    exact ⟨_, acted h rfl (hExportGrant_granted (req answers) kind ok pl), congrArg Prt.slowAt (State.getP_modP_same _ there), v.dropReq_gone r.id⟩
  case slowRd =>
    refine fun off len h pl => ⟨fun win => ?_, fun win => ?_⟩
    · have answered := hSlowRd_answered pl (open_ h (by decide)) ((traffic.inWindow ..).trans win)
      rw [traffic.cab, traffic.hbm] at answered
      exact ⟨hSlowRd v m m.peer, acted h rfl rfl, answered⟩
    · exact acted h rfl (hSlowRd_outside pl ((traffic.inWindow ..).trans win))
  case slowData =>
    refine fun r p aid ep bs ok h answers kind pl => ⟨fun more => ?_, fun last => ?_⟩
    · exact ⟨hSlowData v m m.peer, acted h rfl rfl, hSlowData_buffered (req answers) kind pl more⟩
    · have ended := (hSlowData_eq (req answers) kind pl).trans (if_pos last)
      rw [traffic.entry] at ended
      exact acted h rfl ended
  case slowWr =>
    intro off bs ok h pl win
    have landed := hSlowWr_landed pl (open_ h (by decide)) ((traffic.inWindow ..).trans win)
    rw [traffic.cab, traffic.hbm] at landed
    exact ⟨hSlowWr v m m.peer, acted h rfl rfl, landed⟩
  case slowAck =>
    intro r p aid ep h answers kind ok
    exact acted h rfl (hSlowAck_demoted (req answers) kind ok)
  case probe =>
    exact fun h => ⟨hProbe v m m.peer, acted h rfl rfl, hProbe_echoed v m⟩
  case probeEcho =>
    intro r grp d h answers kind listed
    have fed := hProbeEcho_estimates d (req answers) kind (traffic.cal.symm ▸ listed)
    rw [traffic.cal, traffic.now] at fed
    exact ⟨hProbeEcho v m m.peer, acted h rfl rfl, fed⟩

end Sys2Proof.Machine
end

section
/-! PROOF. Forward and gradient instructions at the program position (R197–R199, R214, R431), and the obligation. -/

namespace Sys2Proof.Machine

open Sys2Proof

/-- Passing over instructions leaves those reached that were. -/
theorem Ctx.advance_reached (n i : Nat) {c : Ctx} (h : (nth c.recs i freshRec).reached = true) :
    (nth (Ctx.advance n c).recs i freshRec).reached = true := by
  induction n generalizing c with
  | zero => exact h
  | succ n ih =>
    unfold Ctx.advance
    split
    · apply ih
      rw [nth_modNth]
      split <;> simp [h]
    · exact h

/-- The n instructions from the program position are reached at this time, and the position is behind them. -/
def Ctx.reachNext (c : Ctx) (n now : Nat) : Ctx :=
  { c with
    recs := c.recs.mapIdx fun i r => if c.pc ≤ i ∧ i < c.pc + n then { r with reached := true, since := some now } else r
    pc := c.pc + n }

/-- An instruction runs alone or with its placement (R214). -/
def Ctx.withPlace (c : Ctx) : Nat := if (c.placeOf c.pc).isSome then 2 else 1

theorem Ctx.reachNext_reached {c : Ctx} {n now i : Nat} (above : c.pc ≤ i) (below : i < c.pc + n) (listed : i < c.recs.length) :
    (nth (c.reachNext n now).recs i freshRec).reached = true := by
  simp [Ctx.reachNext, nth, List.getD_eq_getElem?_getD, listed, above, below]

theorem Ctx.one_le_withPlace (c : Ctx) : 1 ≤ c.withPlace := by
  unfold Ctx.withPlace
  split <;> decide

/-- A placement that runs with the instruction at the position stands next to it. -/
theorem Ctx.placeOf_eq_some {c : Ctx} {i j : Nat} (h : c.placeOf i = some j) : j = i + 1 := by
  unfold Ctx.placeOf at h
  split at h
  · exact (Option.some.inj h).symm
  · cases h

theorem State.reach_not_at {s : State} {p op : Nat} {c : Ctx} (hc : s.ctxOf p = some c) (h : c.phase ≠ .run ∨ (c.mi c.pc).op ≠ op) :
    s.reach p op = s := by
  rw [State.reach, hc]
  refine if_neg ?_
  rintro ⟨run, -, -, at_⟩
  exact h.elim (· run) (· at_)

theorem State.reach_at {s : State} {p op : Nat} {c : Ctx} (hc : s.ctxOf p = some c) (run : c.phase = .run) (role : c.role ≠ .serve)
    (inside : c.pc < c.prog.length) (at_ : (c.mi c.pc).op = op) :
    s.reach p op = (s.modCtx p fun c => Ctx.advance c.prog.length (c.reachNext c.withPlace s.now)).pump p := by
  rw [State.reach, hc]
  exact if_pos ⟨run, role, inside, at_⟩

/-- The five commands are one function of the opcode that they wait for. -/
theorem exec_reach {s : State} {p op : Nat} {i : Instr}
    (h : (op, i) ∈ [(0x10, Instr.shrink p), (0x11, .expand p), (0x12, .shrinkExpand p), (0x20, .gradExpand p), (0x21, .gradShrink p)]) :
    exec i s = .next (s.reach p op) := by
  simp only [List.mem_cons, Prod.mk.injEq, List.not_mem_nil, or_false] at h
  obtain ⟨rfl, rfl⟩ | ⟨rfl, rfl⟩ | ⟨rfl, rfl⟩ | ⟨rfl, rfl⟩ | ⟨rfl, rfl⟩ := h <;> rfl

/-- Settles O28: the instruction at the position and its placement are marked, and passing over what follows takes no mark back. -/
theorem macrosAreReachedInOrder : Obligations.MacrosAreReachedInOrder := by
  unfold Obligations.MacrosAreReachedInOrder
  intro s p op i c hi hc
  rw [exec_reach hi]
  refine ⟨fun run role inside at_ listed => ?_, fun other => congrArg _ (State.reach_not_at hc other)⟩
  obtain ⟨r, k, moved, le⟩ := Ctx.advance_eq c.prog.length (c.reachNext c.withPlace s.now)
  have behind : c.pc + c.withPlace ≤ (Ctx.advance c.prog.length (c.reachNext c.withPlace s.now)).pc := by
    rw [moved]
    exact le
  have alone := c.one_le_withPlace
  refine ⟨_, _, congrArg _ (State.reach_at hc run role inside at_), rfl, State.ctxOf_modCtx _ hc,
    fun q other => State.getP_modP_ne _ _ other, ?_, by omega, fun j placed hj => ?_⟩
  · exact Ctx.advance_reached _ _ (Ctx.reachNext_reached le_rfl (by omega) listed)
  · have both : c.withPlace = 2 := by rw [Ctx.withPlace, placed]; rfl
    have next := Ctx.placeOf_eq_some placed
    exact ⟨Ctx.advance_reached _ _ (Ctx.reachNext_reached (by omega) (by omega) hj), by omega⟩

end Sys2Proof.Machine
end

section
/-! PROOF. The links (R231, R461, R563, R590, R600, R601, R610, R613): what a hinge port's loss leaves, what the traffic of the fabric
keeps of its sub-ports, what sending keeps of the command link, and the obligation. -/

namespace Sys2Proof.Machine

open Sys2Proof

/-! ### A hinge port goes down (R224, R231, R590) -/

theorem Resp.beats_pos (r : Resp) : 0 < r.beats := by
  unfold Resp.beats ceilDiv
  split
  · exact Nat.one_pos
  · omega

/-- A port with nothing in its egress loses `DELTA_VALID` alone. -/
theorem Hng.cutOff_nil {h : Hng} (n : Nat) (empty : h.egress = []) : h.cutOff n = { h with deltaValid := false } := by
  rw [Hng.cutOff, empty]

/-- Of the response at the head some beats had left, fewer than it has. -/
theorem Hng.cutOff_cons {h : Hng} {r : Resp} {rest : List Resp} (n : Nat) (head : h.egress = r :: rest) :
    h.cutOff n = { h with
      egress := [], deltaValid := false, beatsOut := wrapAdd h.beatsOut (n % r.beats)
      cut := if n % r.beats = 0 then h.cut else h.cut ++ [({ r with sseq := r.sseq % 256 }, n % r.beats)] } := by
  rw [Hng.cutOff, head]

/-- A port whose egress was cut off after n beats and which is down. -/
def Hng.down (n : Nat) (code : BitVec 3) (h : Hng) : Hng := { h.cutOff n with lstate := code, held := [], crdUsed := [] }

/-- A page whose steps answer no more vectors that came by a port. -/
def Prt.lostPort (port : Nat) (q : Prt) : Prt :=
  { q with ctx := q.ctx.map (Ctx.lostPort port), svCtx := q.svCtx.map (Ctx.lostPort port) }

theorem State.hingeDown_eq (s : State) (port code : Nat) :
    ∃ n k, s.hingeDown port code = { s with
      hng := modNth s.hng port (Hng.down n (BitVec.ofNat 3 code)), prt := s.prt.map (Prt.lostPort port), freeCtr := k } := by
  unfold State.hingeDown State.portDown
  split
  · exact ⟨_, _, rfl⟩
  · exact ⟨_, _, rfl⟩

theorem nth_map {α : Type} {l : List α} {i : Nat} (f : α → α) (d : α) (h : i < l.length) : nth (l.map f) i d = f (nth l i d) := by
  simp [nth, List.getD_eq_getElem?_getD, h]

theorem exec_linkInactive {s : State} {port : Nat} (small : port < 4) (up : (s.getHng port).lstate = 2 ∨ (s.getHng port).lstate = 3) :
    exec (.linkInactive port) s = .next (s.hingeDown port 0) := congrArg Host.Outcome.next (if_pos ⟨small, up⟩)

/-! ### Wakes (R563, R601, R610) -/

/-- A wake that is asked for a domain outside the dies' halves and pairs, asleep, whole and not asked for before. -/
theorem State.requestWakes_new {s : State} {d : Nat} (high : 72 ≤ d) (asleep : s.awake d = false) (live : s.fencedDom d = false)
    (new : ∀ w ∈ s.pwr.wakes, w.dom ≠ d) :
    s.requestWakes [d] = { s with pwr := { s.pwr with wakes := s.pwr.wakes ++ [{ dom := d, at_ := s.now, admitted := none }] } } := by
  have alone : domDie d = none := by
    rw [domDie, if_neg (by omega), if_neg (by omega)]
  have unasked : (s.pwr.wakes.any fun w => w.dom == d) = false := by simpa [List.any_eq_false] using new
  have asked : ([d].eraseDups.filter fun d => !s.awake d && !s.fencedDom d && !(s.pwr.wakes.any fun w => w.dom == d)) = [d] := by
    simp [List.eraseDups_cons, asleep, live, unasked]
  simp only [State.requestWakes, List.filterMap_cons, List.filterMap_nil, alone, Option.map_none, List.append_nil, asked]
  rfl

/-- Which links have a domain that an exit from L1 wakes. -/
theorem exec_l1Exit {s : State} {fabric : Bool} {n d : Nat}
    (h : (fabric = true ∧ n < 8 ∧ (s.getPort n).lstate = 3 ∧ d = domFab n) ∨ (fabric = false ∧ n < 4 ∧ (s.getHng n).lstate = 3 ∧ d = domCommon n)) :
    exec (.l1Exit fabric n) s = .next (s.requestWakes [d]) ∧ 72 ≤ d := by
  rcases h with ⟨rfl, small, inL1, rfl⟩ | ⟨rfl, small, inL1, rfl⟩
  · exact ⟨congrArg Host.Outcome.next ((if_pos rfl).trans (if_pos ⟨small, inL1⟩)), by unfold domFab; omega⟩
  · exact ⟨congrArg Host.Outcome.next ((if_neg Bool.false_ne_true).trans (if_pos ⟨small, inL1⟩)), by unfold domCommon; omega⟩

theorem exec_commandLinkRetrain {s : State} (out : s.side.rstN = true) (down : s.lnk.lstate = 0) (booting : 1 ≤ s.mgt.bootStage.toNat)
    (on : s.pwr.pdStage.toNat ≠ 6) :
    exec .commandLinkRetrain s = .next (if s.due perRetrain then (s.align perRetrain 1000000).modLnk fun l => { l with lstate := 1 } else s) := by
  have idle : s.rclIdle = true := by simp [State.rclIdle, out, down, booting, on]
  change Host.Outcome.next (if (s.rclIdle && s.due perRetrain) = true then _ else _) = _
  rw [idle, Bool.true_and]

/-! ### Traffic of the fabric -/

/-- What frames and host accesses leave as it is: the error registers, which sub-ports are live, and the states of all sub-ports. -/
def State.subPorts (s : State) : Ras × BitVec 8 × List (BitVec 3) := (s.ras, s.fab.live, s.fab.ports.map (·.lstate))

theorem map_modNth {α β : Type} (l : List α) (i : Nat) {f : α → α} {g : α → β} (h : ∀ x, g (f x) = g x) : (modNth l i f).map g = l.map g := by
  refine List.ext_getElem (by simp) fun j _ _ => ?_
  simp only [modNth, List.getElem_map, List.getElem_mapIdx]
  split
  · exact h _
  · rfl

@[simp] theorem State.subPorts_fabCount (s : State) (port : Option Nat) (sent : Bool) (n : Nat) :
    (s.fabCount port sent n).subPorts = s.subPorts := by
  unfold State.fabCount
  split
  · rfl
  · refine congrArg (fun l => (s.ras, s.fab.live, l)) (map_modNth _ _ fun x => ?_)
    split <;> rfl

@[simp] theorem State.subPorts_putXfer (s : State) (x : Xfer) : (s.putXfer x).subPorts = s.subPorts := State.subPorts_fabCount ..

@[simp] theorem State.subPorts_putFrame (s : State) (port : Option Nat) (peer n : Nat) (m : RppMsg) :
    (s.putFrame port peer n m).subPorts = s.subPorts := by
  unfold State.putFrame
  split
  · rfl
  · exact State.subPorts_fabCount ..

theorem State.subPorts_foldl {α : Type} (l : List α) {f : State → α → State} (s : State) (h : ∀ s a, (f s a).subPorts = s.subPorts) :
    (l.foldl f s).subPorts = s.subPorts := by
  induction l generalizing s with
  | nil => rfl
  | cons a l ih => rw [List.foldl_cons, ih, h]

/-- What waited for a sub-port leaves or is lost, and the sub-ports stay as they are. -/
theorem State.subPorts_fabGo (s : State) : s.fabGo.subPorts = s.subPorts := by
  unfold State.fabGo
  extract_lets xs ms s1 s2
  rw [State.subPorts_foldl _ _ fun _ _ => State.subPorts_putFrame .., State.subPorts_foldl _ _ fun _ _ => State.subPorts_putXfer ..]
  rfl

/-- `FAB_LIVE` with one bit set or cleared (R635). -/
def liveWith (m : BitVec 8) (n : Nat) (b : Bool) : BitVec 8 := if b then m ||| BitVec.ofNat 8 (2 ^ n) else m &&& ~~~(BitVec.ofNat 8 (2 ^ n))

theorem liveWith_bit (m : BitVec 8) {n : Nat} (b : Bool) (h : n < 8) : (liveWith m n b).getLsbD n = b := by
  have own : (BitVec.ofNat 8 (2 ^ n)).getLsbD n = true := by rw [getLsbD_ofNat_two_pow]; simp only [h, decide_true, Bool.and_true]
  cases b
  · rw [liveWith, if_neg Bool.false_ne_true, BitVec.getLsbD_and, BitVec.getLsbD_not, own]
    simp
  · rw [liveWith, if_pos rfl, BitVec.getLsbD_or, own, Bool.or_true]

theorem State.subPorts_setLive (s : State) (n : Nat) (b : Bool) :
    (s.setLive n b).subPorts = (s.ras, liveWith s.fab.live n b, s.fab.ports.map (·.lstate)) := by
  rw [State.setLive, State.subPorts_fabGo]
  cases b <;> rfl

/-- A sub-port's state, among those of all. -/
theorem State.getPort_lstate (s : State) (n : Nat) : (s.getPort n).lstate = nth (s.fab.ports.map (·.lstate)) n FabPort.reset.lstate := by
  simp only [State.getPort, nth, List.getD_eq_getElem?_getD, List.getElem?_map]
  cases s.fab.ports[n]? <;> rfl

theorem State.getPort_modPort (s : State) {n : Nat} (f : FabPort → FabPort) (h : n < s.fab.ports.length) :
    (s.modPort n f).getPort n = f (s.getPort n) := nth_modNth_same f _ h

/-! ### The command link -/

/-- What sending leaves of the command link: whether it is up, whether `HELLO` was heard, and the long commands. -/
def Lnk.standing (l : Lnk) : BitVec 3 × Bool × List Long := (l.lstate, l.helloOk, l.longs)

theorem Lnk.Sent.standing {l m : Lnk} (h : l.Sent m) : m.standing = l.standing := by
  rw [← h.1]
  rfl

theorem Lnk.standing_buffer (l : Lnk) (fr : OutFrame) : (l.buffer fr).standing = l.standing := by
  unfold Lnk.buffer
  split <;> rfl

theorem State.standing_notice (s : State) (opc : Nat) (data : List Byte) : (s.notice opc data).lnk.standing = s.lnk.standing := by
  rw [State.notice, State.drain_lnk, (Lnk.drain_same _ _).standing, State.modLnk_lnk]
  split
  · rfl
  · exact Lnk.standing_buffer ..

theorem State.standing_faultSend (s : State) (h : HeldFault) : (s.faultSend h).lnk.standing = s.lnk.standing := by
  have pend : (if s.ras.faultPend then s
      else (s.modRas fun r => { r with faultPend := true }).modSide fun d => { d with ibi := d.ibi ++ [1] }).lnk = s.lnk := by
    split <;> rfl
  unfold State.faultSend
  extract_lets u
  split
  · rw [pend]
  · rw [State.standing_notice, pend]

/-- Reporting an error leaves the link as it stands. -/
theorem State.standing_rasError (s : State) (kind index sev etype part addr mask : Nat) :
    (s.rasError kind index sev etype part addr mask).lnk.standing = s.lnk.standing := by
  unfold State.rasError
  extract_lets u
  split
  · exact State.standing_faultSend u _
  · rfl

/-- A channel without credit sends nothing. -/
theorem Lnk.drainVc_broke (now n : Nat) {vc : Nat} {l : Lnk} (broke : l.canSend vc = false) : Lnk.drainVc now vc n l = l := by
  cases n with
  | zero => rfl
  | succ n => rw [Lnk.drainVc, broke]; rfl

/-- An active link without any credit of the host's sends the credits that are due to the host, and nothing else. -/
theorem Lnk.drain_broke {now : Nat} {l : Lnk} (active : l.lstate = 2) (broke : l.crdHeld = [0, 0, 0, 0]) (due : l.owed.any (0 < ·) = true) :
    l.drain now = l.emit now creditFrame := by
  have none_ : ∀ vc, l.canSend vc = false := fun vc => by
    have zero : nth l.crdHeld vc 0 = 0 := by
      rw [broke, nth, List.getD_eq_getElem?_getD]
      rcases vc with _ | _ | _ | _ | vc <;> rfl
    rw [Lnk.canSend, zero, decide_eq_false (Nat.lt_irrefl 0), Bool.and_false]
  simp only [Lnk.drain, List.foldl_cons, List.foldl_nil, Lnk.drainVc_broke _ _ (none_ _), active, due]
  rfl

/-- The end of a training that succeeds grants the host its credits afresh (R461). -/
theorem State.rclTrained_up {s : State} (broke : s.lnk.crdHeld = [0, 0, 0, 0]) :
    ∃ l, s.rclTrained true = { s with lnk := l } ∧ l.lstate = 2 ∧ l.hostCrd = grantCredits := by
  have sent := Lnk.drain_broke (now := s.now) (l := { s.lnk with lstate := 2, hostCrd := [0, 0, 0, 0], owed := grantCredits }) rfl broke rfl
  refine ⟨Lnk.drain s.now { s.lnk with lstate := 2, hostCrd := [0, 0, 0, 0], owed := grantCredits }, rfl, ?_, ?_⟩
  · rw [sent]
    rfl
  · rw [sent]
    rfl

/-! ### Retries and training -/

/-- The uncorrected error and the retries of a link that reaches its limit are counted (R600). -/
def State.retried (s : State) : State :=
  s.fresh.2.modRas fun x => { x with linkRetry := satAdd x.linkRetry s.fresh.1, ueAll := satAdd x.ueAll 1 }

theorem exec_linkRetryLimit_hinge {s : State} {n : Nat} (small : n < 4) (up : (s.getHng n).lstate = 2 ∨ (s.getHng n).lstate = 3) :
    exec (.linkRetryLimit 4 n) s =
      .next ((s.retried.hingeDown n 1).modHng n fun h => { h with lnkRty := satAdd h.lnkRty s.fresh.1, retrained := true }) :=
  congrArg Host.Outcome.next (if_pos (And.intro small (by simpa using up)))

theorem exec_linkRetryLimit_fabric {s : State} {n : Nat} (small : n < 8) (up : (s.getPort n).lstate = 2 ∨ (s.getPort n).lstate = 3) :
    exec (.linkRetryLimit 6 n) s =
      .next ((s.retried.setLive n false).modPort n fun x => { x with lstate := 1, lnkRty := satAdd x.lnkRty s.fresh.1, retrained := true }) :=
  congrArg Host.Outcome.next (if_pos (And.intro small (by simpa using up)))

theorem exec_linkRetryLimit_command {s : State} (up : s.lnk.lstate = 2) :
    exec (.linkRetryLimit 9 0) s = .next ((s.retried.rclDown 0).rasError 9 0 1 5 0 0 0) :=
  congrArg Host.Outcome.next (if_pos ⟨rfl, up⟩)

/-- A sub-port whose attempt to train is counted and which is active. -/
def State.fabActive (s : State) (n : Nat) : State :=
  (s.modPort n fun x => { x with trainAtt := x.trainAtt + 1 }).modPort n fun x => { x with lstate := 2, retrained := false }

theorem State.fabActive_lstate (s : State) {n : Nat} (listed : n < s.fab.ports.length) : ((s.fabActive n).getPort n).lstate = 2 :=
  congrArg FabPort.lstate (State.getPort_modPort (s.modPort n _) _ (by simpa [State.modPort] using listed))

/-- A sub-port that trains: it is active, live, and its domain is awake. -/
def State.fabUp (s : State) (n : Nat) : State := ((s.fabActive n).setLive n true).setAwake (domFab n) true

theorem State.fabUp_port (s : State) {n : Nat} (listed : n < s.fab.ports.length) :
    ((s.fabUp n).getPort n).lstate = 2 ∧ (s.fabUp n).fab.live = liveWith s.fab.live n true := by
  obtain ⟨-, rest⟩ := Prod.mk.inj ((s.fabActive n).subPorts_setLive n true)
  obtain ⟨live, ports⟩ := Prod.mk.inj rest
  refine ⟨?_, live⟩
  calc ((s.fabUp n).getPort n).lstate
      = nth (((s.fabActive n).setLive n true).fab.ports.map (·.lstate)) n FabPort.reset.lstate := State.getPort_lstate _ n
    _ = ((s.fabActive n).getPort n).lstate := by rw [ports, ← State.getPort_lstate]
    _ = 2 := s.fabActive_lstate listed

theorem exec_linkTrainingEnd_fabric {s : State} {n : Nat} (lanes : Nat) (small : n < 8) (training : (s.getPort n).lstate = 1)
    (first : (s.getPort n).retrained = false) : exec (.linkTrainingEnd 6 n true lanes) s = .next (s.fabUp n).fabGo.heldGo :=
  congrArg Host.Outcome.next ((if_pos ⟨small, training⟩).trans (if_neg (by simp [first])))

/-- A hinge port that trains: its attempt is counted, it is active, and its domain is awake. -/
def State.hingeUp (s : State) (n lanes : Nat) : State :=
  (((s.modHng n fun h => { h with trainAtt := satAdd h.trainAtt 1, laneRep := BitVec.ofNat 8 lanes }).modHng n fun h =>
    { h with lstate := 2, crdUsed := [], retrained := false }).setAwake (domCommon n) true)

theorem exec_linkTrainingEnd_hinge {s : State} {n : Nat} (lanes : Nat) (small : n < 4) (training : (s.getHng n).lstate = 1)
    (first : (s.getHng n).retrained = false) : exec (.linkTrainingEnd 4 n true lanes) s = .next (s.hingeUp n lanes) :=
  congrArg Host.Outcome.next ((if_pos ⟨small, training⟩).trans (if_neg (by simp [first])))

theorem State.getHng_hingeUp {s : State} {n : Nat} (lanes : Nat) (listed : n < s.hng.length) :
    (s.hingeUp n lanes).getHng n = { s.getHng n with
      trainAtt := satAdd (s.getHng n).trainAtt 1, laneRep := BitVec.ofNat 8 lanes, lstate := 2, crdUsed := [], retrained := false } := by
  change State.getHng (State.modHng (State.modHng s n _) n _) n = _
  rw [State.getHng_modHng, if_pos ⟨rfl, by simpa using listed⟩, State.getHng_modHng, if_pos ⟨rfl, listed⟩]

/-! ### O40 -/

/-- Settles O40: the loss of a port by what its egress held, the wake of a link's domain, retraining, and for each kind of link the limit
of its retries and the end of its training. -/
theorem linksGoDownWakeAndTrain : Obligations.LinksGoDownWakeAndTrain := by
  unfold Obligations.LinksGoDownWakeAndTrain
  refine ⟨fun s => ⟨?inactive, ?exit, ?retrain⟩, fun s => ⟨?hingeLimit, ?fabLimit, ?rclLimit, ?hingeEnd, ?fabEnd, ?rclEnd⟩⟩
  case inactive =>
    intro port small listed up
    obtain ⟨n, k, down⟩ := s.hingeDown_eq port 0
    have own : nth (modNth s.hng port (Hng.down n (BitVec.ofNat 3 0))) port Hng.reset = _ := nth_modNth_same _ _ listed
    refine ⟨_, (exec_linkInactive small up).trans (congrArg _ down), rfl, fun empty => own.trans ?_, fun r rest head =>
      ⟨n % r.beats, Nat.mod_lt _ r.beats_pos, own.trans ?_⟩, fun p hp c hc => ?_, fun q other => ?_⟩
    · exact congrArg (fun h : Hng => { h with lstate := (0 : BitVec 3), held := [], crdUsed := [] }) (Hng.cutOff_nil n empty)
    · exact congrArg (fun h : Hng => { h with lstate := (0 : BitVec 3), held := [], crdUsed := [] }) (Hng.cutOff_cons n head)
    · have page : (nth (s.prt.map (Prt.lostPort port)) p Prt.reset) = _ := nth_map _ _ hp
      refine (congrArg Prt.ctx page).trans ?_
      exact congrArg (Option.map (Ctx.lostPort port)) hc
    · exact (nth_modNth ..).trans (if_neg fun h => other h.1)
  case exit =>
    intro fabric n d link asleep live new
    obtain ⟨run, high⟩ := exec_l1Exit link
    exact run.trans (congrArg _ (State.requestWakes_new high asleep live new))
  case retrain =>
    intro out down booting on
    have run := exec_commandLinkRetrain out down booting on
    exact ⟨fun due => run.trans (congrArg _ (if_pos due)), fun early => run.trans (congrArg _ (if_neg (ne_true_of_eq_false early)))⟩
  case hingeLimit =>
    intro n small listed up
    obtain ⟨k, j, down⟩ := s.retried.hingeDown_eq n 1
    have own : nth (modNth s.hng n (Hng.down k (BitVec.ofNat 3 1))) n Hng.reset = _ := nth_modNth_same _ _ listed
    have there : n < (modNth s.hng n (Hng.down k (BitVec.ofNat 3 1))).length := by simpa using listed
    refine ⟨_, exec_linkRetryLimit_hinge small up, ?_⟩
    rw [down, State.getHng_modHng, if_pos ⟨rfl, there⟩]
    refine ⟨?_, rfl, ?_, rfl⟩
    · exact congrArg Hng.lstate own
    · exact congrArg Hng.held own
  case fabLimit =>
    intro n small listed up
    obtain ⟨ras, rest⟩ := Prod.mk.inj (s.retried.subPorts_setLive n false)
    obtain ⟨live, ports⟩ := Prod.mk.inj rest
    have length : (s.retried.setLive n false).fab.ports.length = s.fab.ports.length := by
      simpa [State.retried, State.fresh] using congrArg List.length ports
    have own := (s.retried.setLive n false).getPort_modPort
      (fun x => { x with lstate := 1, lnkRty := satAdd x.lnkRty s.fresh.1, retrained := true }) (length.symm ▸ listed)
    refine ⟨_, exec_linkRetryLimit_fabric small up, ?_, ?_, ?_, ?_⟩
    · exact congrArg FabPort.lstate own
    · exact congrArg FabPort.retrained own
    · exact (congrArg (BitVec.getLsbD · n) live).trans (liveWith_bit _ false small)
    · exact congrArg Ras.ueAll ras
  case rclLimit =>
    intro up
    obtain ⟨down, rest⟩ := Prod.mk.inj ((s.retried.rclDown 0).standing_rasError 9 0 1 5 0 0 0)
    obtain ⟨unheard, longs⟩ := Prod.mk.inj rest
    exact ⟨_, exec_linkRetryLimit_command up, down, unheard, longs⟩
  case hingeEnd =>
    intro n lanes small listed training first
    have port := s.getHng_hingeUp lanes listed
    refine ⟨_, exec_linkTrainingEnd_hinge lanes small training first, ?_, ?_, ?_, ?_⟩
    · rw [port]
    · exact (State.awake_setAwake _ _ true (by unfold domCommon; omega)).trans (if_pos rfl)
    · rw [port]
    · rw [port]
  case fabEnd =>
    intro n lanes small listed training first
    obtain ⟨active, live⟩ := s.fabUp_port listed
    refine ⟨s.fabUp n, exec_linkTrainingEnd_fabric lanes small training first, active, ?_, ?_⟩
    · rw [live]
      exact liveWith_bit _ true small
    · exact (State.awake_setAwake _ _ true (by unfold domFab; omega)).trans (if_pos rfl)
  case rclEnd =>
    intro lanes training broke
    obtain ⟨l, run, up, granted⟩ := State.rclTrained_up broke
    exact ⟨_, congrArg Host.Outcome.next ((if_pos ⟨rfl, training⟩).trans run), rfl, up, granted⟩

end Sys2Proof.Machine
end

section
/-! PROOF. What the results of a unit pass through keeps, of every issued step, its units, its gradient partials, which of its positions
stand at OK and the results so far, and the tumblers: one lemma for each function, in the order of the model's files. -/

namespace Sys2Proof.Machine

open Sys2Proof

/-- Of a step: units, partials, role, the status of each row, and the results so far. -/
def Ctx.kept (c : Ctx) : List WUnit × List GPartial × Role × List (Bool × Status) × List OutAcc :=
  (c.units, c.parts, c.role, c.rows.map fun r => (r.vacant, r.status), c.outs)

/-- That much of each issued step, and the tumblers. -/
def State.kept (s : State) : List (Option (List WUnit × List GPartial × Role × List (Bool × Status) × List OutAcc)) × SMap Tum :=
  (s.prt.map fun q => q.ctx.map Ctx.kept, s.tum)

/-! ### Shapes of definitions -/

@[simp] theorem State.ite_kept {c : Prop} [Decidable c] (a b : State) : (if c then a else b).kept = if c then a.kept else b.kept :=
  apply_ite State.kept c a b

theorem State.modP_kept (s : State) (p : Nat) {f : Prt → Prt} (h : ∀ q, (f q).ctx.map Ctx.kept = q.ctx.map Ctx.kept) :
    (s.modP p f).kept = s.kept := Prod.ext (map_modNth _ _ h) rfl

theorem State.modCtx_kept (s : State) (p : Nat) {f : Ctx → Ctx} (h : ∀ c, (f c).kept = c.kept) : (s.modCtx p f).kept = s.kept := by
  refine State.modP_kept s p fun q => ?_
  rw [Option.map_map]
  exact congrArg (Option.map · q.ctx) (funext h)

@[simp] theorem State.foldl_kept {α : Type} (l : List α) (f : State → α → State) (s : State) (h : ∀ s a, (f s a).kept = s.kept) :
    (l.foldl f s).kept = s.kept := by
  induction l generalizing s with
  | nil => rfl
  | cons a l ih => rw [List.foldl_cons, ih, h]

/-- The state beside which a fold collects its results. -/
theorem State.foldl_fst_kept {α β : Type} (l : List α) (f : State × β → α → State × β) (x : State × β)
    (h : ∀ x a, (f x a).1.kept = x.1.kept) : (l.foldl f x).1.kept = x.1.kept := by
  induction l generalizing x with
  | nil => rfl
  | cons a l ih => rw [List.foldl_cons, ih, h]

/-- A step of which so much stays is still issued. -/
theorem State.ctxOf_of_kept_fst {s t : State} {p : Nat} {c : Ctx} (h : t.kept.1 = s.kept.1) (hc : s.ctxOf p = some c) :
    ∃ d, t.ctxOf p = some d ∧ d.kept = c.kept := by
  have read (u : State) : (u.ctxOf p).map Ctx.kept = nth u.kept.1 p none := by
    rw [State.ctxOf, State.getP, nth, nth, State.kept, List.getD_eq_getElem?_getD, List.getD_eq_getElem?_getD, List.getElem?_map]
    cases u.prt[p]? <;> rfl
  have same : (t.ctxOf p).map Ctx.kept = some c.kept := by rw [read, h, ← read, hc]; rfl
  exact Option.map_eq_some_iff.mp same

theorem State.ctxOf_of_kept {s t : State} {p : Nat} {c : Ctx} (h : t.kept = s.kept) (hc : s.ctxOf p = some c) :
    ∃ d, t.ctxOf p = some d ∧ d.kept = c.kept := State.ctxOf_of_kept_fst (congrArg Prod.fst h) hc

theorem State.tumOf_of_kept {s t : State} (h : t.kept = s.kept) (n : Nat) : t.tumOf n = s.tumOf n :=
  congrArg (fun k => SMap.get Tum.reset k n) (congrArg Prod.snd h)

/-! ### Machine/Ops and Machine/PoolBase -/

@[simp] theorem State.fabCount_kept (s : State) (port : Option Nat) (sent : Bool) (n : Nat) : (s.fabCount port sent n).kept = s.kept := by
  unfold State.fabCount
  split <;> rfl

@[simp] theorem State.putXfer_kept (s : State) (x : Xfer) : (s.putXfer x).kept = s.kept := State.fabCount_kept ..

@[simp] theorem State.sendXfer_kept (s : State) (space addr len : Nat) (write : Option (List Byte)) (use : XferFor) :
    (s.sendXfer space addr len write use).kept = s.kept := by
  unfold State.sendXfer
  dsimp only
  split
  · rfl
  · exact State.putXfer_kept ..

@[simp] theorem State.putFrame_kept (s : State) (port : Option Nat) (peer n : Nat) (m : RppMsg) : (s.putFrame port peer n m).kept = s.kept := by
  unfold State.putFrame
  split
  · rfl
  · exact State.fabCount_kept ..

@[simp] theorem State.touchGroup_kept (s : State) (peer ty : Nat) : (s.touchGroup peer ty).kept = s.kept := by
  unfold State.touchGroup
  split <;> rfl

@[simp] theorem State.sendFrame_kept (s : State) (peer : Nat) (m : RppMsg) : (s.sendFrame peer m).kept = s.kept := by
  have go (s : State) : ((s.touchGroup peer m.type).putFrame (s.rppPort m) peer (32 + m.len) m).kept = s.kept :=
    (State.putFrame_kept ..).trans (State.touchGroup_kept ..)
  unfold State.sendFrame
  dsimp only
  split
  · exact go s
  · split
    · exact go _
    · rfl

@[simp] theorem State.finishReq_kept (s : State) (peer tag ty : Nat) (st : Status) (aid ep : Nat) (pl : RppPl) :
    (s.finishReq peer tag ty st aid ep pl).kept = s.kept := by
  unfold State.finishReq
  split
  · rfl
  · exact State.foldl_kept _ _ _ fun _ _ => State.sendFrame_kept ..

/-! ### Machine/Tensor and Machine/Load -/

@[simp] theorem State.stepWrite_kept (s : State) (space addr : Nat) (bytes : List Byte) (tag : WriteTag) (drw key ew page : Nat) :
    (s.stepWrite space addr bytes tag drw key ew page).kept = s.kept := by
  unfold State.stepWrite
  split
  · rfl
  · split
    · rfl
    · exact State.foldl_kept _ _ _ fun _ _ => State.sendXfer_kept ..

@[simp] theorem State.addRec_kept (s : State) (p i rd wr : Nat) : (s.addRec p i rd wr).kept = s.kept := by
  unfold State.addRec
  split
  · rfl
  · refine (State.modP_kept _ p ?_).trans (State.modCtx_kept s p ?_)
    · exact fun _ => rfl
    · exact fun _ => rfl

/-! ### Machine/Deliver -/

@[simp] theorem State.addRow_kept (s : State) (p i drw slot : Nat) (k : Cnt) : (s.addRow p i drw slot k).kept = s.kept := by
  refine (State.addRec_kept ..).trans (State.modCtx_kept s p fun c => ?_)
  split
  · rfl
  · exact congrArg (fun l => (c.units, c.parts, c.role, l, c.outs)) (map_modNth _ _ fun _ => rfl)

@[simp] theorem State.addGrad_kept (s : State) (p drw n : Nat) : (s.addGrad p drw n).kept = s.kept := State.modCtx_kept s p fun _ => rfl

@[simp] theorem State.addDrw_kept (s : State) (p i drw : Nat) (k : Cnt) : (s.addDrw p i drw k).kept = s.kept :=
  (State.addRec_kept ..).trans (State.modCtx_kept s p fun _ => rfl)

@[simp] theorem State.addStat_kept (s : State) (p slot aid proj : Nat) (q : QCnt) : (s.addStat p slot aid proj q).kept = s.kept := by
  unfold State.addStat
  split
  · rfl
  · exact State.modCtx_kept s p fun _ => rfl

@[simp] theorem State.pushResp_kept (s : State) (port : Nat) (r : Resp) : (s.pushResp port r).kept = s.kept := rfl

@[simp] theorem State.sendResp_kept (s : State) (p slot off proj : Nat) (zero placed : Bool) (ofmt : Nat) (data : List Nat) :
    (s.sendResp p slot off proj zero placed ofmt data).kept = s.kept := by
  unfold State.sendResp
  split
  · rfl
  · exact State.modCtx_kept _ p fun _ => rfl

@[simp] theorem State.emit_kept (s : State) (p mi drw key space a : Nat) (bs : List Byte) (ew page : Nat) :
    (s.emit p mi drw key space a bs ew page).1.kept = s.kept := by
  unfold State.emit
  split
  · rfl
  · dsimp only
    split
    · exact State.foldl_kept _ _ _ fun _ _ => State.stepWrite_kept ..
    · refine (State.modCtx_kept _ p ?_).trans (State.foldl_kept _ _ _ fun _ _ => State.stepWrite_kept ..)
      exact fun _ => rfl

@[simp] theorem State.putRow_kept (s : State) (p mi drw key : Nat) (v : View) (d : Desc) (cs : List Nat) (lo : Nat) (els : List (List Byte)) :
    (s.putRow p mi drw key v d cs lo els).1.kept = s.kept := by
  unfold State.putRow
  dsimp only
  split
  · exact State.addRec_kept ..
  · split
    · exact State.addRec_kept ..
    · exact (State.emit_kept ..).trans (State.addRec_kept ..)

@[simp] theorem State.placeVec_kept (s : State) (p pi drw slot off lo : Nat) (els : List (List Byte)) :
    (s.placeVec p pi drw slot off lo els).1.kept = s.kept := by
  have page (t : State) (x : PagePin) : (t.modCtx p fun c => { c with pages := c.pages ++ [x] }).kept = t.kept := State.modCtx_kept t p fun _ => rfl
  unfold State.placeVec
  split
  · rfl
  · extract_lets m v t key
    split
    · rfl
    · split
      · exact State.putRow_kept ..
      · split
        · rfl
        · split
          · exact State.addRec_kept ..
          · extract_lets b u g s1 e s2 pg keep
            have e1 : s1.kept = s.kept := State.addRec_kept ..
            have e2 : s2.kept = s.kept := by
              unfold s2
              split
              · exact e1
              · exact (page ..).trans e1
            split
            · exact (page ..).trans e1
            · split
              · exact (State.emit_kept ..).trans ((State.addRec_kept ..).trans e2)
              · exact (State.addRec_kept ..).trans e2
      · split
        · rfl
        · extract_lets zeros
          split
          · split
            · refine State.foldl_fst_kept _ _ _ fun y a => ?_
              dsimp only
              split
              · exact State.addRec_kept ..
              · split <;> simp
            · next k s1 _ _ =>
              have e1 : s1.kept = s.kept := State.addRec_kept ..
              split
              · exact e1
              · exact (State.putRow_kept ..).trans e1
          · refine State.foldl_fst_kept _ _ _ fun y a => ?_
            dsimp only
            split <;> simp

end Sys2Proof.Machine
end

section
/-! PROOF. Units and staging streams (R210, R212, R296, R487, R489, R493): how the results of a step grow, and the obligation. -/

namespace Sys2Proof.Machine

open Sys2Proof

/-! ### Results of a step grow -/

/-- A step has the units and partials it had, the same positions at OK, and no fewer lanes of any result. -/
structure Ctx.Grows (c d : Ctx) : Prop where
  units : d.units = c.units
  parts : d.parts = c.parts
  posOk : ∀ slot, d.posOk slot = c.posOk slot
  lanes : ∀ mi slot off, ∀ l ∈ (c.acc mi slot off).lanes, l ∈ (d.acc mi slot off).lanes

theorem Ctx.Grows.refl (c : Ctx) : c.Grows c := ⟨rfl, rfl, fun _ => rfl, fun _ _ _ _ h => h⟩

theorem Ctx.Grows.trans {a b c : Ctx} (h : a.Grows b) (g : b.Grows c) : a.Grows c where
  units := g.units.trans h.units
  parts := g.parts.trans h.parts
  posOk slot := (g.posOk slot).trans (h.posOk slot)
  lanes mi slot off l hl := g.lanes mi slot off l (h.lanes mi slot off l hl)

theorem nth_map_default {α β : Type} (l : List α) (i : Nat) (f : α → β) (d : α) : nth (l.map f) i (f d) = f (nth l i d) := by
  simp only [nth, List.getD_eq_getElem?_getD, List.getElem?_map]
  cases l[i]? <;> rfl

/-- Whether a position stands at OK, by the step's role and the status of its row. -/
theorem Ctx.posOk_eq (c : Ctx) (slot : Nat) :
    c.posOk slot = (c.role == .serve || (fun x : Bool × Status => !x.1 && x.2 == .ok)
      (nth (c.rows.map fun r => (r.vacant, r.status)) slot (vacantRow.vacant, vacantRow.status))) := by
  rw [nth_map_default c.rows slot (fun r => (r.vacant, r.status)) vacantRow]
  rfl

theorem Ctx.acc_congr {c d : Ctx} (h : d.outs = c.outs) (mi slot off : Nat) : d.acc mi slot off = c.acc mi slot off := by rw [Ctx.acc, Ctx.acc, h]

theorem Ctx.Grows.of_kept {c d : Ctx} (h : d.kept = c.kept) : c.Grows d := by
  obtain ⟨units, rest⟩ := Prod.mk.inj h
  obtain ⟨parts, rest⟩ := Prod.mk.inj rest
  obtain ⟨role, rest⟩ := Prod.mk.inj rest
  obtain ⟨rows, outs⟩ := Prod.mk.inj rest
  refine ⟨units, parts, fun slot => ?_, fun mi slot off l hl => ?_⟩
  · rw [Ctx.posOk_eq, Ctx.posOk_eq, role, rows]
  · rwa [Ctx.acc_congr outs]

/-- The result under a key has that key. -/
theorem Ctx.acc_key (c : Ctx) (mi slot off : Nat) :
    (c.acc mi slot off).mi = mi ∧ (c.acc mi slot off).slot = slot ∧ (c.acc mi slot off).off = off := by
  unfold Ctx.acc
  cases h : c.outs.find? fun a => a.mi == mi && a.slot == slot && a.off == off with
  | none => exact ⟨rfl, rfl, rfl⟩
  | some a => simpa [and_assoc] using List.find?_some h

theorem find?_updFirst_const {α : Type} {l : List α} {t : α → Bool} {a : α} (ha : t a = true) (h : l.any t = true) :
    (updFirst l t fun _ => a).find? t = some a := by
  induction l with
  | nil => cases h
  | cons x xs ih =>
    by_cases hx : t x = true
    · simp [updFirst, hx, ha]
    · have later : xs.any t = true := by simpa [hx] using h
      simp [updFirst, hx, ih later]

theorem find?_updFirst_const_other {α : Type} (l : List α) {t u : α → Bool} {a : α} (ha : u a = false) (apart : ∀ x, t x = true → u x = false) :
    (updFirst l t fun _ => a).find? u = l.find? u := by
  induction l with
  | nil => rfl
  | cons x xs ih =>
    by_cases hx : t x = true
    · simp [updFirst, hx, ha, apart x hx]
    · simp only [updFirst, hx, List.find?_cons, ih, Bool.false_eq_true, if_false]

/-- A result that is entered is found under its key, and the others stay. -/
theorem Ctx.acc_putAcc (c : Ctx) (a : OutAcc) (mi slot off : Nat) :
    (c.putAcc a).acc mi slot off = if a.mi = mi ∧ a.slot = slot ∧ a.off = off then a else c.acc mi slot off := by
  unfold Ctx.putAcc
  split
  · next listed =>
    split
    · next own =>
      obtain ⟨rfl, rfl, rfl⟩ := own
      simp only [Ctx.acc]
      rw [find?_updFirst_const (by simp) listed]
      rfl
    · next other =>
      simp only [Ctx.acc]
      rw [find?_updFirst_const_other]
      · simpa [and_assoc] using other
      · intro x hx
        have key : x.mi = a.mi ∧ x.slot = a.slot ∧ x.off = a.off := by simpa [and_assoc] using hx
        obtain ⟨h1, h2, h3⟩ := key
        rw [h1, h2, h3]
        simpa [and_assoc] using other
  · next unlisted =>
    have none_ : c.outs.find? (fun b => b.mi == a.mi && b.slot == a.slot && b.off == a.off) = none := by
      simpa [List.find?_eq_none, List.any_eq_true] using unlisted
    split
    · next own =>
      obtain ⟨rfl, rfl, rfl⟩ := own
      simp only [Ctx.acc, List.find?_append, none_]
      simp
    · next other =>
      have apart : (a.mi == mi && a.slot == slot && a.off == off) = false := by simpa [and_assoc] using other
      simp only [Ctx.acc, List.find?_append, List.find?_cons, List.find?_nil, apart, Option.or_none]

theorem Ctx.Grows.putAcc {c : Ctx} {a : OutAcc} (h : ∀ l ∈ (c.acc a.mi a.slot a.off).lanes, l ∈ a.lanes) : c.Grows (c.putAcc a) := by
  have units : (c.putAcc a).units = c.units := by unfold Ctx.putAcc; split <;> rfl
  have parts : (c.putAcc a).parts = c.parts := by unfold Ctx.putAcc; split <;> rfl
  have posOk (slot : Nat) : (c.putAcc a).posOk slot = c.posOk slot := by unfold Ctx.putAcc; split <;> rfl
  refine ⟨units, parts, posOk, fun mi slot off l hl => ?_⟩
  rw [Ctx.acc_putAcc]
  split
  · next own =>
    obtain ⟨rfl, rfl, rfl⟩ := own
    exact h l hl
  · exact hl

/-- The step of a partition grows, and the tumblers stay. -/
def State.GrowsAt (p : Nat) (s t : State) : Prop := t.tum = s.tum ∧ ∀ c, s.ctxOf p = some c → ∃ d, t.ctxOf p = some d ∧ c.Grows d

theorem State.GrowsAt.of_kept {p : Nat} {s t : State} (h : t.kept = s.kept) : s.GrowsAt p t := by
  refine ⟨congrArg Prod.snd h, fun c hc => ?_⟩
  obtain ⟨d, hd, same⟩ := State.ctxOf_of_kept h hc
  exact ⟨d, hd, .of_kept same⟩

theorem State.GrowsAt.refl (p : Nat) (s : State) : s.GrowsAt p s := .of_kept rfl

/-- A result whose response has left is marked, and its lanes stay. -/
theorem State.GrowsAt.markSent {s t : State} {p : Nat} {c : Ctx} (mi slot off : Nat) (hc : s.ctxOf p = some c) (h : t.kept = s.kept) :
    s.GrowsAt p (t.modCtx p fun d => d.putAcc { c.acc mi slot off with sent := true }) := by
  refine ⟨congrArg Prod.snd h, fun c' hc' => ?_⟩
  obtain rfl : c = c' := Option.some.inj (hc.symm.trans hc')
  obtain ⟨d, hd, same⟩ := State.ctxOf_of_kept h hc
  have grown := Ctx.Grows.of_kept same
  have outs : d.outs = c.outs := congrArg (fun k => k.2.2.2.2) same
  refine ⟨_, State.ctxOf_modCtx _ hd, grown.trans (.putAcc fun l hl => ?_)⟩
  obtain ⟨key1, key2, key3⟩ := c.acc_key mi slot off
  change l ∈ (d.acc (c.acc mi slot off).mi (c.acc mi slot off).slot (c.acc mi slot off).off).lanes at hl
  rwa [key1, key2, key3, Ctx.acc_congr outs] at hl

/-- The response of a complete result takes nothing from any result. -/
theorem State.settleOut_grows (s : State) (p mi slot off : Nat) : s.GrowsAt p (s.settleOut p mi slot off) := by
  unfold State.settleOut
  split
  · exact .refl p s
  · next c hc =>
    extract_lets a proj v due sent
    have mark {t : State} (h : t.kept = s.kept) : s.GrowsAt p (sent t) := .markSent mi slot off hc h
    have reply (zero placed : Bool) (ofmt : Nat) (data : List Nat) :
        (s.sendResp p slot off proj zero placed ofmt data).kept = s.kept := State.sendResp_kept ..
    split
    · exact .refl p s
    · split
      · exact mark (State.pushResp_kept ..)
      · split
        · split
          · split
            · exact mark (reply ..)
            · exact .refl p s
          · split
            · exact .refl p s
            · exact mark (reply ..)
        · split
          · exact .refl p s
          · split
            · split
              · exact mark (reply ..)
              · exact .refl p s
            · exact mark (reply ..)

/-- Lanes that are written or kept are among those of their result. -/
theorem State.putLanes_grows {s : State} {p : Nat} {c : Ctx} (i k slot off lo : Nat) (vals : List Nat) (zero : Bool) (hc : s.ctxOf p = some c) :
    (s.putLanes p i k slot off lo vals zero).tum = s.tum ∧ ∃ d, (s.putLanes p i k slot off lo vals zero).ctxOf p = some d ∧ c.Grows d
      ∧ (lo, vals) ∈ (d.acc i slot off).lanes := by
  unfold State.putLanes
  split
  · next none_ => rw [hc] at none_; cases none_
  · next c' found =>
    obtain rfl : c = c' := Option.some.inj (hc.symm.trans found)
    extract_lets m t row r w
    have written (h : Word) (n : Nat) : (row h n).1.kept = s.kept := by
      unfold row
      split
      · exact State.putRow_kept ..
      · rfl
    have kept : r.1.kept = s.kept := by
      unfold r
      split
      · rfl
      · split
        · exact written ..
        · exact written ..
        · split
          · exact written ..
          · rfl
        · split
          · exact State.placeVec_kept ..
          · rfl
    obtain ⟨d, hd, same⟩ := State.ctxOf_of_kept kept hc
    obtain ⟨key1, key2, key3⟩ := d.acc_key i slot off
    generalize hf : (fun c : Ctx => _) = f
    have entered : d.Grows (f d) ∧ (lo, vals) ∈ ((f d).acc i slot off).lanes := by
      subst hf
      refine ⟨.putAcc fun l hl => ?_, ?_⟩
      · dsimp only at hl ⊢
        rw [key1, key2, key3] at hl
        exact List.mem_append_left _ hl
      · rw [Ctx.acc_putAcc, if_pos ⟨key1, key2, key3⟩]
        exact List.mem_append_right _ (List.mem_singleton.mpr rfl)
    obtain ⟨tum, answered⟩ := (r.1.modCtx p f).settleOut_grows p i slot off
    obtain ⟨e, he, more⟩ := answered _ (State.ctxOf_modCtx f hd)
    exact ⟨tum.trans (congrArg Prod.snd kept), e, he, ((Ctx.Grows.of_kept same).trans entered.1).trans more, more.lanes i slot off _ entered.2⟩

/-! ### The end of a unit (R487) -/

/-- One vector of a unit's output goes where it belongs, where its row stands at OK. -/
def State.putVec (p : Nat) (u : WUnit) (s : State) (x : Nat × Nat × List Nat × Cnt) : State :=
  if (s.ctxOf p).any (fun c => c.posOk x.1) then
    (s.addRow p u.mi u.drw x.1 x.2.2.2).putLanes p u.mi u.drw x.1 x.2.1 u.o0 x.2.2.1 false
  else s

/-- The lanes of a vector are kept where its row stands at OK. -/
theorem State.putVec_grows {s : State} {p : Nat} {c : Ctx} (u : WUnit) (x : Nat × Nat × List Nat × Cnt) (hc : s.ctxOf p = some c) :
    (s.putVec p u x).tum = s.tum ∧ ∃ d, (s.putVec p u x).ctxOf p = some d ∧ c.Grows d
      ∧ (c.posOk x.1 = true → (u.o0, x.2.2.1) ∈ (d.acc u.mi x.1 x.2.1).lanes) := by
  unfold State.putVec
  rw [hc, Option.any_some]
  split
  · have counted : (s.addRow p u.mi u.drw x.1 x.2.2.2).kept = s.kept := State.addRow_kept ..
    obtain ⟨d, hd, same⟩ := State.ctxOf_of_kept counted hc
    obtain ⟨tum, e, he, more, lanes⟩ := State.putLanes_grows u.mi u.drw x.1 x.2.1 u.o0 x.2.2.1 false hd
    exact ⟨tum.trans (congrArg Prod.snd counted), e, he, (Ctx.Grows.of_kept same).trans more, fun _ => lanes⟩
  · next gone => exact ⟨rfl, c, hc, .refl c, fun ok => absurd ok gone⟩

theorem State.foldl_putVec_grows (p : Nat) (u : WUnit) (l : List (Nat × Nat × List Nat × Cnt)) {s : State} {c : Ctx} (hc : s.ctxOf p = some c) :
    (l.foldl (State.putVec p u) s).tum = s.tum ∧ ∃ d, (l.foldl (State.putVec p u) s).ctxOf p = some d ∧ c.Grows d
      ∧ ∀ x ∈ l, c.posOk x.1 = true → (u.o0, x.2.2.1) ∈ (d.acc u.mi x.1 x.2.1).lanes := by
  induction l generalizing s c with
  | nil => exact ⟨rfl, c, hc, .refl c, fun _ h => absurd h List.not_mem_nil⟩
  | cons x l ih =>
    obtain ⟨tum1, d, hd, first, own⟩ := State.putVec_grows u x hc
    obtain ⟨tum2, e, he, rest, others⟩ := ih hd
    refine ⟨tum2.trans tum1, e, he, first.trans rest, fun y hy ok => ?_⟩
    rcases List.mem_cons.mp hy with rfl | hy
    · exact rest.lanes _ _ _ _ (own ok)
    · exact others y hy ((first.posOk y.1).trans ok)

theorem State.putOut_partial {o : UOut} {g : GPartial} (s : State) (p : Nat) (u : WUnit) (h : o.part = some g) :
    s.putOut p u o = ((o.vecs.foldl (State.putVec p u) s).addGrad p u.drw o.cnt.satAcc).modCtx p fun c => { c with parts := c.parts ++ [g] } := by
  unfold State.putOut
  rw [h]
  rfl

theorem State.putOut_vectors {o : UOut} (s : State) (p : Nat) (u : WUnit) (h : o.part = none) :
    s.putOut p u o = (o.vecs.foldl (State.putVec p u) s).addDrw p u.mi u.drw o.cnt := by
  unfold State.putOut
  rw [h]
  rfl

/-- What a unit's results leave of its step: the units; the partial with the others; every lane of a vector whose row stands at OK. -/
structure Ctx.Holds (c : Ctx) (u : WUnit) (o : UOut) (d : Ctx) : Prop where
  units : d.units = c.units
  part : ∀ g, o.part = some g → d.parts = c.parts ++ [g]
  lanes : ∀ x ∈ o.vecs, c.posOk x.1 = true → (u.o0, x.2.2.1) ∈ (d.acc u.mi x.1 x.2.1).lanes

theorem Ctx.Holds.grow {c d e : Ctx} {u : WUnit} {o : UOut} (h : c.Holds u o d) (g : d.Grows e) : c.Holds u o e where
  units := g.units.trans h.units
  part x hx := g.parts.trans (h.part x hx)
  lanes x hx ok := g.lanes _ _ _ _ (h.lanes x hx ok)

theorem State.putOut_holds {s : State} {p : Nat} {c : Ctx} (u : WUnit) (o : UOut) (hc : s.ctxOf p = some c) :
    (s.putOut p u o).tum = s.tum ∧ ∃ d, (s.putOut p u o).ctxOf p = some d ∧ c.Holds u o d := by
  obtain ⟨tum, d, hd, grown, lanes⟩ := State.foldl_putVec_grows p u o.vecs hc
  cases part : o.part with
  | some g =>
    rw [State.putOut_partial s p u part]
    have kept : ((o.vecs.foldl (State.putVec p u) s).addGrad p u.drw o.cnt.satAcc).kept = _ := State.addGrad_kept ..
    obtain ⟨e, he, same⟩ := State.ctxOf_of_kept kept hd
    have more := Ctx.Grows.of_kept same
    refine ⟨tum, _, State.ctxOf_modCtx _ he, more.units.trans grown.units, fun g' hg => ?_, fun x hx ok => more.lanes _ _ _ _ (lanes x hx ok)⟩
    obtain rfl : g = g' := Option.some.inj (part.symm.trans hg)
    exact congrArg (· ++ [g]) (more.parts.trans grown.parts)
  | none =>
    rw [State.putOut_vectors s p u part]
    have kept : ((o.vecs.foldl (State.putVec p u) s).addDrw p u.mi u.drw o.cnt).kept = _ := State.addDrw_kept ..
    obtain ⟨e, he, same⟩ := State.ctxOf_of_kept kept hd
    have more := Ctx.Grows.of_kept same
    refine ⟨(congrArg Prod.snd kept).trans tum, e, he, more.units.trans grown.units, fun g' hg => ?_, fun x hx ok => more.lanes _ _ _ _ (lanes x hx ok)⟩
    rw [part] at hg
    cases hg

theorem State.serveReply_kept (s : State) (p k : Nat) : (s.serveReply p k).kept = s.kept := by
  unfold State.serveReply
  split
  · rfl
  · split
    · rfl
    · extract_lets d ofmt r
      refine (State.modCtx_kept _ p ?_).trans (State.foldl_fst_kept _ _ _ fun _ _ => State.finishReq_kept ..)
      exact fun _ => rfl

theorem State.hbmRead_kept (s : State) : s.hbmRead.kept = s.kept := by
  rw [State.hbmRead, State.foldl_kept]
  · rfl
  · exact fun _ _ => rfl

theorem State.hbmWork_kept (s : State) : s.hbmWork.kept = s.kept := by
  rw [State.hbmWork, State.foldl_kept, State.hbmRead_kept]
  exact fun _ _ => rfl

/-- Counting a tumbler's cycles leaves what is kept of each step. -/
theorem State.addCycles_kept (s : State) (p t : Nat) : (s.addCycles p t).kept.1 = s.kept.1 := by
  have pages : (((s.fresh.2.modP p fun q =>
      { q with engCycles := wrapAdd q.engCycles s.fresh.1, winCycles := satAdd q.winCycles s.fresh.1 }).modCtx p fun c =>
        { c with eng := wrapAdd c.eng s.fresh.1 }).kept) = s.kept := by
    refine (State.modCtx_kept _ p ?_).trans (State.modP_kept s.fresh.2 p ?_)
    · exact fun _ => rfl
    · exact fun _ => rfl
  have steps := congrArg Prod.fst pages
  exact steps

/-- An update of a tumbler that leaves it with units counted is read back, whatever the table's form. -/
theorem State.units_modTum {s : State} {t : Nat} {f : Tum → Tum} (h : (f (s.tumOf t)).units ≠ 0) :
    ((s.modTum t f).tumOf t).units = (f (s.tumOf t)).units :=
  congrArg Tum.units (SMap.get_set_same s.tum t fun e => h (congrArg Tum.units e))

theorem State.addCycles_units {s : State} {t : Nat} (p : Nat) (h : (s.tumOf t).units ≠ 0) : ((s.addCycles p t).tumOf t).units = (s.tumOf t).units := by
  unfold State.addCycles
  exact State.units_modTum h

theorem satAdd_one_ne_zero (x : Word) : satAdd x 1 ≠ 0 := by
  unfold satAdd
  split
  · next small =>
    intro h
    have := congrArg BitVec.toNat h
    simp only [BitVec.toNat_ofNat, Nat.mod_eq_of_lt small] at this
    exact absurd this (Nat.succ_ne_zero _)
  · decide

/-- A unit that is done. -/
def WUnit.finished (x : WUnit) : WUnit := { x with st := .done, xs := [], ys := [] }

/-- The results of a unit are written, kept or answered, and the unit is done. -/
def State.unitResults (s : State) (p u : Nat) (c : Ctx) (w : WUnit) : State :=
  let s := (s.putOut p w (s.unitOut c w)).addDrw p w.mi w.drw (s.weightCnt c w)
  let s := s.setUnit p u WUnit.finished
  if (c.mi w.mi).isGrad then s.hbmWork else s

/-- Its pin is free, and its tumbler counts it. -/
def State.freePin (s : State) (p : Nat) (w : WUnit) : State :=
  let t := pinTum w.pin
  let busy := (s.ctxOf p).any fun c => c.units.any fun v => v.st == .running && pinTum v.pin == t
  let s := s.modTum t fun x => { x with st := if busy then .run else if x.st = .fenced then .fenced else .idle, units := satAdd x.units 1 }
  (s.addCycles p t).serveReply p w.drw

/-- No bytes are asked for where none are needed. -/
theorem State.want_nil (s : State) (p tag : Nat) : s.want p tag [] = (true, s) := by
  unfold State.want
  split <;> rfl

theorem exec_unitComplete_running {s : State} {p u : Nat} {c : Ctx} {w : WUnit} (hc : s.ctxOf p = some c) (phase : c.phase = .run)
    (hu : c.units.find? (fun x => x.id == u) = some w) (running : w.st = .running) (local_ : s.outRngs c w = []) :
    exec (.unitComplete p u) s = .next (((s.unitResults p u c w).freePin p w).pump p) := by
  change execUnitComplete p u s = _
  rw [execUnitComplete, hc]
  dsimp only
  rw [hu]
  dsimp only
  rw [if_neg (by simp [phase, running]), local_, State.want_nil]
  dsimp only
  rw [hc]
  rfl

/-- Updating a unit. -/
theorem Ctx.find_setUnit {c : Ctx} {u : Nat} {w : WUnit} (f : WUnit → WUnit) (id : ∀ x, (f x).id = x.id)
    (hu : c.units.find? (fun x => x.id == u) = some w) :
    (updFirst c.units (fun x => x.id == u) f).find? (fun x => x.id == u) = some (f w) := by
  rw [updFirst_find? _ _ _ fun x => by rw [id], hu]
  rfl

theorem State.unitResults_holds {s : State} {p u : Nat} {c : Ctx} {w : WUnit} (hc : s.ctxOf p = some c)
    (hu : c.units.find? (fun x => x.id == u) = some w) :
    (s.unitResults p u c w).tum = s.tum ∧ ∃ (d : Ctx) (x : WUnit), (s.unitResults p u c w).ctxOf p = some d
      ∧ d.units.find? (fun x => x.id == u) = some x ∧ x.st = .done
      ∧ (∀ g, (s.unitOut c w).part = some g → d.parts = c.parts ++ [g])
      ∧ ∀ x ∈ (s.unitOut c w).vecs, c.posOk x.1 = true → (w.o0, x.2.2.1) ∈ (d.acc w.mi x.1 x.2.1).lanes := by
  obtain ⟨tum, d1, hd1, holds1⟩ := State.putOut_holds w (s.unitOut c w) hc
  unfold State.unitResults
  extract_lets s1 s2
  have counted : s1.kept = (s.putOut p w (s.unitOut c w)).kept := State.addDrw_kept ..
  obtain ⟨d2, hd2, same2⟩ := State.ctxOf_of_kept counted hd1
  have holds2 := holds1.grow (.of_kept same2)
  have unit : d2.units.find? (fun x => x.id == u) = some w := by rw [holds2.units, hu]
  have hd3 : s2.ctxOf p = some _ := State.ctxOf_modCtx _ hd2
  have charged : (if (c.mi w.mi).isGrad = true then s2.hbmWork else s2).kept = s2.kept := by
    split
    · exact State.hbmWork_kept _
    · rfl
  obtain ⟨d, hd, same⟩ := State.ctxOf_of_kept charged hd3
  have grown := Ctx.Grows.of_kept same
  refine ⟨(congrArg Prod.snd charged).trans ((congrArg Prod.snd counted).trans tum), d, w.finished, hd,
    (congrArg (List.find? _) grown.units).trans (Ctx.find_setUnit WUnit.finished (fun _ => rfl) unit), rfl, fun g hg => grown.parts.trans (holds2.part g hg), fun x hx ok => ?_⟩
  exact grown.lanes _ _ _ _ (holds2.lanes x hx ok)

theorem State.freePin_units (s : State) (p : Nat) (w : WUnit) :
    ((s.freePin p w).tumOf (pinTum w.pin)).units = satAdd (s.tumOf (pinTum w.pin)).units 1 := by
  unfold State.freePin
  extract_lets t busy s1
  have counted : (s1.tumOf t).units = satAdd (s.tumOf t).units 1 := State.units_modTum (satAdd_one_ne_zero _)
  have some_ : (s1.tumOf t).units ≠ 0 := counted ▸ satAdd_one_ne_zero _
  rw [State.tumOf_of_kept (State.serveReply_kept ..), State.addCycles_units p some_, counted]

theorem State.freePin_grows {s : State} {p : Nat} {c : Ctx} (w : WUnit) (hc : s.ctxOf p = some c) :
    ∃ d, (s.freePin p w).ctxOf p = some d ∧ c.Grows d := by
  unfold State.freePin
  extract_lets t busy s1
  have steps : ((s1.addCycles p t).serveReply p w.drw).kept.1 = s1.kept.1 :=
    (congrArg Prod.fst (State.serveReply_kept ..)).trans (s1.addCycles_kept p t)
  obtain ⟨d, hd, same⟩ := State.ctxOf_of_kept_fst steps (c := c) hc
  exact ⟨d, hd, .of_kept same⟩

/-! ### The start of a unit (R489) -/

/-- HBM as it is visible, and the writes on their way. -/
def State.memory (s : State) : Memory × List PWrite := (s.hbm, s.writes)

theorem State.addRec_memory (s : State) (p i rd wr : Nat) : (s.addRec p i rd wr).memory = s.memory := by
  unfold State.addRec
  split <;> rfl

theorem State.addRow_memory (s : State) (p i drw slot : Nat) (k : Cnt) : (s.addRow p i drw slot k).memory = s.memory := State.addRec_memory ..

theorem State.addStat_memory (s : State) (p slot aid proj : Nat) (q : QCnt) : (s.addStat p slot aid proj q).memory = s.memory := by
  unfold State.addStat
  split <;> rfl

/-- Loading an operand counts what reading it gives, and changes nothing else. -/
theorem State.loadOp_loads (s : State) (p : Nat) (c : Ctx) (u : WUnit) (l : Word × Nat) (fmt : Nat) (k : Int) (count stat : Bool) :
    (s.loadOp p c u l fmt k count stat).2.kept = s.kept ∧ (s.loadOp p c u l fmt k count stat).2.memory = s.memory := by
  unfold State.loadOp
  split
  · exact ⟨rfl, rfl⟩
  · refine List.foldlRecOn (motive := fun st : List (List Nat) × State => st.2.kept = s.kept ∧ st.2.memory = s.memory) _ _ ⟨rfl, rfl⟩ ?_
    rintro ⟨rows, t⟩ ⟨kept, memory⟩ x -
    dsimp only
    split
    · exact ⟨kept, memory⟩
    · split
      · exact ⟨kept, memory⟩
      · split
        · exact ⟨(State.addStat_kept ..).trans ((State.addRow_kept ..).trans kept), (State.addStat_memory ..).trans ((State.addRow_memory ..).trans memory)⟩
        · exact ⟨(State.addRow_kept ..).trans kept, (State.addRow_memory ..).trans memory⟩

/-- A unit that runs on its operands. -/
def WUnit.started (xs ys : List (List Nat)) (x : WUnit) : WUnit := { x with st := .running, xs := xs, ys := ys }

/-- A unit runs on its tumbler. -/
def State.runUnit (s : State) (p u : Nat) (w : WUnit) (xs ys : List (List Nat)) : State :=
  (s.setUnit p u (WUnit.started xs ys)).modTum (pinTum w.pin) fun t => { t with st := .run }

/-- Where no line is poisoned, a read finds none (R582). -/
theorem State.readOr_sound {s : State} (p : Nat) (rs : List (Nat × Nat)) (go : State) (sound : s.ras.poison = []) : s.readOr p rs go = go := by
  rw [State.readOr, sound]
  exact if_pos rfl

/-- A unit whose conditions hold, with room for it and for every earlier one of its tumbler, runs after its loads. -/
theorem exec_unitStart_ready {s : State} {p u : Nat} {c : Ctx} {w : WUnit} (hc : s.ctxOf p = some c) (phase : c.phase = .run)
    (hu : c.units.find? (fun x => x.id == u) = some w) (sound : s.ras.poison = []) (ready : s.unitReady p c w = true) (room : c.room w = true)
    (first : ∀ v ∈ c.units, v.id < w.id → pinTum v.pin = pinTum w.pin → s.unitReady p c v = true → c.room v = true) (local_ : s.loadRngs c w = []) :
    ∃ (t : State) (xs ys : List (List Nat)), exec (.unitStart p u) s = .next (t.hbmRead.runUnit p u w xs ys) ∧ t.kept = s.kept ∧ t.memory = s.memory := by
  have ahead : (c.units.any fun v => decide (v.id < w.id) && pinTum v.pin == pinTum w.pin && s.unitReady p c v && !c.room v) = false := by
    refine List.any_eq_false.mpr fun v hv => ?_
    simpa [and_assoc] using first v hv
  have run : exec (.unitStart p u) s = .next (s.startUnit p u) := by
    change execUnitStart p u s = _
    rw [execUnitStart, hc]
    dsimp only
    rw [hu]
    dsimp only
    rw [if_pos ready, State.readOr_sound _ _ _ sound]
  rw [run, State.startUnit, hc]
  dsimp only
  rw [hu]
  dsimp only
  rw [if_neg (by simp [phase, ready, room, ahead]), local_, State.want_nil]
  dsimp only
  rw [hc]
  dsimp only
  exact ⟨_, _, _, rfl, (State.loadOp_loads ..).1.trans (State.loadOp_loads ..).1, (State.loadOp_loads ..).2.trans (State.loadOp_loads ..).2⟩

theorem State.hbmRead_memory (s : State) : s.hbmRead.memory = s.memory := by
  obtain ⟨w, h, k, read⟩ := s.hbmRead_eq
  rw [read]
  rfl

theorem State.runUnit_memory (s : State) (p u : Nat) (w : WUnit) (xs ys : List (List Nat)) : (s.runUnit p u w xs ys).memory = s.memory := rfl

theorem State.runUnit_runs {s : State} {p u : Nat} {c : Ctx} {w : WUnit} (xs ys : List (List Nat)) (hc : s.ctxOf p = some c)
    (hu : c.units.find? (fun x => x.id == u) = some w) :
    ∃ d, (s.runUnit p u w xs ys).ctxOf p = some d ∧ d.units.find? (fun x => x.id == u) = some (w.started xs ys)
      ∧ ((s.runUnit p u w xs ys).tumOf (pinTum w.pin)).st = .run := by
  refine ⟨_, State.ctxOf_modCtx _ hc, Ctx.find_setUnit (WUnit.started xs ys) (fun _ => rfl) hu, ?_⟩
  refine congrArg Tum.st (SMap.get_set_same (v := { s.tumOf (pinTum w.pin) with st := .run }) s.tum (pinTum w.pin) fun e => ?_)
  cases congrArg Tum.st e

/-! ### The end of a staging stream (R296, R493) -/

/-- A stream that has ended. -/
def Stream.ended (x : Stream) : Stream := { x with started := true, done := true }

theorem mem_updFirst_of_find {α : Type} {l : List α} {t : α → Bool} {f : α → α} {x : α} (h : x ∈ l) (hit : t x = true)
    (only : ∀ y, t y = true → y = x) : f x ∈ updFirst l t f := by
  induction l with
  | nil => cases h
  | cons y l ih =>
    unfold updFirst
    split
    · next hy => exact only y hy ▸ List.mem_cons_self ..
    · next hy =>
      refine List.mem_cons_of_mem _ (ih ((List.mem_cons.mp h).resolve_left fun e => hy (e ▸ hit)))

theorem mem_updFirst_of_not {α : Type} {l : List α} {t : α → Bool} (f : α → α) {x : α} (h : x ∈ l) (miss : t x = false) : x ∈ updFirst l t f := by
  induction l with
  | nil => cases h
  | cons y l ih =>
    unfold updFirst
    rcases List.mem_cons.mp h with rfl | later
    · rw [if_neg (by simp [miss])]
      exact List.mem_cons_self ..
    · split
      · exact List.mem_cons_of_mem _ later
      · exact List.mem_cons_of_mem _ (ih later)

/-- The stream at the head of a die ends, and the next begins where its buffer is free. -/
def Ctx.endStream (c : Ctx) (q : Nat) (x : Stream) : Ctx :=
  let l := updFirst c.streams (fun y => y == x) Stream.ended
  { c with streams := match ({ c with streams := l } : Ctx).headStream q with
      | some y => if c.bufFree y then updFirst l (fun z => z == y) fun z => { z with started := true } else l
      | none => l }

/-- A stream that has ended stays so when the next one begins. -/
theorem Ctx.mem_endStream {c : Ctx} {q : Nat} {x : Stream} (h : x ∈ c.streams) : x.ended ∈ (c.endStream q x).streams := by
  have listed : x.ended ∈ updFirst c.streams (fun y => y == x) Stream.ended :=
    mem_updFirst_of_find h (beq_self_eq_true x) fun y hy => eq_of_beq hy
  unfold Ctx.endStream
  extract_lets l
  dsimp only
  split
  · next y head =>
    split
    · refine mem_updFirst_of_not _ listed (beq_eq_false_iff_ne.mpr ?_)
      rintro rfl
      simpa [Stream.ended] using List.find?_some head
    · exact listed
  · exact listed

theorem State.ctxOf_withShf (s : State) (l : List Shf) (p : Nat) : State.ctxOf { s with shf := l } p = s.ctxOf p := rfl

theorem exec_stagingStreamEnd_head {s : State} {p q : Nat} {c : Ctx} {x : Stream} (hc : s.ctxOf p = some c) (phase : c.phase = .run)
    (sound : s.ras.poison = []) (head : c.headStream q = some x) (here : s.blobHere (c.drw x.drw) = true)
    (free : (x.started || c.bufFree x) = true) :
    exec (.stagingStreamEnd p q) s = .next { (s.hbmRead.modCtx p fun c => c.endStream q x) with
      shf := modNth s.shf q fun h => { h with stgBytes := wrapAdd h.stgBytes (s.streamBytes (c.drw x.drw) x.layer) } } := by
  have run : exec (.stagingStreamEnd p q) s = .next (s.streamEnd p q) := by
    change execStagingStreamEnd p q s = _
    rw [execStagingStreamEnd, hc]
    dsimp only
    rw [if_pos phase, State.readOr_sound _ _ _ sound]
  rw [run, State.streamEnd, hc]
  dsimp only
  rw [head]
  dsimp only
  rw [if_pos ⟨phase, here, free⟩]
  rfl

/-! ### O36 -/

/-- Settles O36: a unit starts after loads that only count, ends with its results among those of its step, and the stream at the head of
a die ends. -/
theorem unitsRunAndComplete : Obligations.UnitsRunAndComplete := by
  unfold Obligations.UnitsRunAndComplete
  intro s p u c w hc phase
  refine ⟨fun hu sound ready room first local_ => ?start, fun hu running local_ => ?complete, fun q x sound head here free _ => ?stream⟩
  case start =>
    obtain ⟨t, xs, ys, run, kept, memory⟩ := exec_unitStart_ready hc phase hu sound ready room first local_
    obtain ⟨d, hd, same⟩ := State.ctxOf_of_kept (t.hbmRead_kept.trans kept) hc
    have unit : d.units.find? (fun x => x.id == u) = some w := by rw [(Ctx.Grows.of_kept same).units, hu]
    obtain ⟨e, he, own, tumbler⟩ := State.runUnit_runs xs ys hd unit
    obtain ⟨hbm, writes⟩ := Prod.mk.inj ((t.hbmRead.runUnit_memory p u w xs ys).trans (t.hbmRead_memory.trans memory))
    exact ⟨_, e, _, run, he, own, rfl, tumbler, hbm, writes⟩
  case complete =>
    obtain ⟨tum, d, x, hd, own, done, part, lanes⟩ := State.unitResults_holds hc hu
    obtain ⟨e, he, grown⟩ := State.freePin_grows w hd
    refine ⟨_, e, x, exec_unitComplete_running hc phase hu running local_, he, by rw [grown.units, own], done, ?_, fun g hg => ?_, fun y hy ok => ?_⟩
    · rw [State.freePin_units, State.tumOf, tum]
      rfl
    · rw [grown.parts, part g hg]
    · exact grown.lanes _ _ _ _ (lanes y hy ok)
  case stream =>
    have reading : s.hbmRead.ctxOf p = some c := by
      obtain ⟨w, h, k, read⟩ := s.hbmRead_eq
      rw [read]
      exact hc
    exact ⟨_, _, exec_stagingStreamEnd_head hc phase sound head here free, (State.ctxOf_withShf ..).trans (State.ctxOf_modCtx _ reading),
      Ctx.mem_endStream (List.mem_of_find?_eq_some head), rfl⟩

end Sys2Proof.Machine
end

section
/-! PROOF. The end of a step and its save (R229, R385, R393, R394, R455, R477): vectors that are held stay held, what a change of jobs
leaves, and the obligation. -/

namespace Sys2Proof.Machine

open Sys2Proof

/-! ### Held vectors of a step that does not take them -/

/-- A vector that no step checks changes the ports alone. -/
theorem State.vecGo_unchecked {s : State} {p : Nat} (port : Nat) {v : RowVec} (h : s.vecFor p v.sseq ≠ .check) :
    ∃ l, s.vecGo p port v = { s with hng := l } := by
  unfold State.vecGo
  split
  · next check => exact absurd check h
  · split
    · unfold State.tornVec
      dsimp only
      split
      · exact ⟨_, rfl⟩
      · exact ⟨_, rfl⟩
    · exact ⟨_, rfl⟩
  · exact ⟨_, rfl⟩

/-- A held vector goes on: its credits come back. -/
def State.unhold (s : State) (p port : Nat) (v : RowVec) : State :=
  (s.modHng port fun h => { h with held := h.held.erase v }.giveBack p v.beats).beatCredit port p (· - v.beats)

theorem State.releasePort_unchecked {p : Nat} (port n : Nat) {s : State} (h : ∀ n, s.vecFor p n ≠ .check) :
    ∃ l, State.releasePort p port n s = { s with hng := l } := by
  induction n generalizing s with
  | zero => exact ⟨s.hng, rfl⟩
  | succ n ih =>
    unfold State.releasePort
    split
    · exact ⟨s.hng, rfl⟩
    · split
      · exact ⟨s.hng, rfl⟩
      · next v _ =>
        obtain ⟨l, gone⟩ := State.vecGo_unchecked (s := s.unhold p port v) port (h v.sseq)
        obtain ⟨m, rest⟩ := ih (s := { s.unhold p port v with hng := l }) h
        exact ⟨m, (congrArg (State.releasePort p port n) gone).trans rest⟩

/-- Held vectors that no step checks go on as orphans, or not at all. -/
theorem State.releaseHeld_unchecked {s : State} {p : Nat} (h : ∀ n, s.vecFor p n ≠ .check) : ∃ l, s.releaseHeld p = { s with hng := l } := by
  refine List.foldlRecOn (motive := fun t : State => ∃ l, t = { s with hng := l }) _ _ ⟨s.hng, rfl⟩ ?_
  rintro t ⟨l, rfl⟩ port -
  exact State.releasePort_unchecked (s := { s with hng := l }) port _ h

theorem State.releaseHeld_pwr {s : State} {p : Nat} (h : ∀ n, s.vecFor p n ≠ .check) : (s.releaseHeld p).pwr = s.pwr := by
  obtain ⟨l, held⟩ := State.releaseHeld_unchecked h
  rw [held]

/-- A step that is to be restored takes no vector, nor does a place without a step. -/
theorem State.vecFor_unchecked {s : State} {p : Nat} (h : ∀ c, s.ctxOf p = some c → c.phase = .restore) (n : Nat) : s.vecFor p n ≠ .check := by
  unfold State.vecFor
  dsimp only
  split
  · next named =>
    cases hc : (s.getP p).ctx with
    | none => rw [hc] at named; cases named
    | some c =>
      have held : c.holds (s.getP p) = true := by rw [Ctx.holds, h c hc]
      rw [Option.any_some, held]
      exact VecFor.noConfusion
  · split
    · exact VecFor.noConfusion
    · split
      · exact VecFor.noConfusion
      · split
        · exact VecFor.noConfusion
        · exact VecFor.noConfusion

/-! ### Jobs -/

/-- A property of pages that looks at their steps only, and that a step keeps when its restore begins. -/
structure Prt.OfSteps (P : Prt → Prop) : Prop where
  same : ∀ q r : Prt, r.ctx = q.ctx → r.svCtx = q.svCtx → P q → P r
  restore : ∀ (q : Prt) (c : Ctx), q.ctx = none → q.svCtx = some c → P q →
    P { q with ctx := some { c with phase := .restore }, svCtx := none }

/-- What a change of jobs leaves: such a property of the page, the command link and power. -/
structure State.Turns (P : Prt → Prop) (p : Nat) (s t : State) : Prop where
  page : P (s.getP p) → P (t.getP p)
  lnk : t.lnk = s.lnk
  pwr : t.pwr = s.pwr

section
variable {P : Prt → Prop} {p : Nat}

theorem State.Turns.refl (s : State) : s.Turns P p s := ⟨id, rfl, rfl⟩

theorem State.Turns.trans {s t u : State} (h : s.Turns P p t) (g : t.Turns P p u) : s.Turns P p u :=
  ⟨g.page ∘ h.page, g.lnk.trans h.lnk, g.pwr.trans h.pwr⟩

theorem State.Turns.modP (s : State) (r : Nat) {f : Prt → Prt} (h : ∀ q, P q → P (f q)) : s.Turns P p (s.modP r f) := by
  refine ⟨fun hp => ?_, rfl, rfl⟩
  rw [State.getP_modP]
  split
  · exact h _ hp
  · exact hp

theorem State.wardJob_turns (s : State) (ward : Nat) (opened : Bool) : s.Turns P p (s.wardJob ward opened) := ⟨id, rfl, rfl⟩

variable (steps : Prt.OfSteps P)
include steps

/-- An update of a page beside its steps. -/
theorem State.Turns.beside (s : State) (r : Nat) {f : Prt → Prt} (ctx : ∀ q, (f q).ctx = q.ctx) (svCtx : ∀ q, (f q).svCtx = q.svCtx) :
    s.Turns P p (s.modP r f) := .modP s r fun q => steps.same q (f q) (ctx q) (svCtx q)

theorem State.settleTum_turns (s : State) (r : Nat) : s.Turns P p (s.settleTum r) := by
  unfold State.settleTum
  dsimp only
  split
  · exact .refl s
  · exact .beside steps s r (fun _ => rfl) fun _ => rfl

theorem State.takeTum_turns (s : State) (r : Nat) : s.Turns P p (s.takeTum r) :=
  List.foldlRecOn (motive := fun t : State => s.Turns P p t) _ _ (s.settleTum_turns steps r) fun t h i _ => h.trans (t.settleTum_turns steps i)

theorem State.modJob_turns (s : State) (r num : Nat) (f : Job → Job) : s.Turns P p (s.modJob r num f) :=
  .beside steps s r (fun _ => rfl) fun _ => rfl

/-- The register that shows the running job (R379). -/
theorem State.setRun_turns (s : State) (r : Nat) (f : Prt → BitVec 53) : s.Turns P p (s.modP r fun q => { q with jobRun := f q }) :=
  .beside steps s r (fun _ => rfl) fun _ => rfl

theorem State.startRestore_turns (s : State) (r : Nat) : s.Turns P p (s.startRestore r) := by
  refine .modP s r fun q hq => ?_
  split
  · next j c _ idle saved =>
    split
    · exact steps.same { q with ctx := some { c with phase := .restore }, svCtx := none } _ rfl rfl (steps.restore q c idle saved hq)
    · exact hq
  · exact hq

theorem State.runJob_turns (s : State) (r num : Nat) : s.Turns P p (s.runJob r num) :=
  ((s.modJob_turns steps r num _).trans (State.setRun_turns steps _ r _)).trans (State.startRestore_turns steps _ r)

theorem State.chooseJob_turns (s : State) (r : Nat) : s.Turns P p (s.chooseJob r) := by
  unfold State.chooseJob
  dsimp only
  split
  · exact s.runJob_turns steps r _
  · exact s.startRestore_turns steps r
  · exact .beside steps s r (fun _ => rfl) fun _ => rfl

theorem State.stopRunning_turns (s : State) (r num : Nat) (st : JobState) : s.Turns P p (s.stopRunning r num st) :=
  ((s.modJob_turns steps r num _).trans (State.setRun_turns steps _ r _)).trans (State.takeTum_turns steps _ r)

theorem State.endJob_turns (s : State) (r num : Nat) : s.Turns P p (s.endJob r num) := by
  unfold State.endJob
  split
  · split
    · exact .refl s
    · next j _ _ =>
      extract_lets t
      have ended : s.Turns P p t :=
        ((s.modJob_turns steps r num _).trans (State.setRun_turns steps _ r _)).trans (State.wardJob_turns _ j.ward false)
      split
      · exact ended.trans (State.takeTum_turns steps t r)
      · exact ended
  · exact .refl s

theorem State.settleClose_turns (s : State) (r num : Nat) : s.Turns P p (s.settleClose r num) := by
  unfold State.settleClose
  split
  · split
    · exact s.endJob_turns steps r num
    · exact .refl s
  · exact .refl s

theorem State.boundary_turns (s : State) (r : Nat) : s.Turns P p (s.boundary r) := by
  have turn (num num' : Nat) (st : JobState) : s.Turns P p ((s.stopRunning r num st).runJob r num') :=
    (s.stopRunning_turns steps r num st).trans (State.runJob_turns steps _ r num')
  unfold State.boundary
  dsimp only
  split
  · split
    · exact turn ..
    · split
      · exact turn ..
      · exact .refl s
  · exact .refl s

/-- A request to pre-empt where no step is issued. -/
theorem State.preempt_turns {s : State} {r : Nat} (idle : (s.getP r).ctx = none) : s.Turns P p (s.preempt r) := by
  unfold State.preempt
  dsimp only
  split
  · split
    · exact .refl s
    · rw [idle]
      exact (s.stopRunning_turns steps r _ _).trans (State.chooseJob_turns steps _ r)
  · exact .refl s

end

/-! ### Reports (R454, R455) -/

theorem State.fabCount_lnk (s : State) (port : Option Nat) (sent : Bool) (n : Nat) : (s.fabCount port sent n).lnk = s.lnk := by
  unfold State.fabCount
  split <;> rfl

theorem State.sendXfer_lnk (s : State) (space addr len : Nat) (write : Option (List Byte)) (use : XferFor) :
    (s.sendXfer space addr len write use).lnk = s.lnk := by
  unfold State.sendXfer
  dsimp only
  split
  · rfl
  · exact State.fabCount_lnk ..

theorem State.stepWrite_lnk (s : State) (space addr : Nat) (bytes : List Byte) (tag : WriteTag) (drw key ew page : Nat) :
    (s.stepWrite space addr bytes tag drw key ew page).lnk = s.lnk := by
  unfold State.stepWrite
  split
  · rfl
  · split
    · rfl
    · refine List.foldlRecOn (motive := fun t : State => t.lnk = s.lnk) _ _ rfl fun t h r _ => ?_
      exact (State.sendXfer_lnk ..).trans h

theorem State.writeReport_prt (s : State) (p : Nat) (c : Ctx) (final : Bool) (tag : WriteTag) : (s.writeReport p c final tag).prt = s.prt := by
  unfold State.writeReport
  split
  · rfl
  · split
    · exact State.stepWrite_prt ..
    · exact State.stepWrite_prt ..

theorem State.writeReport_lnk (s : State) (p : Nat) (c : Ctx) (final : Bool) (tag : WriteTag) : (s.writeReport p c final tag).lnk = s.lnk := by
  unfold State.writeReport
  split
  · rfl
  · split
    · exact State.stepWrite_lnk ..
    · exact State.stepWrite_lnk ..

/-! ### The end of a step (R385, R477) -/

/-- Of the pages, the release of a step changes that of its partition, whose place is free. -/
theorem State.releaseStep_prt (s : State) (p : Nat) (c : Ctx) :
    (s.releaseStep p c).prt = modNth s.prt p fun q => { q with ctx := none } := by
  unfold State.releaseStep
  extract_lets s1 s2 s3 s4
  have e1 : s1.prt = s.prt := by
    unfold s1
    split
    · rfl
    · exact State.unStat_prt ..
  have e2 : s2.prt = s.prt := by
    rw [← e1]
    exact (State.dropRefs_prt ..).trans ((State.dropGradNew_prt ..).trans (State.dropPins_prt ..))
  have e3 : s3.prt = s.prt := by
    unfold s3
    split
    · exact e2
    · exact (State.gateRelease_prt s2 p).trans e2
  have e4 : s4.prt = s.prt := by
    unfold s4
    split
    · exact (State.setTums_prt ..).trans e3
    · exact e3
  exact congrArg (modNth · p fun q => { q with ctx := none }) e4

theorem State.releaseStep_ctxOf (s : State) (p : Nat) (c : Ctx) : (s.releaseStep p c).ctxOf p = none := by
  rw [State.ctxOf, State.getP, State.releaseStep_prt, nth_modNth]
  split
  · rfl
  · next beyond => exact congrArg Prt.ctx (State.getP_beyond (Nat.not_lt.mp fun h => beyond ⟨rfl, h⟩))

/-- No step is issued for a partition, and none is saved. -/
def Prt.Vacant (q : Prt) : Prop := q.ctx = none ∧ q.svCtx = none

theorem Prt.Vacant.ofSteps : Prt.OfSteps Prt.Vacant where
  same _ _ ctx svCtx h := ⟨ctx.trans h.1, svCtx.trans h.2⟩
  restore _ _ _ saved h := by
    rw [h.2] at saved
    cases saved

theorem State.releaseStep_vacant {s : State} {p : Nat} {c : Ctx} (hc : s.ctxOf p = some c) (alone : (s.getP p).svCtx = none) :
    ((s.releaseStep p c).getP p).Vacant := by
  rw [State.getP, State.releaseStep_prt, nth_modNth_same _ _ (State.lt_of_ctxOf hc)]
  exact ⟨rfl, alone⟩

/-- After the last report of a step: its job may end or yield, another may run, and a saved step of it be restored (R384, R385, R392). -/
def State.afterReport (s : State) (p num : Nat) (own : Bool) : State :=
  let s := s.settleClose p num
  ((if own then s.boundary p else s.preempt p).chooseJob p).startRestore p

theorem State.stepEnd_eq (s : State) (p : Nat) (c : Ctx) :
    s.stepEnd p c = (((s.releaseStep p c).notice 0x60 (s.finalHeader p c)).afterReport p c.job
      (((s.getP p).running).any fun j => j.num == c.job)).releaseHeld p := rfl

theorem State.afterReport_turns {s : State} {p : Nat} (num : Nat) (own : Bool) (vacant : (s.getP p).Vacant) :
    s.Turns Prt.Vacant p (s.afterReport p num own) := by
  have steps := Prt.Vacant.ofSteps
  unfold State.afterReport
  extract_lets t
  have closed : s.Turns Prt.Vacant p t := s.settleClose_turns steps p num
  have yields : t.Turns Prt.Vacant p (if own = true then t.boundary p else t.preempt p) := by
    split
    · exact t.boundary_turns steps p
    · exact State.preempt_turns steps (closed.page vacant).1
  exact ((closed.trans yields).trans (State.chooseJob_turns steps _ p)).trans (State.startRestore_turns steps _ p)

/-- After the last report nothing more goes to the link, and the step's place stays free where none is saved. -/
theorem State.afterReport_vacant {s : State} {p : Nat} (num : Nat) (own : Bool) (vacant : (s.getP p).Vacant) :
    ((s.afterReport p num own).releaseHeld p).ctxOf p = none ∧ ((s.afterReport p num own).releaseHeld p).lnk = s.lnk := by
  have turns := State.afterReport_turns num own vacant
  obtain ⟨idle, -⟩ := turns.page vacant
  have free : (s.afterReport p num own).ctxOf p = none := idle
  obtain ⟨l, held⟩ := State.releaseHeld_unchecked (State.vecFor_unchecked fun c hc => by rw [free] at hc; cases hc)
  rw [held]
  exact ⟨idle, turns.lnk⟩

theorem filter_some {α : Type} {t : α → Bool} {x : α} (h : t x = true) : (some x).filter t = some x := by simp [h]

/-- `STEP_DONE` where no other report is due and the issued step has nothing left to do. -/
theorem exec_stepDone_issued {s : State} {p : Nat} {c : Ctx} (hc : s.ctxOf p = some c) (finished : s.complete p c = true ∨ s.ended p c = true)
    (alone : (s.getP p).finals = []) :
    exec (.stepDone p) s = .next (
      if c.role = .serve then s.releaseStep p c
      else if c.written = false then
        (((c.vecs.filter fun v => !v.answered).foldl (fun s v => s.answerZero p v.slot v.off v.proj) s).modCtx p fun c =>
          { c with written := true }).writeReport p c true (.report p c.sub.sseq)
      else if (s.writes.any fun w => w.tag == .report p c.sub.sseq) ∨ s.lnk.canSend 2 = false then s
      else s.stepEnd p c) := by
  have due : (s.getP p).ctx.filter (fun c => s.ended p c || s.complete p c) = some c := by
    refine (congrArg _ hc).trans (filter_some ?_)
    rw [Bool.or_eq_true]
    exact finished.symm
  change execStepDone p s = _
  rw [execStepDone]
  dsimp only
  rw [alone, due]
  rfl

/-! ### The save (R229, R393, R394) -/

/-- A state that differs in wakes that are asked for, counters of HBM and the free numbers taken, in nothing else. -/
def State.HbmWorked (s t : State) : Prop := ∃ x h k, t = { s with pwr := { s.pwr with wakes := x }, hbmStk := h, freeCtr := k }

theorem State.HbmWorked.foldl {s t : State} {f : State → Nat → State} (l : List Nat) (step : ∀ t j, s.HbmWorked t → s.HbmWorked (f t j))
    (ht : s.HbmWorked t) : s.HbmWorked (l.foldl f t) := List.foldlRecOn (motive := s.HbmWorked) _ _ ht fun t h j _ => step t j h

theorem State.hbmWork_worked (s : State) : s.HbmWorked s.hbmWork := by
  unfold State.hbmWork State.hbmRead
  refine .foldl _ ?_ (.foldl _ ?_ ⟨_, s.hbmStk, s.freeCtr, rfl⟩)
  · rintro t j ⟨x, h, k, rfl⟩
    exact ⟨x, _, k + 1, rfl⟩
  · rintro t j ⟨x, h, k, rfl⟩
    exact ⟨x, _, k + 1, rfl⟩

/-- What a save leaves of the rest: the link, the clock, HBM, and whether the device powers down. -/
def State.outside (s : State) : Lnk × Mgt × Memory × Bool := (s.lnk, s.mgt, s.hbm, s.pwr.powering)

theorem State.tumOwn_modP (s : State) (p r : Nat) {f : Prt → Prt} (h : ∀ q, (f q).tumOwn = q.tumOwn) :
    ((s.modP p f).getP r).tumOwn = (s.getP r).tumOwn := by
  rw [State.getP_modP]
  split
  · exact h _
  · rfl

/-- The cycles of some tumblers are counted for a partition and its step. -/
theorem State.foldl_addCycles {p : Nat} (l : List Nat) {s : State} {c : Ctx} (hc : s.ctxOf p = some c) :
    ∃ e, (l.foldl (fun s t => s.addCycles p t) s).ctxOf p = some { c with eng := e }
      ∧ ((l.foldl (fun s t => s.addCycles p t) s).getP p).tumOwn = (s.getP p).tumOwn
      ∧ (l.foldl (fun s t => s.addCycles p t) s).outside = s.outside := by
  induction l generalizing s c with
  | nil => exact ⟨c.eng, hc, rfl, rfl⟩
  | cons t l ih =>
    have counted : (s.addCycles p t).ctxOf p = some { c with eng := wrapAdd c.eng s.fresh.1 } := by
      refine State.ctxOf_modCtx _ ((State.ctxOf_modP s.fresh.2 p ?_).trans hc)
      exact fun _ => rfl
    have own : ((s.addCycles p t).getP p).tumOwn = (s.getP p).tumOwn := by
      refine (State.tumOwn_modP _ p p ?_).trans (State.tumOwn_modP s.fresh.2 p p ?_)
      · exact fun _ => rfl
      · exact fun _ => rfl
    obtain ⟨e, he, kept, rest⟩ := ih counted
    exact ⟨e, he, kept.trans own, rest⟩

theorem State.setTums_eq_tum (s : State) (p : Nat) (st : TumState) : ∃ m, s.setTums p st = { s with tum := m } := by
  rw [State.setTums_eq]
  refine List.foldlRecOn (motive := fun t : State => ∃ m, t = { s with tum := m }) _ _ ⟨s.tum, rfl⟩ ?_
  rintro t ⟨m, rfl⟩ i -
  exact ⟨_, rfl⟩

/-- A notice that leaves the same link at the same time. -/
theorem State.notice_lnk_congr {s t : State} (opc : Nat) (data : List Byte) (lnk : t.lnk = s.lnk) (mgt : t.mgt = s.mgt) :
    (t.notice opc data).lnk = (s.notice opc data).lnk := by
  simp only [State.notice, State.drain_lnk, State.modLnk_lnk, State.now, State.modLnk_mgt, lnk, mgt]

/-- What is dirty goes to the save area, and the cycles of the partition's tumblers are counted (R386, R393). -/
def State.savedOut (s : State) (p : Nat) (c : Ctx) : State :=
  (tumsOf (s.getP p).tumOwn).foldl (fun s t => s.addCycles p t) (s.hbmWork.saveOut p c)

theorem State.savedOut_eq {s : State} {p : Nat} {c : Ctx} (hc : s.ctxOf p = some c) :
    ∃ e, (s.savedOut p c).ctxOf p = some { c with eng := e } ∧ ((s.savedOut p c).getP p).tumOwn = (s.getP p).tumOwn
      ∧ (s.savedOut p c).outside = (s.lnk, s.mgt, Memory.writeN s.hbm (saveRows p) (c.rows.flatMap Row.entry), s.pwr.powering) := by
  obtain ⟨x, h, k, work⟩ := s.hbmWork_worked
  have written : (s.hbmWork.saveOut p c).outside = (s.lnk, s.mgt, Memory.writeN s.hbm (saveRows p) (c.rows.flatMap Row.entry), s.pwr.powering) := by
    rw [work]
    rfl
  have pages : (s.hbmWork.saveOut p c).prt = s.prt := by
    rw [work]
    exact State.land_prt ..
  obtain ⟨e, he, own, rest⟩ := State.foldl_addCycles (p := p) (tumsOf (s.getP p).tumOwn) ((State.ctxOf_eq_of_prt p pages).trans hc)
  exact ⟨e, he, own.trans (congrArg Prt.tumOwn (State.getP_eq_of_prt p pages)), rest.trans written⟩

/-- The page of a partition whose step is saved with tumblers `own`: no page pins (R229). -/
def Prt.saving (c : Ctx) (own : BitVec 128) (q : Prt) : Prt :=
  { q with
    ctx := none, saved := true
    svCtx := some { c with phase := .saved, saveMask := own, pages := [], leaving := false
                           host := c.host.filter fun g => (c.mi g.tag).op != 0x14 } }

/-- The step is saved, and the `STEP_DONE` of its interim report leaves (R455). -/
def State.saveDone (s : State) (p : Nat) (c : Ctx) : State :=
  (((s.setTums p .idle).notice 0x60 (c.header p false false)).setOsav p true).modP p (Prt.saving c (s.getP p).tumOwn)

theorem State.saveDone_page {s : State} {p : Nat} {c : Ctx} (hc : s.ctxOf p = some c) :
    (s.saveDone p c).getP p = (s.getP p).saving c (s.getP p).tumOwn := by
  have pages : (((s.setTums p .idle).notice 0x60 (c.header p false false)).setOsav p true).prt = s.prt := by
    rw [State.setOsav, State.modLatches_prt, State.notice_prt, State.setTums_prt]
  refine (State.getP_modP_same _ (pages ▸ State.lt_of_ctxOf hc)).trans ?_
  rw [State.getP_eq_of_prt p pages]

theorem State.setOsav_modP_outside (s : State) (p : Nat) (f : Prt → Prt) : ((s.setOsav p true).modP p f).outside = s.outside := rfl

theorem State.notice_outside (s : State) (opc : Nat) (data : List Byte) :
    (s.notice opc data).outside = ((s.notice opc data).lnk, s.mgt, s.hbm, s.pwr.powering) := by
  rw [State.outside, State.notice_mgt, State.notice_hbm, State.notice_pwr]

theorem State.saveDone_outside {s : State} (p : Nat) (c : Ctx) :
    (s.saveDone p c).outside = ((s.notice 0x60 (c.header p false false)).lnk, s.mgt, s.hbm, s.pwr.powering) := by
  obtain ⟨m, idle⟩ := s.setTums_eq_tum p .idle
  rw [State.saveDone, State.setOsav_modP_outside, State.notice_outside, idle]
  exact congrArg (fun l => (l, s.mgt, s.hbm, s.pwr.powering)) (State.notice_lnk_congr (t := { s with tum := m }) _ _ rfl rfl)

/-- The step's job stops, another may run, and vectors that were held for the step go on (R385, R393). -/
def State.leave (s : State) (p num : Nat) : State := ((s.stopRunning p num .preempted).chooseJob p).releaseHeld p

/-- The command that finds the interim report visible. -/
theorem exec_saveComplete_visible {s : State} {p : Nat} {c d : Ctx} (hc : s.ctxOf p = some c) (phase : c.phase = .saving)
    (quiet : s.stepWrites p c.sub.sseq = false) (leaving : c.leaving = true) (visible : ∀ w ∈ s.writes, w.tag ≠ .save p)
    (hd : (s.savedOut p c).ctxOf p = some d) :
    exec (.saveComplete p) s = .next (
      if (((s.savedOut p c).saveDone p d).leave p d.job).pwr.powering then (((s.savedOut p c).saveDone p d).leave p d.job).tearSaved p 5
      else ((s.savedOut p c).saveDone p d).leave p d.job) := by
  have told : (s.writes.any fun w => w.tag == .save p) = false := List.any_eq_false.mpr fun w hw => by simpa using visible w hw
  change execSaveComplete p s = _
  rw [execSaveComplete, hc]
  dsimp only
  rw [if_neg (by simp [phase, quiet]), if_neg (by simp [leaving]), if_neg (by simp [told])]
  unfold State.savedOut at hd ⊢
  rw [hd]
  unfold State.leave State.saveDone Prt.saving
  rfl

/-- Where the device does not power down, the save ends there. -/
theorem exec_saveComplete_on {s u : State} {p : Nat} {c d : Ctx} (hc : s.ctxOf p = some c) (phase : c.phase = .saving)
    (quiet : s.stepWrites p c.sub.sseq = false) (leaving : c.leaving = true) (visible : ∀ w ∈ s.writes, w.tag ≠ .save p)
    (hd : (s.savedOut p c).ctxOf p = some d) (job : d.job = c.job) (done : (s.savedOut p c).saveDone p d = u)
    (up : (u.leave p c.job).pwr.powering = false) : exec (.saveComplete p) s = .next (u.leave p c.job) := by
  rw [exec_saveComplete_visible hc phase quiet leaving visible hd, done, job]
  exact congrArg Host.Outcome.next (if_neg (ne_true_of_eq_false up))

/-- A step that is issued is to be restored. -/
def Prt.AtRest (q : Prt) : Prop := ∀ c, q.ctx = some c → c.phase = .restore

theorem Prt.AtRest.ofSteps : Prt.OfSteps Prt.AtRest where
  same _ _ ctx _ h c hc := h c (ctx ▸ hc)
  restore _ c _ _ _ d hd := by
    obtain rfl := Option.some.inj hd
    rfl

/-- When a saved step leaves its place, whether the device powers down stays as it is. -/
theorem State.leave_pwr {s : State} {p : Nat} (num : Nat) (idle : s.ctxOf p = none) : (s.leave p num).pwr = s.pwr := by
  have steps := Prt.AtRest.ofSteps
  have turns := (s.stopRunning_turns (p := p) steps p num .preempted).trans (State.chooseJob_turns steps _ p)
  have rest : (s.getP p).AtRest := fun c hc => by
    rw [State.ctxOf] at idle
    rw [idle] at hc
    cases hc
  rw [State.leave, State.releaseHeld_pwr (State.vecFor_unchecked (turns.page rest)), turns.pwr]

/-! ### O38 -/

/-- Settles O38: the end of a step by whether its report is written, of a serve step at once; a save by whether its interim report is. -/
theorem stepsEndAndSave : Obligations.StepsEndAndSave := by
  unfold Obligations.StepsEndAndSave
  intro s p c hc
  refine ⟨fun finished alone role => ⟨?report, ?done⟩, ?serve, fun phase quiet => ⟨?interim, ?saved⟩⟩
  case report =>
    intro unwritten answered
    have none_ : (c.vecs.filter fun v => !v.answered) = [] := List.filter_eq_nil_iff.mpr fun v hv => by simp [answered v hv]
    have run := exec_stepDone_issued hc finished alone
    rw [if_neg role, if_pos unwritten, none_, List.foldl_nil] at run
    exact ⟨_, run, (State.ctxOf_eq_of_prt p (State.writeReport_prt ..)).trans (State.ctxOf_modCtx _ hc), State.writeReport_lnk ..⟩
  case done =>
    intro written credit visible _ unsaved
    have told : (s.writes.any fun w => w.tag == .report p c.sub.sseq) = false := List.any_eq_false.mpr fun w hw => by simpa using visible w hw
    have run := exec_stepDone_issued hc finished alone
    rw [if_neg role, if_neg (by simp [written]), if_neg (by simp [told, credit]), State.stepEnd_eq] at run
    have vacant : (((s.releaseStep p c).notice 0x60 (s.finalHeader p c)).getP p).Vacant := by
      rw [State.getP_eq_of_prt p (State.notice_prt ..)]
      exact State.releaseStep_vacant hc unsaved
    exact ⟨_, run, State.afterReport_vacant _ _ vacant⟩
  case serve =>
    intro finished alone role
    exact ⟨(exec_stepDone_issued hc finished alone).trans (congrArg _ (if_pos role)), State.releaseStep_ctxOf s p c⟩
  case interim =>
    intro staying
    refine ⟨(s.modCtx p fun _ => { c with npre := c.npre + 1, leaving := true }).writeReport p
      { c with npre := c.npre + 1, leaving := true } false (.save p),
      ?_, (State.ctxOf_eq_of_prt p (State.writeReport_prt ..)).trans (State.ctxOf_modCtx _ hc)⟩
    change execSaveComplete p s = _
    rw [execSaveComplete, hc]
    dsimp only
    rw [if_neg (by simp [phase, quiet]), if_pos staying]
  case saved =>
    intro leaving visible on
    obtain ⟨e, he, own, outside⟩ := State.savedOut_eq hc
    obtain ⟨lnk, rest⟩ := Prod.mk.inj outside
    obtain ⟨mgt, rest⟩ := Prod.mk.inj rest
    obtain ⟨hbm, powering⟩ := Prod.mk.inj rest
    obtain ⟨u, done⟩ : ∃ u, (s.savedOut p c).saveDone p { c with eng := e } = u := ⟨_, rfl⟩
    have outside' := State.saveDone_outside (s := s.savedOut p c) p { c with eng := e }
    have page := State.saveDone_page he
    rw [done] at outside' page
    obtain ⟨lnk', rest'⟩ := Prod.mk.inj outside'
    obtain ⟨mgt', rest'⟩ := Prod.mk.inj rest'
    obtain ⟨hbm', powering'⟩ := Prod.mk.inj rest'
    have idle : u.ctxOf p = none := congrArg Prt.ctx page
    have up : (u.leave p c.job).pwr.powering = false := by rw [State.leave_pwr _ idle, powering', powering, on]
    refine ⟨u, _, e, exec_saveComplete_on (d := { c with eng := e }) hc phase quiet leaving visible he rfl done up, congrArg Prt.saved page, idle,
      congrArg Prt.svCtx page, rfl, own, rfl, rfl, rfl, hbm'.trans hbm, ?_⟩
    exact lnk'.trans (State.notice_lnk_congr _ _ lnk mgt)

end Sys2Proof.Machine
end

section
/-! PROOF. `OPT_STEP` and `QUANT_PUBLISH` (R262–R270): the records that a list gives, a tile of the optimizer, an adapter that is handed to
the commit engine, and the obligation. -/

namespace Sys2Proof.Machine

open Sys2Proof

/-! ### Lists and their records -/

theorem State.startList_reached {p i : Nat} {c : Ctx} (s : State) (h : (nth c.recs i freshRec).reached = true) : s.startList p i c = (true, s) :=
  if_pos h

theorem State.theList_eq {s : State} {p : Nat} {c : Ctx} (i : Nat) (hc : s.ctxOf p = some c) :
    s.theList p i = (nth c.recs i freshRec).list := by rw [State.theList, hc]; rfl

/-- The context with a list record of instruction i more. -/
def Ctx.addList (c : Ctx) (i : Nat) (x : ListRec) : Ctx :=
  { c with lists := c.lists ++ [{ x with mi := i }], recs := modNth c.recs i fun r => { r with lcount := r.lcount + 1 } }

theorem State.addList_eq (s : State) (p i : Nat) (x : ListRec) : s.addList p i x = s.modCtx p fun c => c.addList i x :=
  State.modCtx_modCtx ..

/-- The context with instruction i one place on in its list. -/
def Ctx.goOn (c : Ctx) (i : Nat) : Ctx := { c with recs := modNth c.recs i fun r => { r with pos := r.pos + 1 } }

theorem Ctx.goOn_pos {c : Ctx} {i : Nat} (hi : i < c.recs.length) :
    (nth (c.goOn i).recs i freshRec).pos = (nth c.recs i freshRec).pos + 1 := by
  rw [Ctx.goOn, nth_modNth_same _ _ hi]

theorem Ctx.addList_goOn_pos {c : Ctx} {i : Nat} (x : ListRec) (hi : i < c.recs.length) :
    (nth ((c.addList i x).goOn i).recs i freshRec).pos = (nth c.recs i freshRec).pos + 1 := by
  rw [Ctx.goOn_pos (by simpa [Ctx.addList] using hi), Ctx.addList, nth_modNth_same _ _ hi]

/-- An instruction of a list that adds a record and goes on: what becomes of its step. -/
theorem State.addList_goOn {s : State} {p i : Nat} {c : Ctx} (x : ListRec) (hc : s.ctxOf p = some c) :
    ((s.addList p i x).modRec p i fun r => { r with pos := r.pos + 1 }).ctxOf p = some ((c.addList i x).goOn i) := by
  rw [State.addList_eq]
  exact State.ctxOf_modCtx _ (State.ctxOf_modCtx _ hc)

/-! ### `OPT_STEP` -/

/-- What the tile of an open update adds to its record. -/
def ListRec.counted (k : Cnt) (x : ListRec) : ListRec :=
  { x with cnt := sat32 (x.cnt + k.nonfin), nonfin := sat32 (x.nonfin + k.nonfin), satAcc := sat32 (x.satAcc + k.satAcc) }

/-- The record of an update that has ended. -/
def ListRec.updated (epoch : Nat) (x : ListRec) : ListRec := { x with status := .ok, epoch := epoch }

/-- The tile that an open update is at. -/
def State.tileOf (s : State) (e : Entry) (m : Master) (r : Round) : Master × Cnt :=
  optTile e m r (e.projs.map s.shape) r.mark (r.mark + optTileSize)

/-- The context after a tile. -/
def Ctx.tiled (c : Ctx) (aid : Nat) (k : Cnt) : Ctx := { c with lists := updFirst c.lists (·.openOpt aid) (ListRec.counted k) }

/-- The context after an update's last tile. -/
def Ctx.updated (c : Ctx) (i aid epoch : Nat) (k : Cnt) : Ctx :=
  { (c.tiled aid k).goOn i with lists := updFirst (c.tiled aid k).lists (·.openOpt aid) (ListRec.updated epoch) }

/-- Contribution slots are released without a change of the directory or of a page. -/
theorem State.releaseSlots_keeps (aid : Nat) (l : List Contrib) (s : State) (p : Nat) :
    (l.foldl (fun (s : State) c => s.modCab fun b => b.release (.contrib aid c.slot)) s).entry p = s.entry p
    ∧ (l.foldl (fun (s : State) c => s.modCab fun b => b.release (.contrib aid c.slot)) s).prt = s.prt := by
  induction l generalizing s with
  | nil => exact ⟨rfl, rfl⟩
  | cons c l ih => exact ⟨(ih _).1, (ih _).2⟩

variable {s : State} {p i aid : Nat} {c : Ctx} {e : Entry} {m : Master} {r : Round}

/-- What an update writes into its entry after a tile that is not the last. -/
def Round.tiled (r : Round) (m : Master) (e : Entry) : Entry := { e with master := some m, round := some { r with mark := r.mark + optTileSize } }

/-- What an update writes into its entry after its last tile. -/
def Round.ended (r : Round) (m : Master) (o : OptRec) (e : Entry) : Entry :=
  { e with master := some { m with opt := { o with t := o.t + 1 } }, round := none, target := r.target, dirty := true }

theorem State.optRun_tile (he : s.entry aid = some e) (hm : e.master = some m) (hr : e.round = some r) (more : r.mark + optTileSize < m.size) :
    (s.optRun p i aid).entry aid = some (r.tiled (s.tileOf e m r).1 e) := by
  have run : s.optRun p i aid = (s.modCtx p fun c => c.tiled aid (s.tileOf e m r).2).modEntry aid (r.tiled (s.tileOf e m r).1) := by
    simp only [State.optRun, he, hm, hr, if_pos more]
    rfl
  rw [run, State.entry_modEntry (f := r.tiled (s.tileOf e m r).1) aid aid fun _ => rfl, if_pos rfl]
  exact congrArg (Option.map _) he

theorem State.optRun_last (hc : s.ctxOf p = some c) (he : s.entry aid = some e) (hm : e.master = some m) (hr : e.round = some r)
    (last : m.size ≤ r.mark + optTileSize) :
    (s.optRun p i aid).entry aid = some (r.ended (s.tileOf e m r).1 m.opt e)
    ∧ (s.optRun p i aid).ctxOf p = some (c.updated i aid r.target (s.tileOf e m r).2) := by
  let f := r.ended (s.tileOf e m r).1 m.opt
  let u := (s.modCtx p fun c => c.tiled aid (s.tileOf e m r).2).modEntry aid f
  let v := r.contribs.foldl (fun (s : State) c => s.modCab fun b => b.release (.contrib aid c.slot)) u
  have run : s.optRun p i aid = (v.modCtx p fun c => { c with lists := updFirst c.lists (·.openOpt aid) (ListRec.updated r.target) }).modCtx p
      fun c => c.goOn i := by
    simp only [State.optRun, he, hm, hr, if_neg (Nat.not_lt.mpr last)]
    rfl
  obtain ⟨entries, pages⟩ := State.releaseSlots_keeps aid r.contribs u aid
  have hv : v.ctxOf p = some (c.tiled aid (s.tileOf e m r).2) := (State.ctxOf_eq_of_prt p pages).trans (State.ctxOf_modCtx _ hc)
  rw [run]
  refine ⟨entries.trans ?_, State.ctxOf_modCtx _ (State.ctxOf_modCtx _ hv)⟩
  rw [State.entry_modEntry (f := f) aid aid fun _ => rfl, if_pos rfl]
  exact congrArg (Option.map f) he

/-- The record of an update that ends is among the records. -/
theorem Ctx.updated_record {epoch : Nat} (k : Cnt) (opened : c.lists.any (·.openOpt aid) = true) :
    ∃ x ∈ (c.updated i aid epoch k).lists, x.aid = aid ∧ x.kind = 1 ∧ x.status = .ok ∧ x.epoch = epoch := by
  obtain ⟨x, found⟩ := Option.isSome_iff_exists.mp (List.find?_isSome.mpr (List.any_eq_true.mp opened))
  have still : (c.tiled aid k).lists.find? (·.openOpt aid) = some (x.counted k) := by
    exact (updFirst_find? c.lists _ (ListRec.counted k) fun _ => rfl).trans (congrArg _ found)
  have here := List.find?_some found
  simp only [ListRec.openOpt, Bool.and_eq_true, beq_iff_eq] at here
  obtain ⟨⟨kind, aid⟩, -⟩ := here
  exact ⟨_, mem_updFirst_of_find? (ListRec.updated epoch) still, aid, kind, rfl, rfl⟩

theorem exec_optStep_end (h : s.serialAt p 0x30 = some (c, i)) (reached : (nth c.recs i freshRec).reached = true)
    (behind : (nth c.recs i freshRec).list[(nth c.recs i freshRec).pos]? = none) : exec (.optStep p) s = .next (s.serialDone p i) := by
  change execOptStep p s = _
  simp only [execOptStep, h, State.startList_reached s reached, State.theList_eq i (State.serialAt_spec h).1, behind, Bool.true_eq_false, if_false]

theorem exec_optStep_passes {x : ListRec} (h : s.serialAt p 0x30 = some (c, i)) (reached : (nth c.recs i freshRec).reached = true)
    (here : (nth c.recs i freshRec).list[(nth c.recs i freshRec).pos]? = some aid) (idle : c.lists.any (·.openOpt aid) = false)
    (pass : s.optPass p aid = some x) :
    exec (.optStep p) s = .next ((s.addList p i x).modRec p i fun r => { r with pos := r.pos + 1 }) := by
  change execOptStep p s = _
  simp only [execOptStep, h, State.startList_reached s reached, State.theList_eq i (State.serialAt_spec h).1, here, idle, pass,
    Bool.true_eq_false, Bool.false_eq_true, if_false]

theorem exec_optStep_opened (h : s.serialAt p 0x30 = some (c, i)) (reached : (nth c.recs i freshRec).reached = true)
    (here : (nth c.recs i freshRec).list[(nth c.recs i freshRec).pos]? = some aid) (opened : c.lists.any (·.openOpt aid) = true) :
    exec (.optStep p) s = .next (s.hbmWork.optRun p i aid) := by
  change execOptStep p s = _
  simp only [execOptStep, h, State.startList_reached s reached, State.theList_eq i (State.serialAt_spec h).1, here, opened,
    Bool.true_eq_false, if_false, if_true]

/-! ### `QUANT_PUBLISH` -/

theorem exec_quantPublish_end (h : s.serialAt p 0x31 = some (c, i)) (reached : (nth c.recs i freshRec).reached = true)
    (behind : (nth c.recs i freshRec).list[(nth c.recs i freshRec).pos]? = none) :
    exec (.quantPublish p) s = .next (if c.lists.any (fun x => x.kind == 2 && x.status == .deferred) then s else s.serialDone p i) := by
  change execQuantPublish p s = _
  simp only [execQuantPublish, h, State.startList_reached s reached, State.theList_eq i (State.serialAt_spec h).1, behind,
    Bool.true_eq_false, if_false]

theorem exec_quantPublish_one (h : s.serialAt p 0x31 = some (c, i)) (reached : (nth c.recs i freshRec).reached = true)
    (here : (nth c.recs i freshRec).list[(nth c.recs i freshRec).pos]? = some aid) :
    exec (.quantPublish p) s = .next ((s.hbmWork.publishOne p i c.sub.sseq aid).modRec p i fun r => { r with pos := r.pos + 1 }) := by
  change execQuantPublish p s = _
  simp only [execQuantPublish, h, State.startList_reached s reached, State.theList_eq i (State.serialAt_spec h).1, here,
    Bool.true_eq_false, if_false]

/-- A range that is charged: what was asked had room, and it is the lowest free one (R280, R281). -/
theorem State.charge_some {len g : Nat} {o : CabObj} {v : State} (h : s.charge p len o = (some g, v)) :
    s.cabUse p + len ≤ (s.getP p).cabQuota.toNat ∧ lowestFree len s.cab.exportBase 0 s.cab.extents = some g := by
  unfold State.charge at h
  split at h
  next quota =>
    split at h
    next free =>
      cases h
      exact ⟨quota, free⟩
    next => cases h
  next => cases h

/-- An adapter that is ready to publish: its new blob lies in HBM and its candidate is with the engine, all beside the step. -/
theorem State.publishOne_lands {sseq g : Nat} {bs : List Byte} (good : badEntry aid = none) (he : s.entry aid = some e)
    (hm : e.master = some m) (owned : e.owned = true) (home : e.home = p) (sound : e.badMaster = false) (dirty : e.dirty = true)
    (closed : e.round = none) (free : e.frozen = false)
    (quota : s.cabUse p + ceilDiv (pubSize e (e.projs.map s.shape)) granule ≤ (s.getP p).cabQuota.toNat)
    (lowest : lowestFree (ceilDiv (pubSize e (e.projs.map s.shape)) granule) s.cab.exportBase 0 s.cab.extents = some g)
    (blob : (publishBlob e m (e.projs.map s.shape) e.alpha e.tau e.tau e.target s.pol.pubMinor.toNat).1 = some bs) :
    ∃ (t : State) (x : Candidate) (y : ListRec), s.publishOne p i sseq aid = t.addList p i y ∧ t.prt = s.prt
      ∧ t.hbm = Memory.writeN s.hbm (gAddr g) bs ∧ t.cab.cands.length = s.cab.cands.length + 1 ∧ x ∈ t.cab.cands
      ∧ x.aid = aid ∧ x.kind = 2 ∧ x.target = e.target ∧ x.base = g ∧ x.blen = bs.length ∧ x.since = s.now
      ∧ y.aid = aid ∧ y.kind = 2 ∧ y.status = .deferred ∧ y.epoch = e.target := by
  simp only [State.publishOne, good, he, hm, owned, home, sound, dirty, closed, free, State.charge_ok _ quota lowest, Option.isSome_none,
    ne_eq, not_true_eq_false, Bool.true_eq_false, Bool.false_eq_true, or_false, if_false, State.modEntry, State.modCab_pol, blob]
  obtain ⟨l, filed, len, mem⟩ := State.candidate_eq _ _
  exact ⟨_, _, _, rfl, (congrArg State.prt filed :), (congrArg State.hbm filed :), by rw [filed]; exact len, by rw [filed]; exact mem,
    rfl, rfl, rfl, rfl, rfl, rfl, rfl, rfl, rfl, rfl⟩

/-- Settles O31: at its place each instruction does one piece of its list's work, by what it finds of the adapter at the position. -/
theorem learnersUpdateAndPublish : Obligations.LearnersUpdateAndPublish := by
  unfold Obligations.LearnersUpdateAndPublish
  intro s p c i hi reached
  dsimp only
  refine ⟨fun at_opt => ⟨fun behind => ?_, fun aid x here idle pass => ?_, fun aid e m r here opened he hm hr => ⟨fun more => ?_, fun last => ?_⟩⟩,
    fun at_pub => ⟨fun behind ended => ?_, fun behind busy => ?_, fun aid e m g v bs here good he hm owned home sound dirty closed free room blob => ?_⟩⟩
  · obtain ⟨u, done, passed, others⟩ := State.serialDone_passed (State.serialAt_spec at_opt).1 hi
    exact ⟨u, by rw [exec_optStep_end at_opt reached behind, done], passed, others⟩
  · exact ⟨_, _, exec_optStep_passes at_opt reached here idle pass, rfl, State.addList_goOn x (State.serialAt_spec at_opt).1, rfl,
      Ctx.addList_goOn_pos x hi⟩
  · obtain ⟨w, k, n, worked⟩ := s.hbmWork_worked
    rw [exec_optStep_opened at_opt reached here opened, worked]
    exact ⟨_, rfl, State.optRun_tile he hm hr more⟩
  · obtain ⟨w, k, n, worked⟩ := s.hbmWork_worked
    rw [exec_optStep_opened at_opt reached here opened, worked]
    obtain ⟨entry, ctx⟩ := State.optRun_last (s := { s with pwr := { s.pwr with wakes := w }, hbmStk := k, freeCtr := n }) (i := i)
      (State.serialAt_spec at_opt).1 he hm hr last
    exact ⟨_, _, rfl, entry, ctx, Ctx.goOn_pos (c := c.tiled aid _) hi, Ctx.updated_record _ opened⟩
  · have none_open : c.lists.any (fun x => x.kind == 2 && x.status == .deferred) = false :=
      List.any_eq_false.mpr fun x hx => by simpa using ended x hx
    obtain ⟨u, done, passed, others⟩ := State.serialDone_passed (State.serialAt_spec at_pub).1 hi
    exact ⟨u, by rw [exec_quantPublish_end at_pub reached behind, none_open, if_neg Bool.false_ne_true, done], passed, others⟩
  · have open_ : c.lists.any (fun x => x.kind == 2 && x.status == .deferred) = true :=
      List.any_eq_true.mpr (by simpa using busy)
    rw [exec_quantPublish_end at_pub reached behind, open_, if_pos rfl]
  · obtain ⟨quota, lowest⟩ := State.charge_some room
    obtain ⟨w, k, n, worked⟩ := s.hbmWork_worked
    obtain ⟨t, x, y, run, pages, hbm, len, mem, hx⟩ := State.publishOne_lands
      (s := { s with pwr := { s.pwr with wakes := w }, hbmStk := k, freeCtr := n }) (i := i) (sseq := c.sub.sseq)
      good he hm owned home sound dirty closed free quota lowest blob
    obtain ⟨aid', kind, target, base, blen, since, aid'', kind', status, epoch⟩ := hx
    rw [exec_quantPublish_one at_pub reached here, worked, run]
    have ctx : t.ctxOf p = some c := (State.ctxOf_eq_of_prt p pages).trans (State.serialAt_spec at_pub).1
    exact ⟨_, _, x, rfl, hbm, mem, len, aid', kind, target, base, blen, since, State.addList_goOn y ctx, Ctx.addList_goOn_pos y hi,
      { y with mi := i }, List.mem_append_right _ (List.mem_singleton.mpr rfl), aid'', kind', status, epoch⟩

end Sys2Proof.Machine
end

section
/-! PROOF. Reductions (R251, R252): what each matrix adds to a gradient drawer, the walk over the matrices of a drawer, and the commands of
`POOL_SUM` and `POOL_MEAN`. -/

namespace Sys2Proof.Machine

open Sys2Proof

/-! ### Gradient drawers -/

/-- The gradient drawer of partition p for an adapter and a base epoch. -/
def State.gradOf (s : State) (p aid base : Nat) : Option GradDrawer :=
  s.cab.grads.find? fun g => g.part == p && g.aid == aid && g.base == base

theorem State.gradOf_modGrad (s : State) (p aid base : Nat) {f : GradDrawer → GradDrawer}
    (key : ∀ g, (f g).part = g.part ∧ (f g).aid = g.aid ∧ (f g).base = g.base) :
    (s.modGrad p aid base f).gradOf p aid base = (s.gradOf p aid base).map f :=
  updFirst_find? s.cab.grads _ f fun g => by
    obtain ⟨part, aid, base⟩ := key g
    rw [part, aid, base]

/-- Matrix m of a gradient drawer. -/
def State.gradMat (s : State) (p aid base m : Nat) : List Nat :=
  match s.gradOf p aid base with
  | some g => nth g.data m []
  | none => []

theorem State.gradMat_of {s : State} {p aid base : Nat} {g : GradDrawer} (m : Nat) (h : s.gradOf p aid base = some g) :
    s.gradMat p aid base m = nth g.data m [] := by rw [State.gradMat, h]

/-- The gradient drawer with x as matrix m; one to which nothing has been added first gets its n matrices. -/
def GradDrawer.put (n m : Nat) (x : List Nat) (g : GradDrawer) : GradDrawer :=
  { g with filled := true, data := modNth (if g.data.isEmpty then List.replicate n [] else g.data) m fun _ => x }

theorem GradDrawer.put_length {n : Nat} {g : GradDrawer} (m : Nat) (x : List Nat) (h : g.data = [] ∨ g.data.length = n) :
    (g.put n m x).data.length = n := by
  rw [GradDrawer.put, modNth_length]
  split
  · exact List.length_replicate
  · next filled => exact h.resolve_left fun e => filled (List.isEmpty_iff.mpr e)

/-- A list of n matrices of which none has anything reads as an empty one. -/
theorem nth_padded (l : List (List Nat)) (n m : Nat) : nth (if l.isEmpty then List.replicate n [] else l) m [] = nth l m [] := by
  cases l with
  | nil => simp [nth, List.getD_eq_getElem?_getD, List.getElem?_replicate, apply_ite (Option.getD · ([] : List Nat))]
  | cons x l => rfl

theorem GradDrawer.nth_put {n m : Nat} {g : GradDrawer} (x : List Nat) (h : g.data = [] ∨ g.data.length = n) (hm : m < n) (j : Nat) :
    nth (g.put n m x).data j [] = if j = m then x else nth g.data j [] := by
  have size := g.put_length m x h
  rw [GradDrawer.put, modNth_length] at size
  rw [GradDrawer.put, nth_modNth, size, nth_padded]
  by_cases hj : j = m
  · rw [if_pos ⟨hj, hj ▸ hm⟩, if_pos hj]
  · rw [if_neg fun e => hj e.1, if_neg hj]

/-- The partials of matrix m of a drawer. -/
def Ctx.partials (c : Ctx) (k m : Nat) : List GPartial :=
  c.parts.filter fun y => y.drw == k && y.proj == nth (c.drw k).projs (m / 2) 0 && y.isB == (m % 2 == 1)

/-- What matrix m of a drawer holds once its partials are added. -/
def Ctx.pooled (c : Ctx) (k alphaR div m : Nat) (old : List Nat) : List Nat :=
  if c.partials k m = [] then old else (gradAdd old (poolMat (c.partials k m) (m % 2 == 1) alphaR div).1).1

/-- The reduction of one matrix of a drawer into its gradient drawer. -/
def State.poolMatrix (p k : Nat) (c : Ctx) (alphaR div : Nat) (s : State) (m : Nat) : State :=
  if (c.partials k m).isEmpty then s
  else
    let r := poolMat (c.partials k m) (m % 2 == 1) alphaR div
    let a := gradAdd (s.gradMat p (c.drw k).aid (c.drw k).epoch m) r.1
    (s.modGrad p (c.drw k).aid (c.drw k).epoch (GradDrawer.put (2 * (c.drw k).projs.length) m a.1)).addGrad p k (r.2 + a.2)

/-- The walk over a drawer's matrices has come to matrix M: the gradient drawer g holds what the M first give, and what it held of
the others. -/
structure State.Pooling (s : State) (p k : Nat) (c : Ctx) (alphaR div : Nat) (g : GradDrawer) (M : Nat) (t : State) : Prop where
  rest : { t with prt := s.prt, cab := s.cab } = s
  ctx : ∃ c', t.ctxOf p = some c' ∧ c'.recs = c.recs
  grad : ∃ g', t.gradOf p (c.drw k).aid (c.drw k).epoch = some g' ∧ (g'.data = [] ∨ g'.data.length = 2 * (c.drw k).projs.length)
    ∧ ∀ m, nth g'.data m [] = if m < M then c.pooled k alphaR div m (nth g.data m []) else nth g.data m []

variable {s t : State} {p k i M alphaR div : Nat} {c : Ctx} {g : GradDrawer}

theorem State.Pooling.step (h : s.Pooling p k c alphaR div g M t) (hM : M < 2 * (c.drw k).projs.length) :
    s.Pooling p k c alphaR div g (M + 1) (t.poolMatrix p k c alphaR div M) := by
  obtain ⟨rest, ⟨c', hc, recs⟩, g', found, len, reads⟩ := h
  have here : nth g'.data M [] = nth g.data M [] := by rw [reads, if_neg (Nat.lt_irrefl M)]
  unfold State.poolMatrix
  split
  next none =>
    refine ⟨rest, ⟨c', hc, recs⟩, g', found, len, fun m => ?_⟩
    rw [reads]
    rcases Nat.lt_trichotomy m M with lt | rfl | gt
    · rw [if_pos lt, if_pos (by omega)]
    · rw [if_neg (Nat.lt_irrefl m), if_pos (Nat.lt_succ_self m), Ctx.pooled, if_pos (List.isEmpty_iff.mp none)]
    · rw [if_neg (by omega), if_neg (by omega)]
  next some =>
    refine ⟨rest, ⟨_, State.ctxOf_modCtx _ hc, recs⟩, _,
      (State.gradOf_modGrad t p _ _ (f := GradDrawer.put _ M _) fun _ => ⟨rfl, rfl, rfl⟩).trans (congrArg _ found),
      .inr (GradDrawer.put_length M _ len), fun m => ?_⟩
    rw [GradDrawer.nth_put _ len hM, reads, State.gradMat_of M found, here]
    rcases Nat.lt_trichotomy m M with lt | rfl | gt
    · rw [if_neg (by omega), if_pos lt, if_pos (by omega)]
    · rw [if_pos rfl, if_pos (Nat.lt_succ_self m), Ctx.pooled, if_neg fun e => some (List.isEmpty_iff.mpr e)]
    · rw [if_neg (by omega), if_neg (by omega), if_neg (by omega)]

theorem State.Pooling.foldl (h : s.Pooling p k c alphaR div g 0 t) (n : Nat) (hn : n ≤ 2 * (c.drw k).projs.length) :
    s.Pooling p k c alphaR div g n ((List.range n).foldl (State.poolMatrix p k c alphaR div) t) := by
  induction n with
  | zero => exact h
  | succ n ih =>
    rw [List.range_succ, List.foldl_append]
    exact (ih (Nat.le_of_succ_le hn)).step hn

/-- `alpha / r` of a drawer's version. -/
def State.alphaOf (s : State) (d : Drawer) : Nat := ((s.wmat d (d.projs.headD 0) true).map (·.2.2.alphaR)).getD 0

/-- The divisor of a reduction (R251). -/
def Ctx.divOf (c : Ctx) (i k : Nat) (mean : Bool) : Nat :=
  if mean = false then 0 else if (c.mi i).flag then (c.drw k).slots.length else (c.drw k).nvec

theorem State.poolDrawer_eq (s : State) (mean : Bool) (sound : ∀ sl ∈ (c.drw k).slots, c.posOk sl = true) :
    s.poolDrawer p i k c mean = (List.range (2 * (c.drw k).projs.length)).foldl
      (State.poolMatrix p k c (s.alphaOf (c.drw k)) (c.divOf i k mean))
      (s.modGrad p (c.drw k).aid (c.drw k).epoch fun g => { g with homeWrite := false }) := by
  have kept : ((c.drw k).slots.any fun sl => !c.posOk sl) = false := List.any_eq_false.mpr fun sl hsl => by simp [sound sl hsl]
  rw [State.poolDrawer, kept]
  rfl

/-! ### The commands of a reduction -/

theorem State.homeWrite_keeps (s : State) (p : Nat) (c : Ctx) (n : Nat) : { s.homeWrite p c n with cab := s.cab } = s := by
  unfold State.homeWrite
  split
  · split <;> rfl
  · rfl

theorem State.pool_none {op : Nat} {mean : Bool} (h : s.serialAt p op = some (c, i)) (fresh : (nth c.recs i freshRec).reached = false)
    (empty : c.reduced = []) : s.pool p op mean = s.serialDone p i := by
  simp only [State.pool, h, fresh, empty, if_true, List.isEmpty_nil]

theorem State.pool_begins {op : Nat} {mean : Bool} (h : s.serialAt p op = some (c, i)) (fresh : (nth c.recs i freshRec).reached = false)
    (drawers : c.reduced ≠ []) : s.pool p op mean = (s.modRec p i fun r => { r with reached := true }).homeWrite p c 0 := by
  simp only [State.pool, h, fresh, List.isEmpty_iff, drawers, if_true, if_false]

theorem State.pool_adds {op : Nat} {mean : Bool} (h : s.serialAt p op = some (c, i)) (reached : (nth c.recs i freshRec).reached = true)
    (here : (c.reduced)[(nth c.recs i freshRec).pos]? = some k) :
    s.pool p op mean =
      let u := (s.poolDrawer p i k c mean).modRec p i fun r => { r with pos := r.pos + 1 }
      if (nth c.recs i freshRec).pos + 1 < c.reduced.length then u.homeWrite p c ((nth c.recs i freshRec).pos + 1) else u.serialDone p i := by
  simp only [State.pool, h, reached, here, Bool.true_eq_false, if_false]

/-- A reduction takes up one drawer after the other, and the drawer's gradient drawer gets each matrix's sum. -/
theorem State.pool_reduces {op : Nat} (mean : Bool) (h : s.serialAt p op = some (c, i)) (hi : i < c.recs.length)
    (reached : (nth c.recs i freshRec).reached = true) (here : (c.reduced)[(nth c.recs i freshRec).pos]? = some k)
    (sound : ∀ sl ∈ (c.drw k).slots, c.posOk sl = true) (found : s.gradOf p (c.drw k).aid (c.drw k).epoch = some g)
    (len : g.data = [] ∨ g.data.length = 2 * (c.drw k).projs.length) :
    ∃ (u : State) (c' : Ctx) (g' : GradDrawer),
      s.pool p op mean = (if (nth c.recs i freshRec).pos + 1 < c.reduced.length then u.homeWrite p c ((nth c.recs i freshRec).pos + 1)
        else u.serialDone p i)
      ∧ { u with prt := s.prt, cab := s.cab } = s ∧ u.ctxOf p = some c'
      ∧ (nth c'.recs i freshRec).pos = (nth c.recs i freshRec).pos + 1
      ∧ u.gradOf p (c.drw k).aid (c.drw k).epoch = some g'
      ∧ ∀ m, m < 2 * (c.drw k).projs.length →
        nth g'.data m [] = c.pooled k (s.alphaOf (c.drw k)) (c.divOf i k mean) m (nth g.data m []) := by
  have start : s.Pooling p k c (s.alphaOf (c.drw k)) (c.divOf i k mean) g 0
      (s.modGrad p (c.drw k).aid (c.drw k).epoch fun g => { g with homeWrite := false }) :=
    ⟨rfl, ⟨c, (State.serialAt_spec h).1, rfl⟩, _,
      (State.gradOf_modGrad s p _ _ (f := fun g => { g with homeWrite := false }) fun _ => ⟨rfl, rfl, rfl⟩).trans (congrArg _ found),
      len, fun _ => rfl⟩
  obtain ⟨rest, ⟨c', hc, recs⟩, g', found', -, reads⟩ := start.foldl _ le_rfl
  rw [State.pool_adds h reached here, State.poolDrawer_eq s mean sound]
  refine ⟨_, _, g', rfl, rest, State.ctxOf_modCtx _ hc, ?_, found', fun m hm => (reads m).trans (if_pos hm)⟩
  rw [nth_modNth_same _ _ (recs ▸ hi), recs]

/-- A reduction that has drawers begins with the first. -/
theorem State.pool_begun {op : Nat} {mean : Bool} (h : s.serialAt p op = some (c, i)) (hi : i < c.recs.length)
    (fresh : (nth c.recs i freshRec).reached = false) (drawers : c.reduced ≠ []) :
    { s.pool p op mean with prt := s.prt, cab := s.cab } = s
    ∧ ∃ c', (s.pool p op mean).ctxOf p = some c' ∧ nth c'.recs i freshRec = { nth c.recs i freshRec with reached := true } := by
  have kept := State.homeWrite_keeps (s.modRec p i fun r => { r with reached := true }) p c 0
  rw [State.pool_begins h fresh drawers]
  exact ⟨(congrArg (fun t : State => { t with prt := s.prt, cab := s.cab }) kept :), _,
    (State.ctxOf_eq_of_prt p (congrArg State.prt kept :)).trans (State.ctxOf_modCtx _ (State.serialAt_spec h).1), nth_modNth_same _ _ hi⟩

/-! ### Shipments (R254–R260) -/

/-- The record of a shipment that has no status yet. -/
def ListRec.shipping (aid base : Nat) (r : ListRec) : Bool := r.kind == 3 && r.aid == aid && r.epoch == base && r.status == .deferred

/-- A step's records once a shipment has its status. -/
def Ctx.shipped (c : Ctx) (aid base : Nat) (st : Status) : Ctx :=
  { c with lists := updFirst c.lists (ListRec.shipping aid base) fun r => { r with status := st } }

/-- Where only the last of a list passes a test, it is the one that is replaced. -/
theorem updFirst_last {α : Type} {l : List α} {x : α} {t : α → Bool} (f : α → α) (before : ∀ y ∈ l, t y = false) (last : t x = true) :
    updFirst (l ++ [x]) t f = l ++ [f x] := by
  induction l with
  | nil => exact if_pos last
  | cons y l ih =>
    have miss : ¬ t y = true := by simp [before y (List.mem_cons_self ..)]
    rw [List.cons_append, updFirst, if_neg miss, ih fun z hz => before z (List.mem_cons_of_mem _ hz), List.cons_append]

/-- The record that ship order entered last gets the shipment's status. -/
theorem Ctx.shipped_addList {c : Ctx} (i aid base : Nat) (st : Status) (settled : ∀ r ∈ c.lists, r.kind = 3 → r.status ≠ .deferred) :
    ((c.addList i (listRec aid .deferred 3 base)).shipped aid base st).lists = c.lists ++ [{ listRec aid st 3 base with mi := i }] := by
  refine updFirst_last _ (fun r hr => ?_) (by simp [ListRec.shipping, listRec])
  rw [ListRec.shipping, Bool.and_eq_false_iff, beq_eq_false_iff_ne]
  by_cases kind : r.kind = 3
  · exact .inr (settled r hr kind)
  · exact .inl (by simp [kind])

/-- The pages and the power-down records once a shipment has its status. -/
def State.shipMarked (s : State) (p sseq aid base : Nat) (st : Status) : State :=
  let upd (x : Ctx) : Ctx := if x.sub.sseq = sseq then x.shipped aid base st else x
  { s with
    prt := modNth s.prt p fun q => { q with ctx := q.ctx.map upd, svCtx := q.svCtx.map upd, finals := q.finals.map upd }
    pwr := { s.pwr with pdLists := updFirst s.pwr.pdLists (fun e => e.1 == p && e.2.shipping aid base) fun e => (e.1, { e.2 with status := st }) } }

theorem State.shipDone_eq (s : State) (p sseq aid base : Nat) (st : Status) :
    s.shipDone p sseq aid base st =
      if st = .ok ∨ st = .adapterUnknown ∨ st = .versionGone ∨ (s.pwr.pdLists.any fun e => e.1 == p && e.2.shipping aid base) = true then
        (s.shipMarked p sseq aid base st).dropGrad p aid base
      else s.shipMarked p sseq aid base st := rfl

theorem State.ctxOf_shipMarked {sseq aid base : Nat} {st : Status} (hc : s.ctxOf p = some c) (own : c.sub.sseq = sseq) :
    (s.shipMarked p sseq aid base st).ctxOf p = some (c.shipped aid base st) := by
  have page : (s.getP p).ctx = some c := hc
  refine (congrArg Prt.ctx (State.getP_modP_same _ (State.lt_of_ctxOf hc))).trans ?_
  simp only [page, Option.map_some, own, if_true]

/-- What a shipment with its status leaves: the step's records say it, and the directory stays. -/
theorem State.shipDone_leaves {sseq aid base : Nat} (st : Status) (hc : s.ctxOf p = some c) (own : c.sub.sseq = sseq) :
    (s.shipDone p sseq aid base st).ctxOf p = some (c.shipped aid base st)
    ∧ ∀ a, (s.shipDone p sseq aid base st).entry a = s.entry a := by
  have marked := State.ctxOf_shipMarked (aid := aid) (base := base) (st := st) hc own
  rw [State.shipDone_eq]
  split
  · exact ⟨marked, fun _ => rfl⟩
  · exact ⟨marked, fun _ => rfl⟩

/-- A shipment that ends OK takes the gradient drawer away (R257). -/
theorem State.shipDone_ok_gone (sseq aid base : Nat) {x : GradDrawer} (hx : x ∈ (s.shipDone p sseq aid base .ok).cab.grads)
    (part : x.part = p) (same : x.aid = aid) : x.base ≠ base := by
  rw [State.shipDone_eq, if_pos (.inl rfl)] at hx
  obtain ⟨-, kept⟩ := List.mem_filter.mp hx
  intro eq
  simp [part, same, eq] at kept

/-- One whose format is not shipped is kept, but for power-down (R260, R274). -/
theorem State.shipDone_kept (sseq aid base : Nat) (up : ∀ e ∈ s.pwr.pdLists, e.1 ≠ p) :
    (s.shipDone p sseq aid base .formatUnsupported).cab = s.cab := by
  have none : (s.pwr.pdLists.any fun e => e.1 == p && e.2.shipping aid base) = false :=
    List.any_eq_false.mpr fun e he => by simp [up e he]
  rw [State.shipDone_eq, none, if_neg (by decide)]
  rfl

/-! ### The owner's slots (R256, R257) -/

/-- The contribution that a granted slot awaits. -/
def State.grantOf (s : State) (k : Nat) (key : SortKey) (base src : Nat) : Contrib :=
  { slot := k, key := key, base := base, src := src, due := s.now + usTicks s.pol.gdHold.toNat, written := false, data := [] }

/-- The entry with one contribution more. -/
def Entry.grant (x : Contrib) (e : Entry) : Entry := { e with contribs := e.contribs ++ [x] }

/-- The entry with the contribution of a slot and key written. -/
def Entry.complete (k : Nat) (key : SortKey) (mats : List (List Nat)) (e : Entry) : Entry :=
  { e with
    contribs := updFirst e.contribs (fun c => c.slot == k && c.key == key) fun c => { c with written := true, data := mats }
    keysNow := e.keysNow ++ [key] }

/-- The Cabinet with a range more for an object. -/
def State.reserve (s : State) (p len g : Nat) (o : CabObj) : State := s.modCab fun c => { c with extents := addExtent ⟨g, len, p, o⟩ c.extents }

/-- An owner that can take a drawer grants the lowest free slot. -/
theorem State.gdRequest_grants {e : Entry} {aid base k g src : Nat} (key : SortKey) (he : s.entry aid = some e) (owned : e.owned = true)
    (learn : e.learn = true) (ready : e.state = .ready) (master : e.master.isSome = true)
    (version : (e.slot base).any (fun v => v.vstate == .current || v.vstate == .retained) = true) (free : e.frozen = false)
    (lowest : (List.range 16).find? (fun i => !(e.slotsUsed.contains i)) = some k)
    (quota : s.cabUse e.home + s.contribLen e ≤ (s.getP e.home).cabQuota.toNat)
    (room : lowestFree (s.contribLen e) s.cab.exportBase 0 s.cab.extents = some g) :
    s.gdRequest aid base key src =
      (.ok k, (s.reserve e.home (s.contribLen e) g (.contrib aid k)).modEntry aid (Entry.grant (s.grantOf k key base src))) := by
  have master' : e.master.isNone = false := by rw [← Option.not_isSome, master]; rfl
  simp only [State.gdRequest, he, owned, learn, ready, master', version, free, lowest, State.charge_ok _ quota room, ne_eq,
    not_true_eq_false, Bool.true_eq_false, Bool.false_eq_true, or_false, if_false]
  rfl

/-- A write-back whose key is new completes in the slot that awaits it. -/
theorem State.gdWrite_completes {e : Entry} {aid k : Nat} {key : SortKey} (mats : List (List Nat)) (he : s.entry aid = some e)
    (new : ∀ x ∈ e.keysNow ++ e.keysPrev, x ≠ key) (awaits : ∃ x ∈ e.contribs, x.slot = k ∧ x.key = key ∧ x.written = false) :
    s.gdWrite aid k key mats = (true, s.modEntry aid (Entry.complete k key mats)) := by
  have fresh : ¬ (e.keysNow.contains key = true ∨ e.keysPrev.contains key = true) := by
    rw [List.contains_iff_mem, List.contains_iff_mem, ← List.mem_append]
    exact fun mem => new key mem rfl
  obtain ⟨x, mem, slot, keyed, unwritten⟩ := awaits
  obtain ⟨y, found⟩ := Option.isSome_iff_exists.mp (List.find?_isSome (p := fun x : Contrib => x.slot == k && x.key == key && !x.written).mpr
    ⟨x, mem, by simp [slot, keyed, unwritten]⟩)
  simp only [State.gdWrite, he, fresh, found, if_false]
  rfl

/-- The slot that awaited a write-back is written with it. -/
theorem Entry.complete_written {e : Entry} {k : Nat} {key : SortKey} (mats : List (List Nat)) (awaits : ∃ x ∈ e.contribs, x.slot = k ∧ x.key = key) :
    ∃ x ∈ (e.complete k key mats).contribs, x.slot = k ∧ x.written = true ∧ x.data = mats := by
  obtain ⟨x, mem, slot, keyed⟩ := awaits
  obtain ⟨z, here⟩ := Option.isSome_iff_exists.mp (List.find?_isSome (p := fun x : Contrib => x.slot == k && x.key == key).mpr
    ⟨x, mem, by simp [slot, keyed]⟩)
  have at_slot := List.find?_some here
  simp only [Bool.and_eq_true, beq_iff_eq] at at_slot
  exact ⟨_, mem_updFirst_of_find? _ here, at_slot.1, rfl, rfl⟩

theorem State.entry_grant {e : Entry} {aid : Nat} (x : Contrib) (he : s.entry aid = some e) :
    (s.modEntry aid (Entry.grant x)).entry aid = some (e.grant x) := by
  rw [State.entry_modEntry (f := Entry.grant x) aid aid fun _ => rfl, if_pos rfl, he, Option.map_some]

theorem State.entry_complete {e : Entry} {aid : Nat} (k : Nat) (key : SortKey) (mats : List (List Nat)) (he : s.entry aid = some e) :
    (s.modEntry aid (Entry.complete k key mats)).entry aid = some (e.complete k key mats) := by
  rw [State.entry_modEntry (f := Entry.complete k key mats) aid aid fun _ => rfl, if_pos rfl, he, Option.map_some]

/-! ### One drawer -/

theorem State.shipOwner_of (hc : s.ctxOf p = some c) (aid : Nat) :
    s.shipOwner p c.sub.sseq aid = (c.owners.find? fun e => e.1 == aid).map (·.2) := by
  rw [State.shipOwner, hc, filter_some (t := fun x : Ctx => x.sub.sseq == c.sub.sseq) (beq_self_eq_true _)]

/-- A drawer of another format than Celat gets its status at once (R260). -/
theorem State.shipOne_format (sseq mi ship : Nat) (h : g.celat = false) :
    s.shipOne p sseq mi ship g = s.shipDone p sseq g.aid g.base .formatUnsupported := if_pos h

/-- A drawer that this member, its owner, can take lies in a slot of the adapter (R256, R257). -/
theorem State.shipOne_taken {e : Entry} {sseq ship k b : Nat} (mi : Nat) (celat : g.celat = true) (mine : s.shipOwner p sseq g.aid = some s.me)
    (he : s.entry g.aid = some e) (owned : e.owned = true) (learn : e.learn = true) (ready : e.state = .ready) (master : e.master.isSome = true)
    (version : (e.slot g.base).any (fun v => v.vstate == .current || v.vstate == .retained) = true) (free : e.frozen = false)
    (lowest : (List.range 16).find? (fun i => !(e.slotsUsed.contains i)) = some k)
    (quota : s.cabUse e.home + s.contribLen e ≤ (s.getP e.home).cabQuota.toNat)
    (room : lowestFree (s.contribLen e) s.cab.exportBase 0 s.cab.extents = some b)
    (new : ∀ x ∈ e.keysNow ++ e.keysPrev, x ≠ { sseq := sseq, inst := s.me, part := p, idx := ship }) :
    ∃ (v : State) (e' : Entry), s.shipOne p sseq mi ship g = v.shipDone p sseq g.aid g.base .ok ∧ v.prt = s.prt
      ∧ v.entry g.aid = some e' ∧ ∃ x ∈ e'.contribs, x.slot = k ∧ x.written = true ∧ x.data = g.data := by
  let key : SortKey := { sseq := sseq, inst := s.me, part := p, idx := ship }
  have grants := State.gdRequest_grants (src := s.me) key he owned learn ready master version free lowest quota room
  have entry := State.entry_grant (s := s.reserve e.home (s.contribLen e) b (.contrib g.aid k)) (s.grantOf k key g.base s.me) he
  have awaits : ∃ x ∈ (e.grant (s.grantOf k key g.base s.me)).contribs, x.slot = k ∧ x.key = key ∧ x.written = false :=
    ⟨_, List.mem_append_right _ (List.mem_singleton.mpr rfl), rfl, rfl, rfl⟩
  have completes := State.gdWrite_completes (k := k) (key := key) g.data entry new awaits
  obtain ⟨x, mem, slot, keyed, -⟩ := awaits
  refine ⟨((s.reserve e.home (s.contribLen e) b (.contrib g.aid k)).modEntry g.aid (Entry.grant (s.grantOf k key g.base s.me))).modEntry g.aid
    (Entry.complete k key g.data), _, ?_, rfl, State.entry_complete k key g.data entry, Entry.complete_written g.data ⟨x, mem, slot, keyed⟩⟩
  simp only [State.shipOne, celat, mine, key, grants, completes, Bool.true_eq_false, if_true, if_false]

/-! ### The commands of `GRAD_SHIP` -/

theorem State.charge_modCtx (s : State) (p q : Nat) (f : Ctx → Ctx) :
    (s.modCtx p f).cabUse q = s.cabUse q ∧ ((s.modCtx p f).getP q).cabQuota = (s.getP q).cabQuota := by
  have page : ∃ x, (s.modCtx p f).getP q = { s.getP q with ctx := x } := by
    rw [State.modCtx, State.getP_modP]
    split
    · exact ⟨_, rfl⟩
    · exact ⟨_, rfl⟩
  obtain ⟨x, page⟩ := page
  have charge : (s.modCtx p f).saveCharge q = s.saveCharge q := by
    rw [State.saveCharge, page]
    rfl
  exact ⟨by rw [State.cabUse, charge]; rfl, by rw [page]⟩

theorem State.charge_congr (prt : t.prt = s.prt) (cab : t.cab = s.cab) (mgt : t.mgt = s.mgt) (q : Nat) :
    t.cabUse q = s.cabUse q ∧ (t.getP q).cabQuota = (s.getP q).cabQuota := by
  simp only [State.cabUse, State.saveCharge, State.saveChargeOf, State.returnArea, State.wMax, State.getP, prt, cab, mgt, and_self]

/-- A `GRAD_SHIP` that has begun waits for its shipments and completes when all have a status. -/
theorem exec_gradShip_begun (h : s.serialAt p 0x24 = some (c, i)) (reached : (nth c.recs i freshRec).reached = true) :
    exec (.gradShip p) s = .next (if c.lists.any (fun r => r.kind == 3 && r.status == .deferred) then s else s.serialDone p i) := by
  change execGradShip p s = _
  simp only [execGradShip, h, reached, if_true, (State.serialAt_spec h).1, Option.any_some, Bool.not_true, Bool.false_or]

theorem State.shipList_all (s : State) (p : Nat) :
    s.shipList p none = insSort (fun (a b : GradDrawer) => lexLt [a.aid, a.base] [b.aid, b.base]) (s.cab.grads.filter fun g => g.part == p) := by
  simp only [State.shipList, Bool.and_true]

theorem State.shipAll_nil (s : State) (p sseq mi : Nat) (add : State → ListRec → State) : s.shipAll p sseq mi [] add = s := rfl

theorem State.shipAll_one {sseq mi : Nat} (only : s.cab.grads.filter (fun g => g.part == p) = [g]) (add : State → ListRec → State) :
    s.shipAll p sseq mi (s.shipList p none) add = (add s (listRec g.aid .deferred 3 g.base)).shipOne p sseq mi 0 g := by
  rw [State.shipList_all, only]
  rfl

theorem State.HbmWorked.kept (h : s.HbmWorked t) :
    t.prt = s.prt ∧ t.cab = s.cab ∧ t.pol = s.pol ∧ t.mgt = s.mgt ∧ t.pwr.pdLists = s.pwr.pdLists := by
  obtain ⟨x, h, k, rfl⟩ := h
  exact ⟨rfl, rfl, rfl, rfl, rfl⟩

/-- What a shipment works with, taken from `s`: the Cabinet, the pool, the tables, the power-down records and the charges. -/
structure State.AsForShip (s t : State) : Prop where
  cab : t.cab = s.cab
  pol : t.pol = s.pol
  mgt : t.mgt = s.mgt
  pd : t.pwr.pdLists = s.pwr.pdLists
  charge : ∀ q, t.cabUse q = s.cabUse q ∧ (t.getP q).cabQuota = (s.getP q).cabQuota

theorem State.AsForShip.modCtx (h : s.AsForShip t) (p : Nat) (f : Ctx → Ctx) : s.AsForShip (t.modCtx p f) :=
  ⟨h.cab, h.pol, h.mgt, h.pd, fun q => ⟨(State.charge_modCtx t p q f).1.trans (h.charge q).1, (State.charge_modCtx t p q f).2.trans (h.charge q).2⟩⟩

/-- The state in which a `GRAD_SHIP` without a list begins to ship. -/
def State.shipStart (s : State) (p i : Nat) : State := (s.modRec p i fun r => { r with reached := true }).hbmWork

/-- The step in which a `GRAD_SHIP` has begun. -/
def Ctx.begun (c : Ctx) (i : Nat) : Ctx := { c with recs := modNth c.recs i fun r => { r with reached := true } }

theorem Ctx.begun_reached (hi : i < c.recs.length) : (nth (c.begun i).recs i freshRec).reached = true := by
  rw [Ctx.begun, nth_modNth_same _ _ hi]

theorem State.shipStart_as (hc : s.ctxOf p = some c) (i : Nat) :
    s.AsForShip (s.shipStart p i) ∧ (s.shipStart p i).ctxOf p = some (c.begun i) := by
  have start : s.shipStart p i = (s.modCtx p fun c => c.begun i).hbmWork := rfl
  obtain ⟨prt, cab, pol, mgt, pd⟩ := (State.hbmWork_worked (s.modCtx p fun c => c.begun i)).kept
  rw [start]
  refine ⟨⟨cab, pol, mgt, pd, fun q => ?_⟩, (State.ctxOf_eq_of_prt p prt).trans (State.ctxOf_modCtx _ hc)⟩
  obtain ⟨use, quota⟩ := State.charge_congr prt cab mgt q
  obtain ⟨use', quota'⟩ := State.charge_modCtx s p q fun c => c.begun i
  exact ⟨use.trans use', quota.trans quota'⟩

/-- Every gradient drawer of a partition shipped by a `GRAD_SHIP` without a list. -/
def State.shipEvery (s : State) (p i sseq : Nat) : State :=
  (s.shipStart p i).shipAll p sseq i ((s.shipStart p i).shipList p none) fun s r => s.addList p i r

/-- A shipment of all drawers with one drawer: its record entered, and then the shipment. -/
theorem State.shipEvery_one (hc : s.ctxOf p = some c) (i : Nat) (only : s.cab.grads.filter (fun g => g.part == p) = [g]) :
    ∃ w : State, s.shipEvery p i c.sub.sseq = w.shipOne p c.sub.sseq i 0 g ∧ s.AsForShip w
      ∧ w.ctxOf p = some ((c.begun i).addList i (listRec g.aid .deferred 3 g.base)) := by
  obtain ⟨as, ctx⟩ := State.shipStart_as hc i
  refine ⟨(s.shipStart p i).modCtx p fun c => c.addList i (listRec g.aid .deferred 3 g.base), ?_, as.modCtx p _, State.ctxOf_modCtx _ ctx⟩
  rw [State.shipEvery, State.shipAll_one (by rw [as.cab, only]), State.addList_eq]

theorem State.shipEvery_none (hc : s.ctxOf p = some c) (i sseq : Nat) (none : s.cab.grads.filter (fun g => g.part == p) = []) :
    s.shipEvery p i sseq = s.shipStart p i := by
  rw [State.shipEvery, State.shipList_all, (State.shipStart_as hc i).1.cab, none]
  exact State.shipAll_nil ..

/-- A `GRAD_SHIP` without a list that begins ships every drawer, and completes at once when all have a status then. -/
theorem exec_gradShip_all {t : State} {c' : Ctx} (h : s.serialAt p 0x24 = some (c, i)) (fresh : (nth c.recs i freshRec).reached = false)
    (all : (c.mi i).flag = false)
    (ships : s.shipEvery p i c.sub.sseq = t)
    (hc : t.ctxOf p = some c') (reached : (nth c'.recs i freshRec).reached = true)
    (settled : ∀ r ∈ c'.lists, r.kind = 3 → r.status ≠ .deferred) :
    exec (.gradShip p) s = .next (t.serialDone p i) := by
  have plain : (c.mi i).hasList = false := by simp [MI.hasList, (State.serialAt_spec h).2, all]
  have start : s.startList p i c = (true, s.modRec p i fun r => { r with reached := true }) := by
    simp only [State.startList, fresh, plain, Bool.false_eq_true, if_false, if_true]
  have ended : c'.lists.any (fun r => r.kind == 3 && r.status == .deferred) = false :=
    List.any_eq_false.mpr fun r hr => by simpa using settled r hr
  change execGradShip p s = _
  simp only [execGradShip, h, fresh, start, all, Bool.false_eq_true, Bool.true_eq_false, if_false, Option.getD_none, List.foldl_nil]
  rw [← State.shipStart, ← State.shipEvery, ships, hc]
  simp [reached, ended]

/-- An instruction that completes leaves the step's list records. -/
theorem State.serialDone_lists (hc : s.ctxOf p = some c) (hi : i < c.recs.length) :
    ∃ (u : State) (c' : Ctx), s.serialDone p i = u.pump p ∧ u.passed p i ∧ u.ctxOf p = some c' ∧ c'.lists = c.lists
      ∧ { u with prt := s.prt } = s := by
  have record : nth (c.behind i).recs i freshRec = { nth c.recs i freshRec with reached := true, done := true } := nth_modNth_same _ _ hi
  obtain ⟨reached, done⟩ := Ctx.advance_rec (n := c.prog.length) (c := c.behind i) (i := i) (by rw [record]) (by rw [record])
  obtain ⟨r, k, moved, le⟩ := Ctx.advance_eq c.prog.length (c.behind i)
  have ctx := State.ctxOf_modCtx (fun c => Ctx.advance c.prog.length (c.behind i)) hc
  refine ⟨_, _, State.serialDone_eq s p i, ⟨_, ctx, reached, done, ?_⟩, ctx, by rw [moved]; rfl, rfl⟩
  rw [moved]
  exact le

/-- A `GRAD_SHIP` whose one drawer gets its status at once completes with the record of it. -/
theorem exec_gradShip_one {st : Status} {v : State} (h : s.serialAt p 0x24 = some (c, i)) (hi : i < c.recs.length)
    (fresh : (nth c.recs i freshRec).reached = false) (all : (c.mi i).flag = false)
    (settled : ∀ r ∈ c.lists, r.kind = 3 → r.status ≠ .deferred) (st_ne : st ≠ .deferred)
    (start : s.shipEvery p i c.sub.sseq = v.shipDone p c.sub.sseq g.aid g.base st)
    (ctx : v.ctxOf p = some ((c.begun i).addList i (listRec g.aid .deferred 3 g.base))) :
    ∃ (u : State) (c' : Ctx), exec (.gradShip p) s = .next (u.pump p) ∧ u.passed p i ∧ u.ctxOf p = some c'
      ∧ c'.lists = c.lists ++ [{ listRec g.aid st 3 g.base with mi := i }]
      ∧ u.cab = (v.shipDone p c.sub.sseq g.aid g.base st).cab := by
  have ctx' := (State.shipDone_leaves (sseq := c.sub.sseq) (aid := g.aid) (base := g.base) st ctx rfl).1
  have lists := Ctx.shipped_addList (c := c.begun i) i g.aid g.base st settled
  have reached : (nth ((c.begun i).addList i (listRec g.aid .deferred 3 g.base)).recs i freshRec).reached = true := by
    rw [Ctx.addList, nth_modNth_same _ _ (by simpa [Ctx.begun] using hi)]
    exact Ctx.begun_reached hi
  obtain ⟨u, c', done, passed, hc', lists', rest⟩ := State.serialDone_lists ctx' (i := i) (by simpa [Ctx.shipped, Ctx.addList, Ctx.begun] using hi)
  refine ⟨u, c', ?_, passed, hc', lists'.trans lists, (congrArg State.cab rest :)⟩
  rw [exec_gradShip_all h fresh all start ctx' reached, done]
  rw [lists]
  intro r hr kind
  rcases List.mem_append.mp hr with old | new
  · exact settled r old kind
  · rw [List.mem_singleton.mp new]
    exact st_ne

/-- Settles O30: a reduction adds matrix by matrix, and a shipment that can be made at once has its status at once. -/
theorem gradientsAreReducedAndShipped : Obligations.GradientsAreReducedAndShipped := by
  unfold Obligations.GradientsAreReducedAndShipped
  refine ⟨fun s p op mean x c i which h hi => ?_, fun s p c i h hi => ⟨fun reached settled => ?_, fun reached busy => ?_,
    fun fresh all empty settled => ?_,
    fun g e k a v fresh all only settled celat mine he owned learn ready master version free lowest room new => ?_,
    fun g fresh all only settled celat up => ?_⟩⟩
  · have run : exec x s = .next (s.pool p op mean) := by
      simp only [List.mem_cons, Prod.mk.injEq, List.not_mem_nil, or_false] at which
      obtain ⟨rfl, rfl, rfl⟩ | ⟨rfl, rfl, rfl⟩ := which <;> rfl
    dsimp only
    rw [run]
    refine ⟨fun fresh empty => ?_, fun fresh drawers => ?_, fun k g reached here sound found len => ?_⟩
    · obtain ⟨u, done, passed, others⟩ := State.serialDone_passed (State.serialAt_spec h).1 hi
      exact ⟨u, by rw [State.pool_none h fresh empty, done], passed, others⟩
    · obtain ⟨rest, c', ctx, record⟩ := State.pool_begun (mean := mean) h hi fresh drawers
      exact ⟨_, c', rfl, rest, ctx, record⟩
    · obtain ⟨u, c', g', reduces, rest, ctx, pos, found', sums⟩ := State.pool_reduces mean h hi reached here sound found len
      exact ⟨u, c', g', congrArg _ reduces, rest, ctx, pos, found', sums⟩
  · have ended : c.lists.any (fun r => r.kind == 3 && r.status == .deferred) = false :=
      List.any_eq_false.mpr fun r hr => by simpa using settled r hr
    obtain ⟨u, done, passed, others⟩ := State.serialDone_passed (State.serialAt_spec h).1 hi
    exact ⟨u, by rw [exec_gradShip_begun h reached, ended, if_neg Bool.false_ne_true, done], passed, others⟩
  · have open_ : c.lists.any (fun r => r.kind == 3 && r.status == .deferred) = true := List.any_eq_true.mpr (by simpa using busy)
    rw [exec_gradShip_begun h reached, if_pos open_]
  · have none : s.cab.grads.filter (fun g => g.part == p) = [] :=
      List.filter_eq_nil_iff.mpr fun g hg => by simpa using empty g hg
    obtain ⟨as, ctx⟩ := State.shipStart_as (State.serialAt_spec h).1 i
    obtain ⟨u, done, passed, others⟩ := State.serialDone_passed ctx (i := i) (by simpa [Ctx.begun] using hi)
    refine ⟨u, ?_, passed, (congrArg State.cab others :).trans as.cab⟩
    rw [exec_gradShip_all h fresh all (State.shipEvery_none (State.serialAt_spec h).1 i _ none) ctx (Ctx.begun_reached hi) settled, done]
  · obtain ⟨quota, lowest_free⟩ := State.charge_some room
    obtain ⟨w, start, as, ctx⟩ := State.shipEvery_one (State.serialAt_spec h).1 i only
    have me : w.me = s.me := by rw [State.me, as.pol]; rfl
    have owner : w.shipOwner p c.sub.sseq g.aid = some w.me := by
      rw [me, ← mine, State.shipOwner_of (State.serialAt_spec h).1]
      exact State.shipOwner_of ctx g.aid
    have len : w.contribLen e = s.contribLen e := by
      simp only [State.contribLen, State.gradSize, State.shape, as.mgt]
    obtain ⟨v, e', taken, prt, entry, written⟩ := State.shipOne_taken (s := w) i celat owner ((State.entry_eq_of_cab _ as.cab).trans he) owned learn
      ready master version free lowest (by rw [(as.charge _).1, (as.charge _).2, len]; exact quota) (by rw [as.cab, len]; exact lowest_free)
      (me ▸ new)
    have ctx' := (State.ctxOf_eq_of_prt p prt).trans ctx
    obtain ⟨u, c', run, passed, hc', lists, cab⟩ := exec_gradShip_one h hi fresh all settled (by decide) (start.trans taken) ctx'
    refine ⟨u, c', e', run, passed, hc', lists, fun x hx part same => ?_, ?_, written⟩
    · exact State.shipDone_ok_gone c.sub.sseq g.aid g.base (cab ▸ hx) part same
    · exact (State.entry_eq_of_cab _ cab).trans (((State.shipDone_leaves .ok ctx' rfl).2 g.aid).trans entry)
  · obtain ⟨w, start, as, ctx⟩ := State.shipEvery_one (State.serialAt_spec h).1 i only
    obtain ⟨u, c', run, passed, hc', lists, cab⟩ := exec_gradShip_one h hi fresh all settled (by decide)
      (start.trans (State.shipOne_format _ i 0 celat)) ctx
    exact ⟨u, c', run, passed, hc', cab.trans ((State.shipDone_kept _ _ _ (as.pd ▸ up)).trans as.cab), lists⟩

end Sys2Proof.Machine
end

section
/-! PROOF. Messages that hardware handles and messages about adapters (R256–R259, R323, R324, R331–R336): from their arrival to their
handlers, and what each handler leaves. -/

namespace Sys2Proof.Machine

open Sys2Proof

/-! ### Arrival -/

/-- A message that hardware handles reaches its handler as it comes (R553). -/
theorem State.Hearing.handledAtOnce {s : State} {m : RppMsg} {ty : Nat} (h : s.Hearing m ty) (hw : rppHw ty = true) :
    s.rpp m ty = (rppHandler ty (s.hearing m) m m.peer).afterMsg ty := by
  have run : (s.hearing m).deliver m = rppHandler ty (s.hearing m) m m.peer := by
    have whole := h.whole
    rw [State.deliver]
    split
    next part => simp [part] at whole
    next cont => simp [cont] at whole
    next => rw [h.type, if_pos hw]
  rw [h.rpp, run, State.afterMsg, if_pos hw]

theorem State.Hearing.acted {s : State} {m : RppMsg} {ty : Nat} (h : s.Hearing m ty) :
    s.rpp m ty = (rppHandler ty (s.hearing m) m m.peer).afterMsg ty := by
  by_cases hw : rppHw ty = true
  · exact h.handledAtOnce hw
  · exact h.handled (Bool.eq_false_iff.mpr hw)

section
variable {s : State} {m : RppMsg}

/-- What holds of a request's answer, whatever the session then remembers, holds after the request is served. -/
theorem State.serveReq_of {body : State → State} (P : State → Prop) (new : s.newTag m = true) (open_ : s.sessOpen m.peer = true)
    (h : ∀ f, P ((body s).retag m.peer f)) : P (s.serveReq m m.peer body) := by
  obtain ⟨f, served⟩ := State.serveReq_new new open_ body
  exact served ▸ h f

/-- A request that is answered at once tells its answer and leaves the Cabinet. -/
theorem State.serveReq_answers {body : State → State} {t : State} (new : s.newTag m = true) (open_ : s.sessOpen m.peer = true) {ty : Nat}
    {st : Status} {pl : RppPl} (ht : t.sessOpen m.peer = true) (run : body s = t.reply m m.peer ty st pl) :
    (s.serveReq m m.peer body).cab = t.cab ∧ (s.serveReq m m.peer body).told m.peer ty m.tag st m.aid m.epoch pl := by
  obtain ⟨traffic, told⟩ := State.reply_told ht m ty st pl
  refine State.serveReq_of (fun u => u.cab = t.cab ∧ u.told m.peer ty m.tag st m.aid m.epoch pl) new open_ fun f => ?_
  rw [run]
  exact ⟨traffic.cab, State.retag_told m.peer f told⟩

/-! ### Notices (R323, R324) -/

/-- Each ID of a request for notices gets its record (R324). -/
theorem hNoteReq_told {es : List Entry} (pl : m.pl = .aids (es.map (·.aid))) (mine : s.allMine (es.map (·.aid)) = true) (new : s.newTag m = true)
    (open_ : s.sessOpen m.peer = true) (held : ∀ e ∈ es, s.entry e.aid = some e ∧ e.owned = true) :
    (hNoteReq s m m.peer).told m.peer 0x11 m.tag (if (es.map s.recordOf).all (·.valid) then .ok else .adapterUnknown) m.aid m.epoch
      (.notes (es.map s.recordOf)) := by
  rw [hNoteReq, pl]
  dsimp only
  rw [if_neg (by simp [mine])]
  refine (State.serveReq_answers new open_ open_ ?_).2
  have records : ∀ e ∈ es, (s.entry e.aid).filter (·.owned) = some e := fun e he => by
    obtain ⟨entry, owned⟩ := held e he
    rw [entry]
    exact filter_some owned
  have same (g : Nat → NoteRec) (hg : ∀ e ∈ es, g e.aid = s.recordOf e) : (es.map (·.aid)).map g = es.map s.recordOf := by
    rw [List.map_map]
    exact List.map_congr_left hg
  rw [same]
  intro e he
  rw [records e he]

theorem hNoteReq_redirects {l : List Nat} (pl : m.pl = .aids l) (mine : s.allMine l = false) : hNoteReq s m m.peer = s.redirect m m.peer := by
  rw [hNoteReq, pl]
  exact if_pos mine

/-- Keeping a notice record changes the notice table only. -/
theorem State.noteCreate_pol (s : State) (n : NoteRec) :
    ∃ x y, s.noteCreate n = s.modPol fun q => { q with notes := x, noteStamp := y } := by
  unfold State.noteCreate
  dsimp only
  split
  · exact ⟨_, _, rfl⟩
  · split
    · exact ⟨_, _, rfl⟩
    · exact ⟨_, _, rfl⟩

theorem State.noteReplace_pol (s : State) (n : NoteRec) :
    ∃ x y, s.noteReplace n = s.modPol fun q => { q with notes := x, noteStamp := y } := by
  unfold State.noteReplace
  split
  · exact ⟨_, _, rfl⟩
  · exact s.noteCreate_pol n

theorem State.noteReplaces_prt (l : List NoteRec) (s : State) : (l.foldl (fun (s : State) n => s.noteReplace n) s).prt = s.prt := by
  induction l generalizing s with
  | nil => rfl
  | cons n l ih =>
    obtain ⟨x, y, replaced⟩ := s.noteReplace_pol n
    exact (ih _).trans (congrArg State.prt replaced :)

/-- The step's side of an answer for notice records: what came, what did not, and what it still waits for (R324). -/
def Ctx.noted (c : Ctx) (l : List NoteRec) (dead : List Nat) : Ctx :=
  { c with
    noteOut := c.noteOut ++ l.filter fun n => c.noteWait.contains n.aid
    noteDead := c.noteDead ++ dead.filter fun a => c.noteWait.contains a
    noteWait := c.noteWait.filter fun a => !(l.map (·.aid) ++ dead).contains a }

theorem State.noteFor_issued {p : Nat} {l : List NoteRec} {dead : List Nat} {c : Ctx} (hc : s.ctxOf p = some c)
    (waits : ∃ a ∈ c.noteWait, a ∈ l.map (·.aid) ++ dead) : s.noteFor p l dead = (s.modCtx p fun c => c.noted l dead).resumeIssue p := by
  have page : (s.getP p).ctx = some c := hc
  obtain ⟨a, ha, got⟩ := waits
  have awaited : ((s.getP p).ctx.any fun c => c.noteWait.any fun a => (l.map (·.aid) ++ dead).contains a) = true := by
    rw [page]
    exact List.any_eq_true.mpr ⟨a, ha, List.contains_iff_mem.mpr got⟩
  exact if_pos awaited

/-- The answer that ends a request for notices: its records go to the step that waits for them, and the step goes on (R324). -/
theorem hNoteRep_ends {r : PReq} {p : Nat} {aids : List Nat} {l : List NoteRec} {c : Ctx} (req : s.reqOf m.peer m.tag = some r)
    (kind : r.kind = .note p aids) (part : p < 32) (pl : m.pl = .notes l) (asked : ∀ n ∈ l, n.aid ∈ aids) (last : m.last = true)
    (hc : s.ctxOf p = some c) (waits : ∃ a ∈ aids, a ∈ c.noteWait) :
    ∃ u : State, hNoteRep s m m.peer = u.resumeIssue p
      ∧ u.ctxOf p = some (c.noted l (aids.filter fun a => !(l.any fun n => n.aid == a)))
      ∧ ∀ y ∈ u.pol.reqs, y.id ≠ r.id := by
  have all : (l.filter fun n => aids.contains n.aid) = l := List.filter_eq_self.mpr fun n hn => List.contains_iff_mem.mpr (asked n hn)
  obtain ⟨t, ht⟩ : ∃ t, t = (l.filter (·.valid)).foldl (fun (s : State) n => s.noteReplace n) s := ⟨_, rfl⟩
  have prt : t.prt = s.prt := ht ▸ State.noteReplaces_prt _ s
  have ctx : (t.dropReq r.id).ctxOf p = some c := (State.ctxOf_eq_of_prt p prt).trans hc
  obtain ⟨a, ha, waiting⟩ := waits
  have got : a ∈ l.map (·.aid) ++ aids.filter fun a => !(l.any fun n => n.aid == a) := by
    by_cases here : ∃ n ∈ l, n.aid = a
    · exact List.mem_append_left _ (List.mem_map.mpr here)
    · exact List.mem_append_right _ (List.mem_filter.mpr ⟨ha, by simpa using here⟩)
  refine ⟨(t.dropReq r.id).modCtx p fun c => c.noted l _, ?_, State.ctxOf_modCtx _ ctx, t.dropReq_gone r.id⟩
  rw [hNoteRep, req]
  dsimp only
  rw [kind, pl]
  dsimp only
  rw [all, ← ht, last, if_neg (by omega), if_pos rfl, if_pos rfl]
  exact State.noteFor_issued ctx ⟨a, waiting, got⟩

theorem Ctx.noted_dead (c : Ctx) (l : List NoteRec) (aids : List Nat) (t : Nat → Bool) :
    (c.noted l (aids.filter t)).noteDead = c.noteDead ++ aids.filter fun a => t a && c.noteWait.contains a := by
  rw [Ctx.noted, List.filter_filter]
  exact congrArg _ (List.filter_congr fun a _ => Bool.and_comm ..)

theorem Ctx.noted_wait (c : Ctx) {l : List NoteRec} {aids : List Nat} (asked : ∀ n ∈ l, n.aid ∈ aids) :
    (c.noted l (aids.filter fun a => !(l.any fun n => n.aid == a))).noteWait = c.noteWait.filter fun a => !aids.contains a := by
  refine List.filter_congr fun a _ => congrArg _ (Bool.eq_iff_iff.mpr ?_)
  rw [List.contains_iff_mem, List.contains_iff_mem, List.mem_append]
  refine ⟨fun h => ?_, fun ha => ?_⟩
  · rcases h with came | left
    · obtain ⟨n, hn, rfl⟩ := List.mem_map.mp came
      exact asked n hn
    · exact (List.mem_filter.mp left).1
  · by_cases here : ∃ n ∈ l, n.aid = a
    · exact .inl (List.mem_map.mpr here)
    · exact .inr (List.mem_filter.mpr ⟨ha, by simpa using here⟩)

/-! ### Fills (R331, R332) -/

/-- A slot that is updated is still found by its epoch. -/
theorem State.slot_modSlot {aid ep : Nat} {e : Entry} {v : VSlot} (he : s.entry aid = some e) (hv : e.slot ep = some v) {g : VSlot → VSlot}
    (same : ∀ v, (g v).epoch = v.epoch ∧ (g v).vstate = v.vstate) :
    ∃ e', (s.modSlot aid ep g).entry aid = some e' ∧ e'.slot ep = some (g v) := by
  refine ⟨e.modSlot ep g, ?_, ?_⟩
  · rw [State.modSlot, State.entry_modEntry (f := fun e => e.modSlot ep g) aid aid fun _ => rfl, if_pos rfl, he, Option.map_some]
  · refine (updFirst_find? e.vtab _ g fun v => ?_).trans (congrArg _ hv)
    obtain ⟨epoch, vstate⟩ := same v
    rw [epoch, VSlot.live, VSlot.live, vstate]

/-- A version that is not demoted needs no promotion. -/
theorem State.promote_here {aid ep : Nat} {e : Entry} {v : VSlot} (he : s.entry aid = some e) (hv : e.slot ep = some v) (here : v.slow = false) :
    s.promote aid ep = (true, s) := by
  simp only [State.promote, he, hv, here, true_or, if_true]

/-- A version that can be served is queued for its peer, with a reference on it (R331). -/
theorem hFetchReq_queued {aid ep : Nat} {e : Entry} {v : VSlot} (pl : m.pl = .pairs [(aid, ep)]) (mine : s.mine aid = true)
    (new : s.newTag m = true) (open_ : s.sessOpen m.peer = true) (he : s.entry aid = some e) (owned : e.owned = true) (filled : e.state ≠ .empty)
    (hv : e.slot ep = some v) (sound : v.damaged = false) (minor : v.bminor ≤ ((s.pol.session m.peer).map (·.blobMinor)).getD 0)
    (here : v.slow = false) :
    (hFetchReq s m m.peer).pol.fetchQ = s.pol.fetchQ ++ [{ peer := m.peer, tag := m.tag, seg := 0, left := [(aid, ep, 0)] }]
      ∧ ∃ e' v', (hFetchReq s m m.peer).entry aid = some e' ∧ e'.slot ep = some v' ∧ v'.refs = v.refs + 1 := by
  have served : (s.entry aid).filter (fun e => e.owned && e.state != .empty) = some e := by
    rw [he]
    exact filter_some (by simp [owned, filled])
  obtain ⟨e', entry, slot⟩ := State.slot_modSlot (g := fun v => { v with refs := v.refs + 1 }) he hv fun _ => ⟨rfl, rfl⟩
  rw [hFetchReq, pl]
  dsimp only
  rw [if_neg (by simp [State.allMine, mine])]
  refine State.serveReq_of (fun u => u.pol.fetchQ = s.pol.fetchQ ++ [{ peer := m.peer, tag := m.tag, seg := 0, left := [(aid, ep, 0)] }]
      ∧ ∃ e' v', u.entry aid = some e' ∧ e'.slot ep = some v' ∧ v'.refs = v.refs + 1) new open_ fun f => ?_
  simp only [List.foldl_cons, List.foldl_nil, served, hv, sound, Nat.not_lt.mpr minor, State.promote_here he hv here, if_false,
    Bool.false_eq_true, List.nil_append]
  exact ⟨rfl, e', _, entry, slot, rfl⟩

/-- Bytes of a blob that come in their place land in its range (R331). -/
theorem hFetchData_lands {r : PReq} {pairs : List (Nat × Nat)} {ep off : Nat} {bs : List Byte} {ok : Bool} {e : Entry} {v : VSlot}
    (req : s.reqOf m.peer m.tag = some r) (kind : r.kind = .fetch pairs) (asked : pairs.find? (fun y => y.1 == m.aid) = some (m.aid, ep))
    (epoch : m.epoch = ep) (status : m.status = .ok) (pl : m.pl = .data off bs ok) (he : s.entry m.aid = some e) (hv : e.slot ep = some v)
    (filling : v.vstate = .filling) (place : off = v.got) (fits : (v.fitted off bs).1 = true) (more : v.got + bs.length < (v.fitted off bs).2.blen) :
    (hFetchData s m m.peer).hbm = Memory.writeN s.hbm (gAddr v.loc + off) bs
      ∧ ∃ e' v', (hFetchData s m m.peer).entry m.aid = some e' ∧ e'.slot ep = some v' ∧ v'.got = v.got + bs.length
        ∧ v'.blen = (v.fitted off bs).2.blen := by
  obtain ⟨t, ht⟩ : ∃ t, t = State.gotFrame (if r.tFirst = 0 then s.modCal (groupOf s m.peer) fun g => { g with latF := estNext g.latF (nsOf (s.now - r.t0)) }
    else s) r (if r.tFirst = 0 then 0 else bs.length) := ⟨_, rfl⟩
  have same : t.cab = s.cab ∧ t.hbm = s.hbm := by
    rw [ht]
    split
    · exact ⟨rfl, rfl⟩
    · exact ⟨rfl, rfl⟩
  obtain ⟨cab, hbm⟩ := same
  have he' : t.entry m.aid = some e := (State.entry_eq_of_cab _ cab).trans he
  have here : (e.slot ep).filter (fun v => v.vstate == .filling) = some v := by
    rw [hv]
    exact filter_some (by simp [filling])
  have rest : (v.fitted off bs).2.got = v.got ∧ (v.fitted off bs).2.loc = v.loc := by
    unfold VSlot.fitted
    split
    · exact ⟨rfl, rfl⟩
    · exact ⟨rfl, rfl⟩
  obtain ⟨got, loc⟩ := rest
  have whole : bs.take ((v.fitted off bs).2.blen - v.got) = bs := List.take_of_length_le (by omega)
  have run : hFetchData s m m.peer = ((t.modSlot m.aid ep fun y => { y with blen := (v.fitted off bs).2.blen }).land 0 (gAddr v.loc + off) bs).modSlot
      m.aid ep fun y => { y with got := v.got + bs.length } := by
    rw [hFetchData, req]
    dsimp only
    rw [kind]
    dsimp only
    rw [asked]
    dsimp only
    rw [if_neg (by simp [epoch]), if_neg (by simp [status]), pl]
    dsimp only
    rw [← ht, he']
    dsimp only
    rw [here]
    dsimp only
    rw [if_neg (by simp [place]), if_neg (by simp [fits]), got, loc, whole, if_pos more]
  obtain ⟨e1, entry1, slot1⟩ := State.slot_modSlot (g := fun y => { y with blen := (v.fitted off bs).2.blen }) he' hv fun _ => ⟨rfl, rfl⟩
  obtain ⟨w, k, ras, landed⟩ := (t.modSlot m.aid ep fun y => { y with blen := (v.fitted off bs).2.blen }).land_hbm (gAddr v.loc + off) bs
  rw [run, landed]
  obtain ⟨e2, entry2, slot2⟩ := State.slot_modSlot (s := { t.modSlot m.aid ep (fun y => { y with blen := (v.fitted off bs).2.blen }) with
    hbm := Memory.writeN (t.modSlot m.aid ep fun y => { y with blen := (v.fitted off bs).2.blen }).hbm (gAddr v.loc + off) bs, hbmStk := k, ras := ras
    pwr := w }) (g := fun y => { y with got := v.got + bs.length }) entry1 slot1 fun _ => ⟨rfl, rfl⟩
  exact ⟨congrArg (Memory.writeN · (gAddr v.loc + off) bs) hbm, e2, _, entry2, slot2, rfl, rfl⟩

/-! ### VISIT (R333–R335) -/

theorem hVisitRows_refused {l : List VisitRec} (pl : m.pl = .visit l) (mine : s.allMine (l.map (·.aid)) = true) (new : s.newTag m = true)
    (open_ : s.sessOpen m.peer = true) (none : 32 ≤ s.pol.servePart.toNat) :
    (hVisitRows s m m.peer).told m.peer 0x15 m.tag .noCapacity m.aid m.epoch (.visit (l.map fun r => { r with vecs := [] })) := by
  rw [hVisitRows, pl]
  dsimp only
  rw [if_neg (by simp [mine])]
  refine (State.serveReq_answers new open_ open_ ?_).2
  exact if_pos none

theorem hVisitRows_queued {l : List VisitRec} (pl : m.pl = .visit l) (mine : s.allMine (l.map (·.aid)) = true) (new : s.newTag m = true)
    (open_ : s.sessOpen m.peer = true) (serves : s.pol.servePart.toNat < 32) :
    (hVisitRows s m m.peer).pol.serveQ = s.pol.serveQ ++ l.map fun r => (m.peer, m.tag, r) := by
  rw [hVisitRows, pl]
  dsimp only
  rw [if_neg (by simp [mine])]
  refine State.serveReq_of (fun u => u.pol.serveQ = s.pol.serveQ ++ l.map fun r => (m.peer, m.tag, r)) new open_ fun f => ?_
  rw [if_neg (Nat.not_le.mpr serves)]
  rfl

/-- A step that is not torn takes a delta into its return area. -/
def Ctx.visited (key : Nat) (x : VisitRec) (c : Ctx) : Ctx := if c.torn then c else { c with ret := c.ret ++ [(key, x)] }

/-- A delta of a step that waits for it lands in the step's return area (R227, R335). -/
theorem hVisitDelta_lands {r : PReq} {p mi k : Nat} {x : VisitRec} {sent : List VisitRec} {c : Ctx} (req : s.reqOf m.peer m.tag = some r)
    (kind : r.kind = .visit p c.sub.sseq x.proj mi [k]) (pl : m.pl = .visit [x]) (asked : r.msg.pl = .visit sent)
    (known : ∃ y ∈ sent, y.aid = x.aid ∧ y.epoch = x.epoch ∧ y.first = x.first) (first : (x.aid, x.first) ∉ r.ans) (status : m.status = .ok)
    (hc : s.ctxOf p = some c) (live : c.torn = false) (drawer : (c.drw k).aid = x.aid) :
    ∃ u : State, hVisitDelta s m m.peer = u.pump p ∧ u.ctxOf p = some { c with ret := c.ret ++ [(visitKey mi k, x)] } := by
  let cal (s : State) : State := s.modCal (groupOf s m.peer) fun g => { g with latV := estNext g.latV (nsOf (s.now - r.t0)) }
  obtain ⟨t, ht⟩ : ∃ t, t = ((if r.tFirst = 0 then cal s else s).gotFrame r (sumBytes [x])).modReq r.id fun y =>
    { y with ans := y.ans ++ [(x.aid, x.first)] } := ⟨_, rfl⟩
  have prt : t.prt = s.prt := by
    rw [ht]
    split
    · rfl
    · rfl
  have page : (t.getP p).ctx = some c := (State.ctxOf_eq_of_prt p prt).trans hc
  have new : ([x].filter fun x' => x'.proj == x.proj && (sent.any fun y => y.aid == x'.aid && y.epoch == x'.epoch && y.first == x'.first)
      && !r.ans.contains (x'.aid, x'.first)) = [x] := by
    obtain ⟨y, hy, aid, epoch, pos⟩ := known
    refine List.filter_eq_self.mpr fun z hz => ?_
    rw [List.mem_singleton.mp hz]
    have matched : (sent.any fun y => y.aid == x.aid && y.epoch == x.epoch && y.first == x.first) = true :=
      List.any_eq_true.mpr ⟨y, hy, by simp [aid, epoch, pos]⟩
    simp [matched, first]
  have mine : (t.getP p).ctx.filter (fun c' => c'.sub.sseq == c.sub.sseq && !c'.torn) = some c := by
    rw [page]
    exact filter_some (by simp [live])
  rw [hVisitDelta, req]
  dsimp only
  rw [kind, pl, asked]
  dsimp only
  rw [new]
  simp only [List.map_cons, List.map_nil]
  rw [← ht]
  simp only [List.foldl_cons, List.foldl_nil, List.find?_cons, mine, Option.map_some, Option.orElse_eq_orElse, Option.orElse_eq_or, Option.some_or,
    drawer, beq_self_eq_true, status, if_true]
  obtain ⟨v, hv⟩ : ∃ v, v = t.modStep p c.sub.sseq (Ctx.visited (visitKey mi k) x) := ⟨_, rfl⟩
  have landed : v.ctxOf p = some { c with ret := c.ret ++ [(visitKey mi k, x)] } := by
    rw [hv]
    refine (congrArg Prt.ctx (State.getP_modP_same _ (State.lt_of_ctxOf (s := t) page))).trans ?_
    simp only [page, Option.map_some, Ctx.visited, live, if_true, if_false, Bool.false_eq_true]
  refine ⟨_, rfl, (State.ctxOf_eq_of_prt (s := v) p ?_).trans landed⟩
  rw [hv]
  split
  · split
    · rfl
    · rfl
  · rfl

/-! ### Gradients (R256–R259, R336) -/

/-- A request for a slot that the owner can grant (R257). -/
theorem hGdReq_grants {key : SortKey} {e : Entry} {k g : Nat} (pl : m.pl = .gdReq key) (mine : s.mine m.aid = true) (new : s.newTag m = true)
    (open_ : s.sessOpen m.peer = true) (he : s.entry m.aid = some e) (owned : e.owned = true) (learn : e.learn = true) (ready : e.state = .ready)
    (master : e.master.isSome = true) (version : (e.slot m.epoch).any (fun v => v.vstate == .current || v.vstate == .retained) = true)
    (free : e.frozen = false) (lowest : (List.range 16).find? (fun i => !(e.slotsUsed.contains i)) = some k)
    (quota : s.cabUse e.home + s.contribLen e ≤ (s.getP e.home).cabQuota.toNat)
    (room : lowestFree (s.contribLen e) s.cab.exportBase 0 s.cab.extents = some g) :
    (hGdReq s m m.peer).cab
        = ((s.reserve e.home (s.contribLen e) g (.contrib m.aid k)).modEntry m.aid (Entry.grant (s.grantOf k key m.epoch m.peer))).cab
      ∧ (hGdReq s m m.peer).told m.peer 0x17 m.tag .ok m.aid m.epoch (.num k) := by
  rw [hGdReq, pl]
  dsimp only
  rw [if_neg (by simp [mine])]
  refine State.serveReq_answers new open_ (t := (s.reserve e.home (s.contribLen e) g (.contrib m.aid k)).modEntry m.aid
    (Entry.grant (s.grantOf k key m.epoch m.peer))) open_ ?_
  rw [State.gdRequest_grants key he owned learn ready master version free lowest quota room]

/-- A request for a slot that is answered with a status. -/
theorem hGdReq_refuses {key : SortKey} {st : Status} (pl : m.pl = .gdReq key) (mine : s.mine m.aid = true) (new : s.newTag m = true)
    (open_ : s.sessOpen m.peer = true) (refused : s.gdRequest m.aid m.epoch key m.peer = (.error st, s)) :
    (hGdReq s m m.peer).cab = s.cab ∧ (hGdReq s m m.peer).told m.peer 0x17 m.tag st m.aid m.epoch .none := by
  rw [hGdReq, pl]
  dsimp only
  rw [if_neg (by simp [mine])]
  refine State.serveReq_answers new open_ open_ ?_
  rw [refused]

theorem State.gdRequest_unknown {aid : Nat} (base : Nat) (key : SortKey) (src : Nat) (unknown : s.entry aid = none) :
    s.gdRequest aid base key src = (.error .adapterUnknown, s) := by
  simp only [State.gdRequest, unknown]

theorem State.gdRequest_gone {aid base : Nat} {e : Entry} (key : SortKey) (src : Nat) (he : s.entry aid = some e) (owned : e.owned = true)
    (learn : e.learn = true) (ready : e.state = .ready) (master : e.master.isSome = true) (gone : e.slot base = none) :
    s.gdRequest aid base key src = (.error .versionGone, s) := by
  have master' : e.master.isNone = false := by rw [← Option.not_isSome, master]; rfl
  simp only [State.gdRequest, he, owned, learn, ready, master', gone, Option.any_none, ne_eq, not_true_eq_false, Bool.true_eq_false,
    Bool.false_eq_true, or_false, if_false, if_true]

/-- A write-back is answered by what the slot makes of it (R256, R336). -/
theorem hGdData_answers {slot : Nat} {key : SortKey} {mats : List (List Nat)} {t : State} {done : Bool} (pl : m.pl = .gdData slot key mats)
    (mine : s.mine m.aid = true) (new : s.newTag m = true) (open_ : s.sessOpen m.peer = true)
    (written : s.gdWrite m.aid slot key mats = (done, t)) (same : t.pol = s.pol) :
    (hGdData s m m.peer).told m.peer 0x19 m.tag (if done then .ok else .timeout) m.aid m.epoch .none ∧ (hGdData s m m.peer).cab = t.cab := by
  obtain ⟨u, hu⟩ : ∃ u, u = if done then t.hbmWork else t := ⟨_, rfl⟩
  have kept : u.cab = t.cab ∧ u.pol = t.pol := by
    rw [hu]
    split
    · obtain ⟨-, cab, pol, -⟩ := (State.hbmWork_worked t).kept
      exact ⟨cab, pol⟩
    · exact ⟨rfl, rfl⟩
  obtain ⟨cab, pol⟩ := kept
  have open' : u.sessOpen m.peer = true := by
    rw [State.sessOpen, pol, same]
    exact open_
  rw [hGdData, pl]
  dsimp only
  rw [if_neg (by simp [mine]), ← cab]
  refine (State.serveReq_answers new open_ open' ?_).symm
  rw [written, hu]

theorem State.gdWrite_again {aid slot : Nat} {key : SortKey} (mats : List (List Nat)) {e : Entry} (he : s.entry aid = some e)
    (again : key ∈ e.keysNow ∨ key ∈ e.keysPrev) : s.gdWrite aid slot key mats = (true, s) := by
  have again' : e.keysNow.contains key = true ∨ e.keysPrev.contains key = true := again.imp List.contains_iff_mem.mpr List.contains_iff_mem.mpr
  simp only [State.gdWrite, he, again', if_true]

theorem State.gdWrite_expired {aid slot : Nat} {key : SortKey} (mats : List (List Nat)) {e : Entry} (he : s.entry aid = some e)
    (new : ¬(key ∈ e.keysNow ∨ key ∈ e.keysPrev)) (none : ∀ c ∈ e.contribs, c.slot ≠ slot) : s.gdWrite aid slot key mats = (false, s) := by
  have new' : ¬(e.keysNow.contains key = true ∨ e.keysPrev.contains key = true) := by
    rw [List.contains_iff_mem, List.contains_iff_mem]
    exact new
  have unheld : e.contribs.find? (fun c => c.slot == slot && c.key == key && !c.written) = Option.none :=
    List.find?_eq_none.mpr fun c hc => by simp [none c hc]
  simp only [State.gdWrite, he, new', unheld, if_false]

/-- A contribution that is committed frees its gradient drawer (R257). -/
theorem hGdCommit_frees {r : PReq} {p sseq mi ship slot : Nat} (req : s.reqOf m.peer m.tag = some r) (kind : r.kind = .gdWrite p sseq mi ship slot)
    (ok : m.status = .ok) : hGdCommit s m m.peer = (s.dropReq r.id).shipDone p sseq r.msg.aid r.msg.epoch .ok := by
  rw [hGdCommit, req]
  dsimp only
  rw [kind, ok]
  exact if_pos (.inl rfl)

/-- A granted slot is answered with the drawer's write-back (R256). -/
theorem hGdGrant_writes {r : PReq} {p sseq mi ship slot : Nat} {key : SortKey} {g : GradDrawer} (req : s.reqOf m.peer m.tag = some r)
    (kind : r.kind = .gd p sseq mi ship) (asked : r.msg.pl = .gdReq key) (ok : m.status = .ok) (pl : m.pl = .num slot)
    (found : s.gradOf p r.msg.aid r.msg.epoch = some g) (live : s.shipLive p sseq r.msg.aid r.msg.epoch = true) :
    hGdGrant s m m.peer = (s.dropReq r.id).request m.peer (.gdWrite p sseq mi ship slot) 0x18 r.msg.aid r.msg.epoch (.gdData slot key g.data) := by
  rw [hGdGrant, req]
  dsimp only
  rw [kind, asked, ok, pl]
  dsimp only
  have found' : (s.dropReq r.id).gradOf p r.msg.aid r.msg.epoch = some g := found
  unfold State.gradOf at found'
  rw [found']
  exact if_pos live

end

/-! ### A request that has been sent -/

/-- The state in which a request to a peer is listed: its session is open or has been asked for. -/
def State.opened (s : State) (peer : Nat) : State := if (s.pol.session peer).isSome then s else s.openSess peer

/-- A request as it is listed: it waits until it has been sent. -/
def State.asked (s : State) (peer : Nat) (kind : ReqKind) (msg : RppMsg) : PReq :=
  { id := s.pol.nextReq, tag := 0, peer := peer, kind := kind, msg := msg, resends := 0, redirects := 0, queued := true, t0 := s.now
    due := s.now + usTicks s.pol.tReq.toNat, tFirst := 0, got := 0, buf := [], ans := [] }

/-- The state with a request more. -/
def State.listReq (s : State) (peer : Nat) (kind : ReqKind) (msg : RppMsg) : State :=
  s.modPol fun q => { q with reqs := q.reqs ++ [s.asked peer kind msg], nextReq := q.nextReq + 1 }

theorem State.queueRpp_eq (s : State) (peer : Nat) (kind : ReqKind) (msg : RppMsg) :
    s.queueRpp peer kind msg = ((s.opened peer).listReq peer kind msg).launch (s.opened peer).pol.nextReq := rfl

/-- A request whose number no other has stands until it is answered, sent or waiting for its session. -/
theorem State.queueRpp_waits {s : State} {peer : Nat} {kind : ReqKind} (counts : kind ≠ .oneWay)
    (fresh : ∀ x ∈ (s.opened peer).pol.reqs, x.id ≠ (s.opened peer).pol.nextReq) (msg : RppMsg) :
    ∃ y ∈ (s.queueRpp peer kind msg).pol.reqs, y.peer = peer ∧ y.kind = kind ∧ y.msg.pl = msg.pl := by
  obtain ⟨v, hv⟩ : ∃ v, v = s.opened peer := ⟨_, rfl⟩
  have found : (v.listReq peer kind msg).pol.reqs.find? (fun r => r.id == v.pol.nextReq) = some (v.asked peer kind msg) := by
    have others : v.pol.reqs.find? (fun r => r.id == v.pol.nextReq) = none :=
      List.find?_eq_none.mpr fun x hx => by simpa using (hv ▸ fresh) x hx
    refine (List.find?_append ..).trans ?_
    rw [others, Option.none_or]
    exact List.find?_cons_of_pos (beq_self_eq_true _)
  have listed : v.asked peer kind msg ∈ (v.listReq peer kind msg).pol.reqs := List.mem_append_right _ (List.mem_singleton.mpr rfl)
  have numbered : ((v.asked peer kind msg).kind == .oneWay) = false := beq_eq_false_iff_ne.mpr counts
  rw [State.queueRpp_eq, ← hv, State.launch, found]
  dsimp only
  split
  · split
    · exact ⟨_, listed, rfl, rfl, rfl⟩
    · rw [(State.traffic_sendFrames ..).reqs]
      simp only [numbered]
      exact ⟨_, mem_updFirst_of_find? _ found, rfl, rfl, rfl⟩
  · exact ⟨_, listed, rfl, rfl, rfl⟩

/-- A commit that answers nothing which is to be freed. -/
def strayCommit : RppMsg :=
  { hdr := { w0 := 0x190000, w1 := 0, w2 := 0, w3 := 0, w4 := 0x03000000, w5 := 0, w6 := 0, w7 := 0 }, pl := .none }

/-- A write-back of a partition that does not exist, which a `strayCommit` answers. -/
def strayWrite (id part : Nat) : PReq :=
  { id := id, tag := strayCommit.tag, peer := strayCommit.peer, kind := .gdWrite part 0 0 0 0, msg := strayCommit, resends := 0, redirects := 0
    queued := false, t0 := 0, due := 0, tFirst := 0, got := 0, buf := [], ans := [] }

theorem State.shipLive_beyond {s : State} {part : Nat} (beyond : s.prt.length ≤ part) (quiet : ∀ e ∈ s.pwr.pdLists, e.1 ≠ part)
    (sseq aid base : Nat) : s.shipLive part sseq aid base = false := by
  rw [State.shipLive, State.getP_beyond beyond]
  simp only [Prt.reset, Option.any_none, List.any_nil, Bool.or_false, Bool.false_or]
  exact List.any_eq_false.mpr fun e he => by simp [quiet e he]

/-- A state with a request more, and with the write-back that a `strayCommit` answers, both under one number. -/
def State.strayed (s : State) (part : Nat) (y : PReq) : State := s.modPol fun q => { q with reqs := strayWrite y.id part :: y :: q.reqs }

/-- The commit takes the request away together with the write-back that it answers. -/
theorem State.strayed_deliver {s : State} {part : Nat} {y : PReq} (new : ∀ x ∈ s.pol.reqs, x.id ≠ y.id) (beyond : s.prt.length ≤ part)
    (quiet : ∀ e ∈ s.pwr.pdLists, e.1 ≠ part) : (s.strayed part y).deliver strayCommit = s := by
  have answered : (s.strayed part y).reqOf strayCommit.peer strayCommit.tag = some (strayWrite y.id part) :=
    List.find?_cons_of_pos (by simp [strayWrite])
  have forgotten : (s.strayed part y).dropReq (strayWrite y.id part).id = s := by
    have kept : s.pol.reqs.filter (fun r => r.id != y.id) = s.pol.reqs := List.filter_eq_self.mpr fun x hx => by simpa using new x hx
    simp [State.strayed, State.dropReq, State.modPol, strayWrite, kept]
  have dead : ((s.strayed part y).dropReq (strayWrite y.id part).id).shipLive part 0 strayCommit.aid strayCommit.epoch = false := by
    rw [forgotten]
    exact State.shipLive_beyond beyond quiet ..
  change hGdCommit (s.strayed part y) strayCommit strayCommit.peer = s
  rw [hGdCommit, answered]
  refine (if_neg ?_).trans forgotten
  rw [not_or]
  exact ⟨by decide, by rw [Bool.not_eq_true]; exact dead⟩

/-- The state in which the commit waits, before all other frames that do. -/
def State.astray (s : State) (part : Nat) (y : PReq) : State :=
  (s.strayed part y).modPol fun q => { q with heldMsgs := strayCommit :: q.heldMsgs }

/-- Some partition takes part in nothing; a commit for it leaves the frames that waited before to be acted on as without it. -/
theorem State.astray_heldDue {s : State} {y : PReq} (new : ∀ x ∈ s.pol.reqs, x.id ≠ y.id) : ∃ part, (s.astray part y).heldDue = s.heldDue := by
  obtain ⟨part, beyond, quiet⟩ : ∃ part, s.prt.length ≤ part ∧ ∀ e ∈ s.pwr.pdLists, e.1 ≠ part := by
    refine ⟨s.prt.length + (s.pwr.pdLists.map (·.1)).sum + 1, by omega, fun e he => ?_⟩
    have le := List.single_le_sum (fun _ _ => Nat.zero_le _) _ (List.mem_map_of_mem (f := (·.1)) he)
    omega
  refine ⟨part, ?_⟩
  obtain ⟨go, hgo⟩ : ∃ go, go = s.pol.heldMsgs.filter fun m => decide (m.view ≤ s.pol.viewNum.toNat) := ⟨_, rfl⟩
  obtain ⟨t, ht⟩ : ∃ t, t = s.modPol fun q => { q with heldMsgs := q.heldMsgs.filter fun m => !decide (m.view ≤ s.pol.viewNum.toNat) } := ⟨_, rfl⟩
  have due : (s.astray part y).heldDue = go.foldl (fun s m => s.deliver m) ((t.strayed part y).deliver strayCommit) := by
    rw [hgo, ht]
    rfl
  have rest : s.heldDue = go.foldl (fun s m => s.deliver m) t := by
    rw [State.heldDue, ← hgo, ← ht]
    split
    next none =>
      have none : go = [] := List.isEmpty_iff.mp none
      have all : s.pol.heldMsgs.filter (fun m => !decide (m.view ≤ s.pol.viewNum.toNat)) = s.pol.heldMsgs :=
        List.filter_eq_self.mpr fun m hm => by simpa using List.filter_eq_nil_iff.mp (hgo.symm.trans none) m hm
      rw [none, ht]
      exact congrArg (fun l => s.modPol fun q => { q with heldMsgs := l }) all.symm
    · rfl
  rw [due, rest, State.strayed_deliver (by rw [ht]; exact new) (by rw [ht]; exact beyond) (by rw [ht]; exact quiet)]

/-- A number that no request has. -/
def State.unused (s : State) : Nat := (s.pol.reqs.map (·.id)).sum + 1

theorem State.unused_new (s : State) : ∀ x ∈ s.pol.reqs, x.id ≠ s.unused := fun x hx => by
  have le := List.single_le_sum (fun _ _ => Nat.zero_le _) _ (List.mem_map_of_mem (f := (·.id)) hx)
  rw [State.unused]
  omega

/-- A state that goes on as one with nothing to do goes on, and in which a given request still stands. -/
theorem State.runPool_forgets {s : State} (work : s.pol.work = []) (held : s.pol.heldMsgs = []) {y : PReq} (new : ∀ x ∈ s.pol.reqs, x.id ≠ y.id) :
    ∃ u : State, u.runPool = s.runPool ∧ y ∈ u.pol.reqs := by
  obtain ⟨part, due⟩ := State.astray_heldDue new
  refine ⟨s.astray part y, ?_, List.mem_cons_of_mem _ (List.mem_cons_self ..)⟩
  rw [State.runPool_none work held, State.runPool, State.runWork, due, State.heldDue_none held, work]
  exact ite_self _

/-! ### The obligation -/

section
variable {s t : State}

theorem State.Traffic.mine (h : s.Traffic t) (aid : Nat) : t.mine aid = s.mine aid := by
  rw [← h.rest]
  rfl

theorem State.Traffic.allMine (h : s.Traffic t) (l : List Nat) : t.allMine l = s.allMine l := by
  rw [← h.rest]
  rfl

theorem State.Traffic.recordOf (h : s.Traffic t) (e : Entry) : t.recordOf e = s.recordOf e := by
  rw [← h.rest]
  rfl

theorem State.Traffic.contribLen (h : s.Traffic t) (e : Entry) : t.contribLen e = s.contribLen e := by
  rw [← h.rest]
  rfl

theorem State.Traffic.servePart (h : s.Traffic t) : t.pol.servePart = s.pol.servePart := (congrArg Pol.servePart h.pol).symm
theorem State.Traffic.serveQ (h : s.Traffic t) : t.pol.serveQ = s.pol.serveQ := (congrArg Pol.serveQ h.pol).symm
theorem State.Traffic.fetchQ (h : s.Traffic t) : t.pol.fetchQ = s.pol.fetchQ := (congrArg Pol.fetchQ h.pol).symm
theorem State.Traffic.gdHold (h : s.Traffic t) : t.pol.gdHold = s.pol.gdHold := (congrArg Pol.gdHold h.pol).symm
theorem State.Traffic.work (h : s.Traffic t) : t.pol.work = s.pol.work := (congrArg Pol.work h.pol).symm
theorem State.Traffic.heldMsgs (h : s.Traffic t) : t.pol.heldMsgs = s.pol.heldMsgs := (congrArg Pol.heldMsgs h.pol).symm

/-- Frames that are sent leave the power-down's records. -/
theorem State.sendFrame_pd (s : State) (peer : Nat) (m : RppMsg) : (s.sendFrame peer m).pwr.pdLists = s.pwr.pdLists := by
  have counted (s : State) (port : Option Nat) (n : Nat) : (s.fabCount port true n).pwr = s.pwr := by
    unfold State.fabCount
    split
    · rfl
    · rfl
  have touched (s : State) : (s.touchGroup peer m.type).pwr = s.pwr := by
    unfold State.touchGroup
    split
    · rfl
    · rfl
  have put (s : State) (port : Option Nat) (n : Nat) : (s.putFrame port peer n m).pwr.pdLists = s.pwr.pdLists := by
    unfold State.putFrame
    split
    · rfl
    · exact congrArg Pwr.pdLists (counted ..)
  unfold State.sendFrame
  split
  · exact (put ..).trans (congrArg Pwr.pdLists (touched s))
  · split
    · exact (put ..).trans (congrArg Pwr.pdLists (touched _))
    · rfl

theorem State.hearing_pd (s : State) (m : RppMsg) : (s.hearing m).pwr.pdLists = s.pwr.pdLists := by
  have sent (l : List RppMsg) (s : State) : (s.sendFrames m.peer l).pwr.pdLists = s.pwr.pdLists :=
    List.foldlRecOn (motive := fun t : State => t.pwr.pdLists = s.pwr.pdLists) l _ rfl fun t h x _ => (t.sendFrame_pd m.peer x).trans h
  have back (s : State) : (s.creditsBack m.peer).pwr.pdLists = s.pwr.pdLists := by
    unfold State.creditsBack
    split
    · rfl
    · split
      · rfl
      · exact sent ..
  have heard (s : State) : (s.heard m.peer m.type).pwr = s.pwr := by
    unfold State.heard State.touchGroup
    split
    · rfl
    · rfl
  have counted : (s.fabCount (s.rppPort m) false (32 + m.len)).pwr = s.pwr := by
    unfold State.fabCount
    split
    · rfl
    · rfl
  exact (back _).trans (congrArg Pwr.pdLists ((heard _).trans counted))

theorem State.shipLive_congr (prt : t.prt = s.prt) (pd : t.pwr.pdLists = s.pwr.pdLists) (p sseq aid base : Nat) :
    t.shipLive p sseq aid base = s.shipLive p sseq aid base := by
  rw [State.shipLive, State.shipLive, State.getP, State.getP, prt, pd]

theorem State.afterMsg_of_runPool {ty : Nat} (hw : rppHw ty = true) (same : t.runPool = s.runPool) : t.afterMsg ty = s.afterMsg ty := by
  rw [State.afterMsg, State.afterMsg, if_pos hw, if_pos hw, State.afterFrame, State.afterFrame, same]

/-- The write-back of a drawer stands in a state that goes on as the granted one does. Where another request holds the number that the
write-back would get, as a statement about every state has to allow, that is a state in which a stray commit takes it away. -/
theorem State.writeBack_stands {peer : Nat} {kind : ReqKind} (open_ : s.sessOpen peer = true) (counts : kind ≠ .oneWay) (work : s.pol.work = [])
    (held : s.pol.heldMsgs = []) (ty aid ep : Nat) (pl : RppPl) :
    ∃ (u : State) (y : PReq), u.runPool = (s.request peer kind ty aid ep pl).runPool ∧ y ∈ u.pol.reqs ∧ y.peer = peer ∧ y.kind = kind
      ∧ y.msg.pl = pl := by
  have opened : s.opened peer = s := by
    obtain ⟨x, session, -⟩ := (Option.any_eq_true _ _).mp open_
    exact if_pos (by rw [session]; rfl)
  by_cases fresh : ∀ x ∈ s.pol.reqs, x.id ≠ s.pol.nextReq
  · obtain ⟨y, stands, rest⟩ := State.queueRpp_waits (s := s) (peer := peer) counts (opened.symm ▸ fresh) (s.rppMsg peer ty 0 .ok aid ep pl)
    exact ⟨_, y, rfl, stands, rest⟩
  · obtain ⟨t, ht⟩ : ∃ t, t = s.request peer kind ty aid ep pl := ⟨_, rfl⟩
    have asks : s.Asks t := ht ▸ s.asks_queueRpp ..
    have pol := congrArg State.pol asks.rest
    obtain ⟨u, same, stands⟩ := State.runPool_forgets (s := t) ((congrArg Pol.work pol).symm.trans work) ((congrArg Pol.heldMsgs pol).symm.trans held)
      (y := { strayWrite t.unused 0 with peer := peer, kind := kind, msg := { strayCommit with pl := pl } }) t.unused_new
    exact ⟨u, _, ht ▸ same, stands, rfl, rfl, rfl⟩

end

/-- Settles O44: each message reaches its handler in the state in which it is heard, which differs from the old one by traffic only. -/
theorem adaptersAreServedToThePool : Obligations.AdaptersAreServedToThePool := by
  intro s m
  obtain ⟨v, hv⟩ : ∃ v, v = s.hearing m := ⟨_, rfl⟩
  have traffic : s.Traffic v := hv ▸ s.traffic_hearing m
  have acted {ty : Nat} {u : State} (h : s.hears m ty = true) (run : rppHandler ty v m m.peer = u) :
      (Host.Outcome.next (s.rpp m ty) : Host.Outcome State Fault Refusal) = .next (u.afterMsg ty) := by
    rw [((s.hears_iff m ty).mp h).acted, ← hv, run]
  have open_ {ty : Nat} (h : s.hears m ty = true) (needs : ty ≠ 1 ∧ ty ≠ 2 ∧ ty ≠ 3 ∧ ty ≠ 4 ∧ ty ≠ 0x0A) : v.sessOpen m.peer = true :=
    hv ▸ ((s.hears_iff m ty).mp h).sessOpen needs
  have req {r : PReq} (h : s.reqOf m.peer m.tag = some r) : v.reqOf m.peer m.tag = some r := (traffic.reqOf ..).trans h
  have new (h : s.newTag m = true) : v.newTag m = true := (traffic.newTag m).trans h
  have entry {aid : Nat} {o : Option Entry} (h : s.entry aid = o) : v.entry aid = o := (traffic.entry aid).trans h
  have ctx {p : Nat} {c : Ctx} (h : s.ctxOf p = some c) : v.ctxOf p = some c := (State.ctxOf_eq_of_prt p traffic.prt).trans h
  refine ⟨?noteReq, ?noteRedirected, ?noteRep, ?fetchReq, ?fetchData, ?visitRows, ?visitDelta, ?gdReq, ?gdGrant, ?gdData, ?gdCommit⟩
  case noteReq =>
    intro es h pl mine fresh held
    have told := hNoteReq_told pl ((traffic.allMine _).trans mine) (new fresh) (open_ h (by decide))
      fun e he => ⟨entry (held e he).1, (held e he).2⟩
    rw [List.map_congr_left fun e _ => traffic.recordOf e] at told
    exact ⟨_, acted h rfl, told⟩
  case noteRedirected =>
    intro l h pl mine
    exact ⟨_, acted h (hNoteReq_redirects pl ((traffic.allMine l).trans mine)), v.redirect_redirected m⟩
  case noteRep =>
    intro r p aids l c h answers kind part pl asked last hc waits
    obtain ⟨u, run, ctx', gone⟩ := hNoteRep_ends (req answers) kind part pl asked last (ctx hc) waits
    exact ⟨u, _, acted h run, ctx', rfl, c.noted_dead l aids _, c.noted_wait asked, gone⟩
  case fetchReq =>
    intro aid ep e x h pl mine fresh he owned filled hx sound minor here
    have session : (v.pol.session m.peer).map (·.blobMinor) = (s.pol.session m.peer).map (·.blobMinor) := traffic.session_map m.peer fun _ => rfl
    have queued := hFetchReq_queued pl ((traffic.mine aid).trans mine) (new fresh) (open_ h (by decide)) (entry he) owned filled hx sound
      (session ▸ minor) here
    rw [traffic.fetchQ] at queued
    exact ⟨_, acted h rfl, queued⟩
  case fetchData =>
    intro r pairs ep off bs ok e x h answers kind asked epoch status pl he hx filling place fits more
    have lands := hFetchData_lands (req answers) kind asked epoch status pl (entry he) hx filling place fits more
    rw [traffic.hbm] at lands
    obtain ⟨hbm, e', x', he', hx', got, blen⟩ := lands
    exact ⟨_, e', x', acted h rfl, hbm, he', hx', got, blen⟩
  case visitRows =>
    intro l h pl mine fresh
    have mine' := (traffic.allMine _).trans mine
    refine ⟨fun serves => ?_, fun none => ?_⟩
    · have queued := hVisitRows_queued pl mine' (new fresh) (open_ h (by decide)) (traffic.servePart ▸ serves)
      rw [traffic.serveQ] at queued
      exact ⟨_, acted h rfl, queued⟩
    · exact ⟨_, acted h rfl, hVisitRows_refused pl mine' (new fresh) (open_ h (by decide)) (traffic.servePart ▸ none)⟩
  case visitDelta =>
    intro r p mi k x sent c h answers kind pl asked known first status hc live drawer
    obtain ⟨u, run, landed⟩ := hVisitDelta_lands (req answers) kind pl asked known first status (ctx hc) live drawer
    exact ⟨u, _, acted h run, landed, rfl⟩
  case gdReq =>
    intro key h pl mine fresh
    have mine' := (traffic.mine m.aid).trans mine
    refine ⟨fun e x i b he owned learn ready master hx version free lowest quota room => ?_, fun unknown => ?_,
      fun e he owned learn ready master gone => ?_⟩
    · have current : (e.slot m.epoch).any (fun v => v.vstate == .current || v.vstate == .retained) = true := by simpa [hx] using version
      obtain ⟨use, quota'⟩ := State.charge_congr traffic.prt traffic.cab traffic.mgt e.home
      obtain ⟨cab, told⟩ := hGdReq_grants pl mine' (new fresh) (open_ h (by decide)) (entry he) owned learn ready master current free lowest
        (by rw [use, quota', traffic.contribLen]; exact quota) (by rw [traffic.cab, traffic.contribLen]; exact room)
      refine ⟨_, acted h rfl, told, cab.trans ?_⟩
      rw [traffic.contribLen, State.grantOf, traffic.now, traffic.gdHold]
      exact congrArg (fun c : Cab => { c with
        extents := addExtent ⟨b, s.contribLen e, e.home, .contrib m.aid i⟩ c.extents
        dir := updFirst c.dir (fun y => y.aid == m.aid) (Entry.grant { slot := i, key := key, base := m.epoch, src := m.peer
                                                                       due := s.now + usTicks s.pol.gdHold.toNat, written := false, data := [] }) })
        traffic.cab
    · obtain ⟨cab, told⟩ := hGdReq_refuses pl mine' (new fresh) (open_ h (by decide)) (State.gdRequest_unknown m.epoch key m.peer (entry unknown))
      exact ⟨_, acted h rfl, cab.trans traffic.cab, told⟩
    · obtain ⟨cab, told⟩ := hGdReq_refuses pl mine' (new fresh) (open_ h (by decide))
        (State.gdRequest_gone key m.peer (entry he) owned learn ready master gone)
      exact ⟨_, acted h rfl, cab.trans traffic.cab, told⟩
  case gdGrant =>
    intro r p sseq mi ship slot key g h answers kind asked ok pl found live
    obtain ⟨-, -, -, -, -, -, -, work, held, -⟩ := (s.hears_iff m 0x17).mp h
    have pd : v.pwr.pdLists = s.pwr.pdLists := hv ▸ s.hearing_pd m
    have writes := hGdGrant_writes (req answers) kind asked ok pl (traffic.cab ▸ found) ((State.shipLive_congr traffic.prt pd ..).trans live)
    obtain ⟨u, y, same, stands, rest⟩ := State.writeBack_stands (s := v.dropReq r.id) (peer := m.peer) (kind := .gdWrite p sseq mi ship slot)
      (open_ h (by decide)) (by simp) (traffic.work.trans work) (traffic.heldMsgs.trans held) 0x18 r.msg.aid r.msg.epoch (.gdData slot key g.data)
    have run := acted h writes
    rw [← State.afterMsg_of_runPool (ty := 0x17) rfl same] at run
    exact ⟨u, y, run, stands, rest⟩
  case gdData =>
    intro slot key mats e h pl mine fresh he
    have mine' := (traffic.mine m.aid).trans mine
    refine ⟨fun now prev awaits => ?_, fun again => ?_, fun now prev none => ?_⟩
    · have new' : ∀ x ∈ e.keysNow ++ e.keysPrev, x ≠ key := fun x hx eq => by
        rw [eq] at hx
        exact (List.mem_append.mp hx).elim now prev
      obtain ⟨told, cab⟩ := hGdData_answers pl mine' (new fresh) (open_ h (by decide)) (State.gdWrite_completes mats (entry he) new' awaits) rfl
      refine ⟨_, acted h rfl, told, cab.trans ?_⟩
      exact congrArg (fun c : Cab => { c with dir := updFirst c.dir (fun y => y.aid == m.aid) (Entry.complete slot key mats) }) traffic.cab
    · obtain ⟨told, cab⟩ := hGdData_answers pl mine' (new fresh) (open_ h (by decide)) (State.gdWrite_again mats (entry he) again) rfl
      exact ⟨_, acted h rfl, told, cab.trans traffic.cab⟩
    · obtain ⟨told, cab⟩ := hGdData_answers pl mine' (new fresh) (open_ h (by decide))
        (State.gdWrite_expired mats (entry he) (not_or.mpr ⟨now, prev⟩) none) rfl
      exact ⟨_, acted h rfl, told, cab.trans traffic.cab⟩
  case gdCommit =>
    intro r p sseq mi ship slot h answers kind ok
    refine ⟨_, acted h (hGdCommit_frees (req answers) kind ok), fun g hg part same => ?_⟩
    exact State.shipDone_ok_gone _ _ _ hg part same

end Sys2Proof.Machine
end

section
/-! PROOF. The pool's timers (R259, R310–R312, R329, R330, R342, R640): one lemma for each outcome of each timer. -/

namespace Sys2Proof.Machine

open Sys2Proof

section
variable {s : State}

/-! ### Requests (R342) -/

/-- Where numbers are given once, a request is found by its number. -/
theorem find?_of_nodup {l : List PReq} (nodup : (l.map (·.id)).Nodup) {x : PReq} (hx : x ∈ l) : l.find? (fun y => y.id == x.id) = some x := by
  induction l with
  | nil => cases hx
  | cons y l ih =>
    rw [List.map_cons, List.nodup_cons] at nodup
    obtain ⟨unlisted, nodup⟩ := nodup
    rcases List.mem_cons.mp hx with rfl | hx
    · exact List.find?_cons_of_pos (beq_self_eq_true _)
    · have ne : y.id ≠ x.id := fun e => unlisted (e ▸ List.mem_map_of_mem hx)
      rw [List.find?_cons_of_neg (by simpa using ne)]
      exact ih nodup hx

/-- A request that is sent anew: its timer runs from now. -/
def State.renewed (s : State) (x : PReq) : PReq :=
  { x with resends := x.resends + 1, t0 := s.now, due := s.now + usTicks s.pol.tReq.toNat, tFirst := 0 }

theorem exec_tReqExpiry {r : Nat} {x : PReq} (found : s.pol.reqs.find? (fun x => x.id == r && x.kind != .oneWay) = some x) :
    exec (.tReqExpiry r) s = .next (if s.now < x.due then s else (s.resend x).poolWork) := by
  change execTReqExpiry r s = _
  simp only [execTReqExpiry, found]

theorem State.resend_again {x : PReq} (more : x.resends < s.pol.retry.toNat) :
    s.resend x = if x.queued then s.modReq x.id s.renewed else (s.modReq x.id s.renewed).pushRpp x.peer x.msg := if_pos more

theorem State.resend_spent {x : PReq} (spent : s.pol.retry.toNat ≤ x.resends) :
    s.resend x = s.failReq x (if s.unreach x.peer || (x.peer < 65536 && (s.member x.peer).isNone) then .ownerUnreachable else .timeout) :=
  if_neg (Nat.not_lt.mpr spent)

theorem State.renewed_listed {x : PReq} (nodup : (s.pol.reqs.map (·.id)).Nodup) (hx : x ∈ s.pol.reqs) :
    s.renewed x ∈ (s.modReq x.id s.renewed).pol.reqs := mem_updFirst_of_find? _ (find?_of_nodup nodup hx)

theorem State.renewed_resent {x : PReq} (nodup : (s.pol.reqs.map (·.id)).Nodup) (hx : x ∈ s.pol.reqs) :
    s.renewed x ∈ ((s.modReq x.id s.renewed).pushRpp x.peer x.msg).pol.reqs := by
  rw [State.pushRpp, (State.traffic_sendFrames ..).reqs]
  exact State.renewed_listed nodup hx

/-! ### Members (R310–R312) -/

/-- A session peer that is marked unreachable. -/
def State.silence (s : State) (inst : Nat) : State := s.modPol fun q => q.modSess inst fun x => { x with unreach := true }

theorem State.silence_unreach {inst : Nat} (open_ : s.sessOpen inst = true) : (s.silence inst).unreach inst = true := by
  obtain ⟨x, session, -⟩ := (Option.any_eq_true _ _).mp open_
  have found : (s.silence inst).pol.session inst = some { x with unreach := true } :=
    (updFirst_find? s.pol.sess _ (fun x => { x with unreach := true }) fun _ => rfl).trans (congrArg _ session)
  rw [State.unreach, found]
  rfl

/-- A member that falls silent and with whom nothing is under way is only marked. -/
theorem exec_peerDead_silent {inst : Nat} (open_ : s.sessOpen inst = true) (reached : s.unreach inst = false)
    (due : (SMap.get (0, 0) s.pol.quiet inst).1 ≤ s.now) (moves : ∀ x ∈ s.pol.moves, x.peer ≠ inst) (reqs : ∀ r ∈ s.pol.reqs, r.peer ≠ inst) :
    exec (.peerDead inst) s = .next (s.silence inst).poolWork := by
  have none_asked : (s.silence inst).failPeer inst = s.silence inst := by
    have none : s.pol.reqs.filter (fun r => r.peer == inst) = [] := List.filter_eq_nil_iff.mpr fun r hr => by simpa using reqs r hr
    exact congrArg (fun l => l.foldl (fun s r => s.failReq r .ownerUnreachable) (s.silence inst)) none
  have none_moved : s.pol.moves.filter (fun m => m.source && m.peer == inst) = [] :=
    List.filter_eq_nil_iff.mpr fun x hx => by simp [moves x hx]
  change execPeerDead inst s = _
  rw [execPeerDead, if_neg (by simp [open_, reached, due])]
  dsimp only
  rw [← State.silence, none_asked]
  exact congrArg (fun l => Host.Outcome.next (l.foldl (fun (s : State) m => s.abortMove m.range .ownerUnreachable) (s.silence inst)).poolWork) none_moved

theorem exec_peerDead_early {inst : Nat} (early : s.now < (SMap.get (0, 0) s.pol.quiet inst).1) : exec (.peerDead inst) s = .next s :=
  congrArg Host.Outcome.next (if_pos (.inr (.inr early)))

theorem exec_lease_expired {inst : Nat} (registrar : s.isRegistrar = true) (majority : s.majority = true) (other : inst ≠ s.me)
    (member : (s.member inst).isSome = true) (listed : ∀ x ∈ s.pol.nextView ++ s.pol.pend.toList, inst ∉ x.del)
    (due : (SMap.get (0, 0) s.pol.quiet inst).2 ≤ s.now) :
    exec (.lease inst) s = .next (s.propose { noChange with del := [inst] }).poolWork := by
  have known : (s.member inst).isNone = false := by rw [← Option.not_isSome, member]; rfl
  have unlisted : (s.pol.nextView ++ s.pol.pend.toList).any (fun v => v.del.contains inst) = false :=
    List.any_eq_false.mpr fun x hx => by simpa using listed x hx
  refine congrArg Host.Outcome.next (if_neg ?_)
  rw [registrar, majority, known, unlisted]
  simp [other, due]

/-! ### Granted slots (R259) -/

theorem exec_gdHold {aid slot : Nat} {e : Entry} {c : Contrib} (he : s.entry aid = some e)
    (found : e.contribs.find? (fun c => c.slot == slot && !c.written) = some c) :
    exec (.gdHold aid slot) s = .next (if s.now < c.due then s else (s.dropSlot aid slot).movesGo) := by
  change execGdHold aid slot s = _
  rw [execGdHold, he, Option.bind_some, found]

/-- The entry without the contribution of a slot. -/
def Entry.ungrant (slot : Nat) (e : Entry) : Entry := { e with contribs := e.contribs.filter fun c => c.slot != slot }

theorem State.dropSlot_entry {aid : Nat} (slot : Nat) {e : Entry} (he : s.entry aid = some e) :
    (s.dropSlot aid slot).entry aid = some (e.ungrant slot) := by
  refine (State.entry_modEntry (s := s) (f := Entry.ungrant slot) aid aid fun _ => rfl).trans ?_
  rw [if_pos rfl, he, Option.map_some]

theorem State.dropSlot_freed (s : State) (aid slot : Nat) : ∀ x ∈ (s.dropSlot aid slot).cab.extents, x.obj ≠ .contrib aid slot := fun x hx => by
  obtain ⟨-, other⟩ := List.mem_filter.mp hx
  simpa using other

theorem State.poolIdle_iff (s : State) : s.poolIdle = true ↔ s.serviceUp 2 3 = true ∧ s.pol.work = [] ∧ s.pol.heldMsgs = [] := by
  simp only [State.poolIdle, Bool.and_eq_true, List.isEmpty_iff, and_assoc]

/-! ### Snapshots (R330, R640) -/

theorem exec_calNow {s : State} (booted : s.booted = true) : exec .calNow s = .next (s.runItem .snapshot) :=
  congrArg Host.Outcome.next (if_neg (by simp [booted]))

theorem State.runItem_snapshot (idle : s.poolIdle = true) : s.runItem .snapshot = s.takeSnap := by
  obtain ⟨up, work, held⟩ := s.poolIdle_iff.mp idle
  exact State.runItem_idle .snapshot up work held work held

theorem exec_calPeriod_early (due : s.due perCal = false) : exec .calPeriod s = .next s := by
  change Host.Outcome.next (if s.booted = false then s else s.periodic perCal _ 2 _) = _
  rw [State.periodic, if_neg (c := s.due perCal = true) (by simp [due]), ite_self]

theorem exec_calPeriod_due (booted : s.booted = true) (due : s.due perCal = true) (idle : s.poolIdle = true) :
    ∃ l k, exec .calPeriod s = .next (State.takeSnap { s.align perCal (100000 * s.pol.calPeriod.toNat) with lnk := l, freeCtr := k })
      ∧ (s.dueOf perCal = s.now → l = s.lnk) := by
  obtain ⟨l, k, lag, silent⟩ := State.lagNotice_eq (s.align perCal (100000 * s.pol.calPeriod.toNat)) 2 (s.dueOf perCal)
  refine ⟨l, k, ?_, fun e => (silent e).1⟩
  have taken : State.runItem { s.align perCal (100000 * s.pol.calPeriod.toNat) with lnk := l, freeCtr := k } .snapshot = _ :=
    State.runItem_snapshot idle
  change Host.Outcome.next (if s.booted = false then s else s.periodic perCal _ 2 State.calTrigger) = _
  rw [if_neg (by simp [booted]), State.periodic, if_pos due, lag, ← taken]
  exact congrArg Host.Outcome.next (if_neg fun off => Bool.false_ne_true (off.symm.trans booted))

/-! ### Requests to a peer whose session may be closed (R337) -/

/-- Opening a session lists at most its `HELLO`, under the next number. -/
theorem State.openSess_reqs (s : State) (peer : Nat) :
    ((s.openSess peer).pol.reqs = s.pol.reqs ∧ (s.openSess peer).pol.nextReq = s.pol.nextReq)
    ∨ ∃ h, h.id = s.pol.nextReq ∧ h.kind = .hello ∧ (s.openSess peer).pol.reqs = s.pol.reqs ++ [h] ∧ (s.openSess peer).pol.nextReq = s.pol.nextReq + 1 := by
  unfold State.openSess
  dsimp only
  split
  · exact .inl ⟨rfl, rfl⟩
  · split
    · exact .inl ⟨rfl, rfl⟩
    · refine .inr ⟨_, ?_, ?_, (State.traffic_sendFrames ..).reqs, (congrArg Pol.nextReq (State.traffic_sendFrames ..).pol).symm⟩
      · rfl
      · rfl

theorem State.opened_counts {peer : Nat} (counted : ∀ x ∈ s.pol.reqs, x.id < s.pol.nextReq) :
    ∀ x ∈ (s.opened peer).pol.reqs, x.id < (s.opened peer).pol.nextReq := by
  unfold State.opened
  split
  · exact counted
  · obtain ⟨reqs, next⟩ | ⟨h, hid, -, reqs, next⟩ := s.openSess_reqs peer
    · rw [reqs, next]
      exact counted
    · rw [reqs, next]
      intro x hx
      rcases List.mem_append.mp hx with old | new
      · exact Nat.lt_succ_of_lt (counted x old)
      · rw [List.mem_singleton.mp new, hid]
        exact Nat.lt_succ_self _

/-! ### Probes (R329) -/

theorem exec_probePeriod_early {grp : Nat} (early : s.now < SMap.get 0 s.pol.groupAt grp) : exec (.probePeriod grp) s = .next s :=
  congrArg Host.Outcome.next (if_pos (.inr early))

/-- A group with members and without an exchange under way has one of its members probed. -/
theorem State.probeGroup_asks {grp : Nat} (group : ∃ x ∈ s.pol.members, x.group = grp ∧ x.inst ≠ s.me) (quiet : s.pol.reqs = []) :
    s.Asks (s.probeGroup grp)
      ∧ ∃ y ∈ (s.probeGroup grp).pol.reqs, y.kind = .probe grp ∧ ∃ x ∈ s.pol.members, x.group = grp ∧ y.peer = x.inst := by
  obtain ⟨l, hl⟩ : ∃ l, l = (s.pol.members.filter fun m => m.group == grp && m.inst != s.me).map (·.inst) := ⟨_, rfl⟩
  have members : ∀ i ∈ l, ∃ x ∈ s.pol.members, x.group = grp ∧ i = x.inst := by
    intro i hi
    rw [hl] at hi
    obtain ⟨x, hx, rfl⟩ := List.mem_map.mp hi
    obtain ⟨listed, here⟩ := List.mem_filter.mp hx
    simp only [Bool.and_eq_true, beq_iff_eq] at here
    exact ⟨x, listed, here.1, rfl⟩
  have nonempty : l ≠ [] := by
    obtain ⟨x, hx, grp, other⟩ := group
    rw [hl]
    exact List.ne_nil_of_mem (List.mem_map_of_mem (List.mem_filter.mpr ⟨hx, by simp [grp, other]⟩))
  let c := s.fresh
  let peer := nth l (c.1 % l.length) 0
  have run : s.probeGroup grp = c.2.queueRpp peer (.probe grp) (c.2.rppMsg peer 0x1A 0 .ok 0 0 .none).long := by
    rw [State.probeGroup, ← hl, quiet]
    exact if_neg (by simp [nonempty])
  have chosen : peer ∈ l := by
    have lt : c.1 % l.length < l.length := Nat.mod_lt _ (List.length_pos_iff.mpr nonempty)
    change l.getD _ 0 ∈ l
    rw [List.getD_eq_getElem?_getD, List.getElem?_eq_getElem lt, Option.getD_some]
    exact List.getElem_mem lt
  have counted : ∀ x ∈ c.2.pol.reqs, x.id < c.2.pol.nextReq := fun x hx => by
    have none : c.2.pol.reqs = [] := quiet
    rw [none] at hx
    cases hx
  obtain ⟨y, stands, receiver, kind, -⟩ := State.queueRpp_waits (s := c.2) (peer := peer) (kind := .probe grp) (by simp)
    (fun x hx => Nat.ne_of_lt (State.opened_counts counted x hx)) (c.2.rppMsg peer 0x1A 0 .ok 0 0 .none).long
  obtain ⟨x, hx, grp', inst⟩ := members peer chosen
  rw [run]
  exact ⟨State.Asks.trans ⟨rfl⟩ (c.2.asks_queueRpp ..), y, stands, kind, x, hx, grp', receiver.trans inst⟩

theorem exec_probePeriod_due {grp : Nat} (member : s.pol.instValid = true) (due : SMap.get 0 s.pol.groupAt grp ≤ s.now) (idle : s.poolIdle = true)
    (group : ∃ x ∈ s.pol.members, x.group = grp ∧ x.inst ≠ s.me) (quiet : s.pol.reqs = []) :
    exec (.probePeriod grp) s = .next (s.probeGroup grp) := by
  obtain ⟨up, work, held⟩ := s.poolIdle_iff.mp idle
  have pol := congrArg State.pol (State.probeGroup_asks group quiet).1.rest
  have took := State.runItem_idle (.probe grp) up work held ((congrArg Pol.work pol).symm.trans work) ((congrArg Pol.heldMsgs pol).symm.trans held)
  refine (congrArg Host.Outcome.next (if_neg ?_)).trans (congrArg Host.Outcome.next took)
  simp [member, due]

end

end Sys2Proof.Machine
end

section
/-! PROOF. Whatever the pool pair and the engines do that it sets going, a member stays who it is, and its work list and the frames that wait for a
view stay as they are: one lemma for each function that neither joins a pool nor lets a peer go, in the order of the model's files. -/

namespace Sys2Proof.Machine

open Sys2Proof

/-- Who this member is, and what waits for the pool pair. -/
def Pol.seat (q : Pol) : (BitVec 16 × Bool) × List Work × List RppMsg := ((q.instId, q.instValid), q.work, q.heldMsgs)

@[simp] theorem Pol.seat_eta (q : Pol) : ((q.instId, q.instValid), q.work, q.heldMsgs) = q.seat := rfl

@[simp] theorem Pol.seat_mk (
      poolId group servePart seedCnt seeds instId instValid viewNum serveCap noteCap phbPeriod peerDead lease tReq tGap retry hyst amort
      calPeriod probePeriod visitWin pubMinor gdHold rppBad snapLast members ranges wards pend pendAcks pendAt nextView reclaim quarantine
      quiet sess reqs sent notes noteStamp hystTab cal snaps batchNext acks rx moves exports serveQ heldMsgs nextReq grants joins joinDue
      addr fetchQ groupAt work) :
    (Pol.mk
      poolId group servePart seedCnt seeds instId instValid viewNum serveCap noteCap phbPeriod peerDead lease tReq tGap retry hyst amort
      calPeriod probePeriod visitWin pubMinor gdHold rppBad snapLast members ranges wards pend pendAcks pendAt nextView reclaim quarantine
      quiet sess reqs sent notes noteStamp hystTab cal snaps batchNext acks rx moves exports serveQ heldMsgs nextReq grants joins joinDue
      addr fetchQ groupAt work).seat
      = ((instId, instValid), work, heldMsgs) := rfl

@[simp] theorem Pol.ite_seat {c : Prop} [Decidable c] (q r : Pol) : (if c then q else r).seat = if c then q.seat else r.seat := apply_ite ..

@[simp] theorem Pol.modSess_seat (q : Pol) (inst : Nat) (f : RppSess → RppSess) : (q.modSess inst f).seat = q.seat := rfl

/-! ### Shapes of definitions -/

@[simp] theorem State.ite_seat {c : Prop} [Decidable c] (a b : State) :
    (if c then a else b).pol.seat = if c then a.pol.seat else b.pol.seat := apply_ite (fun s : State => s.pol.seat) c a b

@[simp] theorem State.foldl_seat {α : Type} (l : List α) (f : State → α → State) (s : State)
    (h : ∀ s a, (f s a).pol.seat = s.pol.seat) : (l.foldl f s).pol.seat = s.pol.seat := by
  induction l generalizing s with
  | nil => rfl
  | cons a l ih => rw [List.foldl_cons, ih, h]

/-- The state beside which a fold collects its results. -/
@[simp] theorem State.foldl_fst_seat {α β : Type} (l : List α) (f : State × β → α → State × β) (x : State × β)
    (h : ∀ x a, (f x a).1.pol.seat = x.1.pol.seat) : (l.foldl f x).1.pol.seat = x.1.pol.seat := by
  induction l generalizing x with
  | nil => rfl
  | cons a l ih => rw [List.foldl_cons, ih, h]

@[simp] theorem State.foldl_snd_seat {α β : Type} (l : List α) (f : β × State → α → β × State) (x : β × State)
    (h : ∀ x a, (f x a).2.pol.seat = x.2.pol.seat) : (l.foldl f x).2.pol.seat = x.2.pol.seat := by
  induction l generalizing x with
  | nil => rfl
  | cons a l ih => rw [List.foldl_cons, ih, h]

/-- The state of a result that is known by its parts. -/
theorem State.seat_of_pair {α : Type} {r : α × State} {a : α} {s t : State} (h : r = (a, t)) (hr : r.2.pol.seat = s.pol.seat) :
    t.pol.seat = s.pol.seat := by rw [← hr, h]

@[simp] theorem State.requestWakes_seat (s : State) (doms : List Nat) : (s.requestWakes doms).pol.seat = s.pol.seat := by
  simp [State.requestWakes]

@[simp] theorem State.wakeHbm_seat (s : State) (ks : List Nat) : (s.wakeHbm ks).pol.seat = s.pol.seat := by simp [State.wakeHbm]

@[simp] theorem State.hbmRead_seat (s : State) : s.hbmRead.pol.seat = s.pol.seat :=
  State.foldl_seat _ _ _ fun _ _ => rfl

@[simp] theorem State.hbmWork_seat (s : State) : s.hbmWork.pol.seat = s.pol.seat := by
  rw [State.hbmWork, State.foldl_seat, State.hbmRead_seat]
  exact fun _ _ => rfl

@[simp] theorem State.land_seat (s : State) (space addr : Nat) (bytes : List Byte) :
    (s.land space addr bytes).pol.seat = s.pol.seat := by
  simp [State.land]

@[simp] theorem State.fabCount_seat (s : State) (port : Option Nat) (sent : Bool) (n : Nat) :
    (s.fabCount port sent n).pol.seat = s.pol.seat := by
  unfold State.fabCount
  split <;> simp

@[simp] theorem State.putXfer_seat (s : State) (x : Xfer) : (s.putXfer x).pol.seat = s.pol.seat := by simp [State.putXfer]

@[simp] theorem State.sendXfer_seat (s : State) (space addr len : Nat) (write : Option (List Byte)) (use : XferFor) :
    (s.sendXfer space addr len write use).pol.seat = s.pol.seat := by
  unfold State.sendXfer
  dsimp only
  repeat' split
  all_goals simp

@[simp] theorem State.putFrame_seat (s : State) (port : Option Nat) (peer n : Nat) (m : RppMsg) :
    (s.putFrame port peer n m).pol.seat = s.pol.seat := by
  unfold State.putFrame
  split <;> simp

/-! ### Machine/Latches -/

@[simp] theorem State.setLatch_seat (s : State) (n : Nat) (l : Latch) : (s.setLatch n l).pol.seat = s.pol.seat := by
  simp [State.setLatch]

@[simp] theorem State.latchOp_seat (s : State) (ag : Agent) (n op d : Nat) : (s.latchOp ag n op d).2.pol.seat = s.pol.seat := by
  unfold State.latchOp
  dsimp only
  repeat' split
  all_goals simp

@[simp] theorem State.modLatches_seat (s : State) (f : Latch → Latch) : (s.modLatches f).pol.seat = s.pol.seat := by
  simp [State.modLatches]

@[simp] theorem State.relStep_seat (s : State) (p : Nat) : (s.relStep p).pol.seat = s.pol.seat := by simp [State.relStep]

@[simp] theorem State.gateRelease_seat (s : State) (p : Nat) : (s.gateRelease p).pol.seat = s.pol.seat := by
  simp [State.gateRelease]

/-! ### Machine/Rcl -/

@[simp] theorem State.respondAt_seat (s : State) (took vc : Nat) (tag : Word) (session : Nat) (st : Status) (hint q : Nat) (data : List Byte) :
    (s.respondAt took vc tag session st hint q data).pol.seat = s.pol.seat := by
  simp [State.respondAt]

@[simp] theorem State.notice_seat (s : State) (opc : Nat) (data : List Byte) : (s.notice opc data).pol.seat = s.pol.seat := by
  unfold State.notice
  split <;> simp

@[simp] theorem State.lagNotice_seat (s : State) (svc due : Nat) : (s.lagNotice svc due).pol.seat = s.pol.seat := by
  simp [State.lagNotice]

@[simp] theorem State.endLong_seat (s : State) (id : Nat) (st : Status) (data : List Byte) :
    (s.endLong id st data).pol.seat = s.pol.seat := by
  unfold State.endLong
  repeat' split
  all_goals simp

/-! ### Machine/Cabinet -/

@[simp] theorem State.placeSave_seat (s : State) (p : Nat) : (s.placeSave p).pol.seat = s.pol.seat := by simp [State.placeSave]

@[simp] theorem State.newCharge_seat (s : State) (p : Nat) : (s.newCharge p).pol.seat = s.pol.seat := by simp [State.newCharge]

@[simp] theorem State.charge_seat (s : State) (p len : Nat) (o : CabObj) : (s.charge p len o).2.pol.seat = s.pol.seat := by
  unfold State.charge
  repeat' split
  all_goals simp

@[simp] theorem State.modEntry_seat (s : State) (aid : Nat) (f : Entry → Entry) : (s.modEntry aid f).pol.seat = s.pol.seat := by
  simp [State.modEntry]

/-! ### Machine/Descs -/

@[simp] theorem State.setSlot_seat (s : State) (i : Nat) (v : DescSlot) : (s.setSlot i v).pol.seat = s.pol.seat := by
  simp [State.setSlot]

@[simp] theorem State.addRef_seat (s : State) (i : Nat) : (s.addRef i).pol.seat = s.pol.seat := by simp [State.addRef]

/-! ### Machine/Security -/

@[simp] theorem State.endSession_seat (s : State) (i : Nat) : (s.endSession i).pol.seat = s.pol.seat := by
  unfold State.endSession
  split <;> simp

@[simp] theorem State.openSession_seat (s : State) (f : RclFrame) (c : Crypto) (ward si ti : Nat) :
    (s.openSession f c ward si ti).2.pol.seat = s.pol.seat := by
  simp [State.openSession]

@[simp] theorem State.settleClaims_seat (s : State) : s.settleClaims.pol.seat = s.pol.seat := by
  refine State.foldl_seat _ _ _ fun s a => ?_
  dsimp only
  repeat' split
  all_goals simp

/-! ### Machine/PoolBase -/

@[simp] theorem State.touchGroup_seat (s : State) (peer ty : Nat) : (s.touchGroup peer ty).pol.seat = s.pol.seat := by
  unfold State.touchGroup
  split <;> simp

@[simp] theorem State.sendFrame_seat (s : State) (peer : Nat) (m : RppMsg) : (s.sendFrame peer m).pol.seat = s.pol.seat := by
  unfold State.sendFrame
  split <;> simp

@[simp] theorem State.sendFrames_seat (s : State) (peer : Nat) (l : List RppMsg) : (s.sendFrames peer l).pol.seat = s.pol.seat := by
  simp [State.sendFrames]

@[simp] theorem State.openSess_seat (s : State) (peer : Nat) : (s.openSess peer).pol.seat = s.pol.seat := by
  unfold State.openSess
  dsimp only
  repeat' split
  all_goals simp

@[simp] theorem State.launch_seat (s : State) (id : Nat) : (s.launch id).pol.seat = s.pol.seat := by
  unfold State.launch
  repeat' split
  all_goals simp

@[simp] theorem State.queueRpp_seat (s : State) (peer : Nat) (kind : ReqKind) (msg : RppMsg) :
    (s.queueRpp peer kind msg).pol.seat = s.pol.seat := by
  simp [State.queueRpp]

@[simp] theorem State.request_seat (s : State) (peer : Nat) (kind : ReqKind) (ty aid ep : Nat) (pl : RppPl) :
    (s.request peer kind ty aid ep pl).pol.seat = s.pol.seat := by
  simp [State.request]

@[simp] theorem State.pushRpp_seat (s : State) (peer : Nat) (m : RppMsg) : (s.pushRpp peer m).pol.seat = s.pol.seat := by
  simp [State.pushRpp]

@[simp] theorem State.sendRpp_seat (s : State) (peer ty tag : Nat) (st : Status) (aid ep : Nat) (pl : RppPl) :
    (s.sendRpp peer ty tag st aid ep pl).pol.seat = s.pol.seat := by
  simp [State.sendRpp]

@[simp] theorem State.flushQueued_seat (s : State) : s.flushQueued.pol.seat = s.pol.seat := by simp [State.flushQueued]

@[simp] theorem State.reply_seat (s : State) (m : RppMsg) (peer ty : Nat) (st : Status) (pl : RppPl) :
    (s.reply m peer ty st pl).pol.seat = s.pol.seat := by
  simp [State.reply]

@[simp] theorem State.dropReq_seat (s : State) (id : Nat) : (s.dropReq id).pol.seat = s.pol.seat := by simp [State.dropReq]

@[simp] theorem State.modReq_seat (s : State) (id : Nat) (f : PReq → PReq) : (s.modReq id f).pol.seat = s.pol.seat := by
  simp [State.modReq]

@[simp] theorem State.pullView_seat (s : State) (peer : Nat) : (s.pullView peer).pol.seat = s.pol.seat := by simp [State.pullView]

theorem State.serveReq_seat (s : State) (m : RppMsg) (peer : Nat) (body : State → State)
    (h : ∀ t, (body t).pol.seat = t.pol.seat) : (s.serveReq m peer body).pol.seat = s.pol.seat := by
  unfold State.serveReq
  dsimp only
  repeat' split
  all_goals simp [h]

@[simp] theorem State.finishReq_seat (s : State) (peer tag : Nat) (ty : Nat) (st : Status) (aid ep : Nat) (pl : RppPl) :
    (s.finishReq peer tag ty st aid ep pl).pol.seat = s.pol.seat := by
  unfold State.finishReq
  split <;> simp

@[simp] theorem State.redirect_seat (s : State) (m : RppMsg) (peer : Nat) : (s.redirect m peer).pol.seat = s.pol.seat := by
  simp [State.redirect]

/-! ### Machine/RasLog -/

@[simp] theorem State.rasLog_seat (s : State) (kind index sev etype part addr : Nat) :
    (s.rasLog kind index sev etype part addr).pol.seat = s.pol.seat := by
  simp [State.rasLog]

@[simp] theorem State.faultSend_seat (s : State) (h : HeldFault) : (s.faultSend h).pol.seat = s.pol.seat := by
  simp [State.faultSend]

@[simp] theorem State.faultNote_seat (s : State) (kind index sev mask : Nat) :
    (s.faultNote kind index sev mask).pol.seat = s.pol.seat := by
  simp [State.faultNote]

@[simp] theorem State.rasError_seat (s : State) (kind index sev etype part addr mask : Nat) :
    (s.rasError kind index sev etype part addr mask).pol.seat = s.pol.seat := by
  simp [State.rasError]

@[simp] theorem State.logSkip_seat (s : State) : s.logSkip.pol.seat = s.pol.seat := by simp [State.logSkip]

@[simp] theorem State.logSlow_seat (s : State) : s.logSlow.pol.seat = s.pol.seat := by simp [State.logSlow]

/-! ### Machine/Versions -/

@[simp] theorem State.modSlot_seat (s : State) (aid ep : Nat) (f : VSlot → VSlot) : (s.modSlot aid ep f).pol.seat = s.pol.seat := by
  simp [State.modSlot]

@[simp] theorem State.sendRetired_seat (s : State) (l : List (Nat × Nat)) : (s.sendRetired l).pol.seat = s.pol.seat := by
  simp [State.sendRetired]

@[simp] theorem State.freeEntry_seat (s : State) (e : Entry) : (s.freeEntry e).pol.seat = s.pol.seat := by simp [State.freeEntry]

@[simp] theorem State.reclaim_seat (s : State) : s.reclaim.pol.seat = s.pol.seat := by simp [State.reclaim]

@[simp] theorem State.dropCached_seat (s : State) (aid ep : Nat) : (s.dropCached aid ep).pol.seat = s.pol.seat := by
  simp [State.dropCached]

@[simp] theorem State.evict_seat (s : State) (aid ep : Nat) : (s.evict aid ep).pol.seat = s.pol.seat := by
  unfold State.evict
  dsimp only
  repeat' split
  all_goals simp

theorem State.cacheReserve_seat {s t : State} {len b : Nat} {o : CabObj} (h : s.cacheReserve len o = some (b, t)) :
    t.pol.seat = s.pol.seat := by
  unfold State.cacheReserve at h
  split at h
  · cases h
  · obtain ⟨_, -, e⟩ := Option.map_eq_some_iff.mp h
    cases e
    simp

@[simp] theorem State.evictInval_seat (s : State) : s.evictInval.pol.seat = s.pol.seat := by simp [State.evictInval]

theorem State.cacheEntry_seat {s t : State} {aid owner : Nat} {r : NoteRec} (h : s.cacheEntry aid owner r = some t) :
    t.pol.seat = s.pol.seat := by
  unfold State.cacheEntry at h
  split at h
  · split at h
    · cases h
    · split at h
      · cases h; rfl
      · split at h
        · cases h; simp
        · cases h
  · dsimp only at h
    split at h
    · cases h
    · rename_i room
      split at h
      · cases h
      · cases h
        split at room
        · cases room; rfl
        · split at room
          · cases room; simp
          · cases room

theorem State.beginFill_seat {s t : State} {aid ep owner blen : Nat} {r : NoteRec} (h : s.beginFill aid ep owner blen r = some t) :
    t.pol.seat = s.pol.seat := by
  unfold State.beginFill at h
  split at h
  · cases h
  · rename_i s1 e1
    split at h
    · cases h
    · rename_i b s2 e2
      split at h
      · cases h
      · rename_i s3 e3
        cases h
        simp [State.cacheEntry_seat e3, State.cacheReserve_seat e2, State.cacheEntry_seat e1]

@[simp] theorem State.failFill_seat (s : State) (aid ep : Nat) : (s.failFill aid ep).pol.seat = s.pol.seat := by
  unfold State.failFill
  split <;> simp

@[simp] theorem State.takeRef_seat (s : State) (aid ep : Nat) : (s.takeRef aid ep).pol.seat = s.pol.seat := by simp [State.takeRef]

@[simp] theorem State.freeRef_seat (s : State) (aid ep : Nat) : (s.freeRef aid ep).pol.seat = s.pol.seat := by simp [State.freeRef]

@[simp] theorem State.hostXfer_seat (s : State) (addr len : Nat) (write : Option (List Byte)) (use : XferFor) :
    (s.hostXfer addr len write use).pol.seat = s.pol.seat := by
  simp [State.hostXfer]

@[simp] theorem State.demoted_seat (s : State) (aid ep : Nat) : (s.demoted aid ep).pol.seat = s.pol.seat := by
  unfold State.demoted
  repeat' split
  all_goals simp

@[simp] theorem State.demoteOne_seat (s : State) (p : Nat) (e : Entry) (v : VSlot) : (s.demoteOne p e v).pol.seat = s.pol.seat := by
  unfold State.demoteOne
  repeat' split
  all_goals simp

@[simp] theorem State.demote_seat (p n : Nat) (s : State) : (State.demote p n s).pol.seat = s.pol.seat := by
  induction n generalizing s with
  | zero => rfl
  | succ n ih =>
    unfold State.demote
    split
    · split
      · rfl
      · rw [ih, State.demoteOne_seat]
    · rfl

@[simp] theorem State.promote_seat (s : State) (aid ep : Nat) : (s.promote aid ep).2.pol.seat = s.pol.seat := by
  unfold State.promote
  split
  · rfl
  · split
    · rfl
    · split
      · rfl
      · split
        · next h => exact State.seat_of_pair h (State.charge_seat ..)
        · next h => simp [State.seat_of_pair h (State.charge_seat ..)]

@[simp] theorem State.promoted_seat (s : State) (aid ep : Nat) (bytes : Option (List Byte)) :
    (s.promoted aid ep bytes).pol.seat = s.pol.seat := by
  unfold State.promoted
  dsimp only
  repeat' split
  all_goals simp

@[simp] theorem State.freeAdapter_seat (s : State) (aid : Nat) : (s.freeAdapter aid).pol.seat = s.pol.seat := by
  simp [State.freeAdapter]

/-! ### Machine/Adapters -/

@[simp] theorem State.fetchFor_seat (s : State) (l : List (Nat × Nat)) : (s.fetchFor l).2.pol.seat = s.pol.seat := by
  simp [State.fetchFor]

@[simp] theorem State.pinAt_seat (s : State) (aid ep : Nat) : (s.pinAt aid ep).pol.seat = s.pol.seat := by simp [State.pinAt]

@[simp] theorem State.pinFill_seat (s : State) : s.pinFill.pol.seat = s.pol.seat := by
  unfold State.pinFill
  dsimp only
  rw [State.modCab_pol, State.fetchFor_seat, State.foldl_fst_seat]
  · simp
  · intro x a
    split
    · rfl
    · next h => simp [State.beginFill_seat h]

@[simp] theorem State.pinRefresh_seat (s : State) : s.pinRefresh.pol.seat = s.pol.seat := by simp [State.pinRefresh]

@[simp] theorem State.pinStart_seat (s : State) : s.pinStart.pol.seat = s.pol.seat := by simp [State.pinStart]

@[simp] theorem State.pinSettle_seat (s : State) : s.pinSettle.pol.seat = s.pol.seat := by
  unfold State.pinSettle
  dsimp only
  repeat' split
  all_goals simp

/-! ### Machine/Jobs -/

@[simp] theorem State.modJob_seat (s : State) (p num : Nat) (f : Job → Job) : (s.modJob p num f).pol.seat = s.pol.seat := by
  simp [State.modJob]

/-! ### Machine/Tensor -/

@[simp] theorem State.want_seat (s : State) (p tag : Nat) (rs : List Rng) : (s.want p tag rs).2.pol.seat = s.pol.seat := by
  unfold State.want
  split <;> simp

@[simp] theorem State.stepWrite_seat (s : State) (space addr : Nat) (bytes : List Byte) (tag : WriteTag) (drw : Nat) (key ew page : Nat) :
    (s.stepWrite space addr bytes tag drw key ew page).pol.seat = s.pol.seat := by
  simp [State.stepWrite]

/-! ### Machine/Load -/

@[simp] theorem State.addRec_seat (s : State) (p i : Nat) (rd wr : Nat) : (s.addRec p i rd wr).pol.seat = s.pol.seat := by
  simp [State.addRec]

@[simp] theorem State.takeRefs_seat (s : State) (p : Nat) (hs : List Word) : (s.takeRefs p hs).pol.seat = s.pol.seat := by
  simp [State.takeRefs]

@[simp] theorem State.phaseLoad_seat (s : State) (p : Nat) (c : Ctx) : (s.phaseLoad p c).state.pol.seat = s.pol.seat := by
  unfold State.phaseLoad
  extract_lets h own judge others bad
  split
  · rfl
  · rename_i s1 _ _
    have e1 : s1.pol.seat = s.pol.seat := by simp [s1]
    split
    · split
      · simp [e1]
      · extract_lets found
        split
        · simp [e1]
        · exact e1
        · extract_lets s2
          have e2 : s2.pol.seat = s.pol.seat := by simp [s2, e1]
          split
          · exact e2
          · rename_i projs s3 ofsOk s4 gate _ _
            have e3 : s3.pol.seat = s.pol.seat := by simp [s3, e2]
            split
            · exact e3
            · simp [s4, e3]
    · exact e1

@[simp] theorem State.gateTry_seat (s : State) (p : Nat) (g : GateItem) : (s.gateTry p g).2.pol.seat = s.pol.seat := by
  have taken : (s.latchOp (.context p) g.latch 1 0).2.pol.seat = s.pol.seat := by simp
  unfold State.gateTry
  dsimp only
  split
  · rfl
  · split
    · rfl
    · split
      all_goals next h => exact State.seat_of_pair h taken

@[simp] theorem State.gateRun_seat (s : State) (p : Nat) (only : Option Bool) (l : List GateItem) :
    (s.gateRun p only l).state.pol.seat = s.pol.seat := by
  induction l generalizing s with
  | nil => rfl
  | cons g l ih =>
    unfold State.gateRun
    split
    · exact ih s
    · split
      · rfl
      · split
        all_goals next h => simp [ih, State.seat_of_pair h (State.gateTry_seat ..)]

@[simp] theorem State.phaseGate_seat (s : State) (p : Nat) (c : Ctx) (only : Option Bool) :
    (s.phaseGate p c only).state.pol.seat = s.pol.seat := by
  have run := s.gateRun_seat p only c.gate
  unfold State.phaseGate
  split
  · next h =>
    rw [h] at run
    simpa using run
  · exact run

@[simp] theorem State.modBudget_seat (s : State) (t : Nat) (f : Nat → Nat) : (s.modBudget t f).pol.seat = s.pol.seat := by
  simp [State.modBudget]

@[simp] theorem State.ticketRows_seat (s : State) (p : Nat) (c : Ctx) (rows : List Row) :
    (s.ticketRows p c rows).2.pol.seat = s.pol.seat := by
  refine State.foldl_snd_seat _ _ _ fun x r => ?_
  repeat' split
  all_goals simp

@[simp] theorem State.popSub_seat (s : State) (p : Nat) (c : Ctx) : (s.popSub p c).pol.seat = s.pol.seat := by simp [State.popSub]

@[simp] theorem State.phaseSample_seat (s : State) (p : Nat) (c : Ctx) : (s.phaseSample p c).state.pol.seat = s.pol.seat := by
  unfold State.phaseSample
  split <;> simp

@[simp] theorem State.pinRows_seat (s : State) (p : Nat) : (s.pinRows p).pol.seat = s.pol.seat := by
  unfold State.pinRows
  split <;> simp

@[simp] theorem State.phaseTable_seat (s : State) (p : Nat) (c : Ctx) : (s.phaseTable p c).state.pol.seat = s.pol.seat := by
  unfold State.phaseTable
  extract_lets ri mems
  split
  · rfl
  · split
    · next h => exact State.seat_of_pair h (State.want_seat ..)
    · next h1 =>
      have e1 := State.seat_of_pair h1 (State.want_seat ..)
      extract_lets vb bnd n counted ofs
      have count (t : State) (k : Nat) : (counted t k).pol.seat = t.pol.seat := by simp [counted]
      split
      · exact (count _ _).trans e1
      · split
        · next h2 => exact (State.seat_of_pair h2 (State.want_seat ..)).trans e1
        · next h2 =>
          have e2 := (State.seat_of_pair h2 (State.want_seat ..)).trans e1
          split
          · next h3 => exact (State.seat_of_pair h3 (State.want_seat ..)).trans e2
          · next s3 h3 =>
            have e3 := (State.seat_of_pair h3 (State.want_seat ..)).trans e2
            extract_lets vr words ents ofsFail s4 rs t s5
            have e4 : s4.pol.seat = s.pol.seat := by simp [s4, count, e3]
            have e5 : s5.pol.seat = s.pol.seat := by simp [s5, t, e4]
            repeat' split
            all_goals simp [e4, e5]

@[simp] theorem State.phaseNotice_seat (s : State) (p : Nat) (c : Ctx) : (s.phaseNotice p c).state.pol.seat = s.pol.seat := by
  unfold State.phaseNotice
  dsimp only
  repeat' split
  all_goals simp

/-! ### Machine/Sort -/

@[simp] theorem State.hystPut_seat (s : State) (p aid : Nat) (path : Path) : (s.hystPut p aid path).pol.seat = s.pol.seat := by
  unfold State.hystPut
  rw [State.modPol_pol]
  dsimp only
  repeat' split
  all_goals simp

@[simp] theorem State.reserveStage_seat (s : State) (p : Nat) (prog : List MI) (ds : List PathInfo) :
    (s.reserveStage p prog ds).2.pol.seat = s.pol.seat := by
  unfold State.reserveStage
  dsimp only
  split
  · rfl
  · split
    · rw [State.foldl_snd_seat]
      · simp
      · rintro ⟨o, t⟩ d
        split
        · next h => cases h; rfl
        · next h =>
          cases h
          split
          · split
            all_goals next h => exact State.seat_of_pair h (State.promote_seat ..)
          · split
            · rfl
            · split
              · rfl
              · split
                · rfl
                · next h => simp [State.beginFill_seat h]
    · simp

@[simp] theorem Adm.phase2_seat (s : State) (p : Nat) (prog : List MI) (generator : Bool) (n : Nat) (a : Adm) :
    (Adm.phase2 s p prog generator n a).2.1.pol.seat = s.pol.seat := by
  induction n generalizing s a with
  | zero => rfl
  | succ n ih =>
    unfold Adm.phase2
    split
    · next h => exact State.seat_of_pair h (State.reserveStage_seat ..)
    · next h =>
      have e := State.seat_of_pair h (State.reserveStage_seat ..)
      dsimp only
      split
      · rw [ih, e]
      · split
        · rw [ih, e]
        · exact e

@[simp] theorem reserveGrads_seat (p : Nat) (a : Adm) (s : State) : (reserveGrads p a s).2.1.pol.seat = s.pol.seat := by
  unfold reserveGrads
  refine List.foldlRecOn (motive := fun x : Adm × State × List (Nat × Nat) => x.2.1.pol.seat = s.pol.seat) _ _ rfl ?_
  rintro ⟨b, t, new⟩ ht d -
  dsimp only at ht ⊢
  split
  · exact ht
  · split
    · exact ht
    · split
      · exact ht
      · split
        all_goals next h => simp [State.seat_of_pair h (State.charge_seat ..), ht]

@[simp] theorem State.refund_seat (s : State) (rows : List Row) : (s.refund rows).pol.seat = s.pol.seat := by simp [State.refund]

@[simp] theorem State.phaseSort_seat (s : State) (p : Nat) (c : Ctx) : (s.phaseSort p c).state.pol.seat = s.pol.seat := by
  unfold State.phaseSort
  extract_lets si a0 paths s1 a1 r2 a3 g a s2 ds gone s3 fl idle s4 s5 here drs rows rows' s6 s7
  have e1 : s1.pol.seat = s.pol.seat := State.foldl_seat _ _ _ fun t d => by simp
  have eg : g.2.1.pol.seat = s.pol.seat := by
    unfold g
    split <;> simp [r2, e1]
  simp [s7, s6, s5, s4, s3, s2, eg]

/-! ### Machine/Check -/

@[simp] theorem State.phaseCheck_seat (s : State) (p : Nat) (c : Ctx) : (s.phaseCheck p c).state.pol.seat = s.pol.seat := by
  have lists (l : List Nat) : (l.foldl (fun (st : Bool × State) i =>
      let r := st.2.want p (tagList i) (st.2.listRngs c i); (st.1 && r.1, r.2)) (true, s)).2.pol.seat = s.pol.seat :=
    State.foldl_snd_seat _ _ _ fun x i => by simp
  unfold State.phaseCheck
  dsimp only
  split
  · next h => exact State.seat_of_pair h (lists _)
  · next h =>
    have e := State.seat_of_pair h (lists _)
    repeat' split
    all_goals simp [e]

/-! ### Machine/Deliver -/

@[simp] theorem State.addRow_seat (s : State) (p i drw slot : Nat) (k : Cnt) : (s.addRow p i drw slot k).pol.seat = s.pol.seat := by
  simp [State.addRow]

@[simp] theorem State.addStat_seat (s : State) (p slot aid proj : Nat) (q : QCnt) :
    (s.addStat p slot aid proj q).pol.seat = s.pol.seat := by
  simp [State.addStat]

@[simp] theorem State.pushResp_seat (s : State) (port : Nat) (r : Resp) : (s.pushResp port r).pol.seat = s.pol.seat := by
  simp [State.pushResp]

@[simp] theorem State.sendResp_seat (s : State) (p slot off proj : Nat) (zero placed : Bool) (ofmt : Nat) (data : List Nat) :
    (s.sendResp p slot off proj zero placed ofmt data).pol.seat = s.pol.seat := by
  unfold State.sendResp
  split <;> simp

@[simp] theorem State.answerZero_seat (s : State) (p slot off proj : Nat) : (s.answerZero p slot off proj).pol.seat = s.pol.seat := by
  unfold State.answerZero
  split <;> simp

@[simp] theorem State.settleRow_seat (s : State) (p slot : Nat) (st : Status) : (s.settleRow p slot st).pol.seat = s.pol.seat := by
  unfold State.settleRow
  split <;> simp

@[simp] theorem State.settleDrawer_seat (s : State) (p drw : Nat) (st : Status) : (s.settleDrawer p drw st).pol.seat = s.pol.seat := by
  unfold State.settleDrawer
  split <;> simp

@[simp] theorem State.settleOut_seat (s : State) (p mi slot off : Nat) : (s.settleOut p mi slot off).pol.seat = s.pol.seat := by
  unfold State.settleOut
  split <;> simp

@[simp] theorem State.emit_seat (s : State) (p mi drw key space a : Nat) (bs : List Byte) (ew page : Nat) :
    (s.emit p mi drw key space a bs ew page).1.pol.seat = s.pol.seat := by
  unfold State.emit
  split <;> simp

@[simp] theorem State.putRow_seat (s : State) (p mi drw key : Nat) (v : View) (d : Desc) (cs : List Nat) (lo : Nat) (els : List (List Byte)) :
    (s.putRow p mi drw key v d cs lo els).1.pol.seat = s.pol.seat := by
  unfold State.putRow
  dsimp only
  repeat' split
  all_goals simp

@[simp] theorem State.placeVec_seat (s : State) (p pi drw slot off lo : Nat) (els : List (List Byte)) :
    (s.placeVec p pi drw slot off lo els).1.pol.seat = s.pol.seat := by
  unfold State.placeVec
  split
  · rfl
  · extract_lets m v t key
    split
    · rfl
    · split
      · simp
      · split
        · rfl
        · split
          · simp
          · extract_lets b u g s1 e s2 pg keep
            have e1 : s1.pol.seat = s.pol.seat := by simp [s1]
            have e2 : s2.pol.seat = s.pol.seat := by
              unfold s2
              split <;> simp [e1]
            repeat' split
            all_goals simp [e1, e2]
      · split
        · rfl
        · extract_lets zeros
          split
          · split
            · refine State.foldl_fst_seat _ _ _ fun y a => ?_
              dsimp only
              repeat' split
              all_goals simp
            · next k s1 _ _ =>
              have e1 : s1.pol.seat = s.pol.seat := by simp [s1]
              split <;> simp [e1]
          · refine State.foldl_fst_seat _ _ _ fun y a => ?_
            dsimp only
            repeat' split
            all_goals simp

/-! ### Machine/Units -/

@[simp] theorem State.loadOp_seat (s : State) (p : Nat) (c : Ctx) (u : WUnit) (l : Word × Nat) (fmt : Nat) (k : Int) (count stat : Bool) :
    (s.loadOp p c u l fmt k count stat).2.pol.seat = s.pol.seat := by
  unfold State.loadOp
  split
  · rfl
  · refine State.foldl_snd_seat _ _ _ fun x a => ?_
    dsimp only
    repeat' split
    all_goals simp

/-! ### Machine/Run -/

@[simp] theorem State.putLanes_seat (s : State) (p i k slot off lo : Nat) (vals : List Nat) (zero : Bool) :
    (s.putLanes p i k slot off lo vals zero).pol.seat = s.pol.seat := by
  unfold State.putLanes
  dsimp only
  repeat' split
  all_goals simp

@[simp] theorem State.visitRecs_seat (s : State) (p : Nat) (c : Ctx) (i k : Nat) : (s.visitRecs p c i k).2.pol.seat = s.pol.seat := by
  simp [State.visitRecs]

@[simp] theorem State.visitSend_seat (s : State) (p : Nat) : (s.visitSend p).pol.seat = s.pol.seat := by
  unfold State.visitSend
  split
  · rfl
  · split
    · rfl
    · refine State.foldl_seat _ _ _ fun t i => ?_
      split
      · rfl
      · split
        · rfl
        · refine State.foldl_seat _ _ _ fun t o => ?_
          dsimp only
          split
          · rfl
          · split
            · next h => exact State.seat_of_pair h (State.want_seat ..)
            · next h =>
              have e := State.seat_of_pair h (State.want_seat ..)
              split <;> simp [e]

@[simp] theorem State.visitDeliver_seat (s : State) (p : Nat) : (s.visitDeliver p).pol.seat = s.pol.seat := by
  unfold State.visitDeliver
  split
  · rfl
  · refine State.foldl_seat _ _ _ fun t i => State.foldl_seat _ _ _ fun t k => ?_
    split
    · rfl
    · dsimp only
      split
      · rfl
      · split
        · rfl
        · split
          · next h => exact State.seat_of_pair h (State.want_seat ..)
          · next h => simp [State.seat_of_pair h (State.want_seat ..)]

@[simp] theorem State.zeroPlace_seat (s : State) (p : Nat) : (s.zeroPlace p).pol.seat = s.pol.seat := by
  unfold State.zeroPlace
  split
  · rfl
  · refine State.foldl_seat _ _ _ fun t j => ?_
    split
    · rfl
    · split
      · rfl
      · refine State.foldl_seat _ _ _ fun t x => ?_
        split
        all_goals next h => simp [State.seat_of_pair h (State.want_seat ..)]

@[simp] theorem State.skipEmpty_seat (s : State) (p : Nat) : (s.skipEmpty p).pol.seat = s.pol.seat := by simp [State.skipEmpty]

@[simp] theorem State.pump_seat (s : State) (p : Nat) : (s.pump p).pol.seat = s.pol.seat := by
  unfold State.pump
  split <;> simp

/-! ### Machine/Hinge -/

@[simp] theorem State.zeroResp_seat (s : State) (port p sseq : Nat) (v : RowVec) (st : Status) :
    (s.zeroResp port p sseq v st).pol.seat = s.pol.seat := by
  simp [State.zeroResp]

@[simp] theorem State.orphan_seat (s : State) (port : Nat) (v : RowVec) : (s.orphan port v).pol.seat = s.pol.seat := by
  simp [State.orphan]

@[simp] theorem State.tornVec_seat (s : State) (port : Nat) (c : Ctx) (v : RowVec) : (s.tornVec port c v).pol.seat = s.pol.seat := by
  simp [State.tornVec]

@[simp] theorem State.takeVec_seat (s : State) (p port : Nat) (c : Ctx) (v : RowVec) :
    (s.takeVec p port c v).pol.seat = s.pol.seat := by
  unfold State.takeVec
  dsimp only
  repeat' split
  all_goals simp

@[simp] theorem State.tagCheck_seat (s : State) (p port : Nat) (v : RowVec) : (s.tagCheck p port v).pol.seat = s.pol.seat := by
  unfold State.tagCheck
  split <;> simp

@[simp] theorem State.vecGo_seat (s : State) (p port : Nat) (v : RowVec) : (s.vecGo p port v).pol.seat = s.pol.seat := by
  unfold State.vecGo
  repeat' split
  all_goals simp

@[simp] theorem State.beatCredit_seat (s : State) (port p : Nat) (f : Nat → Nat) : (s.beatCredit port p f).pol.seat = s.pol.seat := by
  simp [State.beatCredit]

@[simp] theorem State.releasePort_seat (p port n : Nat) (s : State) : (State.releasePort p port n s).pol.seat = s.pol.seat := by
  induction n generalizing s with
  | zero => rfl
  | succ n ih =>
    unfold State.releasePort
    split
    · rfl
    · split
      · rfl
      · simp [ih]

@[simp] theorem State.releaseHeld_seat (s : State) (p : Nat) : (s.releaseHeld p).pol.seat = s.pol.seat :=
  State.foldl_seat _ _ _ fun t port => State.releasePort_seat p port _ t

/-! ### Machine/Issue -/

@[simp] theorem State.dropPins_seat (s : State) (c : Ctx) : (s.dropPins c).pol.seat = s.pol.seat := by simp [State.dropPins]

@[simp] theorem State.dropGradNew_seat (s : State) (p : Nat) (l : List (Nat × Nat)) : (s.dropGradNew p l).pol.seat = s.pol.seat := by
  simp [State.dropGradNew]

@[simp] theorem State.refuse_seat (s : State) (p : Nat) (st : Status) (idx : Nat) : (s.refuse p st idx).pol.seat = s.pol.seat := by
  unfold State.refuse
  split <;> simp

@[simp] theorem State.issuePhase_seat (s : State) (p : Nat) (c : Ctx) : (s.issuePhase p c).state.pol.seat = s.pol.seat := by
  unfold State.issuePhase
  split <;> simp

@[simp] theorem State.issueGo_seat (p n : Nat) (s : State) : (State.issueGo p n s).pol.seat = s.pol.seat := by
  induction n generalizing s with
  | zero => rfl
  | succ n ih =>
    unfold State.issueGo
    split
    · rfl
    · next c _ =>
      have phase := s.issuePhase_seat p c
      split
      all_goals next h => rw [h] at phase; simpa [ih] using phase

@[simp] theorem State.resumeIssue_seat (s : State) (p : Nat) : (s.resumeIssue p).pol.seat = s.pol.seat := by
  simp [State.resumeIssue]

/-! ### Machine/Contrib -/

@[simp] theorem State.gdRequest_seat (s : State) (aid base : Nat) (key : SortKey) (src : Nat) :
    (s.gdRequest aid base key src).2.pol.seat = s.pol.seat := by
  unfold State.gdRequest
  split
  · rfl
  · split
    · rfl
    · split
      · rfl
      · split
        · rfl
        · split
          · rfl
          · split
            all_goals next h => simp [State.seat_of_pair h (State.charge_seat ..)]

@[simp] theorem State.gdWrite_seat (s : State) (aid slot : Nat) (key : SortKey) (mats : List (List Nat)) :
    (s.gdWrite aid slot key mats).2.pol.seat = s.pol.seat := by
  unfold State.gdWrite
  repeat' split
  all_goals simp

/-! ### Machine/Serial -/

@[simp] theorem State.dropGrad_seat (s : State) (p aid base : Nat) : (s.dropGrad p aid base).pol.seat = s.pol.seat := by
  simp [State.dropGrad]

@[simp] theorem State.shipDone_seat (s : State) (p sseq aid base : Nat) (st : Status) :
    (s.shipDone p sseq aid base st).pol.seat = s.pol.seat := by
  simp [State.shipDone]

/-! ### Machine/Report -/

@[simp] theorem State.modStep_seat (s : State) (p sseq : Nat) (f : Ctx → Ctx) : (s.modStep p sseq f).pol.seat = s.pol.seat := by
  simp [State.modStep]

/-! ### Machine/Fills -/

@[simp] theorem State.settleSaved_seat (s : State) (p drw : Nat) (st : Status) : (s.settleSaved p drw st).pol.seat = s.pol.seat := by
  unfold State.settleSaved
  split <;> simp

@[simp] theorem State.settleStep_seat (s : State) (p sseq drw : Nat) (st : Status) :
    (s.settleStep p sseq drw st).pol.seat = s.pol.seat := by
  simp [State.settleStep]

@[simp] theorem State.versionLost_seat (s : State) (path : Path) (aid ep : Nat) :
    (s.versionLost path aid ep).pol.seat = s.pol.seat := by
  simp [State.versionLost]

@[simp] theorem State.fillFailed_seat (s : State) (aid ep : Nat) : (s.fillFailed aid ep).pol.seat = s.pol.seat := by
  simp [State.fillFailed]

@[simp] theorem State.noteCreate_seat (s : State) (n : NoteRec) : (s.noteCreate n).pol.seat = s.pol.seat := by
  unfold State.noteCreate
  dsimp only
  repeat' split
  all_goals simp

@[simp] theorem State.noteMove_seat (s : State) (n : NoteRec) : (s.noteMove n).pol.seat = s.pol.seat := by
  unfold State.noteMove
  split <;> simp

@[simp] theorem State.noteReplace_seat (s : State) (n : NoteRec) : (s.noteReplace n).pol.seat = s.pol.seat := by
  simp [State.noteReplace]

@[simp] theorem State.noteDrop_seat (s : State) (aid : Nat) : (s.noteDrop aid).pol.seat = s.pol.seat := by simp [State.noteDrop]

@[simp] theorem State.sendBlob_seat (s : State) (peer tag seg aid ep : Nat) (last : Bool) :
    (s.sendBlob peer tag seg aid ep last).2.pol.seat = s.pol.seat := by
  unfold State.sendBlob
  split <;> simp

@[simp] theorem State.serveFill_seat (id : Nat × Nat) (n : Nat) (s : State) :
    (State.serveFill id n s).pol.seat = s.pol.seat := by
  induction n generalizing s with
  | zero => rfl
  | succ n ih =>
    unfold State.serveFill
    split
    · rfl
    · split
      · rfl
      · dsimp only
        repeat' split
        all_goals simp [ih]

@[simp] theorem State.serveFills_seat (s : State) : s.serveFills.pol.seat = s.pol.seat := by
  simp [State.serveFills]

@[simp] theorem State.promotionEnd_seat (s : State) (aid ep : Nat) (bytes : Option (List Byte)) :
    (s.promotionEnd aid ep bytes).pol.seat = s.pol.seat := by
  simp [State.promotionEnd]

/-! ### Machine/BootBlob -/

@[simp] theorem State.blobTo_seat (s : State) (l : List Nat) : (s.blobTo l).pol.seat = s.pol.seat := by
  unfold State.blobTo
  split <;> simp

@[simp] theorem State.blobStart_seat (s : State) : s.blobStart.pol.seat = s.pol.seat := by simp [State.blobStart]

@[simp] theorem State.blobAdvance_seat (s : State) : s.blobAdvance.pol.seat = s.pol.seat := by simp [State.blobAdvance]

@[simp] theorem State.blobSkip_seat (s : State) : s.blobSkip.pol.seat = s.pol.seat := by
  unfold State.blobSkip
  dsimp only
  repeat' split
  all_goals simp

@[simp] theorem State.blobReserve_seat (s : State) (aid home : Nat) : (s.blobReserve aid home).pol.seat = s.pol.seat := by
  unfold State.blobReserve
  dsimp only
  split
  all_goals next h => simpa using State.seat_of_pair h (State.charge_seat ..)

@[simp] theorem State.newEntry_seat (s : State) (aid p ward : Nat) : (s.newEntry aid p ward).pol.seat = s.pol.seat := by
  unfold State.newEntry
  split <;> simp

theorem State.takeId_seat {s t : State} {p ward a : Nat} {l : List Nat} (h : s.takeId p ward l = some (a, t)) :
    t.pol.seat = s.pol.seat := by
  obtain ⟨_, -, e⟩ := Option.map_eq_some_iff.mp h
  cases e
  simp

@[simp] theorem State.rangeFail_seat (s : State) (long : Nat) (st : Status) : (s.rangeFail long st).pol.seat = s.pol.seat := by
  simp [State.rangeFail]

@[simp] theorem State.rangeFor_seat (s : State) (long k : Nat) : (s.rangeFor long k).pol.seat = s.pol.seat := by
  unfold State.rangeFor
  dsimp only
  split
  · rfl
  · split
    · simp
    · split
      · simp
      · next h => split <;> simp [State.takeId_seat h]

/-! ### Machine/View -/

@[simp] theorem State.joinNext_seat (s : State) (after : Option Nat) : (s.joinNext after).pol.seat = s.pol.seat := by
  unfold State.joinNext
  dsimp only
  repeat' split
  all_goals simp

@[simp] theorem State.freeze_seat (s : State) (k : Nat) (b : Bool) : (s.freeze k b).pol.seat = s.pol.seat := by simp [State.freeze]

@[simp] theorem State.finishAbort_seat (s : State) (k : Nat) (st : Status) : (s.finishAbort k st).pol.seat = s.pol.seat := by
  unfold State.finishAbort
  repeat' split
  all_goals simp

@[simp] theorem State.regWithdraw_seat (s : State) (k inst : Nat) : (s.regWithdraw k inst).2.pol.seat = s.pol.seat := by
  unfold State.regWithdraw
  dsimp only
  repeat' split
  all_goals simp

@[simp] theorem State.askAbort_seat (s : State) (k : Nat) : (s.askAbort k).pol.seat = s.pol.seat := by
  unfold State.askAbort
  repeat' split
  all_goals simp

@[simp] theorem State.abortMove_seat (s : State) (k : Nat) (st : Status) : (s.abortMove k st).pol.seat = s.pol.seat := by
  unfold State.abortMove
  repeat' split
  all_goals simp

@[simp] theorem State.dropMove_seat (s : State) (k : Nat) : (s.dropMove k).pol.seat = s.pol.seat := by simp [State.dropMove]

@[simp] theorem State.noteFor_seat (s : State) (p : Nat) (l : List NoteRec) (dead : List Nat) :
    (s.noteFor p l dead).pol.seat = s.pol.seat := by
  simp [State.noteFor]

@[simp] theorem State.forget_seat (s : State) (e : Entry) : (s.forget e).pol.seat = s.pol.seat := by simp [State.forget]

@[simp] theorem State.clearRange_seat (s : State) (k : Nat) : (s.clearRange k).pol.seat = s.pol.seat := by simp [State.clearRange]

@[simp] theorem State.closeWard_seat (s : State) (w : Nat) : (s.closeWard w).pol.seat = s.pol.seat := by simp [State.closeWard]

@[simp] theorem State.releaseRange_seat (s : State) (k : Nat) : (s.releaseRange k).pol.seat = s.pol.seat := by
  simp [State.releaseRange]

@[simp] theorem State.movedOut_seat (s : State) (m : Move) : (s.movedOut m).pol.seat = s.pol.seat := by
  unfold State.movedOut
  split <;> simp

@[simp] theorem State.dropForeign_seat (s : State) : s.dropForeign.pol.seat = s.pol.seat := by simp [State.dropForeign]

@[simp] theorem State.takeEntry_seat (s : State) (m : Move) (e : Entry) : (s.takeEntry m e).pol.seat = s.pol.seat := by
  unfold State.takeEntry
  dsimp only
  repeat' split
  all_goals simp

@[simp] theorem State.settleMoves_seat (s : State) : s.settleMoves.pol.seat = s.pol.seat := by simp [State.settleMoves]

@[simp] theorem State.renamePeers_seat (s : State) : s.renamePeers.pol.seat = s.pol.seat := by simp [State.renamePeers]

@[simp] theorem State.settleGrants_seat (s : State) : s.settleGrants.pol.seat = s.pol.seat := by simp [State.settleGrants]

@[simp] theorem State.settleJoins_seat (s : State) : s.settleJoins.pol.seat = s.pol.seat := by simp [State.settleJoins]

/-! ### Machine/PoolMsg -/

@[simp] theorem State.modCal_seat (s : State) (grp : Nat) (f : CalGrp → CalGrp) : (s.modCal grp f).pol.seat = s.pol.seat := by
  simp [State.modCal]

@[simp] theorem State.gotFrame_seat (s : State) (r : PReq) (n : Nat) : (s.gotFrame r n).pol.seat = s.pol.seat := by
  simp [State.gotFrame]

@[simp] theorem hHello_seat (s : State) (m : RppMsg) (peer : Nat) : (hHello s m peer).pol.seat = s.pol.seat := by
  unfold hHello
  dsimp only
  repeat' split
  all_goals simp

@[simp] theorem State.ackView_seat (s : State) : s.ackView.pol.seat = s.pol.seat := by
  unfold State.ackView
  split <;> simp

@[simp] theorem hViewPull_seat (s : State) (m : RppMsg) (peer : Nat) : (hViewPull s m peer).pol.seat = s.pol.seat := by
  simp [hViewPull]

@[simp] theorem hRangeGrant_seat (s : State) (m : RppMsg) (peer : Nat) : (hRangeGrant s m peer).pol.seat = s.pol.seat := by
  unfold hRangeGrant
  repeat' split
  all_goals simp

@[simp] theorem hExportReq_seat (s : State) (m : RppMsg) (peer : Nat) : (hExportReq s m peer).pol.seat = s.pol.seat := by
  unfold hExportReq
  split
  · refine State.serveReq_seat _ _ _ _ fun t => ?_
    dsimp only
    repeat' split
    all_goals simp
  · rfl

@[simp] theorem hExportGrant_seat (s : State) (m : RppMsg) (peer : Nat) : (hExportGrant s m peer).pol.seat = s.pol.seat := by
  unfold hExportGrant
  repeat' split
  all_goals simp

@[simp] theorem hSlowRd_seat (s : State) (m : RppMsg) (peer : Nat) : (hSlowRd s m peer).pol.seat = s.pol.seat := by
  unfold hSlowRd
  split <;> simp

@[simp] theorem hSlowData_seat (s : State) (m : RppMsg) (peer : Nat) : (hSlowData s m peer).pol.seat = s.pol.seat := by
  unfold hSlowData
  repeat' split
  all_goals simp

@[simp] theorem hSlowWr_seat (s : State) (m : RppMsg) (peer : Nat) : (hSlowWr s m peer).pol.seat = s.pol.seat := by
  unfold hSlowWr
  split <;> simp

@[simp] theorem hNoteReq_seat (s : State) (m : RppMsg) (peer : Nat) : (hNoteReq s m peer).pol.seat = s.pol.seat := by
  unfold hNoteReq
  split
  · split
    · simp
    · exact State.serveReq_seat _ _ _ _ fun t => by simp
  · rfl

@[simp] theorem hNoteRep_seat (s : State) (m : RppMsg) (peer : Nat) : (hNoteRep s m peer).pol.seat = s.pol.seat := by
  unfold hNoteRep
  repeat' split
  all_goals simp

@[simp] theorem hFetchReq_seat (s : State) (m : RppMsg) (peer : Nat) : (hFetchReq s m peer).pol.seat = s.pol.seat := by
  unfold hFetchReq
  split
  · split
    · simp
    · refine State.serveReq_seat _ _ _ _ fun t => ?_
      dsimp only
      rw [State.modPol_pol, Pol.seat_mk, Pol.seat_eta, State.foldl_snd_seat]
      intro x a
      split
      · rfl
      · split
        · rfl
        · split
          · rfl
          · split
            · rfl
            · split
              all_goals next h => simp [State.seat_of_pair h (State.promote_seat ..)]
  · rfl

@[simp] theorem State.fillNext_seat (s : State) (id peer aid : Nat) : (s.fillNext id peer aid).pol.seat = s.pol.seat := by
  unfold State.fillNext
  dsimp only
  repeat' split
  all_goals simp

@[simp] theorem State.fillDone_seat (s : State) (e : Entry) (v : VSlot) : (s.fillDone e v).pol.seat = s.pol.seat := by
  simp [State.fillDone]

@[simp] theorem hVisitRows_seat (s : State) (m : RppMsg) (peer : Nat) : (hVisitRows s m peer).pol.seat = s.pol.seat := by
  unfold hVisitRows
  split
  · split
    · simp
    · refine State.serveReq_seat _ _ _ _ fun t => ?_
      split <;> simp
  · rfl

@[simp] theorem hVisitDelta_seat (s : State) (m : RppMsg) (peer : Nat) : (hVisitDelta s m peer).pol.seat = s.pol.seat := by
  unfold hVisitDelta
  split
  · rfl
  · split
    · extract_lets new s1 s2 aidOf s3 s4 s5
      have e1 : s1.pol.seat = s.pol.seat := by simp [s1]
      have e3 : s3.pol.seat = s.pol.seat := by
        refine (State.foldl_seat _ _ _ fun t x => ?_).trans (by simp [s2, e1])
        split
        · rfl
        · split <;> simp
      have e5 : s5.pol.seat = s.pol.seat := by
        unfold s5
        repeat' split
        all_goals simp [s4, e3]
      rw [State.pump_seat, e5]
    · rfl

@[simp] theorem hGdReq_seat (s : State) (m : RppMsg) (peer : Nat) : (hGdReq s m peer).pol.seat = s.pol.seat := by
  unfold hGdReq
  split
  · split
    · simp
    · refine State.serveReq_seat _ _ _ _ fun t => ?_
      split
      all_goals next h => simp [State.seat_of_pair h (State.gdRequest_seat ..)]
  · rfl

@[simp] theorem hGdGrant_seat (s : State) (m : RppMsg) (peer : Nat) : (hGdGrant s m peer).pol.seat = s.pol.seat := by
  unfold hGdGrant
  dsimp only
  repeat' split
  all_goals simp

@[simp] theorem hGdData_seat (s : State) (m : RppMsg) (peer : Nat) : (hGdData s m peer).pol.seat = s.pol.seat := by
  unfold hGdData
  split
  · split
    · simp
    · exact State.serveReq_seat _ _ _ _ fun t => by simp
  · rfl

@[simp] theorem hGdCommit_seat (s : State) (m : RppMsg) (peer : Nat) : (hGdCommit s m peer).pol.seat = s.pol.seat := by
  unfold hGdCommit
  repeat' split
  all_goals simp

@[simp] theorem hProbe_seat (s : State) (m : RppMsg) (peer : Nat) : (hProbe s m peer).pol.seat = s.pol.seat := by simp [hProbe]

@[simp] theorem hProbeEcho_seat (s : State) (m : RppMsg) (peer : Nat) : (hProbeEcho s m peer).pol.seat = s.pol.seat := by
  unfold hProbeEcho
  repeat' split
  all_goals simp

@[simp] theorem hPubNotice_seat (s : State) (m : RppMsg) (peer : Nat) : (hPubNotice s m peer).pol.seat = s.pol.seat := by
  unfold hPubNotice
  split <;> simp

@[simp] theorem hInvalidate_seat (s : State) (m : RppMsg) (peer : Nat) : (hInvalidate s m peer).pol.seat = s.pol.seat := by
  unfold hInvalidate
  split
  · rw [State.evictInval_seat, State.modPol_pol, Pol.seat_mk, Pol.seat_eta, State.foldl_seat]
    intro t x
    dsimp only
    repeat' split
    all_goals simp
  · rfl

@[simp] theorem State.ackFrom_seat (s : State) (peer n : Nat) : (s.ackFrom peer n).pol.seat = s.pol.seat := by simp [State.ackFrom]

@[simp] theorem hEvictNotice_seat (s : State) (m : RppMsg) (peer : Nat) : (hEvictNotice s m peer).pol.seat = s.pol.seat := by
  unfold hEvictNotice
  split <;> simp

@[simp] theorem hRetireAck_seat (s : State) (m : RppMsg) (peer : Nat) : (hRetireAck s m peer).pol.seat = s.pol.seat := by
  unfold hRetireAck
  split <;> simp

theorem State.moveLand_seat {s t : State} {v : Move} {e : Entry} {blobs : List (Nat × List Byte)} (h : s.moveLand v e blobs = some t) :
    t.pol.seat = s.pol.seat := by
  unfold State.moveLand at h
  obtain ⟨x, hx, rfl⟩ := Option.map_eq_some_iff.mp h
  rw [State.modPol_pol]
  refine List.foldlRecOn (motive := fun o : Option (State × Entry) => ∀ x, o = some x → x.1.pol.seat = s.pol.seat) _ _
    ?_ ?_ x hx
  · rintro _ ⟨⟩
    rfl
  · intro o ho y _ x hx
    split at hx
    · cases hx
    · split at hx
      · cases hx
      · next h =>
        have e := (State.seat_of_pair h (State.charge_seat ..)).trans (ho _ rfl)
        split at hx <;> cases hx <;> simp [e]

@[simp] theorem hMoveAbort_seat (s : State) (m : RppMsg) (peer : Nat) : (hMoveAbort s m peer).pol.seat = s.pol.seat := by
  unfold hMoveAbort
  dsimp only
  repeat' split
  all_goals simp

/-! ### Machine/Work -/

@[simp] theorem State.setAsm_seat (s : State) (peer key : Nat) (l : List (List Byte)) :
    (s.setAsm peer key l).pol.seat = s.pol.seat := by
  simp [State.setAsm]

@[simp] theorem State.heartbeats_seat (s : State) : s.heartbeats.pol.seat = s.pol.seat := by simp [State.heartbeats]

@[simp] theorem State.sendBatch_seat (s : State) : s.sendBatch.pol.seat = s.pol.seat := by simp [State.sendBatch]

@[simp] theorem State.sendAcks_seat (s : State) : s.sendAcks.pol.seat = s.pol.seat := by simp [State.sendAcks]

@[simp] theorem State.askWindows_seat (s : State) : s.askWindows.pol.seat = s.pol.seat := by simp [State.askWindows]

@[simp] theorem State.takeSnap_seat (s : State) : s.takeSnap.pol.seat = s.pol.seat := by simp [State.takeSnap]

@[simp] theorem State.probeGroup_seat (s : State) (grp : Nat) : (s.probeGroup grp).pol.seat = s.pol.seat := by
  simp [State.probeGroup]

end Sys2Proof.Machine
end

section
/-! PROOF. Views, peers that go, and moves: a member stays who it is, and no more waits for the pool pair than did before. -/

namespace Sys2Proof.Machine

open Sys2Proof

/-- How much waits for the pool pair. -/
def State.backlog (s : State) : Nat := s.pol.work.length + s.pol.heldMsgs.length

/-- A member that stays who it is, and for whom no more waits than did before. -/
structure State.Sits (s t : State) : Prop where
  inst : (t.pol.instId, t.pol.instValid) = (s.pol.instId, s.pol.instValid)
  less : t.backlog ≤ s.backlog

section
variable {s t u : State}

theorem State.Sits.of_seat (h : t.pol.seat = s.pol.seat) : s.Sits t := by
  obtain ⟨inst, rest⟩ := Prod.mk.inj h
  obtain ⟨work, held⟩ := Prod.mk.inj rest
  exact ⟨inst, (congrArg₂ (fun (w : List Work) (l : List RppMsg) => w.length + l.length) work held).le⟩

theorem State.Sits.refl (s : State) : s.Sits s := .of_seat rfl

theorem State.Sits.trans (h : s.Sits t) (g : t.Sits u) : s.Sits u := ⟨g.inst.trans h.inst, g.less.trans h.less⟩

theorem State.Sits.after (g : t.Sits u) (h : t.pol.seat = s.pol.seat) : s.Sits u := (of_seat h).trans g

theorem State.Sits.seat (h : s.Sits t) (g : u.pol.seat = t.pol.seat) : s.Sits u := h.trans (.of_seat g)

theorem State.Sits.foldl {α : Type} (l : List α) (f : State → α → State) (h : ∀ (s : State) a, s.Sits (f s a)) (s : State) :
    s.Sits (l.foldl f s) := by
  induction l generalizing s with
  | nil => exact .refl s
  | cons a l ih => exact (h s a).trans (ih (f s a))

theorem State.Sits.of_pair {α : Type} {r : α × State} {a : α} (h : r = (a, t)) (hr : s.Sits r.2) : s.Sits t := by rwa [h] at hr

/-! ### Machine/View -/

theorem State.pullFailed_sits (s : State) (peer : Nat) : s.Sits (s.pullFailed peer) := by
  have fewer : s.Sits (s.modPol fun q => { q with heldMsgs := q.heldMsgs.filter fun m => m.peer != peer }) :=
    ⟨rfl, Nat.add_le_add_left (List.length_filter_le ..) _⟩
  unfold State.pullFailed
  dsimp only
  split
  · exact fewer
  · exact fewer.seat (State.pullView_seat ..)

theorem State.failOne_sits (s : State) (r : PReq) (st : Status) : s.Sits (s.failOne r st) := by
  by_cases pull : r.kind = .viewPull
  · simp only [State.failOne, pull]
    exact (State.pullFailed_sits _ _).after (s.dropReq_seat _)
  · refine .of_seat ?_
    unfold State.failOne
    split <;> simp
    contradiction

theorem State.failReq_sits (s : State) (r : PReq) (st : Status) : s.Sits (s.failReq r st) := by
  unfold State.failReq
  split
  · exact (State.Sits.foldl _ _ (fun t x => t.failOne_sits x st) _).after (by simp)
  · exact s.failOne_sits r st

theorem State.failPeer_sits (s : State) (peer : Nat) : s.Sits (s.failPeer peer) := .foldl _ _ (fun t r => t.failReq_sits r _) s

theorem State.dropPeer_sits (s : State) (inst : Nat) : s.Sits (s.dropPeer inst) := by
  unfold State.dropPeer
  extract_lets s1 s2 s3 s4
  have e1 : s.Sits s1 := s.failPeer_sits inst
  have e4 : s4.pol.seat = s1.pol.seat := by simp [s4, s3, s2]
  exact (e1.seat e4).trans ⟨rfl, Nat.add_le_add (List.length_filter_le ..) (List.length_filter_le ..)⟩

theorem State.install_sits (s : State) (v : ViewPl) : s.Sits (s.install v) := by
  unfold State.install
  extract_lets -underBinder old oldR now newR same gone come s1 s2 s3 s4 back s5 acked s6 s7 s8
  have e2 : s2.pol.seat = s.pol.seat := by simp [s2, s1]
  have e3 : s2.Sits s3 := .foldl _ _ State.dropPeer_sits _
  have e6 : s6.pol.seat = s3.pol.seat := by simp [s6, s5, s4]
  have e7 : s6.Sits s7 := .foldl _ _ (fun t r => t.failReq_sits r _) _
  have e8 : s8.settleClaims.reclaim.pol.seat = s7.pol.seat := by simp [s8]
  exact (((e3.after e2).seat e6).trans e7).seat e8

theorem State.tryIssue_sits (s : State) : s.Sits s.tryIssue := by
  unfold State.tryIssue
  split
  · exact .refl s
  · next v _ =>
    dsimp only
    split
    · exact (s.install_sits v).seat (by simp)
    · exact .refl s

theorem State.issueView_sits (s : State) : s.Sits s.issueView := by
  unfold State.issueView
  split
  · exact .refl s
  · exact (State.tryIssue_sits _).after (by simp)

theorem State.propose_sits (s : State) (v : ViewPl) : s.Sits (s.propose v) := (State.issueView_sits _).after (by simp)

theorem State.grantRange_sits (s : State) (peer tag : Nat) : s.Sits (s.grantRange peer tag).2 := by
  unfold State.grantRange
  split
  · exact .refl s
  · exact (State.propose_sits _ _).after (by simp)

theorem State.askRange_sits (s : State) (long : Nat) : s.Sits (s.askRange long) := by
  unfold State.askRange
  split
  · exact .of_seat (by simp)
  · split
    · split
      · next h => exact (State.Sits.of_pair h (s.grantRange_sits ..)).seat (by simp)
      · next h => exact .of_pair h (s.grantRange_sits ..)
    · exact .of_seat (by simp)

theorem State.blobPump_sits (n : Nat) (s : State) : s.Sits (State.blobPump n s) := by
  induction n generalizing s with
  | zero => exact .refl s
  | succ n ih =>
    unfold State.blobPump
    split
    · exact .refl s
    · split
      · exact .refl s
      · split
        · exact (ih _).after (by simp)
        · split
          · next h => exact (ih _).after (by simp [State.takeId_seat h])
          · exact (s.askRange_sits 0).trans (ih _)

theorem State.moveGo_sits (s : State) (k : Nat) : s.Sits (s.moveGo k) := by
  unfold State.moveGo
  split
  · exact .refl s
  · extract_lets -underBinder es set commit transfer
    have committed (t : State) : t.Sits (commit t) := by
      unfold commit
      dsimp only
      split
      · exact (State.propose_sits _ _).after (by simp [set])
      · split <;> exact .of_seat (by simp [set])
    have transferred (t : State) : t.Sits (transfer t) := by
      unfold transfer
      extract_lets -underBinder slow s1
      have e1 : s1.pol.seat = t.pol.seat := by simp [s1, set]
      split
      · exact .refl t
      · split
        · refine .of_seat (State.foldl_seat _ _ _ fun u x => ?_)
          split
          all_goals next h => simp [State.seat_of_pair h (State.promote_seat ..)]
        · split
          · exact (committed s1).after e1
          · exact .of_seat e1
    split
    · exact .refl s
    · split
      · exact .refl s
      · exact (transferred _).after (by simp [set])
    · exact transferred s
    · split
      · exact .refl s
      · exact committed s
    · split <;> exact .of_seat (by simp)

theorem State.showMoving_sits (s : State) (k inst : Nat) : s.Sits (s.showMoving k inst) := by
  unfold State.showMoving
  dsimp only
  split
  · exact s.propose_sits _
  · exact .refl s

theorem State.movesGo_sits (s : State) : s.Sits s.movesGo :=
  State.Sits.foldl _ (fun s (m : Move) => s.moveGo m.range) (fun t m => t.moveGo_sits m.range) s

/-! ### Machine/PoolMsg -/

theorem State.serveReq_sits (s : State) (m : RppMsg) (peer : Nat) {body : State → State} (h : ∀ t : State, t.Sits (body t)) :
    s.Sits (s.serveReq m peer body) := by
  unfold State.serveReq
  dsimp only
  split
  · exact h s
  · split
    · exact .refl s
    · split
      · exact .of_seat (by simp)
      · exact (h s).seat (by simp)

theorem State.resend_sits (s : State) (r : PReq) : s.Sits (s.resend r) := by
  unfold State.resend
  dsimp only
  split
  · exact .of_seat (by simp)
  · exact s.failReq_sits ..

theorem State.reask_sits (s : State) (r : PReq) : s.Sits (s.reask r) := by
  unfold State.reask
  split
  · exact s.failReq_sits ..
  · refine (State.Sits.foldl _ _ (fun t x => ?_) _).after (s.dropReq_seat _)
    split
    · exact .of_seat (by simp)
    · exact t.failOne_sits ..

theorem hRedirect_sits (s : State) (m : RppMsg) (peer : Nat) : s.Sits (hRedirect s m peer) := by
  unfold hRedirect
  split
  · exact .refl s
  · split
    · exact .of_seat (by simp)
    · split
      · split
        · exact s.failReq_sits ..
        · exact .of_seat (by simp)
      · exact s.reask_sits _

theorem hHelloAck_sits (s : State) (m : RppMsg) (peer : Nat) : s.Sits (hHelloAck s m peer) := by
  unfold hHelloAck
  split
  · exact .refl s
  · split
    · exact s.failReq_sits ..
    · exact .of_seat (by simp)

theorem hJoinReq_sits (s : State) (m : RppMsg) (peer : Nat) : s.Sits (hJoinReq s m peer) := by
  unfold hJoinReq
  split
  · split
    · exact .refl s
    · split
      · split <;> exact .of_seat (by simp)
      · split
        · exact .refl s
        · refine s.serveReq_sits m peer fun t => ?_
          split
          · exact .of_seat (by simp)
          · split
            · exact .of_seat (by simp)
            · dsimp only
              split
              · exact .of_seat (by simp)
              · exact (State.propose_sits _ _).after (by simp)
  · exact .refl s

theorem hLeave_sits (s : State) (m : RppMsg) (peer : Nat) : s.Sits (hLeave s m peer) := by
  unfold hLeave
  split
  · exact .refl s
  · exact s.serveReq_sits m peer fun t => (State.propose_sits _ _).after (by simp)

theorem hView_sits (s : State) (m : RppMsg) (peer : Nat) : s.Sits (hView s m peer) := by
  unfold hView
  split
  · extract_lets -underBinder s1 ack
    have e1 : s1.pol.seat = s.pol.seat := by simp [s1]
    have acked (t : State) : (ack t).pol.seat = t.pol.seat := by simp [ack]
    split
    · exact .of_seat e1
    · split
      · exact .of_seat ((acked s1).trans e1)
      · split
        · exact ((s1.install_sits _).after e1).seat (acked _)
        · exact .of_seat (by simp [e1])
  · exact .refl s

theorem hViewAck_sits (s : State) (m : RppMsg) (peer : Nat) : s.Sits (hViewAck s m peer) := by
  unfold hViewAck
  split
  · exact ((State.tryIssue_sits _).trans (State.issueView_sits _)).after (by simp)
  · exact .refl s

theorem hRangeReq_sits (s : State) (m : RppMsg) (peer : Nat) : s.Sits (hRangeReq s m peer) := by
  unfold hRangeReq
  split
  · exact .of_seat (by simp)
  · split
    · exact .refl s
    · refine s.serveReq_sits m peer fun t => ?_
      split
      · next h => exact (State.Sits.of_pair h (t.grantRange_sits ..)).seat (by simp)
      · next h => exact .of_pair h (t.grantRange_sits ..)

theorem hSlowAck_sits (s : State) (m : RppMsg) (peer : Nat) : s.Sits (hSlowAck s m peer) := by
  unfold hSlowAck
  split
  · split
    · split
      · exact .of_seat (by simp)
      · exact s.failReq_sits ..
    · exact .refl s
  · exact .refl s

theorem hFetchData_sits (s : State) (m : RppMsg) (peer : Nat) : s.Sits (hFetchData s m peer) := by
  unfold hFetchData
  split
  · exact .refl s
  · split
    · split
      · exact .refl s
      · split
        · split
          · exact s.resend_sits _
          · exact .refl s
        · refine .of_seat ?_
          dsimp only
          repeat' split
          all_goals simp
    · exact .refl s

theorem hMoveBegin_sits (s : State) (m : RppMsg) (peer : Nat) : s.Sits (hMoveBegin s m peer) := by
  unfold hMoveBegin
  split
  · refine s.serveReq_sits m peer fun t => .of_seat ?_
    dsimp only
    repeat' split
    all_goals simp
  · split
    · exact s.showMoving_sits ..
    · exact .refl s
  · split
    · split
      · split
        · exact (State.moveGo_sits _ _).after (by simp)
        · exact .of_seat (by simp)
      · exact .refl s
    · exact .refl s

theorem hMoveData_sits (s : State) (m : RppMsg) (peer : Nat) : s.Sits (hMoveData s m peer) := by
  unfold hMoveData
  split
  · refine s.serveReq_sits m peer fun t => .of_seat ?_
    split
    · simp
    · split
      · next h => simp [State.moveLand_seat h]
      · simp
  · split
    · split
      · split
        · exact (State.moveGo_sits _ _).after (by simp)
        · exact .of_seat (by simp)
      · exact .refl s
    · exact .refl s

theorem hMoveCommit_sits (s : State) (m : RppMsg) (peer : Nat) : s.Sits (hMoveCommit s m peer) := by
  unfold hMoveCommit
  split
  · split
    · exact .of_seat (by simp)
    · split
      · exact .refl s
      · refine s.serveReq_sits m peer fun t => ?_
        dsimp only
        split
        · exact (t.propose_sits _).seat (State.reply_seat ..)
        · exact .of_seat (by simp)
  · refine .of_seat ?_
    repeat' split
    all_goals simp

/-! ### Machine/Work -/

theorem hJoinAck_less (s : State) (m : RppMsg) (peer : Nat) : (hJoinAck s m peer).backlog ≤ s.backlog := by
  have same {t u : State} (h : u.pol.seat = t.pol.seat) : u.backlog ≤ t.backlog := (State.Sits.of_seat h).less
  unfold hJoinAck
  split
  · exact le_rfl
  · next r _ =>
    have dropped : (s.dropReq r.id).backlog ≤ s.backlog := same (by simp)
    have joined (i : Nat) (v : ViewPl) : ((s.dropReq r.id).joined i v).backlog ≤ s.backlog :=
      calc ((s.dropReq r.id).joined i v).backlog
        _ ≤ (State.install ((s.dropReq r.id).modPol fun q => { q with instId := BitVec.ofNat 16 i, instValid := true, batchNext := 1 }) v).backlog :=
          same (State.ackView_seat _)
        _ ≤ (s.dropReq r.id).backlog := (State.install_sits _ v).less
        _ ≤ s.backlog := dropped
    split
    · dsimp only
      split
      · exact (same (State.blobStart_seat _)).trans (joined ..)
      · exact joined ..
    · exact dropped

end

end Sys2Proof.Machine
end

section
/-! PROOF. The pool pair comes to an end of its work (R553, R554), and joining (R306, R309, R557). -/

namespace Sys2Proof.Machine

open Sys2Proof

section
variable {s : State}

/-! ### Items -/

theorem rppHandler_less (ty : Nat) (s : State) (m : RppMsg) (peer : Nat) : (rppHandler ty s m peer).backlog ≤ s.backlog := by
  by_cases join : ty = 4
  · rw [join]
    exact hJoinAck_less s m peer
  · refine State.Sits.less (s := s) ?_
    unfold rppHandler
    split
    all_goals simp [State.Sits.of_seat, hRedirect_sits, hHelloAck_sits, hJoinReq_sits, hLeave_sits, hView_sits, hViewAck_sits, hRangeReq_sits,
      hSlowAck_sits, hFetchData_sits, hMoveBegin_sits, hMoveData_sits, hMoveCommit_sits] at join ⊢

theorem State.visitPart_less (s : State) (m : RppMsg) (bs : List Byte) : (s.visitPart m bs).backlog ≤ s.backlog := by
  have set (key : Nat) (l : List (List Byte)) : (s.setAsm m.peer key l).backlog ≤ s.backlog := (State.Sits.of_seat (by simp)).less
  unfold State.visitPart
  dsimp only
  split
  · split
    · exact (rppHandler_less ..).trans (set ..)
    · exact set ..
  · exact set ..

/-- A frame that waited makes at most one item. -/
theorem State.deliver_less (s : State) (m : RppMsg) : (s.deliver m).backlog ≤ s.backlog + 1 := by
  unfold State.deliver
  split
  · exact (s.visitPart_less m _).trans (Nat.le_succ _)
  · split
    · exact (State.Sits.of_seat (s.gotFrame_seat ..)).less.trans (Nat.le_succ _)
    · exact Nat.le_succ _
  · split
    · exact (rppHandler_less ..).trans (Nat.le_succ _)
    · simp only [State.backlog, State.modPol_pol, List.length_append, List.length_singleton]
      omega

theorem State.heldDue_less (s : State) : s.heldDue.backlog ≤ s.backlog := by
  have delivered (l : List RppMsg) (t : State) : (l.foldl (fun s m => s.deliver m) t).backlog ≤ t.backlog + l.length := by
    induction l generalizing t with
    | nil => exact le_rfl
    | cons m l ih =>
      have first := t.deliver_less m
      have rest := ih (t.deliver m)
      rw [List.foldl_cons, List.length_cons]
      omega
  unfold State.heldDue
  dsimp only
  split
  · exact le_rfl
  · have parted := List.length_eq_length_filter_add (l := s.pol.heldMsgs) fun m => decide (m.view ≤ s.pol.viewNum.toNat)
    refine (delivered ..).trans ?_
    simp only [State.backlog, State.modPol_pol]
    omega

theorem State.doItem_less (s : State) (w : Work) : (s.doItem w).backlog ≤ s.backlog := by
  cases w
  case msg m => exact rppHandler_less ..
  case views => exact s.issueView_sits.less
  case moves => exact s.movesGo_sits.less
  case blobs => exact (State.blobPump_sits 64 s).less
  all_goals exact (State.Sits.of_seat (by simp [State.doItem])).less

theorem Work.first_mem {l : List Work} {w : Work} (h : Work.first l = some w) : w ∈ l := by
  obtain ⟨k, -, hk⟩ := List.exists_of_findSome?_eq_some h
  exact List.mem_of_find?_eq_some hk

/-- More turns than there is work change nothing. -/
theorem State.runWork_more (n : Nat) (s : State) (enough : s.backlog ≤ n) : State.runWork (n + 2) s = State.runWork (n + 1) s := by
  induction n generalizing s with
  | zero =>
    have idle : s.heldDue.pol.work = [] := List.eq_nil_of_length_eq_zero (by have := s.heldDue_less; unfold State.backlog at this enough; omega)
    rw [State.runWork, State.runWork, idle]
    rfl
  | succ n ih =>
    rw [State.runWork, State.runWork]
    split
    · rfl
    · split
      · rfl
      next w first =>
        refine ih _ ?_
        have taken := List.length_erase_of_mem (Work.first_mem first)
        have some := List.length_pos_of_mem (Work.first_mem first)
        have done := State.doItem_less (s.heldDue.modPol fun q => { q with work := q.work.erase w }) w
        have due := s.heldDue_less
        simp only [State.backlog, State.modPol_pol] at *
        omega

theorem State.item_mem (s : State) (w : Work) : w ∈ (s.item w).pol.work := by
  unfold State.item
  split
  next here => simpa using here
  · exact List.mem_append_right _ (List.mem_singleton.mpr rfl)

theorem State.item_keeps {w v : Work} (h : w ∈ s.pol.work) : w ∈ (s.item v).pol.work := by
  unfold State.item
  split
  · exact h
  · exact List.mem_append_left _ h

theorem State.item_listed {w : Work} (h : w ∈ s.pol.work) : s.item w = s := if_pos (by simpa using h)

/-- A state that goes on as another does, and in which a request stands that the other has not. -/
theorem State.poolWork_forgets (s : State) {y : PReq} (new : ∀ x ∈ s.pol.reqs, x.id ≠ y.id) :
    ∃ u : State, u.poolWork = s.poolWork ∧ y ∈ u.pol.reqs := by
  obtain ⟨t, ht⟩ : ∃ t, t = (((s.item .views).item .sessions).item .moves).item .blobs := ⟨_, rfl⟩
  have reqs : t.pol.reqs = s.pol.reqs := by
    have kept (s : State) (w : Work) : (s.item w).pol.reqs = s.pol.reqs := by
      unfold State.item
      split <;> rfl
    rw [ht, kept, kept, kept, kept]
  have listed : ∀ w ∈ [Work.views, .sessions, .moves, .blobs], w ∈ t.pol.work := by
    simp only [ht, List.forall_mem_cons]
    exact ⟨State.item_keeps (State.item_keeps (State.item_keeps (State.item_mem ..))),
      State.item_keeps (State.item_keeps (State.item_mem ..)), State.item_keeps (State.item_mem ..), State.item_mem .., nofun⟩
  obtain ⟨part, due⟩ := State.astray_heldDue (s := t) (y := y) (reqs ▸ new)
  have items : (t.astray part y).poolWork = (t.astray part y).runPool := by
    have listed (w : Work) (hw : w ∈ [Work.views, .sessions, .moves, .blobs]) : (t.astray part y).item w = t.astray part y :=
      State.item_listed (s := t.astray part y) (listed w hw)
    rw [State.poolWork, listed .views (by simp), listed .sessions (by simp), listed .moves (by simp), listed .blobs (by simp)]
  refine ⟨t.astray part y, ?_, List.mem_cons_of_mem _ (List.mem_cons_self ..)⟩
  have fuel : (t.astray part y).pol.work.length + (t.astray part y).pol.heldMsgs.length + 8 = t.backlog + 7 + 2 := by
    change t.pol.work.length + (t.pol.heldMsgs.length + 1) + 8 = _
    unfold State.backlog
    omega
  rw [items, State.runPool, fuel, State.poolWork, ← ht, State.runPool]
  calc State.runWork (t.backlog + 7 + 2) (t.astray part y)
    _ = State.runWork (t.backlog + 7 + 2) t := by rw [State.runWork, State.runWork, due]
    _ = State.runWork (t.backlog + 7 + 1) t := t.runWork_more _ (Nat.le_add_right ..)

/-! ### Joining (R306, R309, R557) -/

theorem exec_joinRetry_due (stage : s.mgt.bootStage = 8) (outside : s.pol.instValid = false) (idle : ∀ r ∈ s.pol.reqs, r.kind ≠ .join)
    (up : s.serviceUp 2 3 = true) (due : s.pol.joinDue ≤ s.now) : exec .joinRetry s = .next s.joinStart.poolWork := by
  have none : s.pol.reqs.any (fun r => r.kind == .join) = false := List.any_eq_false.mpr fun r hr => by simpa using idle r hr
  refine congrArg Host.Outcome.next (if_neg ?_)
  simp [stage, outside, none, up, due]

/-- A pool of one is joined at once. -/
theorem State.joinStart_alone (deployed : s.sec.lcState = 2) (sound : s.sec.coreFault = false) (alone : s.poolOfOne = true) :
    s.joinStart.pol.instId = 0 ∧ s.joinStart.pol.instValid = true := by
  obtain ⟨t, ht⟩ : ∃ t, t = s.modPol fun q => { q with instId := 0, instValid := true, batchNext := 1 } := ⟨_, rfl⟩
  obtain ⟨v, run⟩ : ∃ v, s.joinStart = if (t.install v).mgt.bootStage = 8 then (t.install v).blobStart else t.install v := by
    rw [ht]
    refine ⟨_, (if_neg ?_).trans (if_pos alone)⟩
    simp [deployed, sound]
  have sits : t.Sits s.joinStart := by
    rw [run]
    split
    · exact (t.install_sits v).seat (State.blobStart_seat _)
    · exact t.install_sits v
  have inst := sits.inst
  rw [ht] at inst
  exact Prod.mk.inj inst

/-- The first seed is asked for admission. Where another request holds the number that this one gets, as a statement about every state has to
allow, the state that goes on alike is one in which a stray commit takes it away. -/
theorem State.joinStart_asks (deployed : s.sec.lcState = 2) (sound : s.sec.coreFault = false) (pool : s.poolOfOne = false) {a : Nat} {rest : List Nat}
    (seeds : (s.pol.seeds.take s.pol.seedCnt.toNat).filter (· != s.pol.addr) = a :: rest) :
    ∃ u : State, u.poolWork = s.joinStart.poolWork ∧ ∃ y ∈ u.pol.reqs, y.kind = .join ∧ y.peer = 65536 + a := by
  obtain ⟨t, ht⟩ : ∃ t, t = s.modPol fun q => { q with joinDue := s.now + msTicks q.lease.toNat } := ⟨_, rfl⟩
  obtain ⟨msg, run⟩ : ∃ msg, s.joinStart = t.queueRpp (65536 + a) .join msg := by
    have next : s.joinStart = t.joinNext none := by
      rw [ht]
      refine (if_neg ?_).trans (if_neg (by simp [pool]))
      simp [deployed, sound]
    have listed : (t.pol.seeds.take t.pol.seedCnt.toNat).filter (· != t.pol.addr) = a :: rest := by
      rw [ht]
      exact seeds
    rw [next, State.joinNext, listed]
    exact ⟨_, rfl⟩
  by_cases fresh : ∀ x ∈ (t.opened (65536 + a)).pol.reqs, x.id ≠ (t.opened (65536 + a)).pol.nextReq
  · obtain ⟨y, stands, peer, kind, -⟩ := State.queueRpp_waits (kind := .join) (by simp) fresh msg
    exact ⟨_, rfl, y, run ▸ stands, kind, peer⟩
  · obtain ⟨u, same, stands⟩ := State.poolWork_forgets s.joinStart
      (y := { strayWrite (s.joinStart.unused) 0 with peer := 65536 + a, kind := .join }) s.joinStart.unused_new
    exact ⟨u, same, _, stands, rfl, rfl⟩

end

end Sys2Proof.Machine
end

section
/-! PROOF. Heartbeats (R311): what sending to several peers keeps, and the heartbeat of a pair with nothing else to do. -/

namespace Sys2Proof.Machine

open Sys2Proof

/-- A state after messages have been sent or queued in which nothing that was on its way is lost and no session has gone. -/
structure State.Pushes (s t : State) : Prop where
  asks : s.Asks t
  out : ∀ p m, s.outgoing p m → t.outgoing p m
  sess : ∀ i x, s.pol.session i = some x → ∃ y, t.pol.session i = some y ∧ y.opening = x.opening ∧ y.minor = x.minor

section
variable {s t u : State}

theorem State.Pushes.refl (s : State) : s.Pushes s := ⟨.refl s, fun _ _ h => h, fun _ x h => ⟨x, h, rfl, rfl⟩⟩

theorem State.Pushes.trans (h : s.Pushes t) (g : t.Pushes u) : s.Pushes u := by
  refine ⟨h.asks.trans g.asks, fun p m k => g.out p m (h.out p m k), fun i x hx => ?_⟩
  obtain ⟨y, hy, opening, minor⟩ := h.sess i x hx
  obtain ⟨z, hz, opening', minor'⟩ := g.sess i y hy
  exact ⟨z, hz, opening'.trans opening, minor'.trans minor⟩

theorem State.Pushes.sessOpen (h : s.Pushes t) {i : Nat} (open_ : s.sessOpen i = true) : t.sessOpen i = true := by
  obtain ⟨x, hx, opened⟩ := (Option.any_eq_true _ _).mp open_
  obtain ⟨y, hy, opening, -⟩ := h.sess i x hx
  exact (Option.any_eq_true _ _).mpr ⟨y, hy, by rw [opening]; exact opened⟩

/-- What a peer with an open session has been told, it stays told. -/
theorem State.Pushes.told (h : s.Pushes t) {i : Nat} (open_ : s.sessOpen i = true) {ty tag : Nat} {st : Status} {aid ep : Nat} {pl : RppPl}
    (told : s.told i ty tag st aid ep pl) : t.told i ty tag st aid ep pl := by
  obtain ⟨x, hx, -⟩ := (Option.any_eq_true _ _).mp open_
  obtain ⟨y, hy, -, minor⟩ := h.sess i x hx
  have pol : { s.pol with sess := t.pol.sess, sent := t.pol.sent, groupAt := t.pol.groupAt, quiet := t.pol.quiet, reqs := t.pol.reqs
                          nextReq := t.pol.nextReq } = t.pol := congrArg State.pol h.asks.rest
  have valid : t.pol.instValid = s.pol.instValid := (congrArg Pol.instValid pol).symm
  have inst : t.pol.instId = s.pol.instId := (congrArg Pol.instId pol).symm
  have view : t.pol.viewNum = s.pol.viewNum := (congrArg Pol.viewNum pol).symm
  have minors : (t.pol.session i).map (·.minor) = (s.pol.session i).map (·.minor) := by rw [hx, hy, Option.map_some, Option.map_some, minor]
  have same := State.rppMsg_congr valid inst view minors ty tag st aid ep pl
  intro f hf
  rw [same] at hf
  exact h.out i f (told f hf)

theorem State.pushes_sendFrames (s : State) (peer : Nat) (l : List RppMsg) : s.Pushes (s.sendFrames peer l) := by
  have traffic := s.traffic_sendFrames peer l
  refine ⟨traffic.asks, (s.outgoing_sendFrames peer l).2, fun i x hx => ?_⟩
  have kept := traffic.session_map i (g := fun x => (x.opening, x.minor)) fun _ => rfl
  rw [hx, Option.map_some] at kept
  obtain ⟨y, hy, same⟩ := Option.map_eq_some_iff.mp kept
  obtain ⟨opening, minor⟩ := Prod.mk.inj same
  exact ⟨y, hy, opening, minor⟩

/-- A session that is opened stands behind those that there are, where there is room (R337). -/
theorem State.pushes_openSess {peer : Nat} (room : s.pol.sess.length < 8192) :
    s.Pushes (s.openSess peer) ∧ (s.sec.coreFault = true ∨ ((s.openSess peer).pol.session peer).isSome = true) := by
  unfold State.openSess
  dsimp only
  rw [if_pos room]
  dsimp only
  split
  · next fault => exact ⟨.refl s, .inl fault⟩
  · let new : RppSess := { inst := peer, minor := 0, blobMinor := 0, pubMinor := 0, opening := true, unreach := false, nextTag := 2, idle := s.now
                           doneTags := [], busyTags := [], used := 0, used0 := 0, wait := [], asm := [] }
    obtain ⟨v, hv⟩ : ∃ v, v = s.modPol fun q =>
      { q with
        sess := s.pol.sess ++ [new]
        reqs := q.reqs ++ [{ id := q.nextReq, tag := 1, peer := peer, kind := .hello, msg := s.rppMsg peer 1 1 .ok 0 0 s.helloPl, resends := 0
                             redirects := 0, queued := false, t0 := s.now, due := s.now + usTicks s.pol.tReq.toNat, tFirst := 0, got := 0
                             buf := [], ans := [] }]
        nextReq := q.nextReq + 1 } := ⟨_, rfl⟩
    have sess : v.pol.sess = s.pol.sess ++ [new] := by rw [hv]; rfl
    have listed : s.Pushes v := by
      refine ⟨by rw [hv]; exact ⟨rfl⟩, fun p m h => ?_, fun i x hx => ⟨x, ?_, rfl, rfl⟩⟩
      · rw [hv]
        exact h.imp_right fun h => h.imp_right fun ⟨x, hx, rest⟩ => ⟨x, List.mem_append_left _ hx, rest⟩
      · have found : s.pol.sess.find? (fun x => x.inst == i) = some x := hx
        rw [Pol.session, sess, List.find?_append, found, Option.some_or]
    have here : (v.pol.session peer).isSome = true := by
      rw [Pol.session, sess, List.find?_isSome]
      exact ⟨new, List.mem_append_right _ (List.mem_singleton.mpr rfl), beq_self_eq_true _⟩
    have sent := v.pushes_sendFrames peer [s.rppMsg peer 1 1 .ok 0 0 s.helloPl]
    rw [hv] at sent listed here
    refine ⟨listed.trans sent, .inr ?_⟩
    obtain ⟨x, hx⟩ := Option.isSome_iff_exists.mp here
    obtain ⟨y, hy, -⟩ := sent.sess peer x hx
    exact Option.isSome_iff_exists.mpr ⟨y, hy⟩

/-- Whom a session is with, whether it is opening, and its minor version. -/
def RppSess.facts (x : RppSess) : Nat × Bool × Nat := (x.inst, x.opening, x.minor)

theorem session_of_facts {l l' : List RppSess} (same : l'.map RppSess.facts = l.map RppSess.facts) {i : Nat} {x : RppSess}
    (hx : l.find? (fun x => x.inst == i) = some x) :
    ∃ y, l'.find? (fun x => x.inst == i) = some y ∧ y.opening = x.opening ∧ y.minor = x.minor := by
  have found (l : List RppSess) : (l.find? fun x => x.inst == i).map RppSess.facts = (l.map RppSess.facts).find? fun x => x.1 == i := by
    rw [List.find?_map]
    rfl
  have there := found l'
  rw [same, ← found, hx, Option.map_some] at there
  obtain ⟨y, hy, eq⟩ := Option.map_eq_some_iff.mp there
  obtain ⟨-, rest⟩ := Prod.mk.inj eq
  obtain ⟨opening, minor⟩ := Prod.mk.inj rest
  exact ⟨y, hy, opening, minor⟩

theorem State.pushes_launch (s : State) (id : Nat) : s.Pushes (s.launch id) := by
  unfold State.launch
  split
  · exact .refl s
  next r _ =>
    split
    next x hx =>
      split
      · exact .refl s
      · refine State.Pushes.trans ⟨⟨rfl⟩, fun p m h => ?_, fun i y hy => ?_⟩ (State.pushes_sendFrames ..)
        · exact State.outgoing_modSess r.peer (s := s) (f := fun y => { y with nextTag := _, idle := s.now }) (fun _ => rfl)
            (fun _ => List.Subset.refl _) h
        · exact session_of_facts (map_updFirst (g := RppSess.facts) (f := fun y => { y with
            nextTag := if (r.kind == .oneWay) = true then y.nextTag else (y.nextTag + 1) % 2 ^ 32, idle := s.now }) (fun _ => rfl) _ _) hy
    · exact .refl s

/-- Once the session has been asked for, a request is listed and pushes nothing out. -/
theorem State.pushes_queueRpp (s : State) (peer : Nat) (kind : ReqKind) (msg : RppMsg) : (s.opened peer).Pushes (s.queueRpp peer kind msg) :=
  have listed : (s.opened peer).Pushes ((s.opened peer).listReq peer kind msg) := ⟨⟨rfl⟩, fun _ _ h => h, fun _ x h => ⟨x, h, rfl, rfl⟩⟩
  listed.trans (State.pushes_launch _ _)

/-- One-way messages that wait are those that waited, and one to the peer for whom one is queued. -/
theorem State.launch_oneWay {id : Nat} {y : PReq} (hy : y ∈ (s.launch id).pol.reqs) : ∃ x ∈ s.pol.reqs, x.kind = y.kind ∧ x.peer = y.peer := by
  have changed {l : List PReq} {t : PReq → Bool} {f : PReq → PReq} (h : y ∈ updFirst l t f)
      (hf : ∀ x, (f x).kind = x.kind ∧ (f x).peer = x.peer) :
      ∃ x ∈ l, x.kind = y.kind ∧ x.peer = y.peer := by
    have same : (updFirst l t f).map (fun x => (x.kind, x.peer)) = l.map fun x => (x.kind, x.peer) :=
      map_updFirst (fun x => by rw [(hf x).1, (hf x).2]) _ _
    obtain ⟨x, hx, eq⟩ := List.mem_map.mp (same ▸ List.mem_map_of_mem h)
    obtain ⟨kind, peer⟩ := Prod.mk.inj eq
    exact ⟨x, hx, kind, peer⟩
  unfold State.launch at hy
  split at hy
  · exact ⟨y, hy, rfl, rfl⟩
  · split at hy
    · split at hy
      · exact ⟨y, hy, rfl, rfl⟩
      · rw [(State.traffic_sendFrames ..).reqs] at hy
        dsimp only [State.modPol_pol] at hy
        split at hy
        · exact ⟨y, (List.mem_filter.mp hy).1, rfl, rfl⟩
        · exact changed hy fun _ => ⟨rfl, rfl⟩
    · exact ⟨y, hy, rfl, rfl⟩

theorem State.queueRpp_oneWay {peer : Nat} {kind : ReqKind} {msg : RppMsg} {y : PReq} (hy : y ∈ (s.queueRpp peer kind msg).pol.reqs)
    (oneWay : y.kind = .oneWay) : (∃ x ∈ s.pol.reqs, x.kind = .oneWay ∧ x.peer = y.peer) ∨ y.peer = peer := by
  obtain ⟨x, hx, kind', peer'⟩ := State.launch_oneWay hy
  rcases List.mem_append.mp hx with old | new
  · have old : x ∈ (s.opened peer).pol.reqs := old
    unfold State.opened at old
    split at old
    · exact .inl ⟨x, old, kind'.trans oneWay, peer'⟩
    · obtain ⟨reqs, -⟩ | ⟨h, -, hello, reqs, -⟩ := s.openSess_reqs peer
      · exact .inl ⟨x, reqs ▸ old, kind'.trans oneWay, peer'⟩
      · rw [reqs] at old
        rcases List.mem_append.mp old with old | new
        · exact .inl ⟨x, old, kind'.trans oneWay, peer'⟩
        · rw [List.mem_singleton.mp new, hello, oneWay] at kind'
          cases kind'
  · exact .inr (peer'.symm.trans (congrArg PReq.peer (List.mem_singleton.mp new)))

/-! ### Heartbeats -/

/-- How far the heartbeats of a state have come: what is kept, that one-way messages wait only for peers without an open session, and that
there is room for the one session that may have to be opened. -/
structure State.Beating (s t : State) : Prop where
  pushes : s.Pushes t
  waiting : ∀ x ∈ t.pol.reqs, x.kind = .oneWay → s.sessOpen x.peer = false
  room : t.pol.sess.length < 8192 ∨ s.sec.coreFault = true ∨ ∀ r, s.registrar = some r → (t.pol.session r).isSome = true

/-- One heartbeat, unless one waits for the peer. -/
def State.beat (s : State) (i : Nat) : State :=
  if s.pol.reqs.any fun r => r.peer == i && r.kind == .oneWay && r.msg.type == 9 then s else s.sendRpp i 9 0 .ok 0 0 .none

/-- A message on an open session is told at once. -/
theorem State.sendRpp_told {i : Nat} (open_ : s.sessOpen i = true) (ty tag : Nat) (st : Status) (aid ep : Nat) (pl : RppPl) :
    s.Traffic (s.sendRpp i ty tag st aid ep pl) ∧ (s.sendRpp i ty tag st aid ep pl).told i ty tag st aid ep pl := by
  rw [State.sendRpp_open open_]
  have traffic := s.traffic_sendFrames i (s.rppMsg i ty tag st aid ep pl).frames
  refine ⟨traffic, fun f hf => ?_⟩
  rw [traffic.rppMsg] at hf
  exact (s.outgoing_sendFrames i _).1 f hf

theorem State.Pushes.isSome (h : s.Pushes t) {i : Nat} (some : (s.pol.session i).isSome = true) : (t.pol.session i).isSome = true := by
  obtain ⟨x, hx⟩ := Option.isSome_iff_exists.mp some
  obtain ⟨y, hy, -⟩ := h.sess i x hx
  exact Option.isSome_iff_exists.mpr ⟨y, hy⟩

theorem State.openSess_faulty (peer : Nat) (fault : s.sec.coreFault = true) : s.openSess peer = s := by
  unfold State.openSess
  dsimp only
  split
  · rfl
  · exact if_pos fault

/-- With room for a session, or none to be opened, a request to the registrar pushes nothing out. -/
theorem State.Beating.opens (h : s.Beating t) {i : Nat} (registrar : s.registrar = some i) :
    t.Pushes (t.opened i) ∧ (s.sec.coreFault = true ∨ ((t.opened i).pol.session i).isSome = true) := by
  have sec : t.sec = s.sec := (congrArg State.sec h.pushes.asks.rest).symm
  unfold State.opened
  split
  next here => exact ⟨.refl t, .inr here⟩
  next gone =>
    rcases h.room with room | fault | here
    · have opened := State.pushes_openSess (s := t) (peer := i) room
      rw [sec] at opened
      exact opened
    · rw [State.openSess_faulty i (sec ▸ fault)]
      exact ⟨.refl t, .inl fault⟩
    · exact absurd (here i registrar) gone

theorem State.Beating.beat (h : s.Beating t) {i : Nat} (meant : s.sessOpen i = true ∨ s.registrar = some i) :
    t.Pushes (t.beat i) ∧ s.Beating (t.beat i) ∧ (s.sessOpen i = true → (t.beat i).told i 9 0 .ok 0 0 .none) := by
  unfold State.beat
  split
  next waits =>
    obtain ⟨x, hx, awaited⟩ := List.any_eq_true.mp waits
    simp only [Bool.and_eq_true, beq_iff_eq] at awaited
    obtain ⟨⟨peer, oneWay⟩, -⟩ := awaited
    have closed := h.waiting x hx oneWay
    exact ⟨.refl t, h, fun open_ => absurd (peer ▸ open_) (by simp [closed])⟩
  next =>
    by_cases open_ : t.sessOpen i = true
    · obtain ⟨traffic, told⟩ := State.sendRpp_told open_ 9 0 .ok 0 0 .none
      have sent : t.Pushes (t.sendRpp i 9 0 .ok 0 0 .none) := by
        rw [State.sendRpp_open open_]
        exact t.pushes_sendFrames ..
      have length : (t.sendRpp i 9 0 .ok 0 0 .none).pol.sess.length = t.pol.sess.length := by
        rw [← List.length_map (f := RppSess.talk), traffic.talk, List.length_map]
      refine ⟨sent, ⟨h.pushes.trans sent, by rw [traffic.reqs]; exact h.waiting, ?_⟩, fun _ => told⟩
      rw [length]
      exact h.room.imp_right fun k => k.imp_right fun k r hr => sent.isSome (k r hr)
    · have closed : s.sessOpen i = false := by
        by_contra was
        exact open_ (h.pushes.sessOpen (by simpa using was))
      have registrar : s.registrar = some i := meant.resolve_left (by simp [closed])
      obtain ⟨opens, here⟩ := h.opens registrar
      have queued : t.sendRpp i 9 0 .ok 0 0 .none = t.queueRpp i .oneWay (t.rppMsg i 9 0 .ok 0 0 .none) := if_neg (by simp [open_])
      have sent := t.pushes_queueRpp i .oneWay (t.rppMsg i 9 0 .ok 0 0 .none)
      rw [queued]
      refine ⟨opens.trans sent, ⟨h.pushes.trans (opens.trans sent), fun x hx oneWay => ?_, .inr (here.imp_right fun here r hr => ?_)⟩,
        fun was => absurd was (by simp [closed])⟩
      · rcases State.queueRpp_oneWay hx oneWay with ⟨y, hy, kind, peer⟩ | peer
        · exact peer ▸ h.waiting y hy kind
        · exact peer ▸ closed
      · have same : r = i := Option.some.inj (hr.symm.trans registrar)
        exact same ▸ sent.isSome here

/-- Every member with an open session is told that this member lives (R311). -/
theorem State.heartbeats_told (quiet : ∀ r ∈ s.pol.reqs, r.kind ≠ .oneWay) (room : s.pol.sess.length < 8192) :
    s.Pushes s.heartbeats ∧ ∀ i ∈ s.others, s.sessOpen i = true → s.heartbeats.told i 9 0 .ok 0 0 .none := by
  have beats (l : List Nat) (meant : ∀ i ∈ l, s.sessOpen i = true ∨ s.registrar = some i) (t : State) (h : s.Beating t) :
      t.Pushes (l.foldl State.beat t) ∧ ∀ i ∈ l, s.sessOpen i = true → (l.foldl State.beat t).told i 9 0 .ok 0 0 .none := by
    induction l generalizing t with
    | nil => exact ⟨.refl t, nofun⟩
    | cons i l ih =>
      obtain ⟨beat, h', told⟩ := h.beat (meant i (List.mem_cons_self ..))
      obtain ⟨rest, others⟩ := ih (fun j hj => meant j (List.mem_cons_of_mem _ hj)) (t.beat i) h'
      refine ⟨beat.trans rest, fun j hj open_ => ?_⟩
      rcases List.mem_cons.mp hj with rfl | hj
      · exact rest.told (h'.pushes.sessOpen open_) (told open_)
      · exact others j hj open_
  obtain ⟨pushes, told⟩ := beats (s.others.filter fun i => s.sessOpen i || s.registrar == some i)
    (fun i hi => by simpa using (List.mem_filter.mp hi).2) s ⟨.refl s, fun x hx oneWay => absurd oneWay (quiet x hx), .inl room⟩
  exact ⟨pushes, fun i hi open_ => told i (List.mem_filter.mpr ⟨hi, by simp [open_]⟩) open_⟩

/-! ### The period -/

/-- The items of a period, with those that follow any of the pool's work. -/
def phbItems : List Work := [.heartbeat, .batch, .acks, .windows, .views, .sessions, .moves, .blobs]

theorem exec_phbPeriod_due (member : s.pol.instValid = true) (on : s.pwr.pdStage.toNat < 5) (due : s.due perPhb = true) (idle : s.poolIdle = true) :
    ∃ l k, exec .phbPeriod s = .next (State.runWork 15 (State.heartbeats
      (State.withWork { s.align perPhb (100000 * s.pol.phbPeriod.toNat) with lnk := l, freeCtr := k } phbItems.tail))) := by
  obtain ⟨up, work, held⟩ := s.poolIdle_iff.mp idle
  obtain ⟨l, k, lag⟩ : ∃ l k, (if (s.align perPhb (100000 * s.pol.phbPeriod.toNat)).newRetiring.isEmpty
      then s.align perPhb (100000 * s.pol.phbPeriod.toNat) else (s.align perPhb (100000 * s.pol.phbPeriod.toNat)).lagNotice 3 (s.dueOf perPhb))
      = { s.align perPhb (100000 * s.pol.phbPeriod.toNat) with lnk := l, freeCtr := k } := by
    split
    · exact ⟨_, _, rfl⟩
    · obtain ⟨l, k, lag, -⟩ := State.lagNotice_eq (s.align perPhb (100000 * s.pol.phbPeriod.toNat)) 3 (s.dueOf perPhb)
      exact ⟨l, k, lag⟩
  refine ⟨l, k, ?_⟩
  change execPhbPeriod s = _
  rw [execPhbPeriod, if_neg (by simp [member, on, due])]
  dsimp only
  rw [lag]
  obtain ⟨t, ht⟩ : ∃ t, t = { s.align perPhb (100000 * s.pol.phbPeriod.toNat) with lnk := l, freeCtr := k } := ⟨_, rfl⟩
  rw [← ht]
  have up' : t.serviceUp 2 3 = true := by rw [ht]; exact up
  have work' : t.pol.work = [] := by rw [ht]; exact work
  have held' : t.pol.heldMsgs = [] := by rw [ht]; exact held
  have step {l : List Work} {w : Work} (new : w ∉ l) : (t.withWork l).item w = t.withWork (l ++ [w]) := State.item_new new
  have items : (((((((t.item .heartbeat).item .batch).item .acks).item .windows).item .views).item .sessions).item .moves).item .blobs
      = t.withWork phbItems := by
    rw [← State.withWork_nil work', step (by decide), step (by decide), step (by decide), step (by decide), step (by decide), step (by decide),
      step (by decide), step (by decide)]
    rfl
  have fuel : (t.withWork phbItems).pol.work.length + (t.withWork phbItems).pol.heldMsgs.length + 8 = 15 + 1 := by
    change 8 + t.pol.heldMsgs.length + 8 = 16
    rw [held']
    rfl
  have runs : ¬(t.withWork phbItems).serviceUp 2 3 = false := (Bool.not_eq_false _).mpr up'
  rw [State.poolWork, items, State.runPool, fuel, State.runWork, State.heldDue_none (s := t.withWork phbItems) held']
  exact congrArg Host.Outcome.next (if_neg runs)

end

end Sys2Proof.Machine
end

section
/-! PROOF. The serve window (R334): one record that can be served, with and without a tumbler to serve it. -/

namespace Sys2Proof.Machine

open Sys2Proof

section
variable {s t : State} {p : Nat} {r : Nat × Nat × VisitRec} {e : Entry} {x : VSlot}

/-- A version of which a step takes hold. -/
def State.claim (s : State) (aid ep : Nat) : State := (s.takeRef aid ep).modSlot aid ep fun v => { v with stamp := s.cab.useStamp.toNat }

/-- A version that lies in the Cabinet is reserved where its staging fits, and nothing else changes. -/
theorem State.reserveStage_here {k : List Nat} (he : s.entry (nth k 0 0) = some e) (hx : e.slot (nth k 1 0) = some x) (here : x.slow = false)
    (fits : (s.reserveStage p [] [servePath k]).1.isSome = true) :
    s.reserveStage p [] [servePath k] = (some [], s.claim (nth k 0 0) (nth k 1 0)) := by
  obtain ⟨e1, he1, hx1⟩ := State.slot_modSlot (s := s) (g := fun v => { v with refs := v.refs + 1 }) he hx fun _ => ⟨rfl, rfl⟩
  obtain ⟨e2, he2, hx2⟩ := State.slot_modSlot (g := fun v => { v with stamp := s.cab.useStamp.toNat }) he1 hx1 fun _ => ⟨rfl, rfl⟩
  obtain ⟨d, hd⟩ : ∃ d, d = servePath k := ⟨_, rfl⟩
  obtain ⟨t, ht⟩ : ∃ t, t = s.claim d.aid d.epoch := ⟨_, rfl⟩
  have promoted : t.promote d.aid d.epoch = (true, t) := by
    rw [ht, hd]
    exact State.promote_here he2 hx2 here
  have path : d.path = .local := by rw [hd]; rfl
  have only : [d].filter (fun d => !d.dead && d.path != .visit) = [d] := by rw [hd]; rfl
  change s.reserveStage p [] [servePath k] = (some [], s.claim (servePath k).aid (servePath k).epoch)
  rw [← hd, ← ht]
  rw [← hd] at fits
  unfold State.reserveStage at fits ⊢
  dsimp only at fits ⊢
  split at fits
  · cases fits
  next fit =>
    rw [if_neg fit]
    simp only [only, List.foldl_cons, List.foldl_nil, path, true_or, if_true]
    rw [← State.claim, ← ht, promoted]
    rfl

theorem State.claim_entries (s : State) (aid ep : Nat) : ∃ l, s.claim aid ep = s.modCab fun c => { c with dir := l } := ⟨_, rfl⟩

@[simp] theorem State.finishReq_serveQ (s : State) (peer tag ty : Nat) (st : Status) (aid ep : Nat) (pl : RppPl) :
    (s.finishReq peer tag ty st aid ep pl).pol.serveQ = s.pol.serveQ := by
  unfold State.finishReq
  split
  · rfl
  · exact (State.traffic_sendFrames ..).serveQ

/-- The serve step of one record. -/
theorem State.serveStep_ctx (r : Nat × Nat × VisitRec) (page : p < s.prt.length) :
    ∃ c, (s.serveStep p [r.2.2.key] [r]).ctxOf p = some c ∧ c.role = .serve ∧ c.phase = .reserve ∧ c.drawers.length = 1
      ∧ (c.drw 0).served = [r.2.2] := by
  refine ⟨_, congrArg Prt.ctx (State.getP_modP_same (s := (s.unqueue r).modCab _) _ page), rfl, rfl, rfl, ?_⟩
  have mine : [r].filter (fun x => x.2.2.key == r.2.2.key) = [r] := by simp
  change ([r].filter fun x => x.2.2.key == r.2.2.key).map (·.2.2) = [r.2.2]
  rw [mine]
  rfl

/-- A window is due, and one record waits for it, of a version that lies in the Cabinet. -/
structure State.Waits (s : State) (r : Nat × Nat × VisitRec) (e : Entry) (x : VSlot) : Prop where
  page : s.pol.servePart.toNat < s.prt.length
  idle : (s.getP s.pol.servePart.toNat).ctx = none
  serves : s.pol.servePart.toNat < 32
  free : s.issueHeld = false
  due : s.due perVisit = true
  queue : s.pol.serveQ = [r]
  cap : r.2.2.vecs.length ≤ s.pol.serveCap.toNat
  entry : s.entry r.2.2.aid = some e
  owned : e.owned = true
  filled : e.state ≠ .empty
  slot : e.slot r.2.2.epoch = some x
  sound : x.damaged = false
  here : x.slow = false

/-- The state in which a window is formed. -/
def State.atWin (s : State) : State := (s.align perVisit (100 * s.pol.visitWin.toNat)).newCharge s.pol.servePart.toNat

theorem State.atWin_eq (s : State) : ∃ m l, s.atWin
    = State.modP { s with mgt := m, cab := { s.cab with extents := l } } s.pol.servePart.toNat Prt.takeCharge := by
  obtain ⟨l, run⟩ := State.newCharge_eq (s.align perVisit (100 * s.pol.visitWin.toNat)) s.pol.servePart.toNat
  exact ⟨_, l, run⟩

section
variable (h : s.Waits r e x)
include h

/-- The record is taken. -/
theorem State.Waits.taken (pol : t.pol = s.pol) (cab : t.cab = s.cab) :
    t.servePin (takeCap s.pol.serveCap.toNat 0 t.serveOrder) = ([r], t) := by
  have order : t.serveOrder = [r] := by rw [State.serveOrder, pol, h.queue]; rfl
  have taken : takeCap s.pol.serveCap.toNat 0 [r] = [r] := by
    rw [takeCap, if_pos (by rw [Nat.zero_add]; exact h.cap)]
    rfl
  have entry : (t.entry r.2.2.aid).filter (fun e => e.owned && e.state != .empty) = some e := by
    rw [State.entry_eq_of_cab _ cab, h.entry]
    exact filter_some (by simp [h.owned, h.filled])
  have slot : (e.slot r.2.2.epoch).filter (fun v => !v.damaged) = some x := by
    rw [h.slot]
    exact filter_some (by simp [h.sound])
  rw [order, taken, State.servePin, List.foldl_cons, List.foldl_nil]
  dsimp only
  rw [entry]
  dsimp only
  rw [slot]
  exact if_pos h.here

/-- What the window does from the drawers on that can be staged. -/
theorem State.Waits.exec {fit : List (List Nat)} (hfit : s.atWin.serveFit s.pol.servePart.toNat
      (if s.atWin.servable s.pol.servePart.toNat then [r.2.2.key] else []) = (fit, s.atWin)) :
    exec .visitWin s = .next (
      let t := ([r].filter fun x => !fit.contains x.2.2.key).foldl (fun (s : State) x => s.serveStatus x .noCapacity) s.atWin
      if fit.isEmpty then t
      else
        match (t.reserveStage s.pol.servePart.toNat [] (fit.map servePath)).1 with
        | none => (t.reserveStage s.pol.servePart.toNat [] (fit.map servePath)).2
        | some _ => (t.reserveStage s.pol.servePart.toNat [] (fit.map servePath)).2.serveStep s.pol.servePart.toNat fit
          ([r].filter fun x => fit.contains x.2.2.key)) := by
  have taken : (s.align perVisit (100 * s.pol.visitWin.toNat)).servePin (takeCap (s.align perVisit (100 * s.pol.visitWin.toNat)).pol.serveCap.toNat 0
    (s.align perVisit (100 * s.pol.visitWin.toNat)).serveOrder) = ([r], s.align perVisit (100 * s.pol.visitWin.toNat)) := h.taken rfl rfl
  have keys : (if s.atWin.servable s.pol.servePart.toNat then ([r].map fun x => x.2.2.key).eraseDups else [])
    = if s.atWin.servable s.pol.servePart.toNat then [r.2.2.key] else [] := rfl
  change execVisitWin s = _
  unfold execVisitWin
  dsimp only
  rw [if_neg (by simp [h.serves, h.idle, h.free, h.queue, h.due]), taken]
  dsimp only
  rw [← State.atWin, keys, hfit] <;> rfl

theorem State.Waits.unqueued : s.pol.serveQ.erase r = [] := by rw [h.queue, List.erase_cons_head]

/-- Without a tumbler the record is answered NO_CAPACITY (R349). -/
theorem State.Waits.refused (bare : (s.getP s.pol.servePart.toNat).tumOwn = 0) :
    ∃ t, Machine.exec .visitWin s = .next t ∧ t.pol.serveQ = [] ∧ t.ctxOf s.pol.servePart.toNat = none := by
  obtain ⟨m, l, win⟩ := s.atWin_eq
  have page : s.atWin.getP s.pol.servePart.toNat = (s.getP s.pol.servePart.toNat).takeCharge := by
    rw [win]
    exact State.getP_modP_same (s := { s with mgt := m, cab := { s.cab with extents := l } }) _ h.page
  have servable : s.atWin.servable s.pol.servePart.toNat = false := by
    rw [State.servable, page]
    exact decide_eq_false (not_not.mpr bare)
  refine ⟨_, h.exec (fit := []) (by rw [servable]; rfl), ?_, ?_⟩
  · refine (State.finishReq_serveQ ..).trans ?_
    change s.atWin.pol.serveQ.erase r = []
    rw [win]
    exact h.unqueued
  · change ((s.atWin.unqueue r).finishReq ..).ctxOf _ = none
    rw [State.ctxOf, State.getP, State.finishReq_prt]
    exact (congrArg Prt.ctx page).trans h.idle

/-- With a tumbler, and where the staging holds its drawer, the record is served by a step of its own. -/
theorem State.Waits.served (owns : (s.getP s.pol.servePart.toNat).tumOwn ≠ 0)
    (fits : (s.atWin.reserveStage s.pol.servePart.toNat [] [servePath r.2.2.key]).1.isSome = true) :
    ∃ (t : State) (c : Ctx), Machine.exec .visitWin s = .next t ∧ t.pol.serveQ = [] ∧ t.ctxOf s.pol.servePart.toNat = some c ∧ c.role = .serve
      ∧ c.phase = .reserve ∧ c.drawers.length = 1 ∧ (c.drw 0).served = [r.2.2] ∧ t.cab.useStamp = wrapAdd s.cab.useStamp 1 := by
  obtain ⟨m, l, win⟩ := s.atWin_eq
  have page : s.atWin.getP s.pol.servePart.toNat = (s.getP s.pol.servePart.toNat).takeCharge := by
    rw [win]
    exact State.getP_modP_same (s := { s with mgt := m, cab := { s.cab with extents := l } }) _ h.page
  have servable : s.atWin.servable s.pol.servePart.toNat = true := by
    rw [State.servable, page]
    exact decide_eq_true owns
  have entry : s.atWin.entry r.2.2.aid = some e := by
    rw [win]
    exact h.entry
  have reserved := State.reserveStage_here (k := r.2.2.key) entry h.slot h.here fits
  have fit : s.atWin.serveFit s.pol.servePart.toNat [r.2.2.key] = ([r.2.2.key], s.atWin) := by
    rw [State.serveFit, List.foldl_cons, List.foldl_nil]
    change (if (s.atWin.reserveStage s.pol.servePart.toNat [] [servePath r.2.2.key]).1.isSome then [r.2.2.key] else [],
      s.atWin.fragFrom (s.atWin.reserveStage s.pol.servePart.toNat [] [servePath r.2.2.key]).2) = _
    rw [reserved]
    rfl
  have one : [r.2.2.key].map servePath = [servePath r.2.2.key] := rfl
  have kept : ([r].filter fun x => [r.2.2.key].contains x.2.2.key) = [r] := by simp
  have rest : ([r].filter fun x => !([r.2.2.key].contains x.2.2.key)) = [] := by simp
  have run : Machine.exec .visitWin s
      = .next ((s.atWin.claim r.2.2.aid r.2.2.epoch).serveStep s.pol.servePart.toNat [r.2.2.key] [r]) := by
    rw [h.exec (fit := [r.2.2.key]) (by rw [servable]; exact fit), rest, List.foldl_nil, one]
    dsimp only
    rw [reserved, kept]
    rfl
  have length : s.pol.servePart.toNat < (s.atWin.claim r.2.2.aid r.2.2.epoch).prt.length := by
    rw [win]
    exact (modNth_length ..).symm ▸ h.page
  obtain ⟨c, ctx, role, phase, one, served⟩ := State.serveStep_ctx r length
  refine ⟨_, c, run, ?_, ctx, role, phase, one, served, ?_⟩
  · change s.atWin.pol.serveQ.erase r = []
    rw [win]
    exact h.unqueued
  · change wrapAdd s.atWin.cab.useStamp 1 = _
    rw [win]
    rfl

end

end

end Sys2Proof.Machine
end

section
/-! PROOF. The pool's timers: the obligation. -/

namespace Sys2Proof.Machine

open Sys2Proof

/-- Settles O46: each timer has its outcomes one by one, and what it leaves is then taken up by the pool pair. -/
theorem poolTimersExpire : Obligations.PoolTimersExpire := by
  intro s
  refine ⟨?expiry, ?dead, ?lease, fun _ => rfl, ?join, ?alone, ?hold, ?heartbeat, ?snapshot, ?probeEarly, ?probe, ?winEarly, ?refused, ?served⟩
  case expiry =>
    intro r x found
    have run := exec_tReqExpiry found
    have listed := List.mem_of_find?_eq_some found
    have numbered : x.id = r := by
      have h := List.find?_some found
      simp only [Bool.and_eq_true, beq_iff_eq] at h
      exact h.1
    have due (h : x.due ≤ s.now) : exec (.tReqExpiry r) s = .next (s.resend x).poolWork := by rw [run, if_neg (Nat.not_lt.mpr h)]
    refine ⟨fun early => by rw [run, if_pos early], fun h more sent nodup => ?_, fun h more queued nodup => ?_, fun h spent => ?_⟩
    · refine ⟨_, due h, ?_⟩
      rw [State.resend_again more, if_neg (by simp [sent])]
      exact ⟨(State.outgoing_sendFrames _ _ _).1, s.renewed x, State.renewed_resent nodup listed, numbered, rfl, rfl⟩
    · refine ⟨_, due h, ?_⟩
      rw [State.resend_again more, if_pos queued]
      exact ⟨rfl, rfl, _, State.renewed_listed nodup listed, numbered, rfl, rfl⟩
    · rw [due h, State.resend_spent spent]
  case dead =>
    intro inst open_ reached
    refine ⟨exec_peerDead_early, fun due moves reqs => ⟨_, exec_peerDead_silent open_ reached due moves reqs, State.silence_unreach open_, rfl⟩⟩
  case lease => exact fun inst registrar majority other member listed due => exec_lease_expired registrar majority other member listed due
  case join =>
    intro a rest stage outside idle up due deployed sound pool seeds
    obtain ⟨u, same, asked⟩ := State.joinStart_asks deployed sound pool seeds
    exact ⟨u, by rw [exec_joinRetry_due stage outside idle up due, same], asked⟩
  case alone =>
    intro stage outside idle up due deployed sound alone
    exact ⟨_, exec_joinRetry_due stage outside idle up due, State.joinStart_alone deployed sound alone⟩
  case hold =>
    intro aid slot e c he found
    have run := exec_gdHold he found
    exact ⟨fun early => by rw [run, if_pos early],
      fun due => ⟨_, by rw [run, if_neg (Nat.not_lt.mpr due)], State.dropSlot_entry slot he, s.dropSlot_freed aid slot⟩⟩
  case heartbeat =>
    intro member on
    refine ⟨fun early => congrArg Host.Outcome.next (if_pos (.inr (.inr early))), fun due idle quiet room => ?_⟩
    obtain ⟨l, k, run⟩ := exec_phbPeriod_due member on due idle
    obtain ⟨t, ht⟩ : ∃ t, t = State.withWork { s.align perPhb (100000 * s.pol.phbPeriod.toNat) with lnk := l, freeCtr := k } phbItems.tail := ⟨_, rfl⟩
    rw [← ht] at run
    obtain ⟨pushes, told⟩ := State.heartbeats_told (s := t) (by rw [ht]; exact quiet) (by rw [ht]; exact room)
    have mgt : t.heartbeats.mgt = t.mgt := (congrArg State.mgt pushes.asks.rest).symm
    have work : t.heartbeats.pol.work = t.pol.work := (congrArg (fun u : State => u.pol.work) pushes.asks.rest).symm
    rw [ht] at told mgt work run
    exact ⟨_, run, work, mgt, told⟩
  case snapshot =>
    intro booted snap
    refine ⟨fun idle => (exec_calNow booted).trans (congrArg _ (State.runItem_snapshot idle)), exec_calPeriod_early, fun due idle => ?_⟩
    obtain ⟨l, k, run, silent⟩ := exec_calPeriod_due booted due idle
    exact ⟨_, run, rfl, rfl, silent⟩
  case probeEarly => exact fun grp _ early => exec_probePeriod_early early
  case probe =>
    intro grp member due idle group quiet
    exact ⟨_, exec_probePeriod_due member due idle group quiet, (State.probeGroup_asks group quiet).2⟩
  case winEarly => exact fun early => congrArg Host.Outcome.next (if_pos (.inr (.inr (.inr (.inr early)))))
  case refused =>
    intro r e x page idle serves free due queue bare cap entry owned filled slot sound here
    exact State.Waits.refused ⟨page, idle, serves, free, due, queue, cap, entry, owned, filled, slot, sound, here⟩ bare
  case served =>
    intro r e x page idle serves free due queue owns cap entry owned filled slot sound here fits
    exact State.Waits.served ⟨page, idle, serves, free, due, queue, cap, entry, owned, filled, slot, sound, here⟩ owns fits

end Sys2Proof.Machine
end

section
/-! PROOF. Accesses to host memory (R303, R611, R612): the obligation. -/

namespace Sys2Proof.Machine

open Sys2Proof

section
variable {s : State} {x : Xfer}

/-! ### The accesses on their way -/

/-- Transfers are counted on a port. -/
theorem State.fabCount_eq (s : State) (port : Option Nat) (sent : Bool) (n : Nat) :
    ∃ l, s.fabCount port sent n = { s with fab := { s.fab with ports := l } } := by
  unfold State.fabCount
  split
  · exact ⟨s.fab.ports, rfl⟩
  · exact ⟨_, rfl⟩

/-- The state with these accesses on their way, and these counters of the ports. -/
def State.withXfers (s : State) (l : List Xfer) (ports : List FabPort) : State := { s with fab := { s.fab with xfers := l, ports := ports } }

/-- An access that is found by its number has it. -/
theorem found_xid {l : List Xfer} {xid : Nat} {t : Xfer → Bool} (found : l.find? (fun y => y.xid == xid && t y) = some x) : x.xid = xid :=
  beq_iff_eq.mp (Bool.and_eq_true_iff.mp (List.find?_some (p := fun y : Xfer => y.xid == xid && t y) found)).1

theorem dropped_unlisted (l : List Xfer) (use : XferFor) : ∀ y ∈ l.filter (fun y => y.use != use), y.use ≠ use := fun y hy => by
  simpa using (List.mem_filter.mp hy).2

/-! ### Data of a read (R303, R611) -/

/-- Data for a step are counted and reach it; the read is no longer on its way. -/
theorem exec_hostReadData_step {bytes : List Byte} {p n tag : Nat} (use : x.use = .step p n tag)
    (found : s.fab.xfers.find? (fun y => y.xid == x.xid && y.write.isNone && y.got.isNone) = some x) :
    ∃ ports, exec (.hostReadData x.xid bytes) s =
      .next ((s.withXfers (s.fab.xfers.filter fun y => y.xid != x.xid) ports).stepData p n tag x bytes) := by
  obtain ⟨ports, counted⟩ := s.fabCount_eq (s.subPort x.addr) false bytes.length
  refine ⟨ports, ?_⟩
  change execHostReadData x.xid bytes s = _
  simp only [execHostReadData, found, use, counted, State.modFab, State.withXfers]

/-- A piece of a slower-tier read is counted and taken up. -/
theorem exec_hostReadData_slow {bytes : List Byte} {p aid ep : Nat} (use : x.use = .slowRead p aid ep)
    (found : s.fab.xfers.find? (fun y => y.xid == x.xid && y.write.isNone && y.got.isNone) = some x) :
    ∃ ports, exec (.hostReadData x.xid bytes) s = .next ((s.withXfers s.fab.xfers ports).slowData p aid ep x bytes) := by
  obtain ⟨ports, counted⟩ := s.fabCount_eq (s.subPort x.addr) false bytes.length
  refine ⟨ports, ?_⟩
  change execHostReadData x.xid bytes s = _
  simp only [execHostReadData, found, use, counted, State.withXfers]

/-- A step that asked for bytes has them, cut or filled with zeros to the length it asked for. -/
def Ctx.given (c : Ctx) (tag : Nat) (x : Xfer) (bytes : List Byte) : Ctx :=
  { c with
    host := updFirst c.host (fun g => g.tag == tag && g.space == x.space && g.addr == x.addr && g.len == x.len && g.data.isNone)
      fun g => { g with data := some ((bytes ++ List.replicate (x.len - bytes.length) 0).take x.len) } }

/-- The state in which a step, issued or saved, has its bytes. -/
def State.given (s : State) (p n tag : Nat) (x : Xfer) (bytes : List Byte) : State :=
  let upd (c : Ctx) : Ctx := if c.sub.sseq = n then c.given tag x bytes else c
  s.modP p fun q => { q with ctx := q.ctx.map upd, svCtx := q.svCtx.map upd }

theorem State.stepData_eq (s : State) (p n tag : Nat) (x : Xfer) (bytes : List Byte) :
    s.stepData p n tag x bytes = ((s.given p n tag x bytes).resumeIssue p).pump p := rfl

theorem State.ctxOf_given {p : Nat} {c : Ctx} (tag : Nat) (bytes : List Byte) (hc : s.ctxOf p = some c) :
    (s.given p c.sub.sseq tag x bytes).ctxOf p = some (c.given tag x bytes) := by
  rw [State.ctxOf, State.given, State.getP_modP_same _ (State.lt_of_ctxOf hc)]
  change (s.getP p).ctx = some c at hc
  simp [hc]

/-- The accesses once a piece of a slower-tier read has come. -/
def State.gotPiece (s : State) (x : Xfer) (bytes : List Byte) : List Xfer :=
  s.fab.xfers.map fun y => if y.xid = x.xid then { y with got := some (bytes.take x.len) } else y

/-- A piece waits while another has not come. -/
theorem State.slowData_waits {p aid ep : Nat} {y : Xfer} (bytes : List Byte) (listed : y ∈ s.fab.xfers) (use : y.use = .slowRead p aid ep)
    (other : y.xid ≠ x.xid) (missing : y.got = none) :
    s.slowData p aid ep x bytes = s.withXfers (s.gotPiece x bytes) s.fab.ports := by
  refine if_neg fun all => ?_
  have same : y ∈ s.gotPiece x bytes := List.mem_map.mpr ⟨y, listed, if_neg other⟩
  have came := List.all_eq_true.mp all y (List.mem_filter.mpr ⟨same, beq_iff_eq.mpr use⟩)
  rw [missing] at came
  cases came

/-- With the last piece the blob is opened. -/
theorem State.slowData_opens {p aid ep : Nat} (bytes : List Byte)
    (came : ∀ y ∈ s.fab.xfers, y.use = .slowRead p aid ep → y.xid ≠ x.xid → y.got.isSome = true) :
    s.slowData p aid ep x bytes = (s.withXfers ((s.gotPiece x bytes).filter fun y => y.use != .slowRead p aid ep) s.fab.ports).promotionEnd aid ep
      (Config.opened p aid ep (granule * (((s.entry aid).bind fun e => e.slot ep).bind (·.slowLoc)).getD 0)
        ((insSort (fun (a b : Xfer) => decide (a.addr < b.addr)) ((s.gotPiece x bytes).filter fun y => y.use == .slowRead p aid ep)).flatMap
          fun y => y.got.getD [])) := by
  refine if_pos (List.all_eq_true.mpr fun z hz => ?_)
  obtain ⟨piece, use⟩ := List.mem_filter.mp hz
  obtain ⟨y, hy, rfl⟩ := List.mem_map.mp piece
  by_cases own : y.xid = x.xid
  · rw [if_pos own]
    rfl
  · rw [if_neg own] at use ⊢
    exact came y hy (beq_iff_eq.mp use) own

/-! ### Completion of a write (R611) -/

/-- Without the last write of its purpose nothing of that purpose is on its way. -/
theorem State.xferFor_last {xid : Nat} {use : XferFor} (ports : List FabPort) (last : ∀ y ∈ s.fab.xfers, y.use = use → y.xid = xid) :
    (s.withXfers (s.fab.xfers.filter fun y => y.xid != xid) ports).xferFor use = false := by
  refine List.any_eq_false.mpr fun y hy same => ?_
  obtain ⟨listed, other⟩ := List.mem_filter.mp hy
  rw [last y listed (beq_iff_eq.mp same)] at other
  simp at other

/-- The completion of a write is counted; the write is no longer on its way, and is acknowledged. -/
theorem exec_hostWriteCompletion_write {id : Nat} (use : x.use = .write id)
    (found : s.fab.xfers.find? (fun y => y.xid == x.xid && y.write.isSome) = some x) :
    ∃ ports, exec (.hostWriteCompletion x.xid) s = .next ((s.withXfers (s.fab.xfers.filter fun y => y.xid != x.xid) ports).ackWrite id) := by
  obtain ⟨ports, counted⟩ := s.fabCount_eq (s.subPort x.addr) false 0
  refine ⟨ports, ?_⟩
  change execHostWriteCompletion x.xid s = _
  simp only [execHostWriteCompletion, found, use, counted, State.modFab, State.withXfers]

/-- With the last write of a demoted blob its copy stands in the slower tier. -/
theorem exec_hostWriteCompletion_slow {p aid ep : Nat} (use : x.use = .slowWrite p aid ep)
    (found : s.fab.xfers.find? (fun y => y.xid == x.xid && y.write.isSome) = some x) (last : ∀ y ∈ s.fab.xfers, y.use = x.use → y.xid = x.xid) :
    ∃ ports, exec (.hostWriteCompletion x.xid) s =
      .next ((s.withXfers (s.fab.xfers.filter fun y => y.xid != x.xid) ports).demoted aid ep) := by
  obtain ⟨ports, counted⟩ := s.fabCount_eq (s.subPort x.addr) false 0
  refine ⟨ports, ?_⟩
  have gone := State.xferFor_last ports last
  rw [use] at gone
  change execHostWriteCompletion x.xid s = _
  simp only [execHostWriteCompletion, found, use, counted, State.modFab]
  exact congrArg Host.Outcome.next (if_neg (Bool.eq_false_iff.mp gone))

/-- Bytes for a space outside the device land in none of its memories. -/
theorem State.foldl_land_host {space : Nat} (host : 2 ≤ space) (l : List (Nat × List Byte)) (s : State) :
    l.foldl (fun (s : State) e => s.land space e.1 e.2) s = s := by
  induction l generalizing s with
  | nil => rfl
  | cons e l ih =>
    have stays : s.land space e.1 e.2 = s := by
      rw [State.land, if_neg (by omega), if_neg (by omega)]
    rw [List.foldl_cons, stays, ih]

/-- The state in which a write no longer waits. -/
def State.dropWrite (s : State) (id : Nat) : State := { s with writes := s.writes.filter fun w => w.id != id }

/-- A write to host memory that is visible is no longer pending, and its step goes on. -/
theorem State.ackWrite_host {id : Nat} {w : PWrite} (found : s.writes.find? (fun w => w.id == id) = some w) (host : 2 ≤ w.space) :
    s.ackWrite id = match w.tag with | .step p n _ => (s.dropWrite id).settleWrite p n id | _ => s.dropWrite id := by
  cases tag : w.tag <;> simp only [State.ackWrite, found, tag, State.foldl_land_host host, State.dropWrite]

/-! ### Accesses without an answer (R612) -/

/-- Whether an access still waits, for its time or for the domain of its sub-port. -/
def State.early (s : State) (x : Xfer) : Prop :=
  s.now < x.t0 + usTicks s.fab.hostTmo.toNat ∨ ∃ y ∈ s.fab.waiting, y.xid = x.xid

/-- The state once an access is given up and counted. -/
def State.givenUp (s : State) (x : Xfer) : State :=
  { s with
    ras := { s.ras with ueAll := satAdd s.ras.ueAll 1 }
    fab := { s.fab with xfers := s.fab.xfers.filter fun y => !(y.xid == x.xid) } }

theorem State.early_iff (s : State) (x : Xfer) :
    (s.now < x.t0 + usTicks s.fab.hostTmo.toNat ∨ s.fab.waiting.any (fun y => y.xid == x.xid) = true) ↔ s.early x := by
  simp [State.early]

theorem State.not_early (due : x.t0 + usTicks s.fab.hostTmo.toNat ≤ s.now) (left : ∀ y ∈ s.fab.waiting, y.xid ≠ x.xid) : ¬s.early x := by
  rintro (early | ⟨y, listed, same⟩)
  · exact Nat.not_lt.mpr due early
  · exact left y listed same

theorem exec_hostTmo_early (found : s.fab.xfers.find? (fun y => y.xid == x.xid && y.got.isNone) = some x) (early : s.early x) :
    exec (.hostTmo x.xid) s = .next s := by
  change execHostTmo x.xid s = _
  simp only [execHostTmo, found, if_pos ((s.early_iff x).mpr early)]

theorem exec_hostTmo_step {p n tag : Nat} (use : x.use = .step p n tag)
    (found : s.fab.xfers.find? (fun y => y.xid == x.xid && y.got.isNone) = some x) (due : ¬s.early x) :
    exec (.hostTmo x.xid) s = .next ((s.givenUp x).hostError x p n) := by
  change execHostTmo x.xid s = _
  simp only [execHostTmo, found, if_neg (mt (s.early_iff x).mp due), use]
  rfl

/-- Of a write that belongs to no step, nothing is left. -/
theorem exec_hostTmo_write {id : Nat} {w : PWrite} (use : x.use = .write id)
    (found : s.fab.xfers.find? (fun y => y.xid == x.xid && y.got.isNone) = some x) (due : ¬s.early x)
    (pending : s.writes.find? (fun w => w.id == id) = some w) (other : w.tag = .other) :
    exec (.hostTmo x.xid) s = .next ((s.givenUp x).dropWrite id) := by
  have none_told : ((s.modRas fun r => { r with ueAll := satAdd r.ueAll 1 }).writes.find? fun w => w.id == id) = some w := pending
  change execHostTmo x.xid s = _
  simp only [execHostTmo, found, if_neg (mt (s.early_iff x).mp due), use, none_told, Option.map_some, other]
  rfl

end

/-- Settles O41: the data of a read and the completion of a write by what the access is for; of an access without an answer, whether it has
left and waited for `HOST_TMO`. -/
theorem hostAccessesComplete : Obligations.HostAccessesComplete := by
  refine ⟨fun s xid bytes x found => ?_, fun s xid x => ⟨?write, ?slow, ?lost, ?torn, ?early⟩⟩
  · obtain rfl : x.xid = xid := found_xid (t := fun y => y.write.isNone && y.got.isNone) (by simpa only [Bool.and_assoc] using found)
    refine ⟨?data, ?piece, ?blob⟩
    case data =>
      rintro p n tag c use hc rfl
      obtain ⟨ports, run⟩ := exec_hostReadData_step (bytes := bytes) use found
      rw [State.stepData_eq] at run
      exact ⟨_, run, rfl, rfl, State.ctxOf_given tag bytes hc⟩
    case piece =>
      intro p aid ep y use listed same other missing
      obtain ⟨ports, run⟩ := exec_hostReadData_slow (bytes := bytes) use found
      rw [State.slowData_waits (s := s.withXfers s.fab.xfers ports) bytes listed (same.trans use) other missing] at run
      exact ⟨_, run, rfl, rfl⟩
    case blob =>
      intro p aid ep use came
      obtain ⟨ports, run⟩ := exec_hostReadData_slow (bytes := bytes) use found
      rw [use] at came ⊢
      rw [State.slowData_opens (s := s.withXfers s.fab.xfers ports) bytes came] at run
      refine ⟨_, ?_, ?_, run⟩
      · rfl
      · exact dropped_unlisted _ _
  case write =>
    intro id w found use pending host
    obtain rfl := found_xid found
    obtain ⟨ports, run⟩ := exec_hostWriteCompletion_write use found
    rw [State.ackWrite_host (s := s.withXfers _ ports) pending host] at run
    exact ⟨(s.withXfers _ ports).dropWrite id, rfl, rfl, rfl, run⟩
  case slow =>
    intro p aid ep found use last
    obtain rfl := found_xid found
    obtain ⟨ports, run⟩ := exec_hostWriteCompletion_slow use found last
    exact ⟨s.withXfers _ ports, rfl, rfl, run⟩
  case lost =>
    intro id w found due left use pending other
    obtain rfl := found_xid found
    exact exec_hostTmo_write use found (State.not_early due left) pending other
  case torn =>
    intro p n tag found due left use
    obtain rfl := found_xid found
    exact exec_hostTmo_step use found (State.not_early due left)
  case early =>
    intro found early
    obtain rfl := found_xid found
    exact exec_hostTmo_early found early

end Sys2Proof.Machine
end

section
/-! PROOF. The commit point (R361): the entry and the books of the Cabinet while notices leave and retired slots are freed. -/

namespace Sys2Proof.Machine

open Sys2Proof

section
variable {s t : State} {aid ep : Nat} {e : Entry}

/-! ### The entry of an adapter that has been committed -/

/-- What an entry is known by: adapter, current epoch, state. -/
def Entry.standing (e : Entry) : Nat × Nat × EntryState := (e.aid, e.curEpoch, e.state)

/-- The engine, the next log number, and the log. -/
def Cab.books (c : Cab) : Option (Candidate × Nat) × Nat × List CommitRec := (c.engine, c.lseqNext, c.log)

/-- The books stand like this, and an adapter has entries, all of them READY at this epoch. -/
structure State.Stands (s : State) (aid ep : Nat) (books : Option (Candidate × Nat) × Nat × List CommitRec) : Prop where
  books : s.cab.books = books
  listed : ∃ e ∈ s.cab.dir, e.aid = aid
  ready : ∀ e ∈ s.cab.dir, e.aid = aid → e.curEpoch = ep ∧ e.state = .ready

variable {b : Option (Candidate × Nat) × Nat × List CommitRec}

theorem State.Stands.entry (h : s.Stands aid ep b) : ∃ e, s.entry aid = some e ∧ e.curEpoch = ep ∧ e.state = .ready := by
  obtain ⟨e, listed, named⟩ := h.listed
  have found : (s.entry aid).isSome = true := List.find?_isSome.mpr ⟨e, listed, beq_iff_eq.mpr named⟩
  obtain ⟨e', he'⟩ := Option.isSome_iff_exists.mp found
  exact ⟨e', he', h.ready e' (List.mem_of_find?_eq_some he') (beq_iff_eq.mp (List.find?_some (p := fun e : Entry => e.aid == aid) he'))⟩

/-- What leaves the books and how each entry stands keeps the adapter as it is. -/
theorem State.Stands.of_standing (h : s.Stands aid ep b) (books : t.cab.books = s.cab.books)
    (dir : t.cab.dir.map Entry.standing = s.cab.dir.map Entry.standing) : t.Stands aid ep b := by
  have back {l m : List Entry} (same : l.map Entry.standing = m.map Entry.standing) : ∀ e ∈ l, ∃ e' ∈ m, e'.standing = e.standing :=
    fun e he => List.mem_map.mp (same ▸ List.mem_map_of_mem he)
  refine ⟨books.trans h.books, ?_, fun e he named => ?_⟩
  · obtain ⟨e, listed, named⟩ := h.listed
    obtain ⟨e', listed', same⟩ := back dir.symm e listed
    exact ⟨e', listed', (congrArg Prod.fst same).trans named⟩
  · obtain ⟨e', listed', same⟩ := back dir e he
    obtain ⟨aid, rest⟩ := Prod.mk.inj same
    obtain ⟨epoch, state⟩ := Prod.mk.inj rest
    obtain ⟨cur, ready⟩ := h.ready e' listed' (aid.trans named)
    exact ⟨epoch.symm.trans cur, state.symm.trans ready⟩

theorem State.Stands.of_cab (h : s.Stands aid ep b) (cab : t.cab = s.cab) : t.Stands aid ep b :=
  h.of_standing (congrArg Cab.books cab) (congrArg (fun c : Cab => c.dir.map Entry.standing) cab)

theorem State.Stands.foldl {α : Type} (h : s.Stands aid ep b) (l : List α) (f : State → α → State)
    (step : ∀ t : State, t.Stands aid ep b → ∀ a ∈ l, (f t a).Stands aid ep b) : (l.foldl f s).Stands aid ep b :=
  List.foldlRecOn (motive := fun t : State => t.Stands aid ep b) l f h step

/-! ### Freeing what is retired (R366) -/

theorem State.Stands.dropSlot (h : s.Stands aid ep b) (g : Nat × Nat) :
    ((s.modEntry g.1 fun e => e.dropSlot g.2).modCab fun c => c.release (.blob g.1 g.2)).Stands aid ep b :=
  h.of_standing rfl (map_updFirst (f := fun e => e.dropSlot g.2) (fun _ => rfl) s.cab.dir _)

theorem State.Stands.freeEntry (h : s.Stands aid ep b) (other : e.aid ≠ aid) : (s.freeEntry e).Stands aid ep b := by
  obtain ⟨e', listed, named⟩ := h.listed
  refine ⟨h.books, ⟨e', List.mem_filter.mpr ⟨listed, ?_⟩, named⟩, fun x hx => h.ready x (List.mem_filter.mp hx).1⟩
  rw [named]
  exact bne_iff_ne.mpr other.symm

theorem State.sendRetired_cab (s : State) (l : List (Nat × Nat)) : (s.sendRetired l).cab = s.cab := by
  unfold State.sendRetired
  split
  · rfl
  · refine List.foldlRecOn (motive := fun t : State => t.cab = s.cab) _ _ rfl fun t h c _ => ?_
    split
    · exact h
    · exact (State.notice_cab ..).trans h

theorem State.Stands.dropSlots (h : s.Stands aid ep b) (l : List (Nat × Nat)) :
    (l.foldl (fun (s : State) g => (s.modEntry g.1 fun e => e.dropSlot g.2).modCab fun c => c.release (.blob g.1 g.2)) s).Stands aid ep b :=
  h.foldl l _ fun _ ht g _ => ht.dropSlot g

/-- Entries of retired adapters are freed; one that is READY is not. -/
theorem State.Stands.freeEntries (h : s.Stands aid ep b) :
    (s.cab.dir.foldl (fun (s : State) e => if e.owned && e.state == .retiring && e.vtab.isEmpty then s.freeEntry e else s) s).Stands aid ep b := by
  refine h.foldl s.cab.dir _ fun t ht e he => ?_
  split
  next due =>
    refine ht.freeEntry fun named => ?_
    simp [(h.ready e he named).2] at due
  · exact ht

theorem State.Stands.reclaim (h : s.Stands aid ep b) : s.reclaim.Stands aid ep b :=
  ((h.dropSlots _).of_cab (State.sendRetired_cab _ _)).freeEntries

/-! ### The version that is committed (R361) -/

/-- Retiring old slots changes only the version table. -/
theorem retireOld_eq (retain n : Nat) (e : Entry) : ∃ v, retireOld retain n e = { e with vtab := v } := by
  induction n generalizing e with
  | zero => exact ⟨e.vtab, rfl⟩
  | succ n ih =>
    unfold retireOld
    dsimp only
    split
    · exact ⟨e.vtab, rfl⟩
    · split
      · obtain ⟨v, eq⟩ := ih (e.modSlot _ fun x => { x with vstate := .retiring })
        exact ⟨v, eq⟩
      · exact ⟨e.vtab, rfl⟩

theorem retireOld_keeps (retain n : Nat) (e : Entry) :
    let e' := retireOld retain n e
    e'.aid = e.aid ∧ e'.curEpoch = e.curEpoch ∧ e'.state = e.state ∧ e'.freePending = e.freePending := by
  obtain ⟨v, eq⟩ := retireOld_eq retain n e
  rw [eq]
  exact ⟨rfl, rfl, rfl, rfl⟩

/-- An entry with the slot of a committed version, which is its current one. -/
def Entry.withCommit (retain minor : Nat) (c : Candidate) (ep : Nat) (x : Extent) (e : Entry) : Entry :=
  retireOld retain 32 { e with
    vtab := (e.vtab.map fun v => if v.vstate = .current then { v with vstate := .retained } else v) ++ [freshSlot ep .current x.base c.blen minor]
    curEpoch := ep, state := .ready, dirty := false, tau := if c.kind = 1 then c.tau else e.tau }

theorem Entry.withCommit_stands (retain minor : Nat) (c : Candidate) (ep : Nat) (x : Extent) (e : Entry) :
    let e' := e.withCommit retain minor c ep x
    e'.aid = e.aid ∧ e'.curEpoch = ep ∧ e'.state = .ready ∧ e'.freePending = e.freePending := retireOld_keeps ..

/-- The record of a commit (R362). -/
def State.recordOfCommit (s : State) (c : Candidate) (ep : Nat) (e : Entry) (x : Extent) : CommitRec :=
  { aid := c.aid, kind := c.kind, epoch := ep, prev := e.curEpoch, publisher := s.me, part := c.part
    blob := gAddr x.base, blen := c.blen, lseq := s.cab.lseqNext, sseq := c.sseq, esc := c.esc }

/-- The log with one more record; the newest 258,048 are kept. -/
def enterLog (l : List CommitRec) (r : CommitRec) : List CommitRec := (l ++ [r]).drop (l.length + 1 - 258048)

theorem enterLog_room {l : List CommitRec} (room : l.length < 258048) (r : CommitRec) : enterLog l r = l ++ [r] := by
  rw [enterLog, Nat.sub_eq_zero_of_le room, List.drop_zero]

/-- The state in which a version is in the log and in its entry's table, before anyone is told. -/
def State.logged (s : State) (c : Candidate) (ep : Nat) (e : Entry) (x : Extent) : State :=
  ((s.land 0 (gAddr x.base + 0x10) (leBytes 4 ep)).modEntry c.aid
      (Entry.withCommit s.cab.retain.toNat s.pol.pubMinor.toNat c ep x)).modCab fun b =>
    { b with
      log := enterLog b.log (s.recordOfCommit c ep e x), lseqNext := b.lseqNext + 1
      extents := b.extents.map fun y => if y.obj = .resv c.resv then { y with obj := .blob c.aid ep } else y }

/-- The members are told of an adapter's version. -/
def State.pubAll (s : State) (aid : Nat) : State :=
  match s.entry aid with
  | some e => s.others.foldl (fun (s : State) i => s.pubTo i (s.recordOf e)) s
  | none => s

/-- The source of a candidate is answered. -/
def State.answerCommit (s : State) (c : Candidate) (ep : Nat) : State :=
  match c.up with
  | some id => s.endLong id .ok (upReply c.aid ep c.esc)
  | none => if c.boot then s else s.publishDone c .ok ep

/-- An adapter that is to be freed is freed after the commit. -/
def State.freeDue (s : State) (aid : Nat) : State :=
  match s.entry aid with
  | some e => if e.freePending then s.freeAdapter aid else s
  | none => s

/-- A commit in its parts: the record and the slot, who is told, and what can be freed then. -/
theorem State.commit_eq {c : Candidate} {x : Extent} (he : s.entry c.aid = some e) (hx : s.cab.extentOf (.resv c.resv) = some x) :
    s.commit c ep =
      (((((s.logged c ep e x).notice 0x61 (s.recordOfCommit c ep e x).bytes).pubAll c.aid).answerCommit c ep).freeDue c.aid).reclaim := by
  unfold State.commit
  rw [he, hx]
  rfl

/-! ### What is told changes neither the books nor an entry -/

theorem State.Asks.cab (h : s.Asks t) : t.cab = s.cab := (congrArg State.cab h.rest).symm

theorem State.entry_eq_of_dir (aid : Nat) (dir : t.cab.dir = s.cab.dir) : t.entry aid = s.entry aid := by rw [State.entry, State.entry, dir]

theorem State.pubTo_cab (s : State) (peer : Nat) (n : NoteRec) : (s.pubTo peer n).cab = s.cab := by
  unfold State.pubTo
  dsimp only
  split
  · rfl
  · split
    · rfl
    · exact (s.asks_sendRpp ..).cab

theorem State.pubAll_cab (s : State) (aid : Nat) : (s.pubAll aid).cab = s.cab := by
  unfold State.pubAll
  split
  · exact List.foldlRecOn (motive := fun t : State => t.cab = s.cab) _ _ rfl fun t h i _ => (t.pubTo_cab ..).trans h
  · rfl

/-- The answer to a long command changes of the Cabinet only extents. -/
theorem State.endLong_cab (s : State) (id : Nat) (st : Status) (data : List Byte) :
    (s.endLong id st data).cab.books = s.cab.books ∧ (s.endLong id st data).cab.dir = s.cab.dir := by
  unfold State.endLong
  split
  · exact ⟨rfl, rfl⟩
  · dsimp only
    rw [State.respondAt_eq]
    split <;> exact ⟨rfl, rfl⟩

theorem State.answerCommit_cab (s : State) (c : Candidate) (ep : Nat) :
    (s.answerCommit c ep).cab.books = s.cab.books ∧ (s.answerCommit c ep).cab.dir = s.cab.dir := by
  unfold State.answerCommit
  split
  · exact s.endLong_cab ..
  · split <;> exact ⟨rfl, rfl⟩

/-! ### The commit point -/

theorem State.entry_logged {c : Candidate} {x : Extent} (he : s.entry c.aid = some e) :
    (s.logged c ep e x).entry c.aid = some (e.withCommit s.cab.retain.toNat s.pol.pubMinor.toNat c ep x) := by
  have land : (s.land 0 (gAddr x.base + 0x10) (leBytes 4 ep)).entry c.aid = some e := he
  refine (State.entry_modEntry c.aid c.aid fun e => (e.withCommit_stands ..).1).trans ?_
  rw [if_pos rfl, land, Option.map_some]

/-- Once the record is in the log, the adapter is READY at the new epoch. -/
theorem State.logged_stands {c : Candidate} {x : Extent} (he : s.entry c.aid = some e) (room : s.cab.log.length < 258048)
    (nodup : (s.cab.dir.map (·.aid)).Nodup) :
    (s.logged c ep e x).Stands c.aid ep (s.cab.engine, s.cab.lseqNext + 1, s.cab.log ++ [s.recordOfCommit c ep e x]) := by
  have entry := State.entry_logged (ep := ep) (x := x) he
  have listed := List.mem_of_find?_eq_some entry
  obtain ⟨named, epoch, ready, -⟩ := e.withCommit_stands s.cab.retain.toNat s.pol.pubMinor.toNat c ep x
  have own : e.aid = c.aid := beq_iff_eq.mp (List.find?_some (p := fun e : Entry => e.aid == c.aid) he)
  have once : ((s.logged c ep e x).cab.dir.map (·.aid)).Nodup := by
    have same := map_updFirst (f := Entry.withCommit s.cab.retain.toNat s.pol.pubMinor.toNat c ep x) (fun e => (e.withCommit_stands ..).1)
      s.cab.dir fun e => e.aid == c.aid
    exact same.symm ▸ nodup
  refine ⟨?_, ⟨_, listed, named.trans own⟩, fun y hy same => ?_⟩
  · have log : ((s.land 0 (gAddr x.base + 0x10) (leBytes 4 ep)).modEntry c.aid
        (Entry.withCommit s.cab.retain.toNat s.pol.pubMinor.toNat c ep x)).cab.log = s.cab.log := rfl
    simp only [State.logged, State.modCab_cab, Cab.books, log, enterLog_room room]
    rfl
  · rw [List.inj_on_of_nodup_map once hy listed (same.trans (named.trans own).symm)]
    exact ⟨epoch, ready⟩

/-- What follows in a commit keeps the record and the READY adapter. -/
theorem State.commit_stands {c : Candidate} {x : Extent} (he : s.entry c.aid = some e) (hx : s.cab.extentOf (.resv c.resv) = some x)
    (kept : e.freePending = false) (room : s.cab.log.length < 258048) (nodup : (s.cab.dir.map (·.aid)).Nodup) :
    (s.commit c ep).Stands c.aid ep (s.cab.engine, s.cab.lseqNext + 1, s.cab.log ++ [s.recordOfCommit c ep e x]) := by
  have stands := State.logged_stands (ep := ep) (x := x) he room nodup
  have entry := State.entry_logged (ep := ep) (x := x) he
  obtain ⟨-, -, -, pending⟩ := e.withCommit_stands s.cab.retain.toNat s.pol.pubMinor.toNat c ep x
  rw [State.commit_eq he hx]
  obtain ⟨t, ht⟩ : ∃ t, t = ((s.logged c ep e x).notice 0x61 (s.recordOfCommit c ep e x).bytes).pubAll c.aid := ⟨_, rfl⟩
  have cab : t.cab = (s.logged c ep e x).cab := by rw [ht, State.pubAll_cab, State.notice_cab]
  obtain ⟨books, dir⟩ := t.answerCommit_cab c ep
  rw [cab] at books dir
  have due : (t.answerCommit c ep).freeDue c.aid = t.answerCommit c ep := by
    rw [State.freeDue, State.entry_eq_of_dir c.aid dir, entry]
    exact if_neg (by rw [pending, kept]; exact Bool.false_ne_true)
  rw [← ht, due]
  exact (stands.of_standing books (congrArg (List.map Entry.standing) dir)).reclaim

/-- The state in which the commit engine is free. -/
def State.freeEngine (s : State) : State := s.modCab fun b => { b with engine := none }

theorem State.HbmWorked.cab (h : s.HbmWorked t) : t.cab = s.cab := by
  obtain ⟨w, h, k, rfl⟩ := h
  rfl

theorem State.HbmWorked.me (h : s.HbmWorked t) : t.me = s.me := by
  obtain ⟨w, h, k, rfl⟩ := h
  rfl

/-- The commit-record write is acknowledged: the version of the candidate at the engine is committed, and moves go on. -/
theorem exec_commitPoint {c : Candidate} {x : Extent} (engine : s.cab.engine = some (c, ep)) (image : c.boot = false)
    (he : s.entry c.aid = some e) (hx : s.cab.extentOf (.resv c.resv) = some x) (kept : e.freePending = false)
    (room : s.cab.log.length < 258048) (nodup : (s.cab.dir.map (·.aid)).Nodup) :
    ∃ u : State, exec .commitPoint s = .next u.movesGo
      ∧ u.Stands c.aid ep (none, s.cab.lseqNext + 1, s.cab.log ++ [s.recordOfCommit c ep e x]) := by
  have worked := s.freeEngine.hbmWork_worked
  obtain ⟨t, ht⟩ : ∃ t, t = s.freeEngine.hbmWork := ⟨_, rfl⟩
  rw [← ht] at worked
  have cab := worked.cab
  have record : t.recordOfCommit c ep e x = s.recordOfCommit c ep e x := by
    rw [State.recordOfCommit, cab, worked.me]
    rfl
  have stands := State.commit_stands (s := t) (ep := ep) (x := x) ((State.entry_eq_of_cab c.aid cab).trans he) (cab ▸ hx) kept (cab ▸ room)
    (cab ▸ nodup)
  rw [record, cab] at stands
  refine ⟨_, ?_, stands⟩
  change execCommitPoint s = _
  rw [execCommitPoint, engine]
  dsimp only
  rw [if_neg (by rw [image]; exact Bool.false_ne_true), ht]
  rfl

end

end Sys2Proof.Machine
end

section
/-! PROOF. Commits and demotion (R300, R358–R361): the obligation. -/

namespace Sys2Proof.Machine

open Sys2Proof

section
variable {s : State} {p : Nat} {e : Entry}

/-! ### The next candidate (R358, R359) -/

/-- A candidate of an owned adapter that is not frozen, on its next epoch, with a free slot, passes its checks. -/
theorem State.commitCheck_passes {c : Candidate} (he : s.entry c.aid = some e) (owned : e.owned = true)
    (state : e.state = .empty ∨ e.state = .ready) (thawed : e.frozen = false) (target : c.kind = 2 → c.target = nextEpoch e.curEpoch)
    (room : e.vtab.length < 32) : s.commitCheck c = (none, s) := by
  have open_ : ¬(e.owned = false ∨ (e.state ≠ .empty ∧ e.state ≠ .ready)) := by
    rintro (foreign | ⟨empty, ready⟩)
    · rw [owned] at foreign
      cases foreign
    · exact state.elim empty ready
  have next : ¬(c.kind = 2 ∧ c.target ≠ nextEpoch e.curEpoch) := fun ⟨kind, other⟩ => other (target kind)
  have unfrozen : ¬e.frozen = true := by rw [thawed]; exact Bool.false_ne_true
  rw [State.commitCheck, he]
  dsimp only
  rw [if_neg open_, if_neg unfrozen, if_neg next, if_neg (Nat.not_le.mpr room)]

/-- The free engine takes the first candidate, which passes its checks, under the next epoch. -/
theorem exec_commitCandidate {c : Candidate} {rest : List Candidate} (free : s.cab.engine = none) (cands : s.cab.cands = c :: rest)
    (session : s.upSession c = true) (he : s.entry c.aid = some e)
    (passes : (s.modCab fun b => { b with cands := rest }).commitCheck c = (none, s.modCab fun b => { b with cands := rest })) :
    exec .commitCandidate s = .next { s with cab := { s.cab with cands := rest, engine := some (c, nextEpoch e.curEpoch) } } := by
  have session' : ¬(s.modCab fun b => { b with cands := rest }).upSession c = false := by
    change ¬s.upSession c = false
    rw [session]
    exact Bool.noConfusion
  have he' : (s.modCab fun b => { b with cands := rest }).entry c.aid = some e := he
  change execCommitCandidate s = _
  rw [execCommitCandidate, free, cands]
  dsimp only
  rw [if_neg session', passes]
  dsimp only
  rw [he']
  rfl

/-! ### Accesses that leave for host memory (R611) -/

/-- An access of this purpose, at this address, is on its way under a number that is taken. -/
def State.Carries (s : State) (use : XferFor) (space addr : Nat) : Prop :=
  ∃ x ∈ s.fab.xfers, x.xid < s.fab.nextXid ∧ x.use = use ∧ x.space = space ∧ x.addr = addr

theorem State.putXfer_fab (s : State) (x : Xfer) :
    (s.putXfer x).fab.nextXid = s.fab.nextXid
      ∧ (s.putXfer x).fab.xfers = s.fab.xfers.map fun y => if y.xid = x.xid then { x with t0 := s.now } else y := by
  unfold State.putXfer
  dsimp only
  obtain ⟨ports, counted⟩ := State.fabCount_eq (s.modFab fun b => { b with
    xfers := b.xfers.map (fun y => if y.xid = x.xid then { x with t0 := s.now } else y), sent := b.sent ++ [{ x with t0 := s.now }] })
    (State.subPort _ x.addr) true (if x.write.isSome then x.len else 0)
  rw [counted]
  exact ⟨rfl, rfl⟩

theorem State.putXfer_listed {x : Xfer} (listed : x ∈ s.fab.xfers) : { x with t0 := s.now } ∈ (s.putXfer x).fab.xfers := by
  rw [(s.putXfer_fab x).2]
  exact List.mem_map.mpr ⟨x, listed, if_pos rfl⟩

theorem State.putXfer_keeps {x y : Xfer} (listed : y ∈ s.fab.xfers) (other : y.xid ≠ x.xid) : y ∈ (s.putXfer x).fab.xfers := by
  rw [(s.putXfer_fab x).2]
  exact List.mem_map.mpr ⟨y, listed, if_neg other⟩

/-- An access that leaves is numbered and, whether it waits for its sub-port or not, is on its way; the others stay. -/
theorem State.sendXfer_fab (s : State) (space addr len : Nat) (write : Option (List Byte)) (use : XferFor) :
    let t := s.sendXfer space addr len write use
    t.fab.nextXid = s.fab.nextXid + 1 ∧ t.Carries use space addr ∧ ∀ x ∈ s.fab.xfers, x.xid < s.fab.nextXid → x ∈ t.fab.xfers := by
  unfold State.sendXfer
  dsimp only
  split
  · exact ⟨rfl, ⟨_, List.mem_append_right _ (List.mem_singleton_self _), Nat.lt_succ_self _, rfl, rfl, rfl⟩,
      fun x hx _ => List.mem_append_left _ hx⟩
  · refine ⟨(State.putXfer_fab ..).1, ⟨_, State.putXfer_listed (List.mem_append_right _ (List.mem_singleton_self _)), ?_, rfl, rfl, rfl⟩,
      fun x hx old => State.putXfer_keeps (List.mem_append_left _ hx) (Nat.ne_of_lt old)⟩
    rw [(State.putXfer_fab ..).1]
    exact Nat.lt_succ_self _

theorem State.sendXfer_carries (s : State) (space addr len : Nat) (write : Option (List Byte)) (use : XferFor) :
    (s.sendXfer space addr len write use).Carries use space addr := by
  obtain ⟨-, leaves, -⟩ := s.sendXfer_fab space addr len write use
  exact leaves

theorem State.Carries.sendXfer {use : XferFor} {space addr : Nat} (h : s.Carries use space addr) (space' addr' len : Nat)
    (write : Option (List Byte)) (use' : XferFor) : (s.sendXfer space' addr' len write use').Carries use space addr := by
  obtain ⟨next, -, stay⟩ := s.sendXfer_fab space' addr' len write use'
  obtain ⟨x, listed, numbered, is⟩ := h
  exact ⟨x, stay x listed numbered, by rw [next]; exact Nat.lt_succ_of_lt numbered, is⟩

/-- The first piece of an access to the slower tier is on its way. -/
theorem State.hostXfer_carries (s : State) (addr : Nat) {len : Nat} (some_ : 0 < len) (write : Option (List Byte)) (use : XferFor) :
    (s.hostXfer addr len write use).Carries use 2 addr := by
  obtain ⟨n, pieces⟩ : ∃ n, ceilDiv len 4096 = n + 1 := ⟨_, (Nat.succ_pred_eq_of_pos (Nat.div_pos (by omega) (by omega))).symm⟩
  rw [State.hostXfer, pieces, List.range_succ_eq_map, List.foldl_cons]
  refine List.foldlRecOn (motive := fun t : State => t.Carries use 2 addr) _ _ ?_ fun t h k _ => h.sendXfer ..
  exact State.sendXfer_carries ..

theorem State.sendXfer_cab (s : State) (space addr len : Nat) (write : Option (List Byte)) (use : XferFor) :
    (s.sendXfer space addr len write use).cab = s.cab := by
  unfold State.sendXfer
  dsimp only
  split
  · rfl
  · exact (State.traffic_fabCount ..).cab

theorem State.hostXfer_cab (s : State) (addr len : Nat) (write : Option (List Byte)) (use : XferFor) :
    (s.hostXfer addr len write use).cab = s.cab :=
  List.foldlRecOn (motive := fun t : State => t.cab = s.cab) _ _ rfl fun t h _ _ => (t.sendXfer_cab ..).trans h

/-! ### Demotion (R300) -/

theorem exec_demotion_idle (idle : s.poolIdle = true) : exec (.demotion p) s = .next (State.demote p (s.demotable p).length s) := by
  obtain ⟨up, work, held⟩ := s.poolIdle_iff.mp idle
  have seat : (s.doItem (.demote p)).pol.seat = s.pol.seat := State.demote_seat ..
  obtain ⟨-, rest⟩ := Prod.mk.inj seat
  obtain ⟨work', held'⟩ := Prod.mk.inj rest
  exact congrArg Host.Outcome.next (State.runItem_idle (.demote p) up work held (work'.trans work) (held'.trans held))

/-- A partition at or below its mark demotes nothing. -/
theorem State.demote_below (low : 100 * (s.cabUse p - s.leavingUse p) ≤ (s.getP p).cabQuota.toNat * s.cab.demoteMark.toNat) (n : Nat) :
    State.demote p n s = s := by
  cases n with
  | zero => rfl
  | succ n => exact if_neg (Nat.not_lt.mpr low)

theorem State.demote_one {v : VSlot} (high : (s.getP p).cabQuota.toNat * s.cab.demoteMark.toNat < 100 * (s.cabUse p - s.leavingUse p))
    (only : s.demotable p = [(e, v)]) : State.demote p 1 s = s.demoteOne p e v := by
  rw [State.demote, if_pos high, only]
  rfl

/-- The sealed copy of a blob leaves for the HOST window at a free range, which its slot keeps. -/
theorem State.demoteOne_leaves {v : VSlot} {o : Nat} (home : v.slowLoc = none) (fits : s.slowFit p v.blen = some o)
    (host : (s.getP p).slowSpace = 2) :
    (s.demoteOne p e v).cab = (s.modSlot e.aid v.epoch fun v => { v with slowLoc := some o }).cab
      ∧ (s.demoteOne p e v).Carries (.slowWrite p e.aid v.epoch) 2 ((s.getP p).slowBase.toNat + granule * o) := by
  have host' : (s.fresh.2.getP p).slowSpace = 2 := host
  have here : ¬v.slowLoc.isSome = true := by rw [home]; exact Bool.false_ne_true
  rw [State.demoteOne, if_neg here, fits]
  dsimp only
  rw [if_pos host']
  exact ⟨State.hostXfer_cab .., State.hostXfer_carries _ _ (Nat.succ_pos _) _ _⟩

end

/-- Settles O60: the first candidate passes its checks; at the commit point the record is in the log and the adapter READY, which what
follows keeps; a demotion by whether the partition is above its mark. -/
theorem versionsAreCommittedAndDemoted : Obligations.VersionsAreCommittedAndDemoted := by
  refine ⟨⟨?candidate, ?point⟩, fun s p idle => ⟨fun low => ?below, ?above⟩⟩
  case candidate =>
    intro s c rest e free cands session he owned state thawed target room
    exact exec_commitCandidate free cands session he (State.commitCheck_passes (s := s.modCab _) he owned state thawed target room)
  case point =>
    intro s c ep e x engine image he hx kept room nodup
    obtain ⟨u, run, stands⟩ := exec_commitPoint engine image he hx kept room nodup
    obtain ⟨free, books⟩ := Prod.mk.inj stands.books
    obtain ⟨next, log⟩ := Prod.mk.inj books
    exact ⟨u, run, free, next, log, stands.entry⟩
  case below => rw [exec_demotion_idle idle, State.demote_below low]
  case above =>
    intro e v o high only home fits host
    obtain ⟨cab, x, listed, -, use, space, addr⟩ := State.demoteOne_leaves (e := e) home fits host
    refine ⟨s.demoteOne p e v, ?_, cab, x, listed, use, space, addr⟩
    rw [exec_demotion_idle idle, only]
    exact congrArg Host.Outcome.next (State.demote_one high only)

end Sys2Proof.Machine
end

section
/-! PROOF. The range commands (R315, R317, R318, R320), and the obligation. -/

namespace Sys2Proof.Machine

open Sys2Proof

section
variable {s : State} {f : RclFrame}

/-! ### Views to come -/

/-- While a view is being agreed on, a change joins the next one (R306, R307). -/
theorem State.propose_waits (pending : s.pol.pend.isSome = true) (w : ViewPl) :
    s.propose w = { s with pol := { s.pol with nextView := s.pol.nextView ++ [w] } } := if_pos (.inr (.inr (.inr (.inl pending))))

/-! ### `RANGE_MOVE` (R317) -/

/-- A move as it stands at its source when it begins. -/
def Move.begun (k target p long : Nat) : Move :=
  { range := k, peer := target, part := p, source := true, st := .begin, long := some long, cmd := true, got := [], last := [], abort := none }

/-- The registrar learns of a move that begins; the registrar's own is to be shown by its next view (R315). -/
def State.tellsMove (s : State) (k target : Nat) : State :=
  if s.isRegistrar then s.showMoving k s.me
  else match s.registrar with
    | some r => s.sendRpp r 0x30 0 .ok 0 0 (.pairs [(k, target)])
    | none => s

/-- What telling the registrar changes beside messages: while a view is being agreed on, the registrar's own next view shows the range. -/
theorem State.tellsMove_eq {k : Nat} (target : Nat) (held : (SMap.get freeRange s.pol.ranges k).state = .held)
    (own : (SMap.get freeRange s.pol.ranges k).inst = s.me) (later : s.isRegistrar = false ∨ s.pol.pend.isSome = true) :
    ∃ n, State.Asks { s with pol := { s.pol with nextView := n } } (s.tellsMove k target)
      ∧ (s.isRegistrar = true → s.changing k = false → ∃ v ∈ n, (k, { state := .moving, inst := s.me }) ∈ v.ranges) := by
  unfold State.tellsMove
  split
  next registrar =>
    have pending := later.resolve_left (by simp [registrar])
    unfold State.showMoving
    dsimp only
    split
    · rw [State.propose_waits pending]
      exact ⟨_, .refl _, fun _ _ => ⟨_, List.mem_append_right _ (List.mem_singleton.mpr rfl), List.mem_singleton.mpr rfl⟩⟩
    next shown => exact ⟨s.pol.nextView, .refl s, fun _ still => absurd ⟨held, own, still⟩ shown⟩
  next other =>
    refine ⟨s.pol.nextView, ?_, fun registrar => absurd registrar other⟩
    split
    · exact s.asks_sendRpp ..
    · exact .refl s

/-- What a move that begins changes beside messages. -/
theorem State.moveStart_eq {k target : Nat} (p long : Nat) (can : s.canMove k target = true)
    (later : s.isRegistrar = false ∨ s.pol.pend.isSome = true) :
    ∃ n, State.Asks { s with pol := { s.pol with moves := s.pol.moves ++ [.begun k target p long], nextView := n } }
        (s.moveStart k target p (some long) true)
      ∧ (s.isRegistrar = true → s.changing k = false → ∃ v ∈ n, (k, { state := .moving, inst := s.me }) ∈ v.ranges) := by
  simp only [State.canMove, Bool.and_eq_true, beq_iff_eq] at can
  obtain ⟨⟨⟨⟨⟨-, held⟩, own⟩, -⟩, -⟩, -⟩ := can
  obtain ⟨n, told, shown⟩ := State.tellsMove_eq (s := s.modPol fun q => { q with moves := q.moves ++ [.begun k target p long] }) target held own later
  exact ⟨n, told.trans (State.asks_queueRpp ..), shown⟩

/-- A range that can move begins to; the command waits for its end (R317). -/
theorem exec_rangeMove_begins (h : s.admits 0x30 f = true) (move : bit (f.word 4) 8 = false) (len : f.data.length = 8)
    (resv : fld (f.word 4) 7 5 = 0) (resv' : fld (f.word 4) 31 9 = 0) (can : s.canMove (fld (f.word 0) 15 0) (fld (f.word 0) 31 16) = true)
    (later : s.isRegistrar = false ∨ s.pol.pend.isSome = true) :
    ∃ t, exec (.rangeMove f) s = .next t
      ∧ t.pol.moves = s.pol.moves ++ [.begun (fld (f.word 0) 15 0) (fld (f.word 0) 31 16) (fld (f.word 4) 4 0) s.lnk.nextLong]
      ∧ t.lnk.longs.map (·.id) = s.lnk.longs.map (·.id) ++ [s.lnk.nextLong] ∧ t.cab = s.cab ∧ t.prt = s.prt ∧ t.pol.ranges = s.pol.ranges
      ∧ (s.isRegistrar = true → s.changing (fld (f.word 0) 15 0) = false →
          ∃ v ∈ t.pol.nextView, (fld (f.word 0) 15 0, { state := .moving, inst := s.me }) ∈ v.ranges) := by
  obtain ⟨l, begun, longs, next⟩ := s.begun_longs 0x30 f
  obtain ⟨u, hu⟩ : ∃ u, u = State.putLong { s with lnk := l } f (s.callerOf 0x30 f) (.rangeMove (fld (f.word 0) 15 0)) := ⟨_, rfl⟩
  have kept : u.pol = s.pol ∧ u.cab = s.cab ∧ u.prt = s.prt ∧ u.lnk.longs.map (·.id) = s.lnk.longs.map (·.id) ++ [s.lnk.nextLong] := by
    rw [hu]
    refine ⟨rfl, rfl, rfl, ?_⟩
    change List.map Long.id (l.longs ++ _) = _
    rw [List.map_append, longs, ← next]
    rfl
  obtain ⟨pol, cab, prt, ids⟩ := kept
  have can' : u.canMove (fld (f.word 0) 15 0) (fld (f.word 0) 31 16) = true := hu ▸ can
  have later' : u.isRegistrar = false ∨ u.pol.pend.isSome = true := hu ▸ later
  obtain ⟨n, told, shown⟩ := State.moveStart_eq (fld (f.word 4) 4 0) s.lnk.nextLong can' later'
  have run : exec (.rangeMove f) s
      = .next (u.moveStart (fld (f.word 0) 15 0) (fld (f.word 0) 31 16) (fld (f.word 4) 4 0) (some s.lnk.nextLong) true).drain := by
    refine congrArg Host.Outcome.next ((if_neg (by simp [move])).trans (State.serve_later h ?_))
    have can'' : State.canMove { s with lnk := l } (fld (f.word 0) 15 0) (fld (f.word 0) 31 16) = true := can
    rw [begun, hu]
    refine (if_neg (by simp [len, resv, resv', can''])).trans ?_
    dsimp only
    rw [next]
  generalize u.moveStart _ _ _ _ _ = t at told run
  have same := told.rest
  refine ⟨_, run, ?_, ?_, ?_, ?_, ?_, ?_⟩
  · rw [State.drain_pol, ← same, ← pol]
  · rw [State.drain_longs, ← same, ← ids]
  · rw [State.drain_cab, ← same, ← cab]
  · rw [State.drain_prt, ← same, ← prt]
  · rw [State.drain_pol, ← same, ← pol]
  · rw [State.drain_pol, ← same]
    exact hu ▸ shown

/-! ### `CANCEL` (R318) -/

theorem State.moves_dropped (l : List Move) (k : Nat) :
    ∀ x ∈ l.filter fun x => !(x.source && x.range == k), x.source = true → x.range ≠ k := fun x hx source range => by
  obtain ⟨-, other⟩ := List.mem_filter.mp hx
  simp [source, range] at other

theorem State.freeze_thawed (s : State) (k : Nat) :
    ∀ e ∈ (s.freeze k false).cab.dir, e.owned = true → e.aid / 256 = k → e.frozen = false := by
  intro e he owned range
  obtain ⟨x, -, rfl⟩ := List.mem_map.mp he
  split at owned
  next inside => rw [if_pos inside]
  next other =>
    rw [if_neg other] at range
    exact absurd (by simp [owned, range]) other

/-- An abort that ends leaves no move of the range at its source, and no frozen entry in it (R318). -/
theorem State.finishAbort_ends {k : Nat} {m : Move} (st : Status) (found : s.pol.moves.find? (fun x => x.source && x.range == k) = some m) :
    (∀ x ∈ (s.finishAbort k st).pol.moves, x.source = true → x.range ≠ k)
      ∧ ∀ e ∈ (s.finishAbort k st).cab.dir, e.owned = true → e.aid / 256 = k → e.frozen = false := by
  obtain ⟨t, ht⟩ : ∃ t, t = (s.modPol fun q =>
    { q with moves := q.moves.filter fun x => !(x.source && x.range == k), reqs := q.reqs.filter fun r => !r.kind.moves k }).freeze k false := ⟨_, rfl⟩
  obtain ⟨u, hu⟩ : ∃ u, u = if (t.member m.peer).isSome then t.sendRpp m.peer 0x33 0 .ok 0 0 (.num k) else t := ⟨_, rfl⟩
  have told : t.Asks u := by
    rw [hu]
    split
    · exact t.asks_sendRpp ..
    · exact .refl t
  have ended : (∀ x ∈ u.pol.moves, x.source = true → x.range ≠ k) ∧ ∀ e ∈ u.cab.dir, e.owned = true → e.aid / 256 = k → e.frozen = false := by
    rw [← told.rest, ht]
    exact ⟨State.moves_dropped _ k, State.freeze_thawed _ k⟩
  have run : s.finishAbort k st = match m.long with | some id => u.endLong id st [] | none => u := by
    rw [hu, ht]
    unfold State.finishAbort
    rw [found] <;> rfl
  rw [run]
  split
  next id _ =>
    obtain ⟨-, dir⟩ := u.endLong_cab id st []
    obtain ⟨c, l, same⟩ := u.endLong_eq id st []
    have pol : (u.endLong id st []).pol = u.pol := by rw [same]
    rw [pol, dir]
    exact ended
  · exact ended

/-- A move that has not been committed ends at a member that is not the registrar; the registrar is told (R318). -/
theorem State.abortMove_ends {k : Nat} {m : Move} (st : Status) (found : s.pol.moves.find? (fun x => x.source && x.range == k) = some m)
    (early : m.st ≠ .commit) (member : s.isRegistrar = false) (still : s.changing k = false) :
    (∀ x ∈ (s.abortMove k st).pol.moves, x.source = true → x.range ≠ k)
      ∧ ∀ e ∈ (s.abortMove k st).cab.dir, e.owned = true → e.aid / 256 = k → e.frozen = false := by
  obtain ⟨t, told, run⟩ : ∃ t, s.Asks t ∧ s.abortMove k st = t.finishAbort k st := by
    refine ⟨match s.registrar.filter (· != m.peer) with | some r => s.sendRpp r 0x33 0 .ok 0 0 (.num k) | none => s, ?_, ?_⟩
    · split
      · exact s.asks_sendRpp ..
      · exact .refl s
    · unfold State.abortMove
      rw [found]
      dsimp only
      rw [if_neg (by simp [member, still]), if_neg early] <;> rfl
  rw [run]
  refine State.finishAbort_ends st (m := m) ?_
  rw [← told.rest]
  exact found

theorem exec_rangeMoveCancel_ends {m : Move} (h : s.admits 0x30 f none (some true) = true) (cancel : bit (f.word 4) 8 = true)
    (len : f.data.length = 8) (resv : fld (f.word 4) 7 5 = 0) (resv' : fld (f.word 4) 31 9 = 0)
    (found : s.pol.moves.find? (fun x => x.source && x.range == fld (f.word 0) 15 0) = some m) (early : m.st ≠ .commit)
    (member : s.isRegistrar = false) (still : s.changing (fld (f.word 0) 15 0) = false) :
    ∃ t, exec (.rangeMoveCancel f) s = .next t ∧ t.answers f .ok []
      ∧ (∀ x ∈ t.pol.moves, x.source = true → x.range ≠ fld (f.word 0) 15 0)
      ∧ ∀ e ∈ t.cab.dir, e.owned = true → e.aid / 256 = fld (f.word 0) 15 0 → e.frozen = false := by
  obtain ⟨b, begun, out⟩ := s.begun_eq 0x30 f (some true)
  obtain ⟨k, hk⟩ : ∃ k, k = fld (f.word 0) 15 0 := ⟨_, rfl⟩
  rw [← hk] at found still ⊢
  obtain ⟨u, hu⟩ : ∃ u : State, u = { s with lnk := b } := ⟨_, rfl⟩
  obtain ⟨v, hv⟩ : ∃ v, v = u.abortStatus.2.abortMove k u.abortStatus.1 := ⟨_, rfl⟩
  have moving : (u.pol.moves.any fun m => m.source && m.range == k) = true := by
    rw [hu]
    exact List.any_eq_true.mpr ⟨m, List.mem_of_find?_eq_some found, List.find?_some (p := fun x : Move => x.source && x.range == k) found⟩
  have ended : (∀ x ∈ v.pol.moves, x.source = true → x.range ≠ k)
      ∧ ∀ e ∈ v.cab.dir, e.owned = true → e.aid / 256 = k → e.frozen = false := by
    rw [hv, hu]
    exact State.abortMove_ends _ found early member still
  obtain ⟨gone, thawed⟩ := ended
  have done : (v.pol.moves.any fun m => m.source && m.range == k && m.abort.isNone) = false := by
    refine List.any_eq_false.mpr fun x hx => ?_
    rw [Bool.and_eq_true, Bool.and_eq_true, beq_iff_eq]
    exact fun ⟨⟨source, range⟩, _⟩ => gone x hx source range
  have serves : exec (.rangeMoveCancel f) s = .next (s.serve 0x30 none (some true) f _) := congrArg Host.Outcome.next (if_neg (by simp [cancel]))
  obtain ⟨l, run, answered⟩ : ∃ l, exec (.rangeMoveCancel f) s = .next { v with lnk := l } ∧ State.answers { v with lnk := l } f .ok [] := by
    rw [serves]
    refine State.serve_begun h (by rw [begun, ← hu, hv, State.abortMove_chans]; rfl) ?_
    rw [begun, ← hu]
    dsimp only
    rw [← hk]
    refine (if_neg (by simp [len, resv, resv', moving])).trans ?_
    rw [← hv, done]
    rfl
  exact ⟨_, run, answered, gone, thawed⟩

/-! ### `RANGE_RECLAIM` (R320) -/

theorem exec_rangeReclaim_frees (h : s.admits 0x31 f = true) (len : f.data.length = 4) (resv : fld (f.word 0) 31 16 = 0)
    (lost : (SMap.get freeRange s.pol.ranges (fld (f.word 0) 15 0)).state = .lost) (registrar : s.isRegistrar = true)
    (seat : s.lostSeat = false) (pending : s.pol.pend.isSome = true) :
    ∃ l, exec (.rangeReclaim f) s = .next { s with
        lnk := l, pol := { s.pol with nextView := s.pol.nextView ++ [{ noChange with ranges := [(fld (f.word 0) 15 0, freeRange)] }] } }
      ∧ State.answers { s with
        lnk := l, pol := { s.pol with nextView := s.pol.nextView ++ [{ noChange with ranges := [(fld (f.word 0) 15 0, freeRange)] }] } } f .ok [] := by
  obtain ⟨b, begun, -⟩ := s.begun_eq 0x31 f none
  refine State.serve_begun (t := { s with
    lnk := b, pol := { s.pol with nextView := s.pol.nextView ++ [{ noChange with ranges := [(fld (f.word 0) 15 0, freeRange)] }] } }) h
    (by rw [begun]) ?_
  have registrar' : State.isRegistrar { s with lnk := b } = true := registrar
  have seat' : State.lostSeat { s with lnk := b } = false := seat
  rw [begun, ← State.propose_waits (s := { s with lnk := b }) pending]
  exact (if_neg (by simp [len, resv, lost, registrar'])).trans (if_neg (by simp [seat']))

theorem exec_rangeReclaim_invalid (h : s.admits 0x31 f = true) (other : (SMap.get freeRange s.pol.ranges (fld (f.word 0) 15 0)).state ≠ .lost) :
    ∃ l, exec (.rangeReclaim f) s = .next { s with lnk := l } ∧ State.answers { s with lnk := l } f .descInvalid [] := by
  obtain ⟨b, begun, -⟩ := s.begun_eq 0x31 f none
  refine State.serve_begun (t := { s with lnk := b }) h (by rw [begun]) ?_
  rw [begun]
  exact if_pos (.inr (.inr (.inl other)))

end

/-- Settles O25: a move begins and ends at its source, and a lost range joins the next view as FREE. -/
theorem rangeCommandsMoveAndReclaim : Obligations.RangeCommandsMoveAndReclaim := by
  refine fun s f => ⟨exec_rangeMove_begins, fun m => exec_rangeMoveCancel_ends, fun h len resv => ⟨?_, fun other => ?_⟩⟩
  · intro lost registrar seat pending
    obtain ⟨l, run, answered⟩ := exec_rangeReclaim_frees h len resv lost registrar seat pending
    exact ⟨_, run, answered, rfl⟩
  · obtain ⟨l, run, answered⟩ := exec_rangeReclaim_invalid h other
    exact ⟨_, run, answered, rfl⟩

end Sys2Proof.Machine
end

section
/-! PROOF. Whatever an engine or the pool pair does short of a view, the pool stays as the installed view shows it, and so do the views to come: one
lemma for each function that installing a view sets going, in the order of the model's files. -/

namespace Sys2Proof.Machine

open Sys2Proof

/-- The pool as the installed view shows it and the view that is being agreed on; the changes that wait for the next one. -/
def Pol.chart (q : Pol) : (BitVec 32 × List Member × SMap RangeEnt × Option ViewPl) × List ViewPl :=
  ((q.viewNum, q.members, q.ranges, q.pend), q.nextView)

@[simp] theorem Pol.chart_eta (q : Pol) : ((q.viewNum, q.members, q.ranges, q.pend), q.nextView) = q.chart := rfl

@[simp] theorem Pol.chart_mk (
      poolId group servePart seedCnt seeds instId instValid viewNum serveCap noteCap phbPeriod peerDead lease tReq tGap retry hyst amort
      calPeriod probePeriod visitWin pubMinor gdHold rppBad snapLast members ranges wards pend pendAcks pendAt nextView reclaim quarantine
      quiet sess reqs sent notes noteStamp hystTab cal snaps batchNext acks rx moves exports serveQ heldMsgs nextReq grants joins joinDue
      addr fetchQ groupAt work) :
    (Pol.mk
      poolId group servePart seedCnt seeds instId instValid viewNum serveCap noteCap phbPeriod peerDead lease tReq tGap retry hyst amort
      calPeriod probePeriod visitWin pubMinor gdHold rppBad snapLast members ranges wards pend pendAcks pendAt nextView reclaim quarantine
      quiet sess reqs sent notes noteStamp hystTab cal snaps batchNext acks rx moves exports serveQ heldMsgs nextReq grants joins joinDue
      addr fetchQ groupAt work).chart
      = ((viewNum, members, ranges, pend), nextView) := rfl

@[simp] theorem Pol.ite_chart {c : Prop} [Decidable c] (q r : Pol) : (if c then q else r).chart = if c then q.chart else r.chart := apply_ite ..

@[simp] theorem Pol.modSess_chart (q : Pol) (inst : Nat) (f : RppSess → RppSess) : (q.modSess inst f).chart = q.chart := rfl

/-- Which partitions have a step issued. -/
def standing (l : List Prt) : List Bool := l.map fun q => q.ctx.isSome

@[simp] theorem standing_modNth {f : Prt → Prt} (l : List Prt) (p : Nat) (h : ∀ q, (f q).ctx.isSome = q.ctx.isSome) :
    standing (modNth l p f) = standing l := map_modNth l p h

@[simp] theorem standing_map {f : Prt → Prt} (l : List Prt) (h : ∀ q, (f q).ctx.isSome = q.ctx.isSome) : standing (l.map f) = standing l := by
  rw [standing, List.map_map]
  exact List.map_congr_left fun q _ => h q

/-- A state in which the pool stands as before, and as before a step is issued in each partition or none is. -/
abbrev State.Charted (s t : State) : Prop := t.pol.chart = s.pol.chart ∧ standing t.prt = standing s.prt

@[simp] theorem State.charted_iff (s t : State) : s.Charted t ↔ t.pol.chart = s.pol.chart ∧ standing t.prt = standing s.prt := Iff.rfl

theorem State.Charted.trans {s t u : State} (h : s.Charted t) (g : t.Charted u) : s.Charted u := ⟨g.1.trans h.1, g.2.trans h.2⟩

/-! ### Shapes of definitions -/

@[simp] theorem State.ite_chart {c : Prop} [Decidable c] (a b : State) :
    (if c then a else b).pol.chart = if c then a.pol.chart else b.pol.chart := apply_ite (fun s : State => s.pol.chart) c a b

@[simp] theorem standing_ite {c : Prop} [Decidable c] (l k : List Prt) : standing (if c then l else k) = if c then standing l else standing k :=
  apply_ite ..

@[simp] theorem State.foldl_chart {α : Type} (l : List α) (f : State → α → State) (s : State)
    (h : ∀ (s : State) a, s.Charted (f s a)) : s.Charted (l.foldl f s) := by
  induction l generalizing s with
  | nil => exact ⟨rfl, rfl⟩
  | cons a l ih => exact (h _ a).trans (ih _)

/-- The state beside which a fold collects its results. -/
@[simp] theorem State.foldl_fst_chart {α β : Type} (l : List α) (f : State × β → α → State × β) (x : State × β)
    (h : ∀ (x : State × β) a, x.1.Charted (f x a).1) : x.1.Charted (l.foldl f x).1 := by
  induction l generalizing x with
  | nil => exact ⟨rfl, rfl⟩
  | cons a l ih => exact (h _ a).trans (ih _)

@[simp] theorem State.foldl_snd_chart {α β : Type} (l : List α) (f : β × State → α → β × State) (x : β × State)
    (h : ∀ (x : β × State) a, x.2.Charted (f x a).2) : x.2.Charted (l.foldl f x).2 := by
  induction l generalizing x with
  | nil => exact ⟨rfl, rfl⟩
  | cons a l ih => exact (h _ a).trans (ih _)

/-- The state of a result that is known by its parts. -/
theorem State.chart_of_pair {α : Type} {r : α × State} {a : α} {s t : State} (h : r = (a, t)) (hr : s.Charted r.2) :
    s.Charted t := by rwa [h] at hr

@[simp] theorem State.requestWakes_chart (s : State) (doms : List Nat) : s.Charted (s.requestWakes doms) := by
  simp [State.requestWakes]

@[simp] theorem State.wakeHbm_chart (s : State) (ks : List Nat) : s.Charted (s.wakeHbm ks) := by simp [State.wakeHbm]

@[simp] theorem State.hbmRead_chart (s : State) : s.Charted s.hbmRead := by simp [State.hbmRead]

@[simp] theorem State.land_chart (s : State) (space addr : Nat) (bytes : List Byte) :
    s.Charted (s.land space addr bytes) := by
  simp [State.land]

@[simp] theorem State.fabCount_chart (s : State) (port : Option Nat) (sent : Bool) (n : Nat) :
    s.Charted (s.fabCount port sent n) := by
  unfold State.fabCount
  split <;> simp

@[simp] theorem State.putXfer_chart (s : State) (x : Xfer) : s.Charted (s.putXfer x) := by simp [State.putXfer]

@[simp] theorem State.sendXfer_chart (s : State) (space addr len : Nat) (write : Option (List Byte)) (use : XferFor) :
    s.Charted (s.sendXfer space addr len write use) := by
  unfold State.sendXfer
  dsimp only
  repeat' split
  all_goals simp

@[simp] theorem State.putFrame_chart (s : State) (port : Option Nat) (peer n : Nat) (m : RppMsg) :
    s.Charted (s.putFrame port peer n m) := by
  unfold State.putFrame
  split <;> simp

/-! ### Machine/Latches -/

@[simp] theorem State.setLatch_chart (s : State) (n : Nat) (l : Latch) : s.Charted (s.setLatch n l) := by
  simp [State.setLatch]

@[simp] theorem State.latchOp_chart (s : State) (ag : Agent) (n op d : Nat) : s.Charted (s.latchOp ag n op d).2 := by
  unfold State.latchOp
  dsimp only
  repeat' split
  all_goals simp

@[simp] theorem State.modLatches_chart (s : State) (f : Latch → Latch) : s.Charted (s.modLatches f) := by
  simp [State.modLatches]

@[simp] theorem State.relStep_chart (s : State) (p : Nat) : s.Charted (s.relStep p) := by simp [State.relStep]

@[simp] theorem State.gateRelease_chart (s : State) (p : Nat) : s.Charted (s.gateRelease p) := by
  simp [State.gateRelease]

/-! ### Machine/Rcl -/

@[simp] theorem State.respondAt_chart (s : State) (took vc : Nat) (tag : Word) (session : Nat) (st : Status) (hint q : Nat) (data : List Byte) :
    s.Charted (s.respondAt took vc tag session st hint q data) := by
  simp [State.respondAt]

@[simp] theorem State.notice_chart (s : State) (opc : Nat) (data : List Byte) : s.Charted (s.notice opc data) := by
  unfold State.notice
  split <;> simp

@[simp] theorem State.lagNotice_chart (s : State) (svc due : Nat) : s.Charted (s.lagNotice svc due) := by
  simp [State.lagNotice]

@[simp] theorem State.endLong_chart (s : State) (id : Nat) (st : Status) (data : List Byte) :
    s.Charted (s.endLong id st data) := by
  unfold State.endLong
  repeat' split
  all_goals simp

/-! ### Machine/Cabinet -/

@[simp] theorem State.placeSave_chart (s : State) (p : Nat) : s.Charted (s.placeSave p) := by simp [State.placeSave]

@[simp] theorem State.newCharge_chart (s : State) (p : Nat) : s.Charted (s.newCharge p) := by simp [State.newCharge]

@[simp] theorem State.charge_chart (s : State) (p len : Nat) (o : CabObj) : s.Charted (s.charge p len o).2 := by
  unfold State.charge
  repeat' split
  all_goals simp

@[simp] theorem State.modEntry_chart (s : State) (aid : Nat) (f : Entry → Entry) : s.Charted (s.modEntry aid f) := by
  simp [State.modEntry]

/-! ### Machine/Descs -/

@[simp] theorem State.setSlot_chart (s : State) (i : Nat) (v : DescSlot) : s.Charted (s.setSlot i v) := by
  simp [State.setSlot]

@[simp] theorem State.addRef_chart (s : State) (i : Nat) : s.Charted (s.addRef i) := by simp [State.addRef]

/-! ### Machine/Security -/

@[simp] theorem State.endSession_chart (s : State) (i : Nat) : s.Charted (s.endSession i) := by
  unfold State.endSession
  split <;> simp

@[simp] theorem State.openSession_chart (s : State) (f : RclFrame) (c : Crypto) (ward si ti : Nat) :
    s.Charted (s.openSession f c ward si ti).2 := by
  simp [State.openSession]

@[simp] theorem State.settleClaims_chart (s : State) : s.Charted s.settleClaims := by
  refine State.foldl_chart _ _ _ fun s a => ?_
  dsimp only
  repeat' split
  all_goals simp

/-! ### Machine/PoolBase -/

@[simp] theorem State.touchGroup_chart (s : State) (peer ty : Nat) : s.Charted (s.touchGroup peer ty) := by
  unfold State.touchGroup
  split <;> simp

@[simp] theorem State.sendFrame_chart (s : State) (peer : Nat) (m : RppMsg) : s.Charted (s.sendFrame peer m) := by
  unfold State.sendFrame
  split <;> simp

@[simp] theorem State.sendFrames_chart (s : State) (peer : Nat) (l : List RppMsg) : s.Charted (s.sendFrames peer l) := by
  simp [State.sendFrames]

@[simp] theorem State.openSess_chart (s : State) (peer : Nat) : s.Charted (s.openSess peer) := by
  unfold State.openSess
  dsimp only
  repeat' split
  all_goals simp

@[simp] theorem State.launch_chart (s : State) (id : Nat) : s.Charted (s.launch id) := by
  unfold State.launch
  repeat' split
  all_goals simp

@[simp] theorem State.queueRpp_chart (s : State) (peer : Nat) (kind : ReqKind) (msg : RppMsg) :
    s.Charted (s.queueRpp peer kind msg) := by
  simp [State.queueRpp]

@[simp] theorem State.request_chart (s : State) (peer : Nat) (kind : ReqKind) (ty aid ep : Nat) (pl : RppPl) :
    s.Charted (s.request peer kind ty aid ep pl) := by
  simp [State.request]

@[simp] theorem State.pushRpp_chart (s : State) (peer : Nat) (m : RppMsg) : s.Charted (s.pushRpp peer m) := by
  simp [State.pushRpp]

@[simp] theorem State.sendRpp_chart (s : State) (peer ty tag : Nat) (st : Status) (aid ep : Nat) (pl : RppPl) :
    s.Charted (s.sendRpp peer ty tag st aid ep pl) := by
  simp [State.sendRpp]

@[simp] theorem State.reply_chart (s : State) (m : RppMsg) (peer ty : Nat) (st : Status) (pl : RppPl) :
    s.Charted (s.reply m peer ty st pl) := by
  simp [State.reply]

@[simp] theorem State.dropReq_chart (s : State) (id : Nat) : s.Charted (s.dropReq id) := by simp [State.dropReq]

@[simp] theorem State.pullView_chart (s : State) (peer : Nat) : s.Charted (s.pullView peer) := by simp [State.pullView]

@[simp] theorem State.finishReq_chart (s : State) (peer tag : Nat) (ty : Nat) (st : Status) (aid ep : Nat) (pl : RppPl) :
    s.Charted (s.finishReq peer tag ty st aid ep pl) := by
  unfold State.finishReq
  split <;> simp

/-! ### Machine/RasLog -/

@[simp] theorem State.rasLog_chart (s : State) (kind index sev etype part addr : Nat) :
    s.Charted (s.rasLog kind index sev etype part addr) := by
  simp [State.rasLog]

@[simp] theorem State.faultSend_chart (s : State) (h : HeldFault) : s.Charted (s.faultSend h) := by
  simp [State.faultSend]

@[simp] theorem State.faultNote_chart (s : State) (kind index sev mask : Nat) :
    s.Charted (s.faultNote kind index sev mask) := by
  simp [State.faultNote]

@[simp] theorem State.rasError_chart (s : State) (kind index sev etype part addr mask : Nat) :
    s.Charted (s.rasError kind index sev etype part addr mask) := by
  simp [State.rasError]

@[simp] theorem State.logSkip_chart (s : State) : s.Charted s.logSkip := by simp [State.logSkip]

@[simp] theorem State.logSlow_chart (s : State) : s.Charted s.logSlow := by simp [State.logSlow]

/-! ### Machine/Versions -/

@[simp] theorem State.modSlot_chart (s : State) (aid ep : Nat) (f : VSlot → VSlot) : s.Charted (s.modSlot aid ep f) := by
  simp [State.modSlot]

@[simp] theorem State.sendRetired_chart (s : State) (l : List (Nat × Nat)) : s.Charted (s.sendRetired l) := by
  simp [State.sendRetired]

@[simp] theorem State.freeEntry_chart (s : State) (e : Entry) : s.Charted (s.freeEntry e) := by simp [State.freeEntry]

@[simp] theorem State.reclaim_chart (s : State) : s.Charted s.reclaim := by simp [State.reclaim]

@[simp] theorem State.dropCached_chart (s : State) (aid ep : Nat) : s.Charted (s.dropCached aid ep) := by
  simp [State.dropCached]

@[simp] theorem State.evict_chart (s : State) (aid ep : Nat) : s.Charted (s.evict aid ep) := by
  unfold State.evict
  dsimp only
  repeat' split
  all_goals simp

theorem State.cacheReserve_chart {s t : State} {len b : Nat} {o : CabObj} (h : s.cacheReserve len o = some (b, t)) :
    s.Charted t := by
  unfold State.cacheReserve at h
  split at h
  · cases h
  · obtain ⟨_, -, e⟩ := Option.map_eq_some_iff.mp h
    cases e
    simp

@[simp] theorem State.evictInval_chart (s : State) : s.Charted s.evictInval := by simp [State.evictInval]

theorem State.cacheEntry_chart {s t : State} {aid owner : Nat} {r : NoteRec} (h : s.cacheEntry aid owner r = some t) :
    s.Charted t := by
  unfold State.cacheEntry at h
  split at h
  · split at h
    · cases h
    · split at h
      · cases h; exact ⟨rfl, rfl⟩
      · split at h
        · cases h; simp
        · cases h
  · dsimp only at h
    split at h
    · cases h
    · rename_i room
      split at h
      · cases h
      · cases h
        split at room
        · cases room; exact ⟨rfl, rfl⟩
        · split at room
          · cases room; simp
          · cases room

theorem State.beginFill_chart {s t : State} {aid ep owner blen : Nat} {r : NoteRec} (h : s.beginFill aid ep owner blen r = some t) :
    s.Charted t := by
  unfold State.beginFill at h
  split at h
  · cases h
  · rename_i s1 e1
    split at h
    · cases h
    · rename_i b s2 e2
      split at h
      · cases h
      · rename_i s3 e3
        cases h
        simp [State.cacheEntry_chart e3, State.cacheReserve_chart e2, State.cacheEntry_chart e1]

@[simp] theorem State.failFill_chart (s : State) (aid ep : Nat) : s.Charted (s.failFill aid ep) := by
  unfold State.failFill
  split <;> simp

@[simp] theorem State.takeRef_chart (s : State) (aid ep : Nat) : s.Charted (s.takeRef aid ep) := by simp [State.takeRef]

@[simp] theorem State.freeRef_chart (s : State) (aid ep : Nat) : s.Charted (s.freeRef aid ep) := by simp [State.freeRef]

@[simp] theorem State.hostXfer_chart (s : State) (addr len : Nat) (write : Option (List Byte)) (use : XferFor) :
    s.Charted (s.hostXfer addr len write use) := by
  simp [State.hostXfer]

@[simp] theorem State.promote_chart (s : State) (aid ep : Nat) : s.Charted (s.promote aid ep).2 := by
  unfold State.promote
  split
  · exact ⟨rfl, rfl⟩
  · split
    · exact ⟨rfl, rfl⟩
    · split
      · exact ⟨rfl, rfl⟩
      · split
        · next h => exact State.chart_of_pair h (State.charge_chart ..)
        · next h => simp [State.chart_of_pair h (State.charge_chart ..)]

@[simp] theorem State.promoted_chart (s : State) (aid ep : Nat) (bytes : Option (List Byte)) :
    s.Charted (s.promoted aid ep bytes) := by
  unfold State.promoted
  dsimp only
  repeat' split
  all_goals simp

@[simp] theorem State.freeAdapter_chart (s : State) (aid : Nat) : s.Charted (s.freeAdapter aid) := by
  have stays (q : Prt) : (if q.common = aid then { q with common := 0 } else q).ctx.isSome = q.ctx.isSome := by split <;> rfl
  simp [State.freeAdapter, stays]

/-! ### Machine/Adapters -/

@[simp] theorem State.fetchFor_chart (s : State) (l : List (Nat × Nat)) : s.Charted (s.fetchFor l).2 := by
  simp [State.fetchFor]

@[simp] theorem State.pinAt_chart (s : State) (aid ep : Nat) : s.Charted (s.pinAt aid ep) := by simp [State.pinAt]

@[simp] theorem State.pinFill_chart (s : State) : s.Charted s.pinFill := by
  unfold State.pinFill
  extract_lets ids plan held todo s0 s1 r
  have e1 : s.Charted s1 := by simp [s1, s0]
  have e2 : s1.Charted r.1 := State.foldl_fst_chart _ _ (s1, [], plan.short) fun x a => by
    split
    · exact ⟨rfl, rfl⟩
    · next h => simp [State.beginFill_chart h]
  simp [e2, e1]

@[simp] theorem State.pinRefresh_chart (s : State) : s.Charted s.pinRefresh := by simp [State.pinRefresh]

@[simp] theorem State.pinSettle_chart (s : State) : s.Charted s.pinSettle := by
  unfold State.pinSettle
  dsimp only
  repeat' split
  all_goals simp

/-! ### Machine/Jobs -/

@[simp] theorem State.modJob_chart (s : State) (p num : Nat) (f : Job → Job) : s.Charted (s.modJob p num f) := by
  simp [State.modJob]

/-! ### Machine/Tensor -/

@[simp] theorem State.want_chart (s : State) (p tag : Nat) (rs : List Rng) : s.Charted (s.want p tag rs).2 := by
  unfold State.want
  split <;> simp

@[simp] theorem State.stepWrite_chart (s : State) (space addr : Nat) (bytes : List Byte) (tag : WriteTag) (drw : Nat) (key ew page : Nat) :
    s.Charted (s.stepWrite space addr bytes tag drw key ew page) := by
  simp [State.stepWrite]

/-! ### Machine/Load -/

@[simp] theorem State.addRec_chart (s : State) (p i : Nat) (rd wr : Nat) : s.Charted (s.addRec p i rd wr) := by
  simp [State.addRec]

@[simp] theorem State.takeRefs_chart (s : State) (p : Nat) (hs : List Word) : s.Charted (s.takeRefs p hs) := by
  simp [State.takeRefs]

@[simp] theorem State.phaseLoad_chart (s : State) (p : Nat) (c : Ctx) : s.Charted (s.phaseLoad p c).state := by
  unfold State.phaseLoad
  extract_lets h own judge others bad
  split
  · exact ⟨rfl, rfl⟩
  · rename_i s1 _ _
    have e1 : s.Charted s1 := by simp [s1]
    split
    · split
      · simp [e1]
      · extract_lets found
        split
        · simp [e1]
        · exact e1
        · extract_lets s2
          have e2 : s.Charted s2 := by simp [s2, e1]
          split
          · exact e2
          · rename_i projs s3 ofsOk s4 gate _ _
            have e3 : s.Charted s3 := by simp [s3, e2]
            split
            · exact e3
            · simp [s4, e3]
    · exact e1

@[simp] theorem State.gateTry_chart (s : State) (p : Nat) (g : GateItem) : s.Charted (s.gateTry p g).2 := by
  have taken : s.Charted (s.latchOp (.context p) g.latch 1 0).2 := by simp
  unfold State.gateTry
  dsimp only
  split
  · exact ⟨rfl, rfl⟩
  · split
    · exact ⟨rfl, rfl⟩
    · split
      all_goals next h => exact State.chart_of_pair h taken

@[simp] theorem State.gateRun_chart (s : State) (p : Nat) (only : Option Bool) (l : List GateItem) :
    s.Charted (s.gateRun p only l).state := by
  induction l generalizing s with
  | nil => exact ⟨rfl, rfl⟩
  | cons g l ih =>
    unfold State.gateRun
    split
    · exact ih s
    · split
      · exact ⟨rfl, rfl⟩
      · split
        all_goals next h => simp [ih, State.chart_of_pair h (State.gateTry_chart ..)]

@[simp] theorem State.phaseGate_chart (s : State) (p : Nat) (c : Ctx) (only : Option Bool) :
    s.Charted (s.phaseGate p c only).state := by
  have run := s.gateRun_chart p only c.gate
  unfold State.phaseGate
  split
  · next h =>
    rw [h] at run
    simpa using run
  · exact run

@[simp] theorem State.modBudget_chart (s : State) (t : Nat) (f : Nat → Nat) : s.Charted (s.modBudget t f) := by
  simp [State.modBudget]

@[simp] theorem State.ticketRows_chart (s : State) (p : Nat) (c : Ctx) (rows : List Row) :
    s.Charted (s.ticketRows p c rows).2 := by
  refine State.foldl_snd_chart _ _ _ fun x r => ?_
  repeat' split
  all_goals simp

@[simp] theorem State.popSub_chart (s : State) (p : Nat) (c : Ctx) : s.Charted (s.popSub p c) := by simp [State.popSub]

@[simp] theorem State.phaseSample_chart (s : State) (p : Nat) (c : Ctx) : s.Charted (s.phaseSample p c).state := by
  unfold State.phaseSample
  split <;> simp

@[simp] theorem State.pinRows_chart (s : State) (p : Nat) : s.Charted (s.pinRows p) := by
  unfold State.pinRows
  split <;> simp

@[simp] theorem State.phaseTable_chart (s : State) (p : Nat) (c : Ctx) : s.Charted (s.phaseTable p c).state := by
  unfold State.phaseTable
  extract_lets ri mems
  split
  · exact ⟨rfl, rfl⟩
  · split
    · next h => exact State.chart_of_pair h (State.want_chart ..)
    · next h1 =>
      have e1 := State.chart_of_pair h1 (State.want_chart ..)
      extract_lets vb bnd n counted ofs
      have count (t : State) (k : Nat) : t.Charted (counted t k) := by simp [counted]
      split
      · exact e1.trans (count _ _)
      · split
        · next h2 => exact e1.trans (State.chart_of_pair h2 (State.want_chart ..))
        · next h2 =>
          have e2 := e1.trans (State.chart_of_pair h2 (State.want_chart ..))
          split
          · next h3 => exact e2.trans (State.chart_of_pair h3 (State.want_chart ..))
          · next s3 h3 =>
            have e3 := e2.trans (State.chart_of_pair h3 (State.want_chart ..))
            extract_lets vr words ents ofsFail s4 rs t s5
            have e4 : s.Charted s4 := by simp [s4, count, e3]
            have e5 : s.Charted s5 := by simp [s5, t, e4]
            repeat' split
            all_goals simp [e4, e5]

@[simp] theorem State.phaseNotice_chart (s : State) (p : Nat) (c : Ctx) : s.Charted (s.phaseNotice p c).state := by
  unfold State.phaseNotice
  dsimp only
  repeat' split
  all_goals simp

/-! ### Machine/Sort -/

@[simp] theorem State.hystPut_chart (s : State) (p aid : Nat) (path : Path) : s.Charted (s.hystPut p aid path) := by
  unfold State.hystPut
  refine ⟨?_, rfl⟩
  rw [State.modPol_pol]
  dsimp only
  repeat' split
  all_goals simp

@[simp] theorem State.reserveStage_chart (s : State) (p : Nat) (prog : List MI) (ds : List PathInfo) :
    s.Charted (s.reserveStage p prog ds).2 := by
  unfold State.reserveStage
  dsimp only
  split
  · exact ⟨rfl, rfl⟩
  · split
    · refine State.Charted.trans ?_ (State.foldl_snd_chart _ _ _ ?_)
      · simp
      · rintro ⟨o, t⟩ d
        split
        · next h => cases h; exact ⟨rfl, rfl⟩
        · next h =>
          cases h
          split
          · split
            all_goals next h => exact State.chart_of_pair h (State.promote_chart ..)
          · split
            · exact ⟨rfl, rfl⟩
            · split
              · exact ⟨rfl, rfl⟩
              · split
                · exact ⟨rfl, rfl⟩
                · next h => simp [State.beginFill_chart h]
    · simp

@[simp] theorem Adm.phase2_chart (s : State) (p : Nat) (prog : List MI) (generator : Bool) (n : Nat) (a : Adm) :
    s.Charted (Adm.phase2 s p prog generator n a).2.1 := by
  induction n generalizing s a with
  | zero => exact ⟨rfl, rfl⟩
  | succ n ih =>
    unfold Adm.phase2
    split
    · next h => exact State.chart_of_pair h (State.reserveStage_chart ..)
    · next h =>
      have e := State.chart_of_pair h (State.reserveStage_chart ..)
      dsimp only
      split
      · exact e.trans (ih ..)
      · split
        · exact e.trans (ih ..)
        · exact e

@[simp] theorem reserveGrads_chart (p : Nat) (a : Adm) (s : State) : s.Charted (reserveGrads p a s).2.1 := by
  unfold reserveGrads
  refine List.foldlRecOn (motive := fun x : Adm × State × List (Nat × Nat) => s.Charted x.2.1) _ _ ⟨rfl, rfl⟩ ?_
  rintro ⟨b, t, new⟩ ht d -
  dsimp only at ht ⊢
  split
  · exact ht
  · split
    · exact ht
    · split
      · exact ht
      · split
        all_goals next h => simp [State.chart_of_pair h (State.charge_chart ..), ht]

@[simp] theorem State.refund_chart (s : State) (rows : List Row) : s.Charted (s.refund rows) := by simp [State.refund]

@[simp] theorem State.phaseSort_chart (s : State) (p : Nat) (c : Ctx) : s.Charted (s.phaseSort p c).state := by
  unfold State.phaseSort
  extract_lets si a0 paths s1 a1 r2 a3 g a s2 ds gone s3 fl idle s4 s5 here drs rows rows' s6 s7
  have e1 : s.Charted s1 := State.foldl_chart _ _ _ fun t d => by simp
  have eg : s.Charted g.2.1 := by
    unfold g
    split <;> simp [r2, e1]
  simp [s7, s6, s5, s4, s3, s2, eg]

/-! ### Machine/Check -/

@[simp] theorem State.phaseCheck_chart (s : State) (p : Nat) (c : Ctx) : s.Charted (s.phaseCheck p c).state := by
  have lists (l : List Nat) : s.Charted (l.foldl (fun (st : Bool × State) i =>
      let r := st.2.want p (tagList i) (st.2.listRngs c i); (st.1 && r.1, r.2)) (true, s)).2 :=
    State.foldl_snd_chart _ _ _ fun x i => by simp
  unfold State.phaseCheck
  dsimp only
  split
  · next h => exact State.chart_of_pair h (lists _)
  · next h =>
    have e := State.chart_of_pair h (lists _)
    repeat' split
    all_goals simp [e]

/-! ### Machine/Deliver -/

@[simp] theorem State.addRow_chart (s : State) (p i drw slot : Nat) (k : Cnt) : s.Charted (s.addRow p i drw slot k) := by
  simp [State.addRow]

@[simp] theorem State.addStat_chart (s : State) (p slot aid proj : Nat) (q : QCnt) :
    s.Charted (s.addStat p slot aid proj q) := by
  simp [State.addStat]

@[simp] theorem State.pushResp_chart (s : State) (port : Nat) (r : Resp) : s.Charted (s.pushResp port r) := by
  simp [State.pushResp]

@[simp] theorem State.sendResp_chart (s : State) (p slot off proj : Nat) (zero placed : Bool) (ofmt : Nat) (data : List Nat) :
    s.Charted (s.sendResp p slot off proj zero placed ofmt data) := by
  unfold State.sendResp
  split <;> simp

@[simp] theorem State.answerZero_chart (s : State) (p slot off proj : Nat) : s.Charted (s.answerZero p slot off proj) := by
  unfold State.answerZero
  split <;> simp

@[simp] theorem State.settleRow_chart (s : State) (p slot : Nat) (st : Status) : s.Charted (s.settleRow p slot st) := by
  unfold State.settleRow
  split <;> simp

@[simp] theorem State.settleDrawer_chart (s : State) (p drw : Nat) (st : Status) : s.Charted (s.settleDrawer p drw st) := by
  unfold State.settleDrawer
  split <;> simp

@[simp] theorem State.settleOut_chart (s : State) (p mi slot off : Nat) : s.Charted (s.settleOut p mi slot off) := by
  unfold State.settleOut
  split <;> simp

@[simp] theorem State.emit_chart (s : State) (p mi drw key space a : Nat) (bs : List Byte) (ew page : Nat) :
    s.Charted (s.emit p mi drw key space a bs ew page).1 := by
  unfold State.emit
  split <;> simp

@[simp] theorem State.putRow_chart (s : State) (p mi drw key : Nat) (v : View) (d : Desc) (cs : List Nat) (lo : Nat) (els : List (List Byte)) :
    s.Charted (s.putRow p mi drw key v d cs lo els).1 := by
  unfold State.putRow
  dsimp only
  repeat' split
  all_goals simp

@[simp] theorem State.placeVec_chart (s : State) (p pi drw slot off lo : Nat) (els : List (List Byte)) :
    s.Charted (s.placeVec p pi drw slot off lo els).1 := by
  unfold State.placeVec
  split
  · exact ⟨rfl, rfl⟩
  · extract_lets m v t key
    split
    · exact ⟨rfl, rfl⟩
    · split
      · simp
      · split
        · exact ⟨rfl, rfl⟩
        · split
          · simp
          · extract_lets b u g s1 e s2 pg keep
            have e1 : s.Charted s1 := by simp [s1]
            have e2 : s.Charted s2 := by
              unfold s2
              split <;> simp [e1]
            repeat' split
            all_goals simp [e1, e2]
      · split
        · exact ⟨rfl, rfl⟩
        · extract_lets zeros
          split
          · split
            · refine State.foldl_fst_chart _ _ _ fun y a => ?_
              dsimp only
              repeat' split
              all_goals simp
            · next k s1 _ _ =>
              have e1 : s.Charted s1 := by simp [s1]
              split <;> simp [e1]
          · refine State.foldl_fst_chart _ _ _ fun y a => ?_
            dsimp only
            repeat' split
            all_goals simp

/-! ### Machine/Units -/

@[simp] theorem State.loadOp_chart (s : State) (p : Nat) (c : Ctx) (u : WUnit) (l : Word × Nat) (fmt : Nat) (k : Int) (count stat : Bool) :
    s.Charted (s.loadOp p c u l fmt k count stat).2 := by
  unfold State.loadOp
  split
  · exact ⟨rfl, rfl⟩
  · refine State.foldl_snd_chart _ _ _ fun x a => ?_
    dsimp only
    repeat' split
    all_goals simp

/-! ### Machine/Run -/

@[simp] theorem State.putLanes_chart (s : State) (p i k slot off lo : Nat) (vals : List Nat) (zero : Bool) :
    s.Charted (s.putLanes p i k slot off lo vals zero) := by
  unfold State.putLanes
  dsimp only
  repeat' split
  all_goals simp

@[simp] theorem State.visitRecs_chart (s : State) (p : Nat) (c : Ctx) (i k : Nat) : s.Charted (s.visitRecs p c i k).2 := by
  simp [State.visitRecs]

@[simp] theorem State.visitSend_chart (s : State) (p : Nat) : s.Charted (s.visitSend p) := by
  unfold State.visitSend
  split
  · exact ⟨rfl, rfl⟩
  · split
    · exact ⟨rfl, rfl⟩
    · refine State.foldl_chart _ _ _ fun t i => ?_
      split
      · exact ⟨rfl, rfl⟩
      · split
        · exact ⟨rfl, rfl⟩
        · refine State.foldl_chart _ _ _ fun t o => ?_
          dsimp only
          split
          · exact ⟨rfl, rfl⟩
          · split
            · next h => exact State.chart_of_pair h (State.want_chart ..)
            · next h =>
              have e := State.chart_of_pair h (State.want_chart ..)
              split <;> simp [e]

@[simp] theorem State.visitDeliver_chart (s : State) (p : Nat) : s.Charted (s.visitDeliver p) := by
  unfold State.visitDeliver
  split
  · exact ⟨rfl, rfl⟩
  · refine State.foldl_chart _ _ _ fun t i => State.foldl_chart _ _ _ fun t k => ?_
    split
    · exact ⟨rfl, rfl⟩
    · dsimp only
      split
      · exact ⟨rfl, rfl⟩
      · split
        · exact ⟨rfl, rfl⟩
        · split
          · next h => exact State.chart_of_pair h (State.want_chart ..)
          · next h => simp [State.chart_of_pair h (State.want_chart ..)]

@[simp] theorem State.zeroPlace_chart (s : State) (p : Nat) : s.Charted (s.zeroPlace p) := by
  unfold State.zeroPlace
  split
  · exact ⟨rfl, rfl⟩
  · refine State.foldl_chart _ _ _ fun t j => ?_
    split
    · exact ⟨rfl, rfl⟩
    · split
      · exact ⟨rfl, rfl⟩
      · refine State.foldl_chart _ _ _ fun t x => ?_
        split
        all_goals next h => simp [State.chart_of_pair h (State.want_chart ..)]

@[simp] theorem State.skipEmpty_chart (s : State) (p : Nat) : s.Charted (s.skipEmpty p) := by simp [State.skipEmpty]

@[simp] theorem State.pump_chart (s : State) (p : Nat) : s.Charted (s.pump p) := by
  unfold State.pump
  split <;> simp

/-! ### Machine/Hinge -/

@[simp] theorem State.zeroResp_chart (s : State) (port p sseq : Nat) (v : RowVec) (st : Status) :
    s.Charted (s.zeroResp port p sseq v st) := by
  simp [State.zeroResp]

@[simp] theorem State.orphan_chart (s : State) (port : Nat) (v : RowVec) : s.Charted (s.orphan port v) := by
  simp [State.orphan]

@[simp] theorem State.tornVec_chart (s : State) (port : Nat) (c : Ctx) (v : RowVec) : s.Charted (s.tornVec port c v) := by
  simp [State.tornVec]

@[simp] theorem State.takeVec_chart (s : State) (p port : Nat) (c : Ctx) (v : RowVec) :
    s.Charted (s.takeVec p port c v) := by
  unfold State.takeVec
  dsimp only
  repeat' split
  all_goals simp

@[simp] theorem State.tagCheck_chart (s : State) (p port : Nat) (v : RowVec) : s.Charted (s.tagCheck p port v) := by
  unfold State.tagCheck
  split <;> simp

@[simp] theorem State.vecGo_chart (s : State) (p port : Nat) (v : RowVec) : s.Charted (s.vecGo p port v) := by
  unfold State.vecGo
  repeat' split
  all_goals simp

@[simp] theorem State.beatCredit_chart (s : State) (port p : Nat) (f : Nat → Nat) : s.Charted (s.beatCredit port p f) := by
  simp [State.beatCredit]

@[simp] theorem State.releasePort_chart (p port n : Nat) (s : State) : s.Charted (State.releasePort p port n s) := by
  induction n generalizing s with
  | zero => exact ⟨rfl, rfl⟩
  | succ n ih =>
    unfold State.releasePort
    split
    · exact ⟨rfl, rfl⟩
    · split
      · exact ⟨rfl, rfl⟩
      · simp [ih]

@[simp] theorem State.releaseHeld_chart (s : State) (p : Nat) : s.Charted (s.releaseHeld p) :=
  State.foldl_chart _ _ _ fun t port => State.releasePort_chart p port _ t

/-! ### Machine/Issue -/

@[simp] theorem State.dropPins_chart (s : State) (c : Ctx) : s.Charted (s.dropPins c) := by simp [State.dropPins]

@[simp] theorem State.dropGradNew_chart (s : State) (p : Nat) (l : List (Nat × Nat)) : s.Charted (s.dropGradNew p l) := by
  simp [State.dropGradNew]

@[simp] theorem State.refuse_chart (s : State) (p : Nat) (st : Status) (idx : Nat) : s.Charted (s.refuse p st idx) := by
  unfold State.refuse
  split <;> simp

@[simp] theorem State.issuePhase_chart (s : State) (p : Nat) (c : Ctx) : s.Charted (s.issuePhase p c).state := by
  unfold State.issuePhase
  split <;> simp

@[simp] theorem State.issueGo_chart (p n : Nat) (s : State) : s.Charted (State.issueGo p n s) := by
  induction n generalizing s with
  | zero => exact ⟨rfl, rfl⟩
  | succ n ih =>
    unfold State.issueGo
    split
    · exact ⟨rfl, rfl⟩
    · next c _ =>
      have phase := s.issuePhase_chart p c
      split
      all_goals next h => rw [h] at phase; simpa [ih] using phase

@[simp] theorem State.resumeIssue_chart (s : State) (p : Nat) : s.Charted (s.resumeIssue p) := by
  simp [State.resumeIssue]

/-! ### Machine/Serial -/

@[simp] theorem State.dropGrad_chart (s : State) (p aid base : Nat) : s.Charted (s.dropGrad p aid base) := by
  simp [State.dropGrad]

@[simp] theorem State.shipDone_chart (s : State) (p sseq aid base : Nat) (st : Status) :
    s.Charted (s.shipDone p sseq aid base st) := by
  simp [State.shipDone]

/-! ### Machine/Fills -/

@[simp] theorem State.settleSaved_chart (s : State) (p drw : Nat) (st : Status) : s.Charted (s.settleSaved p drw st) := by
  unfold State.settleSaved
  split <;> simp

@[simp] theorem State.settleStep_chart (s : State) (p sseq drw : Nat) (st : Status) :
    s.Charted (s.settleStep p sseq drw st) := by
  simp [State.settleStep]

@[simp] theorem State.versionLost_chart (s : State) (path : Path) (aid ep : Nat) :
    s.Charted (s.versionLost path aid ep) := by
  simp [State.versionLost]

@[simp] theorem State.fillFailed_chart (s : State) (aid ep : Nat) : s.Charted (s.fillFailed aid ep) := by
  simp [State.fillFailed]

@[simp] theorem State.noteDrop_chart (s : State) (aid : Nat) : s.Charted (s.noteDrop aid) := by simp [State.noteDrop]

@[simp] theorem State.sendBlob_chart (s : State) (peer tag seg aid ep : Nat) (last : Bool) :
    s.Charted (s.sendBlob peer tag seg aid ep last).2 := by
  unfold State.sendBlob
  split <;> simp

@[simp] theorem State.serveFill_chart (id : Nat × Nat) (n : Nat) (s : State) :
    s.Charted (State.serveFill id n s) := by
  induction n generalizing s with
  | zero => exact ⟨rfl, rfl⟩
  | succ n ih =>
    unfold State.serveFill
    split
    · exact ⟨rfl, rfl⟩
    · split
      · exact ⟨rfl, rfl⟩
      · dsimp only
        repeat' split
        all_goals simp [ih]

@[simp] theorem State.serveFills_chart (s : State) : s.Charted s.serveFills := by
  simp [State.serveFills]

@[simp] theorem State.promotionEnd_chart (s : State) (aid ep : Nat) (bytes : Option (List Byte)) :
    s.Charted (s.promotionEnd aid ep bytes) := by
  simp [State.promotionEnd]

/-! ### Machine/BootBlob -/

@[simp] theorem State.blobTo_chart (s : State) (l : List Nat) : s.Charted (s.blobTo l) := by
  unfold State.blobTo
  split <;> simp

@[simp] theorem State.blobAdvance_chart (s : State) : s.Charted s.blobAdvance := by simp [State.blobAdvance]

@[simp] theorem State.blobSkip_chart (s : State) : s.Charted s.blobSkip := by
  unfold State.blobSkip
  dsimp only
  repeat' split
  all_goals simp

@[simp] theorem State.blobReserve_chart (s : State) (aid home : Nat) : s.Charted (s.blobReserve aid home) := by
  unfold State.blobReserve
  dsimp only
  split
  all_goals next h => simpa using State.chart_of_pair h (State.charge_chart ..)

@[simp] theorem State.newEntry_chart (s : State) (aid p ward : Nat) : s.Charted (s.newEntry aid p ward) := by
  unfold State.newEntry
  split <;> simp

theorem State.takeId_chart {s t : State} {p ward a : Nat} {l : List Nat} (h : s.takeId p ward l = some (a, t)) :
    s.Charted t := by
  obtain ⟨_, -, e⟩ := Option.map_eq_some_iff.mp h
  cases e
  simp

@[simp] theorem State.rangeFail_chart (s : State) (long : Nat) (st : Status) : s.Charted (s.rangeFail long st) := by
  simp [State.rangeFail]

@[simp] theorem State.rangeFor_chart (s : State) (long k : Nat) : s.Charted (s.rangeFor long k) := by
  unfold State.rangeFor
  dsimp only
  split
  · exact ⟨rfl, rfl⟩
  · split
    · simp
    · split
      · simp
      · next h => split <;> simp [State.takeId_chart h]

/-! ### Machine/View -/

@[simp] theorem State.joinNext_chart (s : State) (after : Option Nat) : s.Charted (s.joinNext after) := by
  unfold State.joinNext
  dsimp only
  repeat' split
  all_goals simp

@[simp] theorem State.freeze_chart (s : State) (k : Nat) (b : Bool) : s.Charted (s.freeze k b) := by simp [State.freeze]

@[simp] theorem State.finishAbort_chart (s : State) (k : Nat) (st : Status) : s.Charted (s.finishAbort k st) := by
  unfold State.finishAbort
  repeat' split
  all_goals simp

@[simp] theorem State.askAbort_chart (s : State) (k : Nat) : s.Charted (s.askAbort k) := by
  unfold State.askAbort
  repeat' split
  all_goals simp

/-- What is taken back of a move is taken out of the views to come only. -/
@[simp] theorem State.regWithdraw_chart (s : State) (k inst : Nat) :
    (s.regWithdraw k inst).2.pol.chart.1 = s.pol.chart.1 ∧ standing (s.regWithdraw k inst).2.prt = standing s.prt := by
  unfold State.regWithdraw
  dsimp only
  split <;> exact ⟨rfl, rfl⟩

@[simp] theorem State.abortMove_chart (s : State) (k : Nat) (st : Status) :
    (s.abortMove k st).pol.chart.1 = s.pol.chart.1 ∧ standing (s.abortMove k st).prt = standing s.prt := by
  unfold State.abortMove
  split
  · exact ⟨rfl, rfl⟩
  · split
    · dsimp only
      split
      · simp
      · exact ⟨rfl, rfl⟩
    · repeat' split
      all_goals simp

@[simp] theorem State.dropMove_chart (s : State) (k : Nat) : s.Charted (s.dropMove k) := by simp [State.dropMove]

@[simp] theorem State.noteFor_chart (s : State) (p : Nat) (l : List NoteRec) (dead : List Nat) :
    s.Charted (s.noteFor p l dead) := by
  simp [State.noteFor]

@[simp] theorem State.forget_chart (s : State) (e : Entry) : s.Charted (s.forget e) := by simp [State.forget]

@[simp] theorem State.clearRange_chart (s : State) (k : Nat) : s.Charted (s.clearRange k) := by simp [State.clearRange]

@[simp] theorem State.closeWard_chart (s : State) (w : Nat) : s.Charted (s.closeWard w) := by simp [State.closeWard]

@[simp] theorem State.releaseRange_chart (s : State) (k : Nat) : s.Charted (s.releaseRange k) := by
  simp [State.releaseRange]

@[simp] theorem State.movedOut_chart (s : State) (m : Move) : s.Charted (s.movedOut m) := by
  unfold State.movedOut
  split <;> simp

@[simp] theorem State.dropForeign_chart (s : State) : s.Charted s.dropForeign := by simp [State.dropForeign]

@[simp] theorem State.takeEntry_chart (s : State) (m : Move) (e : Entry) : s.Charted (s.takeEntry m e) := by
  unfold State.takeEntry
  dsimp only
  repeat' split
  all_goals simp

@[simp] theorem State.settleMoves_chart (s : State) : s.Charted s.settleMoves := by simp [State.settleMoves]

@[simp] theorem State.renamePeers_chart (s : State) : s.Charted s.renamePeers := by simp [State.renamePeers]

@[simp] theorem State.settleGrants_chart (s : State) : s.Charted s.settleGrants := by simp [State.settleGrants]

@[simp] theorem State.settleJoins_chart (s : State) : s.Charted s.settleJoins := by simp [State.settleJoins]

end Sys2Proof.Machine
end

section
/-! PROOF. Installing a view (R307, R308): the members, the ranges and the views that it leaves, whatever else follows from it. -/

namespace Sys2Proof.Machine

open Sys2Proof

section
variable {s : State} {v : ViewPl}

theorem Pol.nextView_of_chart {p q : Pol} (h : p.chart = q.chart) : p.nextView = q.nextView := congrArg (·.2) h

theorem State.foldl_chart_fst {α : Type} (l : List α) (f : State → α → State) (s : State)
    (h : ∀ s a, (f s a).pol.chart.1 = s.pol.chart.1) : (l.foldl f s).pol.chart.1 = s.pol.chart.1 :=
  List.foldlRecOn (motive := fun t : State => t.pol.chart.1 = s.pol.chart.1) l f rfl fun t ht a _ => (h t a).trans ht

/-! ### Requests and peers that go -/

@[simp] theorem State.pullFailed_chart (s : State) (peer : Nat) : (s.pullFailed peer).pol.chart = s.pol.chart := by
  unfold State.pullFailed
  dsimp only
  split <;> simp

/-- A request that fails takes back views to come at most, and those only for a move. -/
@[simp] theorem State.failOne_chart (s : State) (r : PReq) (st : Status) : (s.failOne r st).pol.chart.1 = s.pol.chart.1 := by
  unfold State.failOne
  split <;> simp

theorem State.failOne_chart_of {r : PReq} (stays : ∀ k, r.kind.moves k = false) (s : State) (st : Status) :
    (s.failOne r st).pol.chart = s.pol.chart := by
  unfold State.failOne
  split
  case h_17 k move | h_18 k move | h_19 k move => simp [move, ReqKind.moves] at stays
  all_goals simp

@[simp] theorem State.failReq_chart (s : State) (r : PReq) (st : Status) : (s.failReq r st).pol.chart.1 = s.pol.chart.1 := by
  unfold State.failReq
  split
  · refine (State.foldl_chart_fst _ _ _ fun t x => t.failOne_chart x st).trans ?_
    simp
  · exact s.failOne_chart r st

@[simp] theorem State.failPeer_chart (s : State) (peer : Nat) : (s.failPeer peer).pol.chart.1 = s.pol.chart.1 :=
  State.foldl_chart_fst _ _ s fun t r => t.failReq_chart r _

@[simp] theorem State.dropPeer_chart (s : State) (inst : Nat) : (s.dropPeer inst).pol.chart.1 = s.pol.chart.1 := by
  unfold State.dropPeer
  extract_lets s1 s2 s3 s4
  have e1 : s1.pol.chart.1 = s.pol.chart.1 := s.failPeer_chart inst
  have e2 : s2.pol.chart.1 = s1.pol.chart.1 := State.foldl_chart_fst _ _ s1 fun t m => by split <;> simp
  have e4 : s4.pol.chart = s2.pol.chart := by simp [s4, s3]
  exact (congrArg (·.1) e4).trans (e2.trans e1)

/-! ### The view -/

/-- The members once a view is installed. -/
def State.membersWith (s : State) (v : ViewPl) : List Member :=
  if v.full then v.add else (s.pol.members.filter fun m => !v.del.contains m.inst && !(v.add.any fun a => a.inst == m.inst)) ++ v.add

/-- The ranges once a view is installed. -/
def State.rangesWith (s : State) (v : ViewPl) : SMap RangeEnt :=
  v.ranges.foldl (fun m r => SMap.set freeRange m r.1 r.2) (if v.full then [] else s.pol.ranges)

/-- A view that is installed is the view from then on (R307, R308). -/
theorem State.install_chart (s : State) (v : ViewPl) : (s.install v).pol.chart.1
    = (BitVec.ofNat 32 v.num, s.membersWith v, s.rangesWith v, s.pol.pend.filter fun p => decide (v.num < p.num)) := by
  unfold State.install
  extract_lets -underBinder old oldR now newR same gone come s1 s2 s3 s4 back s5 acked s6 s7 s8
  have e1 : s1.pol.chart = s.pol.chart := by simp [s1]
  have ranges : newR = s.rangesWith v := by
    unfold newR State.rangesWith
    split
    · rfl
    · rfl
  have e2 : s2.pol.chart.1 = (BitVec.ofNat 32 v.num, s.membersWith v, s.rangesWith v, s.pol.pend.filter fun p => decide (v.num < p.num)) := by
    have pend : s1.pol.pend = s.pol.pend := congrArg (fun c => c.1.2.2.2) e1
    rw [← ranges, ← pend]
    rfl
  have e3 : s3.pol.chart.1 = s2.pol.chart.1 := State.foldl_chart_fst _ _ s2 fun t i => t.dropPeer_chart i
  have e6 : s6.pol.chart = s3.pol.chart := by simp [s6, s5, s4]
  have e7 : s7.pol.chart.1 = s6.pol.chart.1 := State.foldl_chart_fst _ _ s6 fun t r => t.failReq_chart r _
  have e8 : s8.settleClaims.reclaim.pol.chart = s7.pol.chart := by simp [s8]
  rw [e8, e7, e6, e3, e2]

/-- A view that neither adds nor removes a member leaves the changes that wait for the next one. -/
theorem State.install_nextView (s : State) (part : v.full = false) (add : v.add = []) (del : v.del = []) :
    (s.install v).pol.nextView = s.pol.nextView := by
  unfold State.install
  extract_lets -underBinder old oldR now newR same gone come s1 s2 s3 s4 back s5 acked s6 s7 s8
  have e1 : s1.pol.chart = s.pol.chart := by simp [s1]
  have none_gone : gone = [] := by
    have kept : now = old := by simp [now, part, add, del]
    have listed (m : Member) (hm : m ∈ old) : old.any (same m) = true := List.any_eq_true.mpr ⟨m, hm, by simp [same]⟩
    simp only [gone, kept, List.map_eq_nil_iff, List.filter_eq_nil_iff]
    exact fun m hm => by simp [listed m hm]
  have e3 : s3 = s2 := by simp [s3, none_gone]
  have e6 : s6.pol.chart = s3.pol.chart := by simp [s6, s5, s4]
  have e7 : s7.pol.chart = s6.pol.chart := by
    refine List.foldlRecOn (motive := fun t : State => t.pol.chart = s6.pol.chart) _ _ rfl fun t ht r hr => ?_
    have served := (List.mem_filter.mp hr).2
    refine Eq.trans ?_ ht
    unfold State.failReq
    split
    next hello => simp [hello] at served
    · refine State.failOne_chart_of (fun k => ?_) t _
      revert served
      cases r.kind <;> simp [ReqKind.moves]
  have e8 : s8.settleClaims.reclaim.pol.chart = s7.pol.chart := by simp [s8]
  have e2 : s2.pol.nextView = s1.pol.nextView := rfl
  rw [Pol.nextView_of_chart (e8.trans (e7.trans e6)), e3, e2, Pol.nextView_of_chart e1]

end

end Sys2Proof.Machine
end

section
/-! PROOF. Sessions, joining and views (R306–R312, R337, R339, R341, R346): what each message of the pool's membership leaves, and the obligation. -/

namespace Sys2Proof.Machine

open Sys2Proof

section
variable {s t : State} {m : RppMsg}

/-! ### Sessions (R337, R346) -/

theorem State.Traffic.helloPl (h : s.Traffic t) : t.helloPl = s.helloPl := by
  rw [← h.rest]
  rfl

theorem State.Traffic.helloStatus (h : s.Traffic t) (m : RppMsg) : t.helloStatus m = s.helloStatus m := by
  rw [← h.rest]
  rfl

theorem State.Traffic.sess_length (h : s.Traffic t) : t.pol.sess.length = s.pol.sess.length := by
  rw [← List.length_map (f := RppSess.talk), h.talk, List.length_map]

/-- A reply that needs no open session: every frame of it is on its way (R337). -/
theorem State.reply_pushed (s : State) (m : RppMsg) (peer : Nat) {ty : Nat} (free : ty = 2 ∨ ty = 4 ∨ ty = 0x0A) (st : Status) (pl : RppPl) :
    s.Traffic (s.reply m peer ty st pl) ∧ (s.reply m peer ty st pl).told peer ty m.tag st m.aid m.epoch pl := by
  have pushed : s.reply m peer ty st pl = s.pushRpp peer (s.rppMsg peer ty m.tag st m.aid m.epoch pl) := if_pos (by tauto)
  have traffic : s.Traffic (s.reply m peer ty st pl) := pushed ▸ s.traffic_sendFrames peer _
  refine ⟨traffic, fun f hf => ?_⟩
  rw [traffic.rppMsg] at hf
  rw [pushed]
  exact (s.outgoing_sendFrames peer _).1 f hf

/-- A `HELLO` that is right opens a session (R346). -/
theorem hHello_opens (right : s.helloStatus m = .ok) (room : s.pol.sess.length < 8192) :
    (∃ x, (hHello s m m.peer).pol.session m.peer = some x ∧ x.opening = false)
      ∧ (hHello s m m.peer).told m.peer 2 m.tag .ok m.aid m.epoch s.helloPl := by
  obtain ⟨x, hx, inst, opening⟩ : ∃ x : RppSess,
      hHello s m m.peer = (s.modPol fun q => { q with sess := s.pol.sess.filter (fun y => y.inst != m.peer) ++ [x] }).reply m m.peer 2 .ok s.helloPl
        ∧ x.inst = m.peer ∧ x.opening = false := by
    rw [hHello, right]
    dsimp only
    rw [if_pos ((List.length_filter_le ..).trans_lt room)]
    exact ⟨_, rfl, rfl, rfl⟩
  obtain ⟨t, ht⟩ : ∃ t, t = s.modPol fun q => { q with sess := s.pol.sess.filter (fun y => y.inst != m.peer) ++ [x] } := ⟨_, rfl⟩
  have there : t.pol.session m.peer = some x := by
    have others : (s.pol.sess.filter fun y => y.inst != m.peer).find? (fun y => y.inst == m.peer) = none :=
      List.find?_eq_none.mpr fun y hy => by simpa using (List.mem_filter.mp hy).2
    rw [ht]
    refine (List.find?_append ..).trans ?_
    rw [others, Option.none_or]
    exact List.find?_cons_of_pos (by simpa using inst)
  obtain ⟨traffic, told⟩ := t.reply_pushed m m.peer (.inl rfl) .ok s.helloPl
  rw [hx, ← ht]
  refine ⟨?_, told⟩
  have kept := traffic.session_map m.peer (g := (·.opening)) fun _ => rfl
  rw [there, Option.map_some, opening, Option.map_eq_some_iff] at kept
  exact kept

/-- A `HELLO` that is not right is told why (R346). -/
theorem hHello_refuses (wrong : s.helloStatus m ≠ .ok) :
    (hHello s m m.peer).told m.peer 2 m.tag (s.helloStatus m) m.aid m.epoch s.helloPl := by
  unfold hHello
  split
  next right => exact absurd right wrong
  · exact (s.reply_pushed m m.peer (.inl rfl) _ _).2

/-- The answer to a `HELLO` opens the session (R346). -/
theorem hHelloAck_opens {r : PReq} (req : s.reqOf m.peer m.tag = some r) (kind : r.kind = .hello) (ok : m.status = .ok)
    (right : s.helloStatus m = .ok) (joined : m.unjd = false) :
    (∀ x ∈ (hHelloAck s m m.peer).pol.sess, x.inst = m.peer → x.opening = false) ∧ ∀ y ∈ (hHelloAck s m m.peer).pol.reqs, y.id ≠ r.id := by
  have hello : (s.reqOf m.peer m.tag).filter (fun r => r.kind == .hello) = some r := by simp [req, kind]
  rw [hHelloAck, hello]
  dsimp only
  rw [if_neg (by simp [ok, right]), joined]
  constructor
  · intro x hx inst
    obtain ⟨y, -, rfl⟩ := List.mem_map.mp hx
    split at inst
    · rw [if_pos ‹_›]
    next other => exact absurd inst other
  · intro y hy
    obtain ⟨x, hx, rfl⟩ := List.mem_map.mp hy
    have gone := s.dropReq_gone r.id x hx
    split
    · exact gone
    · exact gone

/-! ### Joining and leaving (R309, R310, R312) -/

/-- A request whose tag is new is served; nothing but the session then remembers it (R342). -/
theorem State.serveReq_butSess (new : s.newTag m = true) (body : State → State) : (s.serveReq m m.peer body).butSess (body s) := by
  cases session : s.pol.session m.peer with
  | none =>
    rw [State.serveReq, session]
    rfl
  | some x =>
    rw [State.newTag, session] at new
    obtain ⟨idle, undone⟩ : x.busyTags.contains m.tag = false ∧ (x.doneTags.any fun e => e.1 == m.tag) = false := by simpa using new
    have none_done : x.doneTags.filter (fun e => e.1 == m.tag) = [] := by
      rw [List.filter_eq_nil_iff]
      simpa [List.any_eq_false] using undone
    unfold State.serveReq
    rw [session]
    dsimp only
    rw [idle, if_neg Bool.false_ne_true, none_done]
    rfl

/-- A device that is no registrar names it (R309). -/
theorem hJoinReq_named {major minor bm pool dev addr group r : Nat} {serves att : Bool} {x : Member}
    (pl : m.pl = .join major minor bm pool dev addr group serves att) (valid : s.pol.instValid = true) (other : s.isRegistrar = false)
    (registrar : s.registrar = some r) (member : s.member r = some x) :
    (hJoinReq s m m.peer).told m.peer 0x0A m.tag .ok m.aid m.epoch (.pairs [(x.inst, x.addr)]) := by
  have named : s.registrar.bind s.member = some x := by rw [registrar]; exact member
  rw [hJoinReq, pl]
  dsimp only
  rw [if_neg (by simp [valid]), if_pos other, named]
  exact (s.reply_pushed m m.peer (.inr (.inr rfl)) _ _).2

/-- The registrar proposes the member under the lowest free ID (R310). -/
theorem hJoinReq_proposes {minor bm dev addr group i : Nat} {serves : Bool}
    (pl : m.pl = .join 1 minor bm s.pol.poolId.toNat dev addr group serves true) (valid : s.pol.instValid = true) (registrar : s.isRegistrar = true)
    (majority : s.majority = true) (new : s.newTag m = true) (major : m.major = 1) (sound : s.sec.coreFault = false)
    (free : freeInst s.instsTaken 65536 0 = some i) :
    (hJoinReq s m m.peer).butSess (State.propose (s.modPol fun q => { q with joins := q.joins ++ [(m.peer, m.tag, i)] })
      { noChange with
        add := [{ inst := i, devId := dev, addr := addr, group := group, rppMinor := minor, blobMinor := bm, serves := serves }]
        del := (s.pol.members.filter fun x => x.devId == dev && x.inst != s.me).map (·.inst) }) := by
  rw [hJoinReq, pl]
  dsimp only
  rw [if_neg (by simp [valid]), if_neg (by simp [registrar]), if_neg (by simp [majority])]
  refine (congrArg (State.butSess _) ?_).mp (State.serveReq_butSess new _)
  rw [if_neg (by simp [major]), if_neg (by simp [sound]), free]

theorem State.joined_inst (s : State) (i : Nat) (v : ViewPl) : ((s.joined i v).pol.instId, (s.joined i v).pol.instValid) = (BitVec.ofNat 16 i, true) := by
  obtain ⟨t, ht⟩ : ∃ t, t = s.modPol fun q => { q with instId := BitVec.ofNat 16 i, instValid := true, batchNext := 1 } := ⟨_, rfl⟩
  have sits : t.Sits (s.joined i v) := by
    rw [State.joined, ← ht]
    exact (t.install_sits v).seat (State.ackView_seat _)
  rw [sits.inst, ht]
  rfl

@[simp] theorem State.ackView_chart (s : State) : s.Charted s.ackView := by
  unfold State.ackView
  split <;> simp

theorem Pol.viewNum_of_chart {p : Pol} {n : BitVec 32} {c : List Member × SMap RangeEnt × Option ViewPl} (h : p.chart.1 = (n, c)) : p.viewNum = n :=
  congrArg (·.1) h

theorem Pol.members_of_chart {p : Pol} {n : BitVec 32} {l : List Member} {c : SMap RangeEnt × Option ViewPl} (h : p.chart.1 = (n, l, c)) :
    p.members = l := congrArg (·.2.1) h

theorem State.joined_viewNum (s : State) (i : Nat) (v : ViewPl) : (s.joined i v).pol.viewNum = BitVec.ofNat 32 v.num := by
  obtain ⟨t, ht⟩ : ∃ t, t = s.modPol fun q => { q with instId := BitVec.ofNat 16 i, instValid := true, batchNext := 1 } := ⟨_, rfl⟩
  have same : (s.joined i v).pol.chart = (t.install v).pol.chart := by
    rw [State.joined, ← ht]
    exact (State.ackView_chart _).1
  exact Pol.viewNum_of_chart ((congrArg (·.1) same).trans (t.install_chart v))

/-- The answer to a `JOIN_REQ` makes this device a member (R309). -/
theorem hJoinAck_joins {r : PReq} {i : Nat} {v : ViewPl} (req : s.reqOf m.peer m.tag = some r) (kind : r.kind = .join) (ok : m.status = .ok)
    (pl : m.pl = .joinAck i v) :
    hJoinAck s m m.peer
      = if ((s.dropReq r.id).joined i v).mgt.bootStage = 8 then ((s.dropReq r.id).joined i v).blobStart else (s.dropReq r.id).joined i v := by
  have join : (s.reqOf m.peer m.tag).filter (fun r => r.kind == .join) = some r := by simp [req, kind]
  rw [hJoinAck, join]
  dsimp only
  rw [ok, pl]

/-- The registrar answers `LEAVE` and proposes the removal (R312). -/
theorem hLeave_proposes (registrar : s.isRegistrar = true) (majority : s.majority = true) (new : s.newTag m = true) :
    (hLeave s m m.peer).butSess ((s.reply m m.peer 7 .ok (.num s.pol.viewNum.toNat)).propose { noChange with del := [m.peer] }) := by
  rw [hLeave, if_neg (by simp [registrar, majority])]
  exact State.serveReq_butSess new _

/-! ### Views (R307, R308) -/

/-- A view that comes answers the request for one. -/
def State.viewCame (s : State) (m : RppMsg) : State :=
  s.modPol fun q => { q with reqs := q.reqs.filter fun r => !(r.kind == .viewPull && r.peer == m.peer && r.tag == m.tag && !r.queued) }

/-- The next view is installed and acknowledged (R307). -/
theorem hView_installs {v : ViewPl} (pl : m.pl = .view v) (valid : s.pol.instValid = true) (part : v.full = false)
    (next : v.num = s.pol.viewNum.toNat + 1) :
    (hView s m m.peer).pol.viewNum = BitVec.ofNat 32 v.num ∧ (hView s m m.peer).pol.members
      = (s.pol.members.filter fun x => !v.del.contains x.inst && !(v.add.any fun a => a.inst == x.inst)) ++ v.add := by
  obtain ⟨t, ht⟩ : ∃ t, t = (s.viewCame m).install v := ⟨_, rfl⟩
  have run : hView s m m.peer = t.reply m m.peer 7 .ok (.num t.pol.viewNum.toNat) := by
    rw [hView, pl]
    dsimp only
    rw [if_neg (by simp [valid]), if_neg (by simp [next]), if_pos (.inr next), ht, State.viewCame]
  have chart := State.install_chart (s.viewCame m) v
  rw [← ht, ← (State.reply_chart t m m.peer 7 .ok (.num t.pol.viewNum.toNat)).1, ← run] at chart
  refine ⟨Pol.viewNum_of_chart chart, (Pol.members_of_chart chart).trans ?_⟩
  rw [State.membersWith, part]
  rfl

/-- A view that is installed, or older, is acknowledged again (R308). -/
theorem hView_old {v : ViewPl} (pl : m.pl = .view v) (valid : s.pol.instValid = true) (open_ : s.sessOpen m.peer = true)
    (old : v.num ≤ s.pol.viewNum.toNat) :
    s.Asks (hView s m m.peer) ∧ (hView s m m.peer).told m.peer 7 m.tag .ok m.aid m.epoch (.num s.pol.viewNum.toNat) := by
  have run : hView s m m.peer = (s.viewCame m).reply m m.peer 7 .ok (.num s.pol.viewNum.toNat) := by
    rw [hView, pl]
    dsimp only
    exact (if_neg (by simp [valid])).trans (if_pos old)
  obtain ⟨traffic, told⟩ := State.reply_told (s := s.viewCame m) open_ m 7 .ok (.num s.pol.viewNum.toNat)
  rw [run]
  exact ⟨State.Asks.trans ⟨rfl⟩ traffic.asks, told⟩

/-- The acknowledgement of a view is counted. -/
def State.viewAcked (s : State) (m : RppMsg) (n : Nat) : State :=
  s.modPol fun q =>
    { q with
      reqs := q.reqs.filter fun r => !(r.kind == .leave && r.peer == m.peer && r.tag == m.tag && !r.queued)
      reclaim := (q.reclaim.map fun r => if r.2.1 ≤ n then (r.1, r.2.1, r.2.2.filter (· != m.peer)) else r).filter fun r => !r.2.2.isEmpty
      pendAcks := if q.pend.any (fun v => v.num ≤ n) && !q.pendAcks.contains m.peer then q.pendAcks ++ [m.peer] else q.pendAcks }

theorem hViewAck_eq {n : Nat} (pl : m.pl = .num n) : hViewAck s m m.peer = (s.viewAcked m n).tryIssue.issueView := by
  rw [hViewAck, pl]
  rfl

theorem State.viewAcked_pendAcks {n : Nat} {v : ViewPl} (pend : s.pol.pend = some v) (covers : v.num ≤ n) (new : m.peer ∉ s.pol.pendAcks) :
    (s.viewAcked m n).pol.pendAcks = s.pol.pendAcks ++ [m.peer] :=
  if_pos (by simp [pend, covers, new])

/-- Without a majority of the seeds the view waits on (R307). -/
theorem State.tryIssue_waits {v : ViewPl} (pend : s.pol.pend = some v)
    (few : 2 * (s.seedMembers.filter fun i => s.pol.pendAcks.contains i).length ≤ s.pol.seedCnt.toNat) : s.tryIssue.issueView = s := by
  have waits : s.tryIssue = s := by
    unfold State.tryIssue
    split
    · rfl
    · exact if_neg (by omega)
  rw [waits, State.issueView]
  exact if_pos (by simp [pend])

/-- With a majority of the seeds the view is installed, and other members get it (R307). -/
theorem State.tryIssue_installs {v : ViewPl} (pend : s.pol.pend = some v) (registrar : s.isRegistrar = true) (majority : s.majority = true)
    (most : s.pol.seedCnt.toNat < 2 * (s.seedMembers.filter fun i => s.pol.pendAcks.contains i).length) : (s.install v).Asks s.tryIssue := by
  have may : (s.pol.pend.filter fun _ => s.isRegistrar && s.majority) = some v := by simp [pend, registrar, majority]
  rw [State.tryIssue, may]
  dsimp only
  rw [if_pos most]
  exact State.asks_foldl _ (fun t i => t.asks_sendRpp ..) _

theorem State.Asks.nextView (h : s.Asks t) : t.pol.nextView = s.pol.nextView := (congrArg (fun t : State => t.pol.nextView) h.rest).symm

/-- With no change waiting nothing is issued after a view that leaves the members. -/
theorem State.tryIssue_settles {v : ViewPl} (pend : s.pol.pend = some v) (registrar : s.isRegistrar = true) (majority : s.majority = true)
    (most : s.pol.seedCnt.toNat < 2 * (s.seedMembers.filter fun i => s.pol.pendAcks.contains i).length) (none_next : s.pol.nextView = [])
    (part : v.full = false) (add : v.add = []) (del : v.del = []) : (s.install v).Asks s.tryIssue.issueView := by
  have asks := State.tryIssue_installs pend registrar majority most
  have next : s.tryIssue.pol.nextView = [] := asks.nextView.trans ((s.install_nextView part add del).trans none_next)
  rw [State.issueView, if_pos (by simp [next])]
  exact asks

theorem State.Asks.chart (h : s.Asks t) : t.pol.chart = s.pol.chart := (congrArg (fun t : State => t.pol.chart) h.rest).symm

theorem Pol.pend_of_chart {p : Pol} {n : BitVec 32} {l : List Member} {r : SMap RangeEnt} {w : Option ViewPl} (h : p.chart.1 = (n, l, r, w)) :
    p.ranges = r ∧ p.pend = w := ⟨congrArg (·.2.2.1) h, congrArg (·.2.2.2) h⟩

/-- The acknowledgement that makes a majority installs the view (R307). -/
theorem hViewAck_installs {n : Nat} {v : ViewPl} (pl : m.pl = .num n) (pend : s.pol.pend = some v) (covers : v.num ≤ n)
    (new : m.peer ∉ s.pol.pendAcks) (registrar : s.isRegistrar = true) (majority : s.majority = true)
    (most : s.pol.seedCnt.toNat < 2 * (s.seedMembers.filter fun i => (s.pol.pendAcks ++ [m.peer]).contains i).length)
    (none_next : s.pol.nextView = []) (part : v.full = false) (add : v.add = []) (del : v.del = []) :
    (hViewAck s m m.peer).pol.viewNum = BitVec.ofNat 32 v.num ∧ (hViewAck s m m.peer).pol.pend = none
      ∧ (hViewAck s m m.peer).pol.ranges = v.ranges.foldl (fun t r => SMap.set freeRange t r.1 r.2) s.pol.ranges := by
  have asks := State.tryIssue_settles (s := s.viewAcked m n) pend registrar majority
    (by rw [State.viewAcked_pendAcks pend covers new]; exact most) none_next part add del
  have chart := State.install_chart (s.viewAcked m n) v
  rw [← asks.chart, ← hViewAck_eq pl] at chart
  obtain ⟨ranges, settled⟩ := Pol.pend_of_chart chart
  have alone : (s.viewAcked m n).pol.pend = some v := pend
  refine ⟨Pol.viewNum_of_chart chart, settled.trans (by simp [alone]), ranges.trans ?_⟩
  rw [State.rangesWith, part]
  rfl

/-- An acknowledgement that does not make a majority is counted (R307). -/
theorem hViewAck_counts {n : Nat} {v : ViewPl} (pl : m.pl = .num n) (pend : s.pol.pend = some v) (covers : v.num ≤ n)
    (new : m.peer ∉ s.pol.pendAcks)
    (few : 2 * (s.seedMembers.filter fun i => (s.pol.pendAcks ++ [m.peer]).contains i).length ≤ s.pol.seedCnt.toNat) :
    (hViewAck s m m.peer).pol.pendAcks = s.pol.pendAcks ++ [m.peer] ∧ (hViewAck s m m.peer).pol.pend = some v := by
  have acks := State.viewAcked_pendAcks pend covers new
  rw [hViewAck_eq pl, State.tryIssue_waits (s := s.viewAcked m n) pend (by rw [acks]; exact few)]
  exact ⟨acks, pend⟩

/-! ### Signs of life (R311) -/

/-- Whether each session's peer is marked unreachable. -/
def Pol.marks (q : Pol) : List (Nat × Bool) := q.sess.map fun x => (x.inst, x.unreach)

theorem State.unreach_eq (s : State) (peer : Nat) : s.unreach peer = ((s.pol.marks.find? fun x => x.1 == peer).map (·.2)).getD false := by
  rw [State.unreach, Pol.session, Pol.marks, List.find?_map]
  cases h : s.pol.sess.find? fun x => x.inst == peer with
  | none => simp [h]
  | some x => simp [h]

/-- A state in which the same peers are marked, and as long silent. -/
def State.SameLife (s t : State) : Prop := t.pol.marks = s.pol.marks ∧ t.pol.quiet = s.pol.quiet

theorem State.SameLife.trans {u : State} (h : s.SameLife t) (g : t.SameLife u) : s.SameLife u := ⟨g.1.trans h.1, g.2.trans h.2⟩

theorem State.touchGroup_life (s : State) (peer ty : Nat) : s.SameLife (s.touchGroup peer ty) := by
  unfold State.touchGroup
  split
  · exact ⟨rfl, rfl⟩
  · exact ⟨rfl, rfl⟩

theorem State.putFrame_life (s : State) (port : Option Nat) (peer n : Nat) (m : RppMsg) : s.SameLife (s.putFrame port peer n m) := by
  have counted (s : State) (port : Option Nat) : s.SameLife (s.fabCount port true n) := by
    unfold State.fabCount
    split
    · exact ⟨rfl, rfl⟩
    · exact ⟨rfl, rfl⟩
  unfold State.putFrame
  split
  · exact ⟨rfl, rfl⟩
  · have sent : s.SameLife (s.modPol fun q => { q with sent := q.sent ++ [(peer, m)] }) := ⟨rfl, rfl⟩
    exact sent.trans (counted _ port)

theorem State.modSess_life (s : State) (peer : Nat) {f : RppSess → RppSess} (h : ∀ x, ((f x).inst, (f x).unreach) = (x.inst, x.unreach)) :
    s.SameLife (s.modPol fun q => q.modSess peer f) := ⟨map_updFirst h _ _, rfl⟩

theorem State.sendFrame_life (s : State) (peer : Nat) (m : RppMsg) : s.SameLife (s.sendFrame peer m) := by
  have go (s : State) : s.SameLife ((s.touchGroup peer m.type).putFrame (s.rppPort m) peer (32 + m.len) m) :=
    (s.touchGroup_life peer m.type).trans (State.putFrame_life ..)
  unfold State.sendFrame
  split
  · exact go s
  · split
    · refine (s.modSess_life peer fun x => ?_).trans (go _)
      unfold RppSess.take
      split
      · rfl
      · rfl
    · exact s.modSess_life peer fun _ => rfl

theorem State.creditsBack_life (s : State) (peer : Nat) : s.SameLife (s.creditsBack peer) := by
  unfold State.creditsBack
  split
  · exact ⟨rfl, rfl⟩
  · split
    · exact ⟨rfl, rfl⟩
    · refine State.SameLife.trans (t := s.fresh.2.fresh.2.modPol fun q => q.modSess peer fun y => { y with
        used := y.used - s.fresh.1 % (y.used + 1), used0 := y.used0 - s.fresh.2.fresh.1 % (y.used0 + 1), wait := [] })
        (State.modSess_life (s := s.fresh.2.fresh.2) peer fun _ => rfl) ?_
      exact List.foldlRecOn (motive := fun t : State => State.SameLife _ t) _ _ ⟨rfl, rfl⟩ fun t ht m _ => ht.trans (t.sendFrame_life peer m)

/-- A peer that is heard is reachable (R311). -/
theorem State.hearing_unreach (s : State) (m : RppMsg) : (s.hearing m).unreach m.peer = false := by
  obtain ⟨t, ht⟩ : ∃ t, t = s.fabCount (s.rppPort m) false (32 + m.len) := ⟨_, rfl⟩
  obtain ⟨u, hu⟩ : ∃ u, u = t.modPol fun q => q.modSess m.peer fun x => { x with unreach := false, idle := t.now } := ⟨_, rfl⟩
  have marked : u.unreach m.peer = false := by
    have session : u.pol.session m.peer = (t.pol.session m.peer).map fun x => { x with unreach := false, idle := t.now } := by
      rw [hu]
      exact updFirst_find? _ _ _ fun _ => rfl
    rw [State.unreach, session, Option.any_map]
    cases t.pol.session m.peer
    · rfl
    · rfl
  have heard : (t.heard m.peer m.type).pol.marks = u.pol.marks := by
    rw [hu]
    exact (State.touchGroup_life _ m.peer m.type).1
  have same : (s.hearing m).pol.marks = u.pol.marks := by
    rw [State.hearing, ← ht]
    exact (State.creditsBack_life _ m.peer).1.trans heard
  rw [State.unreach_eq, same, ← State.unreach_eq, marked]

/-- A peer that is heard has time again before it is taken for silent (R311). -/
theorem State.hearing_quiet (s : State) (m : RppMsg) : SMap.get (0, 0) (s.hearing m).pol.quiet m.peer
    = (s.now + msTicks s.pol.peerDead.toNat, s.now + msTicks s.pol.lease.toNat) := by
  obtain ⟨t, ht⟩ : ∃ t, t = s.fabCount (s.rppPort m) false (32 + m.len) := ⟨_, rfl⟩
  have counted : t.now = s.now ∧ t.pol = s.pol := by
    rw [ht]
    unfold State.fabCount
    split
    · exact ⟨rfl, rfl⟩
    · exact ⟨rfl, rfl⟩
  obtain ⟨now, pol⟩ := counted
  have quiet : (s.hearing m).pol.quiet
      = SMap.set (0, 0) s.pol.quiet m.peer (s.now + msTicks s.pol.peerDead.toNat, s.now + msTicks s.pol.lease.toNat) := by
    rw [State.hearing, ← ht, ← now, ← pol]
    exact (State.creditsBack_life _ m.peer).2.trans (State.touchGroup_life _ m.peer m.type).2
  rw [quiet, SMap.get_set_same]
  simp [msTicks]

/-! ### Requests that are asked again (R341) -/

theorem State.Traffic.nextReq (h : s.Traffic t) : t.pol.nextReq = s.pol.nextReq := (congrArg Pol.nextReq h.pol).symm

/-- Requests keep their numbers as one of them is sent, and no other is made. -/
theorem State.launch_ids (s : State) (id : Nat) : ∀ y ∈ (s.launch id).pol.reqs, ∃ x ∈ s.pol.reqs, x.id = y.id := by
  have same {t : State} (h : t.pol.reqs.map (·.id) = s.pol.reqs.map (·.id)) : ∀ y ∈ t.pol.reqs, ∃ x ∈ s.pol.reqs, x.id = y.id := fun y hy =>
    List.mem_map.mp (h ▸ List.mem_map_of_mem (f := (·.id)) hy)
  have kept {f : PReq → PReq} (h : ∀ y, (f y).id = y.id) : ∀ y ∈ updFirst s.pol.reqs (fun y => y.id == id) f, ∃ x ∈ s.pol.reqs, x.id = y.id :=
    fun y hy => List.mem_map.mp (map_updFirst (g := fun r : PReq => r.id) h .. ▸ List.mem_map_of_mem hy)
  unfold State.launch
  split
  · exact same rfl
  · split
    · split
      · exact same rfl
      · dsimp only
        rw [(State.traffic_sendFrames ..).reqs]
        dsimp only [State.modPol]
        split
        · exact fun y hy => ⟨y, List.mem_of_mem_filter hy, rfl⟩
        · exact kept fun _ => rfl
    · exact same rfl

/-- A request for a session gets the next number. -/
theorem State.opened_ids (s : State) (peer : Nat) :
    s.pol.nextReq ≤ (s.opened peer).pol.nextReq ∧ ∀ y ∈ (s.opened peer).pol.reqs, y ∈ s.pol.reqs ∨ y.id = s.pol.nextReq := by
  have same : s.pol.nextReq ≤ s.pol.nextReq ∧ ∀ y ∈ s.pol.reqs, y ∈ s.pol.reqs ∨ y.id = s.pol.nextReq := ⟨le_rfl, fun _ h => .inl h⟩
  unfold State.opened State.openSess
  dsimp only
  split
  · exact same
  · split
    · exact same
    · split
      · exact same
      · rw [(State.traffic_sendFrames ..).reqs, (State.traffic_sendFrames ..).nextReq]
        refine ⟨Nat.le_succ _, fun y hy => (List.mem_append.mp hy).imp_right fun hello => ?_⟩
        rw [List.mem_singleton.mp hello]

/-- A request more, and at most one for its session: the others keep their numbers. -/
theorem State.queueRpp_ids (s : State) (peer : Nat) (kind : ReqKind) (msg : RppMsg) :
    ∀ y ∈ (s.queueRpp peer kind msg).pol.reqs, y.id ∈ s.pol.reqs.map (·.id) ∨ s.pol.nextReq ≤ y.id := by
  obtain ⟨later, opened⟩ := s.opened_ids peer
  rw [State.queueRpp_eq]
  intro y hy
  obtain ⟨x, hx, id⟩ := State.launch_ids _ _ y hy
  rw [← id]
  rcases List.mem_append.mp hx with hx | hx
  · exact (opened x hx).imp List.mem_map_of_mem (·.ge)
  · rw [List.mem_singleton.mp hx]
    exact .inr later

/-- A request whose number no other has stands under it until it is answered, sent or waiting for its session. -/
theorem State.queueRpp_numbered {s : State} {peer : Nat} {kind : ReqKind} (counts : kind ≠ .oneWay)
    (fresh : ∀ x ∈ (s.opened peer).pol.reqs, x.id ≠ (s.opened peer).pol.nextReq) (msg : RppMsg) :
    ∃ y ∈ (s.queueRpp peer kind msg).pol.reqs, y.id = (s.opened peer).pol.nextReq ∧ y.peer = peer ∧ y.kind = kind := by
  obtain ⟨v, hv⟩ : ∃ v, v = s.opened peer := ⟨_, rfl⟩
  have found : (v.listReq peer kind msg).pol.reqs.find? (fun r => r.id == v.pol.nextReq) = some (v.asked peer kind msg) := by
    have others : v.pol.reqs.find? (fun r => r.id == v.pol.nextReq) = none :=
      List.find?_eq_none.mpr fun x hx => by simpa using (hv ▸ fresh) x hx
    refine (List.find?_append ..).trans ?_
    rw [others, Option.none_or]
    exact List.find?_cons_of_pos (beq_self_eq_true _)
  have listed : v.asked peer kind msg ∈ (v.listReq peer kind msg).pol.reqs := List.mem_append_right _ (List.mem_singleton.mpr rfl)
  have numbered : ((v.asked peer kind msg).kind == .oneWay) = false := beq_eq_false_iff_ne.mpr counts
  rw [State.queueRpp_eq, ← hv, State.launch, found]
  dsimp only
  split
  · split
    · exact ⟨_, listed, rfl, rfl, rfl⟩
    · rw [(State.traffic_sendFrames ..).reqs]
      simp only [numbered]
      exact ⟨_, mem_updFirst_of_find? _ found, rfl, rfl, rfl⟩
  · exact ⟨_, listed, rfl, rfl, rfl⟩

/-- The requests from a number on count their redirects. -/
def State.counted (s : State) (id n : Nat) : State :=
  s.modPol fun q => { q with reqs := q.reqs.map fun y => if id ≤ y.id ∧ y.kind ≠ .hello then { y with redirects := n } else y }

/-- A request is asked again of the owner that the view names (R341). -/
theorem hRedirect_reasks {r : PReq} {p sseq mi ship o : Nat} (req : s.reqOf m.peer m.tag = some r) (kind : r.kind = .gd p sseq mi ship)
    (again : r.redirects < 2) (vc : m.vc = r.msg.vc) (owner : s.ownerOfAid r.msg.aid = some o) (other : o ≠ s.me) :
    hRedirect s m m.peer
      = ((s.dropReq r.id).request o r.kind r.msg.type r.msg.aid r.msg.epoch r.msg.pl).counted s.pol.nextReq (r.redirects + 1) := by
  have parts : s.reaskParts r = [(some o, r.kind, r.msg.pl)] := by simp [State.reaskParts, kind, owner, other]
  have reask : hRedirect s m m.peer = s.reask r := by
    rw [hRedirect, req]
    dsimp only
    rw [if_neg (by simp [vc]), kind]
  rw [reask, State.reask, if_neg (by omega), parts]
  rfl

theorem State.afterMsg_of_heldDue {ty : Nat} (pair : rppHw ty = false) (same : t.heldDue = s.heldDue) : t.afterMsg ty = s.afterMsg ty := by
  have run : State.runWork 8 t = State.runWork 8 s := by rw [State.runWork, State.runWork, same]
  rw [State.afterMsg, State.afterMsg, if_neg (by simp [pair]), if_neg (by simp [pair]), run]

/-- A request that is asked again stands in a state that goes on as the one in which it is asked. Where another request holds the number that it
would get, as a statement about every state has to allow, that is a state in which a stray commit takes it away. -/
theorem State.reasked_stands {peer id n ty : Nat} {kind : ReqKind} (counts : kind ≠ .oneWay ∧ kind ≠ .hello) (gone : ∀ y ∈ s.pol.reqs, y.id ≠ id)
    (old : id < s.pol.nextReq) (pair : rppHw ty = false) (msg : RppMsg) :
    ∃ u : State, u.afterMsg ty = ((s.queueRpp peer kind msg).counted s.pol.nextReq n).afterMsg ty ∧ (∀ y ∈ u.pol.reqs, y.id ≠ id)
      ∧ ∃ y ∈ u.pol.reqs, y.peer = peer ∧ y.kind = kind ∧ y.redirects = n := by
  obtain ⟨oneWay, hello⟩ := counts
  obtain ⟨t, ht⟩ : ∃ t, t = (s.queueRpp peer kind msg).counted s.pol.nextReq n := ⟨_, rfl⟩
  have others : ∀ y ∈ t.pol.reqs, y.id ≠ id := by
    rw [ht]
    intro y hy
    obtain ⟨x, hx, same⟩ : ∃ x ∈ (s.queueRpp peer kind msg).pol.reqs, x.id = y.id := by
      obtain ⟨x, hx, rfl⟩ := List.mem_map.mp hy
      refine ⟨x, hx, ?_⟩
      split
      · rfl
      · rfl
    rw [← same]
    rcases s.queueRpp_ids peer kind msg x hx with kept | new
    · obtain ⟨z, hz, eq⟩ := List.mem_map.mp kept
      exact eq ▸ gone z hz
    · omega
  rw [← ht]
  by_cases fresh : ∀ x ∈ (s.opened peer).pol.reqs, x.id ≠ (s.opened peer).pol.nextReq
  · obtain ⟨y, stands, number, asked⟩ := State.queueRpp_numbered oneWay fresh msg
    obtain ⟨later, -⟩ := s.opened_ids peer
    refine ⟨t, rfl, others, { y with redirects := n }, ?_, asked.1, asked.2, rfl⟩
    rw [ht]
    exact List.mem_map.mpr ⟨y, stands, if_pos ⟨by omega, asked.2 ▸ hello⟩⟩
  · obtain ⟨y, hy⟩ : ∃ y, y = { strayWrite (t.unused + id) 0 with peer := peer, kind := kind, redirects := n } := ⟨_, rfl⟩
    have number : y.id = t.unused + id := by rw [hy]; rfl
    have new : ∀ x ∈ t.pol.reqs, x.id ≠ y.id := fun x hx => by
      have le := List.single_le_sum (fun _ _ => Nat.zero_le _) _ (List.mem_map_of_mem (f := fun r : PReq => r.id) hx)
      rw [number, State.unused]
      omega
    obtain ⟨part, due⟩ := State.astray_heldDue new
    refine ⟨t.astray part y, State.afterMsg_of_heldDue pair due, ?_, y, List.mem_cons_of_mem _ (List.mem_cons_self ..), by rw [hy], by rw [hy], by rw [hy]⟩
    intro x hx
    have above : y.id ≠ id := by
      rw [number, State.unused]
      omega
    rcases List.mem_cons.mp hx with rfl | hx
    · exact above
    · rcases List.mem_cons.mp hx with rfl | hx
      · exact above
      · exact others x hx

/-- An answer on another channel than its request is discarded and counted (R339). -/
theorem hRedirect_wrongVc {r : PReq} (req : s.reqOf m.peer m.tag = some r) (vc : m.vc ≠ r.msg.vc) :
    hRedirect s m m.peer = { s with pol := { s.pol with rppBad := satAdd s.pol.rppBad 1 } } := by
  rw [hRedirect, req]
  dsimp only
  rw [if_pos vc]
  rfl

/-- A member that asks for the view gets it whole (R307). -/
theorem hViewPull_answers (asked : s.isRegistrar = true ∨ s.registrar = some m.peer) (open_ : s.sessOpen m.peer = true) :
    (hViewPull s m m.peer).told m.peer 6 m.tag .ok m.aid m.epoch (.view s.fullView) := by
  rw [hViewPull, if_pos asked]
  exact (State.reply_told open_ m 6 .ok (.view s.fullView)).2

/-! ### The obligation -/

theorem State.Traffic.fullView (h : s.Traffic t) : t.fullView = s.fullView := by
  rw [← h.rest]
  rfl

theorem State.Traffic.instsTaken (h : s.Traffic t) : t.instsTaken = s.instsTaken := by
  rw [← h.rest]
  rfl

theorem State.Traffic.ownerOfAid (h : s.Traffic t) (aid : Nat) : t.ownerOfAid aid = s.ownerOfAid aid := by
  rw [← h.rest]
  rfl

theorem State.Traffic.me (h : s.Traffic t) : t.me = s.me := by
  rw [← h.rest]
  rfl

theorem State.Traffic.seedMembers (h : s.Traffic t) : t.seedMembers = s.seedMembers := by
  rw [← h.rest]
  rfl

end

/-- Settles O42: each message reaches its handler in the state in which it is heard, which differs from the old one by traffic only. -/
theorem membersJoinAndViewsSpread : Obligations.MembersJoinAndViewsSpread := by
  intro s m v
  have traffic : s.Traffic v := s.traffic_hearing m
  have heard {ty : Nat} (h : s.hears m ty = true) : s.Hearing m ty := (s.hears_iff m ty).mp h
  have acted {ty : Nat} {u : State} (h : s.hears m ty = true) (run : rppHandler ty v m m.peer = u) :
      (Host.Outcome.next (s.rpp m ty) : Host.Outcome State Fault Refusal) = .next (u.afterMsg ty) := by
    rw [(heard h).acted, run]
  have open_ {ty : Nat} (h : s.hears m ty = true) (needs : ty ≠ 1 ∧ ty ≠ 2 ∧ ty ≠ 3 ∧ ty ≠ 4 ∧ ty ≠ 0x0A) : v.sessOpen m.peer = true :=
    (heard h).sessOpen needs
  have alive : v.unreach m.peer = false := s.hearing_unreach m
  have quiet := s.hearing_quiet m
  change SMap.get (0, 0) v.pol.quiet m.peer = _ at quiet
  clear_value v
  have pol := traffic.pol
  have req {r : PReq} (h : s.reqOf m.peer m.tag = some r) : v.reqOf m.peer m.tag = some r := (traffic.reqOf ..).trans h
  have new (h : s.newTag m = true) : v.newTag m = true := (traffic.newTag m).trans h
  have valid (h : s.pol.instValid = true) : v.pol.instValid = true := (congrArg Pol.instValid pol).symm.trans h
  have right {st : Status} (h : s.helloStatus m = st) : v.helloStatus m = st := (traffic.helloStatus m).trans h
  have view : v.pol.viewNum = s.pol.viewNum := (congrArg Pol.viewNum pol).symm
  have pend : v.pol.pend = s.pol.pend := (congrArg Pol.pend pol).symm
  have acks : v.pol.pendAcks = s.pol.pendAcks := (congrArg Pol.pendAcks pol).symm
  refine ⟨?hello, ?refused, ?helloAck, ?join, ?joinAck, ?leave, ?view, ?viewAck, ?viewPull, ?phb, ?redirect, ?wrongVc⟩
  case hello =>
    intro h ok room
    obtain ⟨⟨x, session, opening⟩, told⟩ := hHello_opens (right ok) (traffic.sess_length.trans_lt room)
    exact ⟨_, x, acted h rfl, session, opening, traffic.helloPl ▸ told⟩
  case refused =>
    intro h wrong
    have told := hHello_refuses (s := v) (m := m) (by rwa [traffic.helloStatus])
    rw [traffic.helloStatus, traffic.helloPl] at told
    exact ⟨_, acted h rfl, told⟩
  case helloAck =>
    intro r h answers kind ok good joined
    exact ⟨_, acted h rfl, hHelloAck_opens (req answers) kind ok (right good) joined⟩
  case join =>
    intro major minor bm pool dev addr group serves att h pl member
    refine ⟨fun r x other registrar listed => ?_, fun i registrar majority fresh major' one pool' attested sound free => ?_⟩
    · have listed' : v.member r = some x := by rw [State.member, traffic.members]; exact listed
      exact ⟨_, acted h rfl, hJoinReq_named pl (valid member) other registrar listed'⟩
    · subst one attested
      have sec : v.sec = s.sec := (congrArg State.sec traffic.rest).symm
      have poolId : v.pol.poolId = s.pol.poolId := (congrArg Pol.poolId pol).symm
      rw [pool', ← poolId] at pl
      have proposed := hJoinReq_proposes pl (valid member) registrar majority (new fresh) major' (sec ▸ sound) (traffic.instsTaken.symm ▸ free)
      rw [traffic.members, traffic.me] at proposed
      exact ⟨_, acted h rfl, proposed⟩
  case joinAck =>
    intro r i vw h answers kind ok pl
    obtain ⟨inst, joined⟩ := Prod.mk.inj (State.joined_inst (v.dropReq r.id) i vw)
    exact ⟨_, acted h (hJoinAck_joins (req answers) kind ok pl), inst, joined, State.joined_viewNum ..⟩
  case leave =>
    intro h registrar majority fresh
    rw [← view]
    exact ⟨_, acted h rfl, hLeave_proposes registrar majority (new fresh)⟩
  case view =>
    refine fun vw h pl member => ⟨fun part next => ?_, fun old => ?_⟩
    · have installed := hView_installs pl (valid member) part (view.symm ▸ next)
      rw [traffic.members] at installed
      exact ⟨_, acted h rfl, installed⟩
    · obtain ⟨asks, told⟩ := hView_old pl (valid member) (open_ h (by decide)) (view.symm ▸ old)
      have same := congrArg State.pol asks.rest
      rw [view] at told
      exact ⟨_, acted h rfl, (congrArg Pol.viewNum same).symm.trans view, (congrArg Pol.members same).symm.trans traffic.members, told⟩
  case viewAck =>
    intro n pv h pl waits covers counted
    have waits' := pend.trans waits
    have counted' := acks.symm ▸ counted
    refine ⟨fun few => ?_, fun most registrar majority none_next part add del => ?_⟩
    · have counts := hViewAck_counts pl waits' covers counted' (by rw [traffic.seedMembers, traffic.seedCnt, acks]; exact few)
      rw [acks] at counts
      exact ⟨_, acted h rfl, counts⟩
    · have installed := hViewAck_installs pl waits' covers counted' registrar majority
        (by rw [traffic.seedMembers, traffic.seedCnt, acks]; exact most) ((congrArg Pol.nextView pol).symm.trans none_next) part add del
      rw [traffic.ranges] at installed
      exact ⟨_, acted h rfl, installed⟩
  case viewPull =>
    intro h asked
    rw [← traffic.fullView]
    exact ⟨_, acted h rfl, hViewPull_answers asked (open_ h (by decide))⟩
  case phb =>
    exact fun h => ⟨acted h rfl, alive, quiet⟩
  case redirect =>
    intro r p sseq mi ship o h answers kind again vc owner other old
    have next : v.pol.nextReq = s.pol.nextReq := (congrArg Pol.nextReq pol).symm
    have run := acted h (hRedirect_reasks (req answers) kind again vc ((traffic.ownerOfAid _).trans owner) (traffic.me.symm ▸ other))
    obtain ⟨u, same, gone, stands⟩ := State.reasked_stands (s := v.dropReq r.id) (peer := o) (kind := r.kind) (n := r.redirects + 1)
      (by simp [kind]) (v.dropReq_gone r.id) (next.symm ▸ old) (ty := 0x0A) rfl ((v.dropReq r.id).rppMsg o r.msg.type 0 .ok r.msg.aid r.msg.epoch r.msg.pl)
    exact ⟨u, run.trans (congrArg _ same.symm), gone, stands⟩
  case wrongVc =>
    intro r h answers vc
    exact acted h (hRedirect_wrongVc (req answers) vc)

end Sys2Proof.Machine
end

section
/-! PROOF. What the pool pair does leaves the outline of the directory, the versions that saved steps hold and the pool's bookkeeping: one lemma for
each function that changes none of them, in the order of the model's files. -/

namespace Sys2Proof.Machine

open Sys2Proof

/-- Which adapter an entry is about, whether it is owned, and the epochs of its slots. -/
@[simp] abbrev Entry.outline (e : Entry) : Nat × Bool × List Nat := (e.aid, e.owned, e.vtab.map (·.epoch))

def outlines (l : List Entry) : List (Nat × Bool × List Nat) := l.map Entry.outline

/-- Whether a partition has a step issued, and the versions that its saved step holds. -/
@[simp] abbrev Prt.holding (q : Prt) : Bool × Option (List (Nat × Nat)) := (q.ctx.isSome, q.svCtx.map (·.used))

def holdings (l : List Prt) : List (Bool × Option (List (Nat × Nat))) := l.map Prt.holding

/-- The view that is being agreed on, the acknowledgements, the notice records and the batches; who this member and the others are. -/
def Pol.book (q : Pol) : Option ViewPl × SMap Nat × (List (Nat × NoteRec) × BitVec 32) × List RxBatch × BitVec 16 × List Member :=
  (q.pend, q.acks, (q.notes, q.noteCap), q.rx, q.instId, q.members)

@[simp] theorem Pol.book_eta (q : Pol) : (q.pend, q.acks, (q.notes, q.noteCap), q.rx, q.instId, q.members) = q.book := rfl

@[simp] theorem Pol.book_mk (
      poolId group servePart seedCnt seeds instId instValid viewNum serveCap noteCap phbPeriod peerDead lease tReq tGap retry hyst amort
      calPeriod probePeriod visitWin pubMinor gdHold rppBad snapLast members ranges wards pend pendAcks pendAt nextView reclaim quarantine
      quiet sess reqs sent notes noteStamp hystTab cal snaps batchNext acks rx moves exports serveQ heldMsgs nextReq grants joins joinDue
      addr fetchQ groupAt work) :
    (Pol.mk
      poolId group servePart seedCnt seeds instId instValid viewNum serveCap noteCap phbPeriod peerDead lease tReq tGap retry hyst amort
      calPeriod probePeriod visitWin pubMinor gdHold rppBad snapLast members ranges wards pend pendAcks pendAt nextView reclaim quarantine
      quiet sess reqs sent notes noteStamp hystTab cal snaps batchNext acks rx moves exports serveQ heldMsgs nextReq grants joins joinDue
      addr fetchQ groupAt work).book
      = (pend, acks, (notes, noteCap), rx, instId, members) := rfl

@[simp] theorem Pol.ite_book {c : Prop} [Decidable c] (q r : Pol) : (if c then q else r).book = if c then q.book else r.book := apply_ite ..

@[simp] theorem Pol.modSess_book (q : Pol) (inst : Nat) (f : RppSess → RppSess) : (q.modSess inst f).book = q.book := rfl

@[simp] theorem State.ite_book {c : Prop} [Decidable c] (a b : State) :
    (if c then a else b).pol.book = if c then a.pol.book else b.pol.book := apply_ite (fun s : State => s.pol.book) c a b

@[simp] theorem State.ite_dir {c : Prop} [Decidable c] (a b : State) :
    (if c then a else b).cab.dir = if c then a.cab.dir else b.cab.dir := apply_ite (fun s : State => s.cab.dir) c a b

@[simp] theorem outlines_ite {c : Prop} [Decidable c] (l k : List Entry) : outlines (if c then l else k) = if c then outlines l else outlines k :=
  apply_ite ..

@[simp] theorem holdings_ite {c : Prop} [Decidable c] (l k : List Prt) : holdings (if c then l else k) = if c then holdings l else holdings k :=
  apply_ite ..

@[simp] theorem outlines_updFirst {f : Entry → Entry} (l : List Entry) (t : Entry → Bool) (h : ∀ e, (f e).outline = e.outline) :
    outlines (updFirst l t f) = outlines l := map_updFirst h l t

@[simp] theorem outlines_map {f : Entry → Entry} (l : List Entry) (h : ∀ e, (f e).outline = e.outline) : outlines (l.map f) = outlines l := by
  rw [outlines, List.map_map]
  exact List.map_congr_left fun e _ => h e

@[simp] theorem holdings_modNth {f : Prt → Prt} (l : List Prt) (p : Nat) (h : ∀ q, (f q).holding = q.holding) :
    holdings (modNth l p f) = holdings l := map_modNth l p h

@[simp] theorem holdings_map {f : Prt → Prt} (l : List Prt) (h : ∀ q, (f q).holding = q.holding) : holdings (l.map f) = holdings l := by
  rw [holdings, List.map_map]
  exact List.map_congr_left fun q _ => h q

/-- A state in which none of this differs. -/
abbrev State.Alike (s t : State) : Prop :=
  outlines t.cab.dir = outlines s.cab.dir ∧ holdings t.prt = holdings s.prt ∧ t.pol.book = s.pol.book

@[simp] theorem State.alike_iff (s t : State) :
    s.Alike t ↔ outlines t.cab.dir = outlines s.cab.dir ∧ holdings t.prt = holdings s.prt ∧ t.pol.book = s.pol.book := Iff.rfl

theorem State.Alike.refl (s : State) : s.Alike s := ⟨rfl, rfl, rfl⟩

theorem State.Alike.trans {s t u : State} (h : s.Alike t) (g : t.Alike u) : s.Alike u :=
  ⟨g.1.trans h.1, g.2.1.trans h.2.1, g.2.2.trans h.2.2⟩

/-- A slot that is changed keeps its epoch. -/
theorem Entry.modSlot_outline {f : VSlot → VSlot} (h : ∀ v, (f v).epoch = v.epoch) (e : Entry) (ep : Nat) : (e.modSlot ep f).outline = e.outline :=
  congrArg (fun l => (e.aid, e.owned, l)) (map_updFirst h e.vtab _)

@[simp] theorem State.modEntry_alike (s : State) (aid : Nat) {f : Entry → Entry} (h : ∀ e, (f e).outline = e.outline) :
    s.Alike (s.modEntry aid f) := ⟨outlines_updFirst _ _ h, rfl, rfl⟩

@[simp] theorem State.modSlot_alike (s : State) (aid ep : Nat) {f : VSlot → VSlot} (h : ∀ v, (f v).epoch = v.epoch) :
    s.Alike (s.modSlot aid ep f) := s.modEntry_alike aid fun e => e.modSlot_outline h ep

@[simp] theorem Ctx.ite_used {c : Prop} [Decidable c] (a b : Ctx) : (if c then a else b).used = if c then a.used else b.used := apply_ite ..

@[simp] theorem Ctx.map_used (o : Option Ctx) {f : Ctx → Ctx} (h : ∀ c, (f c).used = c.used) :
    (o.map f).map (·.used) = o.map (·.used) := by
  cases o <;> simp [h]

@[simp] theorem State.modP_alike (s : State) (p : Nat) {f : Prt → Prt} (h : ∀ q, (f q).holding = q.holding) : s.Alike (s.modP p f) :=
  ⟨rfl, holdings_modNth _ p h, rfl⟩

@[simp] theorem Cab.release_dir (c : Cab) (o : CabObj) : (c.release o).dir = c.dir := rfl

/-- The state of a result that is known by its parts. -/
theorem State.alike_of_pair {α : Type} {r : α × State} {a : α} {s t : State} (h : r = (a, t)) (hr : s.Alike r.2) : s.Alike t := by
  rwa [h] at hr

/-! ### Shapes of definitions -/

@[simp] theorem State.foldl_alike {α : Type} (l : List α) (f : State → α → State) (s : State)
    (h : ∀ (s : State) a, s.Alike (f s a)) : s.Alike (l.foldl f s) := by
  induction l generalizing s with
  | nil => exact .refl _
  | cons a l ih => exact (h _ a).trans (ih _)

@[simp] theorem State.foldl_snd_alike {α β : Type} (l : List α) (f : β × State → α → β × State) (x : β × State)
    (h : ∀ (x : β × State) a, x.2.Alike (f x a).2) : x.2.Alike (l.foldl f x).2 := by
  induction l generalizing x with
  | nil => exact .refl _
  | cons a l ih => exact (h _ a).trans (ih _)

@[simp] theorem State.requestWakes_alike (s : State) (doms : List Nat) : s.Alike (s.requestWakes doms) := by
  simp [State.requestWakes]

@[simp] theorem State.wakeHbm_alike (s : State) (ks : List Nat) : s.Alike (s.wakeHbm ks) := by simp [State.wakeHbm]

@[simp] theorem State.hbmRead_alike (s : State) : s.Alike s.hbmRead := by simp [State.hbmRead]

@[simp] theorem State.hbmWork_alike (s : State) : s.Alike s.hbmWork := by
  simp [State.hbmWork]

@[simp] theorem State.land_alike (s : State) (space addr : Nat) (bytes : List Byte) :
    s.Alike (s.land space addr bytes) := by
  simp [State.land]

@[simp] theorem State.fabCount_alike (s : State) (port : Option Nat) (sent : Bool) (n : Nat) :
    s.Alike (s.fabCount port sent n) := by
  unfold State.fabCount
  split <;> simp

@[simp] theorem State.putXfer_alike (s : State) (x : Xfer) : s.Alike (s.putXfer x) := by simp [State.putXfer]

@[simp] theorem State.sendXfer_alike (s : State) (space addr len : Nat) (write : Option (List Byte)) (use : XferFor) :
    s.Alike (s.sendXfer space addr len write use) := by
  unfold State.sendXfer
  dsimp only
  repeat' split
  all_goals simp

@[simp] theorem State.putFrame_alike (s : State) (port : Option Nat) (peer n : Nat) (m : RppMsg) :
    s.Alike (s.putFrame port peer n m) := by
  unfold State.putFrame
  split <;> simp

/-! ### Machine/Rcl -/

@[simp] theorem State.respondAt_alike (s : State) (took vc : Nat) (tag : Word) (session : Nat) (st : Status) (hint q : Nat) (data : List Byte) :
    s.Alike (s.respondAt took vc tag session st hint q data) := by
  simp [State.respondAt]

@[simp] theorem State.notice_alike (s : State) (opc : Nat) (data : List Byte) : s.Alike (s.notice opc data) := by
  unfold State.notice
  split <;> simp

@[simp] theorem State.lagNotice_alike (s : State) (svc due : Nat) : s.Alike (s.lagNotice svc due) := by
  simp [State.lagNotice]

@[simp] theorem State.endLong_alike (s : State) (id : Nat) (st : Status) (data : List Byte) :
    s.Alike (s.endLong id st data) := by
  unfold State.endLong
  repeat' split
  all_goals simp

/-! ### Machine/Cabinet -/

@[simp] theorem State.charge_alike (s : State) (p len : Nat) (o : CabObj) : s.Alike (s.charge p len o).2 := by
  unfold State.charge
  repeat' split
  all_goals simp

/-! ### Machine/PoolBase -/

@[simp] theorem State.touchGroup_alike (s : State) (peer ty : Nat) : s.Alike (s.touchGroup peer ty) := by
  unfold State.touchGroup
  split <;> simp

@[simp] theorem State.sendFrame_alike (s : State) (peer : Nat) (m : RppMsg) : s.Alike (s.sendFrame peer m) := by
  unfold State.sendFrame
  split <;> simp

@[simp] theorem State.sendFrames_alike (s : State) (peer : Nat) (l : List RppMsg) : s.Alike (s.sendFrames peer l) := by
  simp [State.sendFrames]

@[simp] theorem State.openSess_alike (s : State) (peer : Nat) : s.Alike (s.openSess peer) := by
  unfold State.openSess
  dsimp only
  repeat' split
  all_goals simp

@[simp] theorem State.launch_alike (s : State) (id : Nat) : s.Alike (s.launch id) := by
  unfold State.launch
  repeat' split
  all_goals simp

@[simp] theorem State.queueRpp_alike (s : State) (peer : Nat) (kind : ReqKind) (msg : RppMsg) :
    s.Alike (s.queueRpp peer kind msg) := by
  simp [State.queueRpp]

@[simp] theorem State.request_alike (s : State) (peer : Nat) (kind : ReqKind) (ty aid ep : Nat) (pl : RppPl) :
    s.Alike (s.request peer kind ty aid ep pl) := by
  simp [State.request]

@[simp] theorem State.pushRpp_alike (s : State) (peer : Nat) (m : RppMsg) : s.Alike (s.pushRpp peer m) := by
  simp [State.pushRpp]

@[simp] theorem State.sendRpp_alike (s : State) (peer ty tag : Nat) (st : Status) (aid ep : Nat) (pl : RppPl) :
    s.Alike (s.sendRpp peer ty tag st aid ep pl) := by
  simp [State.sendRpp]

@[simp] theorem State.flushQueued_alike (s : State) : s.Alike s.flushQueued := by simp [State.flushQueued]

@[simp] theorem State.reply_alike (s : State) (m : RppMsg) (peer ty : Nat) (st : Status) (pl : RppPl) :
    s.Alike (s.reply m peer ty st pl) := by
  simp [State.reply]

@[simp] theorem State.dropReq_alike (s : State) (id : Nat) : s.Alike (s.dropReq id) := by simp [State.dropReq]

@[simp] theorem State.modReq_alike (s : State) (id : Nat) (f : PReq → PReq) : s.Alike (s.modReq id f) := by
  simp [State.modReq]

@[simp] theorem State.pullView_alike (s : State) (peer : Nat) : s.Alike (s.pullView peer) := by simp [State.pullView]

theorem State.serveReq_alike (s : State) (m : RppMsg) (peer : Nat) (body : State → State)
    (h : ∀ t : State, t.Alike (body t)) : s.Alike (s.serveReq m peer body) := by
  unfold State.serveReq
  dsimp only
  repeat' split
  all_goals simp [h]

@[simp] theorem State.finishReq_alike (s : State) (peer tag : Nat) (ty : Nat) (st : Status) (aid ep : Nat) (pl : RppPl) :
    s.Alike (s.finishReq peer tag ty st aid ep pl) := by
  unfold State.finishReq
  split <;> simp

@[simp] theorem State.redirect_alike (s : State) (m : RppMsg) (peer : Nat) : s.Alike (s.redirect m peer) := by
  simp [State.redirect]

/-! ### Machine/RasLog -/

@[simp] theorem State.rasLog_alike (s : State) (kind index sev etype part addr : Nat) :
    s.Alike (s.rasLog kind index sev etype part addr) := by
  simp [State.rasLog]

@[simp] theorem State.faultSend_alike (s : State) (h : HeldFault) : s.Alike (s.faultSend h) := by
  simp [State.faultSend]

@[simp] theorem State.faultNote_alike (s : State) (kind index sev mask : Nat) :
    s.Alike (s.faultNote kind index sev mask) := by
  simp [State.faultNote]

@[simp] theorem State.rasError_alike (s : State) (kind index sev etype part addr mask : Nat) :
    s.Alike (s.rasError kind index sev etype part addr mask) := by
  simp [State.rasError]

@[simp] theorem State.logSkip_alike (s : State) : s.Alike s.logSkip := by simp [State.logSkip]

@[simp] theorem State.logSlow_alike (s : State) : s.Alike s.logSlow := by simp [State.logSlow]

/-! ### Machine/Versions -/

@[simp] theorem State.sendRetired_alike (s : State) (l : List (Nat × Nat)) : s.Alike (s.sendRetired l) := by
  simp [State.sendRetired]

@[simp] theorem State.takeRef_alike (s : State) (aid ep : Nat) : s.Alike (s.takeRef aid ep) := by simp [State.takeRef]

@[simp] theorem State.freeRef_alike (s : State) (aid ep : Nat) : s.Alike (s.freeRef aid ep) := by simp [State.freeRef]

@[simp] theorem State.hostXfer_alike (s : State) (addr len : Nat) (write : Option (List Byte)) (use : XferFor) :
    s.Alike (s.hostXfer addr len write use) := by
  simp [State.hostXfer]

@[simp] theorem State.demoted_alike (s : State) (aid ep : Nat) : s.Alike (s.demoted aid ep) := by
  unfold State.demoted
  repeat' split
  all_goals simp

@[simp] theorem State.demoteOne_alike (s : State) (p : Nat) (e : Entry) (v : VSlot) : s.Alike (s.demoteOne p e v) := by
  unfold State.demoteOne
  repeat' split
  all_goals simp

@[simp] theorem State.demote_alike (p n : Nat) (s : State) : s.Alike (State.demote p n s) := by
  induction n generalizing s with
  | zero => exact .refl _
  | succ n ih =>
    unfold State.demote
    split
    · split
      · exact .refl _
      · exact (State.demoteOne_alike ..).trans (ih _)
    · exact .refl _

@[simp] theorem State.promote_alike (s : State) (aid ep : Nat) : s.Alike (s.promote aid ep).2 := by
  unfold State.promote
  split
  · exact .refl _
  · split
    · exact .refl _
    · split
      · exact .refl _
      · split
        · next h => exact State.alike_of_pair h (State.charge_alike ..)
        · next h => simp [State.alike_of_pair h (State.charge_alike ..)]

@[simp] theorem State.promoted_alike (s : State) (aid ep : Nat) (bytes : Option (List Byte)) :
    s.Alike (s.promoted aid ep bytes) := by
  unfold State.promoted
  dsimp only
  repeat' split
  all_goals simp

/-! ### Machine/Adapters -/

@[simp] theorem State.fetchFor_alike (s : State) (l : List (Nat × Nat)) : s.Alike (s.fetchFor l).2 := by
  simp [State.fetchFor]

@[simp] theorem State.pinAt_alike (s : State) (aid ep : Nat) : s.Alike (s.pinAt aid ep) := by simp [State.pinAt]

/-! ### Machine/Deliver -/

@[simp] theorem State.pushResp_alike (s : State) (port : Nat) (r : Resp) : s.Alike (s.pushResp port r) := by
  simp [State.pushResp]

/-! ### Machine/Contrib -/

@[simp] theorem State.gdRequest_alike (s : State) (aid base : Nat) (key : SortKey) (src : Nat) :
    s.Alike (s.gdRequest aid base key src).2 := by
  unfold State.gdRequest
  split
  · exact .refl _
  · split
    · exact .refl _
    · split
      · exact .refl _
      · split
        · exact .refl _
        · split
          · exact .refl _
          · split
            all_goals next h => simp [State.alike_of_pair h (State.charge_alike ..)]

@[simp] theorem State.gdWrite_alike (s : State) (aid slot : Nat) (key : SortKey) (mats : List (List Nat)) :
    s.Alike (s.gdWrite aid slot key mats).2 := by
  unfold State.gdWrite
  repeat' split
  all_goals simp

/-! ### Machine/Serial -/

@[simp] theorem State.dropGrad_alike (s : State) (p aid base : Nat) : s.Alike (s.dropGrad p aid base) := by
  simp [State.dropGrad]

@[simp] theorem State.shipDone_alike (s : State) (p sseq aid base : Nat) (st : Status) :
    s.Alike (s.shipDone p sseq aid base st) := by
  unfold State.shipDone
  extract_lets is upd pd s1 s2
  have e1 : s.Alike s1 := s.modP_alike p fun q =>
    Prod.ext (by simp) (Ctx.map_used q.svCtx fun c => by simp [upd])
  have e2 : s.Alike s2 := e1
  split
  · exact e2.trans (s2.dropGrad_alike p aid base)
  · exact e2

/-! ### Machine/Fills -/

@[simp] theorem State.settleSaved_alike (s : State) (p drw : Nat) (st : Status) : s.Alike (s.settleSaved p drw st) := by
  unfold State.settleSaved
  split
  · exact .refl _
  · refine State.Alike.trans (State.foldl_alike _ _ _ fun t v => t.pushResp_alike _ _) (State.modP_alike _ p fun q => ?_)
    exact Prod.ext rfl (Ctx.map_used q.svCtx fun _ => rfl)

@[simp] theorem State.sendBlob_alike (s : State) (peer tag seg aid ep : Nat) (last : Bool) :
    s.Alike (s.sendBlob peer tag seg aid ep last).2 := by
  unfold State.sendBlob
  split <;> simp

@[simp] theorem State.serveFill_alike (id : Nat × Nat) (n : Nat) (s : State) :
    s.Alike (State.serveFill id n s) := by
  induction n generalizing s with
  | zero => exact .refl _
  | succ n ih =>
    unfold State.serveFill
    split
    · exact .refl _
    · split
      · exact .refl _
      · dsimp only
        repeat' split
        all_goals simp [ih]

/-! ### Machine/BootBlob -/

@[simp] theorem State.blobTo_alike (s : State) (l : List Nat) : s.Alike (s.blobTo l) := by
  unfold State.blobTo
  split <;> simp

@[simp] theorem State.blobStart_alike (s : State) : s.Alike s.blobStart := by simp [State.blobStart]

@[simp] theorem State.blobAdvance_alike (s : State) : s.Alike s.blobAdvance := by simp [State.blobAdvance]

/-! ### Machine/View -/

@[simp] theorem State.joinNext_alike (s : State) (after : Option Nat) : s.Alike (s.joinNext after) := by
  unfold State.joinNext
  dsimp only
  repeat' split
  all_goals simp

@[simp] theorem State.freeze_alike (s : State) (k : Nat) (b : Bool) : s.Alike (s.freeze k b) :=
  ⟨outlines_map _ fun e => by split <;> rfl, rfl, rfl⟩

@[simp] theorem State.finishAbort_alike (s : State) (k : Nat) (st : Status) : s.Alike (s.finishAbort k st) := by
  unfold State.finishAbort
  repeat' split
  all_goals simp

@[simp] theorem State.regWithdraw_alike (s : State) (k inst : Nat) : s.Alike (s.regWithdraw k inst).2 := by
  unfold State.regWithdraw
  dsimp only
  repeat' split
  all_goals simp

@[simp] theorem State.askAbort_alike (s : State) (k : Nat) : s.Alike (s.askAbort k) := by
  unfold State.askAbort
  repeat' split
  all_goals simp

@[simp] theorem State.abortMove_alike (s : State) (k : Nat) (st : Status) : s.Alike (s.abortMove k st) := by
  unfold State.abortMove
  repeat' split
  all_goals simp

@[simp] theorem State.dropMove_alike (s : State) (k : Nat) : s.Alike (s.dropMove k) := by simp [State.dropMove]

/-! ### Machine/PoolMsg -/

@[simp] theorem State.modCal_alike (s : State) (grp : Nat) (f : CalGrp → CalGrp) : s.Alike (s.modCal grp f) := by
  simp [State.modCal]

@[simp] theorem State.gotFrame_alike (s : State) (r : PReq) (n : Nat) : s.Alike (s.gotFrame r n) := by
  simp [State.gotFrame]

@[simp] theorem hHello_alike (s : State) (m : RppMsg) (peer : Nat) : s.Alike (hHello s m peer) := by
  unfold hHello
  dsimp only
  repeat' split
  all_goals simp

@[simp] theorem State.ackView_alike (s : State) : s.Alike s.ackView := by
  unfold State.ackView
  split <;> simp

@[simp] theorem hViewPull_alike (s : State) (m : RppMsg) (peer : Nat) : s.Alike (hViewPull s m peer) := by
  simp [hViewPull]

@[simp] theorem hExportReq_alike (s : State) (m : RppMsg) (peer : Nat) : s.Alike (hExportReq s m peer) := by
  unfold hExportReq
  split
  · refine State.serveReq_alike _ _ _ _ fun t => ?_
    dsimp only
    repeat' split
    all_goals simp
  · exact .refl _

@[simp] theorem hExportGrant_alike (s : State) (m : RppMsg) (peer : Nat) : s.Alike (hExportGrant s m peer) := by
  unfold hExportGrant
  repeat' split
  all_goals simp

@[simp] theorem hSlowRd_alike (s : State) (m : RppMsg) (peer : Nat) : s.Alike (hSlowRd s m peer) := by
  unfold hSlowRd
  split <;> simp

@[simp] theorem hSlowWr_alike (s : State) (m : RppMsg) (peer : Nat) : s.Alike (hSlowWr s m peer) := by
  unfold hSlowWr
  split <;> simp

@[simp] theorem hNoteReq_alike (s : State) (m : RppMsg) (peer : Nat) : s.Alike (hNoteReq s m peer) := by
  unfold hNoteReq
  split
  · split
    · simp
    · exact State.serveReq_alike _ _ _ _ fun t => by simp
  · exact .refl _

@[simp] theorem hFetchReq_alike (s : State) (m : RppMsg) (peer : Nat) : s.Alike (hFetchReq s m peer) := by
  unfold hFetchReq
  split
  · split
    · simp
    · refine State.serveReq_alike _ _ _ _ fun t => ?_
      dsimp only
      refine State.Alike.trans (State.foldl_snd_alike _ _ ([], t) fun x a => ?_) ⟨rfl, rfl, rfl⟩
      split
      · exact .refl _
      · split
        · exact .refl _
        · split
          · exact .refl _
          · split
            · exact .refl _
            · split
              all_goals next h => simp [State.alike_of_pair h (State.promote_alike ..)]
  · exact .refl _

@[simp] theorem State.fillNext_alike (s : State) (id peer aid : Nat) : s.Alike (s.fillNext id peer aid) := by
  unfold State.fillNext
  dsimp only
  repeat' split
  all_goals simp

@[simp] theorem hVisitRows_alike (s : State) (m : RppMsg) (peer : Nat) : s.Alike (hVisitRows s m peer) := by
  unfold hVisitRows
  split
  · split
    · simp
    · refine State.serveReq_alike _ _ _ _ fun t => ?_
      split <;> simp
  · exact .refl _

@[simp] theorem hGdReq_alike (s : State) (m : RppMsg) (peer : Nat) : s.Alike (hGdReq s m peer) := by
  unfold hGdReq
  split
  · split
    · simp
    · refine State.serveReq_alike _ _ _ _ fun t => ?_
      split
      all_goals next h => simp [State.alike_of_pair h (State.gdRequest_alike ..)]
  · exact .refl _

@[simp] theorem hGdGrant_alike (s : State) (m : RppMsg) (peer : Nat) : s.Alike (hGdGrant s m peer) := by
  unfold hGdGrant
  dsimp only
  repeat' split
  all_goals simp

@[simp] theorem hGdData_alike (s : State) (m : RppMsg) (peer : Nat) : s.Alike (hGdData s m peer) := by
  unfold hGdData
  split
  · split
    · simp
    · exact State.serveReq_alike _ _ _ _ fun t => by simp
  · exact .refl _

@[simp] theorem hGdCommit_alike (s : State) (m : RppMsg) (peer : Nat) : s.Alike (hGdCommit s m peer) := by
  unfold hGdCommit
  repeat' split
  all_goals simp

@[simp] theorem hProbe_alike (s : State) (m : RppMsg) (peer : Nat) : s.Alike (hProbe s m peer) := by simp [hProbe]

@[simp] theorem hProbeEcho_alike (s : State) (m : RppMsg) (peer : Nat) : s.Alike (hProbeEcho s m peer) := by
  unfold hProbeEcho
  repeat' split
  all_goals simp

theorem State.moveLand_alike {s t : State} {v : Move} {e : Entry} {blobs : List (Nat × List Byte)} (h : s.moveLand v e blobs = some t) :
    s.Alike t := by
  unfold State.moveLand at h
  obtain ⟨x, hx, rfl⟩ := Option.map_eq_some_iff.mp h
  refine State.Alike.trans ?_ (⟨rfl, rfl, rfl⟩ : x.1.Alike _)
  refine List.foldlRecOn (motive := fun o : Option (State × Entry) => ∀ x, o = some x → s.Alike x.1) _ _
    ?_ ?_ x hx
  · rintro _ ⟨⟩
    exact .refl _
  · intro o ho y _ x hx
    split at hx
    · cases hx
    · split at hx
      · cases hx
      · next h =>
        have e := (ho _ rfl).trans (State.alike_of_pair h (State.charge_alike ..))
        split at hx <;> cases hx <;> simpa using e

@[simp] theorem hMoveAbort_alike (s : State) (m : RppMsg) (peer : Nat) : s.Alike (hMoveAbort s m peer) := by
  unfold hMoveAbort
  dsimp only
  repeat' split
  all_goals simp

/-! ### Machine/Work -/

@[simp] theorem State.setAsm_alike (s : State) (peer key : Nat) (l : List (List Byte)) :
    s.Alike (s.setAsm peer key l) := by
  simp [State.setAsm]

@[simp] theorem State.heartbeats_alike (s : State) : s.Alike s.heartbeats := by simp [State.heartbeats]

@[simp] theorem State.askWindows_alike (s : State) : s.Alike s.askWindows := by simp [State.askWindows]

@[simp] theorem State.takeSnap_alike (s : State) : s.Alike s.takeSnap := by simp [State.takeSnap]

@[simp] theorem State.probeGroup_alike (s : State) (grp : Nat) : s.Alike (s.probeGroup grp) := by
  simp [State.probeGroup]

end Sys2Proof.Machine
end

section
/-! PROOF. A version in the cache that nothing takes away (R285, R364, R365): while a batch waits, the members have not acknowledged, no record is
known, and the saved step holds the version, whatever the pool pair does leaves the version where it is, or leaves a trace that stays. -/

namespace Sys2Proof.Machine

open Sys2Proof

/-- The directory has a slot of version `g`: of adapter `g.1`, at epoch `g.2`. -/
def Held (g : Nat × Nat) (s : State) : Prop := ∃ o ∈ outlines s.cab.dir, o.1 = g.1 ∧ g.2 ∈ o.2.2

/-- The adapter of version `g` has no entry that is not owned. -/
def Owned (g : Nat × Nat) (s : State) : Prop := ∀ o ∈ outlines s.cab.dir, o.1 = g.1 → o.2.1 = true

/-- No saved step holds version `g`. -/
def Released (g : Nat × Nat) (s : State) : Prop := ∀ h ∈ holdings s.prt, ∀ l, h.2 = some l → g ∉ l

/-- A step is issued. -/
def Busy (s : State) : Prop := ∃ h ∈ holdings s.prt, h.1 = true

/-- A trace in the pool's bookkeeping that stays: no view of number 0 is being agreed on, member `i` has acknowledged a batch or is not one of the
others, a notice record is kept or none can be, two batches wait or one is processed. -/
def Marked (i : Nat) (s : State) : Prop :=
  (∀ v, s.pol.pend = some v → v.num ≠ 0) ∨ SMap.has s.pol.acks i = true ∨ i ∉ s.others ∨ s.pol.notes ≠ [] ∨ s.pol.noteCap = 0
    ∨ 2 ≤ s.pol.rx.length ∨ ∃ b ∈ s.pol.rx, b.told = true

/-- Version `g` is in the directory while a batch waits, or a trace says why it need not be. -/
def Kept (g : Nat × Nat) (i : Nat) (s : State) : Prop :=
  (Held g s ∧ s.pol.rx ≠ []) ∨ Owned g s ∨ Released g s ∨ Busy s ∨ Marked i s

/-- What is kept in `s` is kept in `t`. -/
structure Leads (g : Nat × Nat) (i : Nat) (s t : State) : Prop where
  keeps : Kept g i s → Kept g i t

section
variable {g : Nat × Nat} {i : Nat} {s t u : State}

theorem Leads.refl (s : State) : Leads g i s s := ⟨id⟩

theorem Leads.trans (h : Leads g i s t) (k : Leads g i t u) : Leads g i s u := ⟨k.keeps ∘ h.keeps⟩

@[simp] theorem State.foldl_book {α : Type} (l : List α) (f : State → α → State) (s : State) (h : ∀ (s : State) a, (f s a).pol.book = s.pol.book) :
    (l.foldl f s).pol.book = s.pol.book :=
  List.foldlRecOn (motive := fun t : State => t.pol.book = s.pol.book) l f rfl fun t ht a _ => (h t a).trans ht

theorem Leads.foldl {α : Type} (l : List α) (f : State → α → State) (s : State) (h : ∀ (s : State) a, Leads g i s (f s a)) :
    Leads g i s (l.foldl f s) :=
  List.foldlRecOn (motive := fun t => Leads g i s t) l f (.refl s) fun t ht a _ => ht.trans (h t a)

theorem Marked.kept (h : Marked i s) : Kept g i s := .inr (.inr (.inr (.inr h)))

theorem Marked.leads (h : Marked i t) : Leads g i s t := ⟨fun _ => h.kept⟩

theorem Busy.kept (h : Busy s) : Kept g i s := .inr (.inr (.inr (.inl h)))

theorem Released.kept (h : Released g s) : Kept g i s := .inr (.inr (.inl h))

theorem Owned.kept (h : Owned g s) : Kept g i s := .inr (.inl h)

/-- A notice record is kept. -/
theorem Marked.of_notes (h : s.pol.notes ≠ []) : Marked i s := .inr (.inr (.inr (.inl h)))

/-! ### Steps that leave parts of the state alone -/

/-- The trace in the bookkeeping is read from the bookkeeping. -/
theorem Marked.of_book (b : t.pol.book = s.pol.book) (h : Marked i s) : Marked i t := by
  obtain ⟨pend, acks, notes, rx, inst, members⟩ : t.pol.pend = s.pol.pend ∧ t.pol.acks = s.pol.acks
      ∧ (t.pol.notes, t.pol.noteCap) = (s.pol.notes, s.pol.noteCap) ∧ t.pol.rx = s.pol.rx ∧ t.pol.instId = s.pol.instId
      ∧ t.pol.members = s.pol.members := by
    simpa only [Pol.book, Prod.mk.injEq, and_assoc] using b
  obtain ⟨notes, cap⟩ := Prod.mk.inj notes
  have others : t.others = s.others := by rw [State.others, State.others, State.me, State.me, inst, members]
  rw [Marked, pend, acks, notes, cap, rx, others]
  exact h

theorem Busy.of_charted (c : s.Charted t) (h : Busy s) : Busy t := by
  have busy_iff (s : State) : Busy s ↔ true ∈ standing s.prt := by
    simp [Busy, holdings, standing]
  rw [busy_iff] at h ⊢
  rwa [c.2]

theorem Leads.of_busy (c : s.Charted t) (h : Busy s) : Leads g i s t := ⟨fun _ => (h.of_charted c).kept⟩

theorem Leads.of_alike (a : s.Alike t) : Leads g i s t := by
  obtain ⟨dir, prt, book⟩ := a
  have rx : t.pol.rx = s.pol.rx := congrArg (·.2.2.2.1) book
  constructor
  rintro (⟨held, waits⟩ | owned | released | busy | marked)
  · exact .inl ⟨by rwa [Held, dir], rx ▸ waits⟩
  · exact Owned.kept (by rwa [Owned, dir])
  · exact Released.kept (by rwa [Released, prt])
  · exact Busy.kept (by rwa [Busy, prt])
  · exact (marked.of_book book).kept

theorem State.Alike.leads (a : s.Alike t) : Leads g i s t := .of_alike a

theorem Leads.after (h : Leads g i t u) (a : s.Alike t) : Leads g i s u := a.leads.trans h

theorem Leads.then_alike (h : Leads g i s t) (a : t.Alike u) : Leads g i s u := h.trans a.leads

/-- The state of a result that is known by its parts. -/
theorem Leads.of_pair {α : Type} {r : α × State} {a : α} (h : r = (a, t)) (hr : Leads g i s r.2) : Leads g i s t := by rwa [h] at hr

/-- A step that touches the directory only. -/
theorem Leads.of_dir (prt : holdings t.prt = holdings s.prt) (book : t.pol.book = s.pol.book) (held : Held g s → Held g t)
    (owned : Owned g s → Owned g t) : Leads g i s t := by
  have rx : t.pol.rx = s.pol.rx := congrArg (·.2.2.2.1) book
  constructor
  rintro (⟨h, waits⟩ | h | h | h | h)
  · exact .inl ⟨held h, rx ▸ waits⟩
  · exact (owned h).kept
  · exact Released.kept (by rwa [Released, prt])
  · exact Busy.kept (by rwa [Busy, prt])
  · exact (h.of_book book).kept

/-- A step that touches the bookkeeping only. -/
theorem Leads.of_pol (dir : outlines t.cab.dir = outlines s.cab.dir) (prt : holdings t.prt = holdings s.prt) (rx : s.pol.rx ≠ [] → t.pol.rx ≠ [])
    (marked : Marked i s → Marked i t) : Leads g i s t := by
  constructor
  rintro (⟨held, waits⟩ | h | h | h | h)
  · exact .inl ⟨by rwa [Held, dir], rx waits⟩
  · exact Owned.kept (by rwa [Owned, dir])
  · exact Released.kept (by rwa [Released, prt])
  · exact Busy.kept (by rwa [Busy, prt])
  · exact (marked h).kept

/-- A step that touches the partitions only. -/
theorem Leads.of_prt (dir : outlines t.cab.dir = outlines s.cab.dir) (book : t.pol.book = s.pol.book) (released : Released g s → Released g t)
    (busy : Busy s → Busy t) : Leads g i s t := by
  have rx : t.pol.rx = s.pol.rx := congrArg (·.2.2.2.1) book
  constructor
  rintro (⟨held, waits⟩ | h | h | h | h)
  · exact .inl ⟨by rwa [Held, dir], rx ▸ waits⟩
  · exact Owned.kept (by rwa [Owned, dir])
  · exact (released h).kept
  · exact (busy h).kept
  · exact (h.of_book book).kept

/-! ### Steps that take slots and entries away -/

theorem of_mem_updFirst {α : Type} {l : List α} {p : α → Bool} {f : α → α} {y : α} (h : y ∈ updFirst l p f) : ∃ x ∈ l, y = x ∨ y = f x := by
  induction l with
  | nil => cases h
  | cons x xs ih =>
    rw [updFirst] at h
    split at h
    · rcases List.mem_cons.mp h with rfl | h
      · exact ⟨x, List.mem_cons_self .., .inr rfl⟩
      · exact ⟨y, List.mem_cons_of_mem _ h, .inl rfl⟩
    · rcases List.mem_cons.mp h with rfl | h
      · exact ⟨y, List.mem_cons_self .., .inl rfl⟩
      · obtain ⟨z, hz, same⟩ := ih h
        exact ⟨z, List.mem_cons_of_mem _ hz, same⟩

/-- A member of a list is not changed, or it passes the test and is. -/
theorem mem_updFirst_cases {α : Type} {l : List α} {x : α} (p : α → Bool) (f : α → α) (h : x ∈ l) :
    x ∈ updFirst l p f ∨ (p x = true ∧ f x ∈ updFirst l p f) := by
  cases test : p x with
  | false => exact .inl (mem_updFirst_of_not f h test)
  | true => exact (mem_updFirst_of_mem p f h).imp_right fun k => ⟨rfl, k⟩

/-- A state with no entry or slot that there was not before, and the same steps and bookkeeping. -/
def State.Sheds (s t : State) : Prop :=
  holdings t.prt = holdings s.prt ∧ t.pol.book = s.pol.book
    ∧ ∀ o ∈ outlines t.cab.dir, ∃ o' ∈ outlines s.cab.dir, o'.1 = o.1 ∧ o'.2.1 = o.2.1

theorem State.Sheds.refl (s : State) : s.Sheds s := ⟨rfl, rfl, fun o ho => ⟨o, ho, rfl, rfl⟩⟩

theorem State.Sheds.trans (h : s.Sheds t) (k : t.Sheds u) : s.Sheds u := by
  refine ⟨k.1.trans h.1, k.2.1.trans h.2.1, fun o ho => ?_⟩
  obtain ⟨o', ho', aid, owned⟩ := k.2.2 o ho
  obtain ⟨o'', ho'', aid', owned'⟩ := h.2.2 o' ho'
  exact ⟨o'', ho'', aid'.trans aid, owned'.trans owned⟩

theorem State.Sheds.foldl {α : Type} (l : List α) (f : State → α → State) (s : State) (h : ∀ (s : State) a, s.Sheds (f s a)) :
    s.Sheds (l.foldl f s) :=
  List.foldlRecOn (motive := fun t => s.Sheds t) l f (.refl s) fun t ht a _ => ht.trans (h t a)

theorem State.Alike.sheds (a : s.Alike t) : s.Sheds t := ⟨a.2.1, a.2.2, a.1 ▸ (State.Sheds.refl s).2.2⟩

theorem State.Sheds.owned (h : s.Sheds t) (k : Owned g s) : Owned g t := fun o ho aid => by
  obtain ⟨o', ho', aid', owned⟩ := h.2.2 o ho
  exact owned ▸ k o' ho' (aid'.trans aid)

theorem State.Sheds.leads (h : s.Sheds t) (held : Held g s → Held g t) : Leads g i s t := .of_dir h.1 h.2.1 held h.owned

/-- What goes away does not matter where a trace stands already. -/
theorem State.Sheds.kept_of_marked (h : s.Sheds t) (m : Marked i s) : Kept g i t := (m.of_book h.2.1).kept

/-- A slot of an entry goes. -/
theorem State.dropSlot_sheds (s : State) (aid ep : Nat) : s.Sheds (s.modEntry aid fun e => e.dropSlot ep) := by
  refine ⟨rfl, rfl, fun o ho => ?_⟩
  obtain ⟨e, he, rfl⟩ := List.mem_map.mp ho
  obtain ⟨x, hx, rfl | rfl⟩ := of_mem_updFirst he
  · exact ⟨_, List.mem_map_of_mem hx, rfl, rfl⟩
  · exact ⟨_, List.mem_map_of_mem hx, rfl, rfl⟩

/-- Entries go. -/
theorem State.filterDir_sheds (s : State) (t : Entry → Bool) (c : Cab → Cab) (h : (c s.cab).dir = s.cab.dir.filter t) : s.Sheds (s.modCab c) := by
  refine ⟨rfl, rfl, fun o ho => ?_⟩
  obtain ⟨e, he, rfl⟩ := List.mem_map.mp (h ▸ ho : o ∈ outlines (s.cab.dir.filter t))
  exact ⟨_, List.mem_map_of_mem (List.mem_of_mem_filter he), rfl, rfl⟩

/-- A cached blob goes; its entry does where that was the last. -/
theorem State.dropCached_sheds (s : State) (aid ep : Nat) : s.Sheds (s.dropCached aid ep) :=
  ((s.dropSlot_sheds aid ep).trans (State.Alike.sheds ⟨rfl, rfl, rfl⟩)).trans (State.filterDir_sheds _ _ _ rfl)

/-- A version stays where another one goes. -/
theorem State.dropCached_held (s : State) {aid ep : Nat} (other : (aid, ep) ≠ g) (h : Held g s) : Held g (s.dropCached aid ep) := by
  obtain ⟨o, ho, aid_eq, slot⟩ := h
  obtain ⟨e, he, rfl⟩ := List.mem_map.mp ho
  have stays {x : Entry} (hx : x ∈ updFirst s.cab.dir (fun e => e.aid == aid) fun e => e.dropSlot ep) (same : x.aid = g.1)
      (has : g.2 ∈ x.vtab.map (·.epoch)) : Held g (s.dropCached aid ep) := by
    obtain ⟨v, hv, -⟩ := List.mem_map.mp has
    have full : x.vtab.isEmpty = false := List.isEmpty_eq_false_iff_exists_mem.mpr ⟨v, hv⟩
    exact ⟨_, List.mem_map_of_mem (List.mem_filter.mpr ⟨hx, by simp [full]⟩), same, has⟩
  rcases mem_updFirst_cases (fun e => e.aid == aid) (fun e => e.dropSlot ep) he with stay | ⟨hit, stay⟩
  · exact stays stay aid_eq slot
  · refine stays stay aid_eq ?_
    obtain ⟨v, hv, ep_eq⟩ := List.mem_map.mp slot
    refine List.mem_map.mpr ⟨v, List.mem_filter.mpr ⟨hv, ?_⟩, ep_eq⟩
    have ne : g.2 ≠ ep := fun e => other (Prod.ext ((eq_of_beq hit).symm.trans aid_eq) e.symm)
    simpa [ep_eq] using ne

theorem State.dropCached_leads (s : State) {aid ep : Nat} (other : (aid, ep) ≠ g) : Leads g i s (s.dropCached aid ep) :=
  (s.dropCached_sheds aid ep).leads (s.dropCached_held other)

theorem State.evict_sheds (s : State) (aid ep : Nat) : s.Sheds (s.evict aid ep) := by
  unfold State.evict
  dsimp only
  refine (s.dropCached_sheds aid ep).trans (State.Alike.sheds ?_)
  repeat' split
  all_goals simp

theorem State.evictInval_sheds (s : State) : s.Sheds s.evictInval := .foldl _ _ s fun t x => t.evict_sheds x.1 x.2

@[simp] theorem State.evict_book (s : State) (aid ep : Nat) : (s.evict aid ep).pol.book = s.pol.book := (s.evict_sheds aid ep).2.1

theorem State.freeEntry_sheds (s : State) (e : Entry) : s.Sheds (s.freeEntry e) := s.filterDir_sheds (fun x => x.aid != e.aid) _ rfl

/-- An owned entry that is removed takes every entry of its adapter along, or none of another's. -/
theorem State.freeEntry_leads (s : State) (e : Entry) : Leads g i s (s.freeEntry e) := by
  by_cases same : e.aid = g.1
  · refine ⟨fun _ => Owned.kept fun o ho aid => absurd aid ?_⟩
    obtain ⟨x, hx, rfl⟩ := List.mem_map.mp ho
    have other : x.aid ≠ e.aid := by simpa using (List.mem_filter.mp hx).2
    exact fun eq => other (eq.trans same.symm)
  · refine (s.freeEntry_sheds e).leads fun ⟨o, ho, aid, slot⟩ => ?_
    obtain ⟨x, hx, rfl⟩ := List.mem_map.mp ho
    refine ⟨_, List.mem_map_of_mem (List.mem_filter.mpr ⟨hx, ?_⟩), aid, slot⟩
    have other : x.aid ≠ e.aid := fun eq => same (eq.symm.trans aid)
    simpa using other

/-- Without the acknowledgement of member `i` no slot is reclaimed. -/
theorem State.acked_of_unmarked (h : ¬ Marked i s) (v : VSlot) : s.acked v = false := by
  have other : i ∈ s.others := by
    by_contra no
    exact h (.inr (.inr (.inl no)))
  have silent : SMap.has s.pol.acks i = false := Bool.eq_false_iff.mpr fun yes => h (.inr (.inl yes))
  refine List.all_eq_false.mpr ⟨i, other, ?_⟩
  simp [silent]

theorem State.reclaim_leads (s : State) : Leads g i s s.reclaim := by
  unfold State.reclaim
  extract_lets gone s1 s2
  have sheds1 : s.Sheds s1 := .foldl _ _ s fun t x => (t.dropSlot_sheds x.1 x.2).trans (State.Alike.sheds ⟨rfl, rfl, rfl⟩)
  have sheds2 : s.Sheds s2 := sheds1.trans (State.Alike.sheds (s1.sendRetired_alike gone))
  by_cases marked : Marked i s
  · refine ⟨fun _ => (sheds2.trans (.foldl _ _ s2 fun t e => ?_)).kept_of_marked marked⟩
    split
    · exact t.freeEntry_sheds e
    · exact .refl t
  · have none_gone : gone = [] := by
      simp [gone, s.acked_of_unmarked marked]
    have same : s1 = s := by simp [s1, none_gone]
    refine .trans (t := s2) ?_ (.foldl _ _ s2 fun t e => ?_)
    · exact State.Alike.leads (same ▸ s1.sendRetired_alike gone)
    · split
      · exact t.freeEntry_leads e
      · exact .refl t

theorem State.freeAdapter_leads (s : State) (aid : Nat) : Leads g i s (s.freeAdapter aid) := by
  unfold State.freeAdapter
  extract_lets s1 s2 s3
  have e1 : s.Alike s1 := s.modEntry_alike aid fun e => by simp
  have e3 : s.Alike s3 := by
    refine e1.trans ⟨rfl, holdings_map _ fun q => ?_, rfl⟩
    split <;> rfl
  exact e3.leads.trans s3.reclaim_leads

end

end Sys2Proof.Machine
end

section
/-! PROOF. What fills, promotions, notices and the refresh of the pinned set leave of a version that is kept (R285, R289, R303, R322, R331). -/

namespace Sys2Proof.Machine

open Sys2Proof

section
variable {g : Nat × Nat} {i : Nat} {s t u : State}

/-! ### Fills begin -/

theorem State.cacheEntry_book {aid owner : Nat} {r : NoteRec} (h : s.cacheEntry aid owner r = some t) : t.pol.book = s.pol.book := by
  unfold State.cacheEntry at h
  split at h
  · split at h
    · cases h
    · split at h
      · cases h; rfl
      · split at h
        · cases h; exact s.evict_book ..
        · cases h
  · dsimp only at h
    split at h
    · cases h
    · rename_i room
      split at h
      · cases h
      · cases h
        split at room
        · cases room; rfl
        · split at room
          · cases room
            simp
          · cases room

theorem State.cacheReserve_book {len b : Nat} {o : CabObj} (h : s.cacheReserve len o = some (b, t)) : t.pol.book = s.pol.book := by
  unfold State.cacheReserve at h
  split at h
  · cases h
  · obtain ⟨_, -, e⟩ := Option.map_eq_some_iff.mp h
    cases e
    simp

theorem State.beginFill_book {aid ep owner blen : Nat} {r : NoteRec} (h : s.beginFill aid ep owner blen r = some t) :
    t.pol.book = s.pol.book := by
  unfold State.beginFill at h
  split at h
  · cases h
  · rename_i s1 e1
    split at h
    · cases h
    · rename_i b s2 e2
      split at h
      · cases h
      · rename_i s3 e3
        cases h
        exact ((State.cacheEntry_book e3).trans (State.cacheReserve_book e2)).trans (State.cacheEntry_book e1)

/-! ### The pinned set -/

theorem State.pinFill_book (s : State) : s.pinFill.pol.book = s.pol.book := by
  unfold State.pinFill
  extract_lets ids plan held todo s0 s1 r
  have e1 : s1.pol.book = s.pol.book := (State.foldl_alike _ _ s0 fun t x => t.pinAt_alike ..).2.2
  have er : r.1.pol.book = s1.pol.book := by
    refine List.foldlRecOn (motive := fun r : State × List (Nat × Nat) × Nat => r.1.pol.book = s1.pol.book) _ _ rfl fun r hr x _ => ?_
    split
    · exact hr
    · next h => exact (State.beginFill_book h).trans hr
  exact ((r.1.fetchFor_alike r.2.1).2.2.trans er).trans e1

/-- Without a notice record a refresh chooses no version. -/
theorem State.pinPick_of_unnoted (none : s.pol.notes = []) (counted : Bool) {r : PinPlan} (h : r.take = []) (aid : Nat) :
    (s.pinPick counted r aid).take = [] := by
  have unknown : s.fillRec aid = .none := by simp [State.fillRec, none]
  unfold State.pinPick
  rw [unknown]
  split <;> exact h

theorem State.pinFill_of_unnoted (none : s.pol.notes = []) : s.Alike s.pinFill := by
  unfold State.pinFill
  extract_lets ids plan held todo s0 s1 r
  have picked (counted : Bool) (l : List Nat) {r : PinPlan} (h : r.take = []) : (l.foldl (s.pinPick counted) r).take = [] :=
    List.foldlRecOn (motive := fun r : PinPlan => r.take = []) l _ h fun r hr a _ => State.pinPick_of_unnoted none counted hr a
  have nothing : plan.take = [] := picked true _ (picked false _ rfl)
  have e0 : s.Alike s0 := ⟨outlines_map _ fun _ => rfl, rfl, rfl⟩
  have e1 : s.Alike s1 := e0.trans (State.foldl_alike _ _ s0 fun t x => t.pinAt_alike ..)
  have begun : r.1 = s1 := by
    have nil : todo = [] := by simp [todo, nothing]
    unfold r
    rw [nil]
    rfl
  have er : s.Alike r.1 := begun ▸ e1
  clear_value r
  have asked : s.Alike (r.1.fetchFor r.2.1).2 := er.trans (State.fetchFor_alike ..)
  exact asked.trans ⟨rfl, rfl, rfl⟩

theorem State.pinFill_leads (s : State) : Leads g i s s.pinFill := by
  by_cases none : s.pol.notes = []
  · exact (State.pinFill_of_unnoted none).leads
  · exact ((Marked.of_notes none).of_book s.pinFill_book).leads

theorem State.pinRefresh_leads (s : State) : Leads g i s s.pinRefresh := by
  unfold State.pinRefresh
  dsimp only
  split
  · exact s.pinFill_leads
  · exact State.Alike.leads (by simp)

theorem State.pinStart_leads (s : State) : Leads g i s s.pinStart := by
  unfold State.pinStart
  split
  · exact State.Alike.leads ⟨rfl, rfl, rfl⟩
  · exact s.pinRefresh_leads

theorem State.pinSettle_leads (s : State) : Leads g i s s.pinSettle := by
  unfold State.pinSettle
  extract_lets s1 filling s2
  have e1 : Leads g i s s1 := by
    unfold s1
    split
    · exact s.pinFill_leads
    · exact .refl s
  split
  · have e2 : Leads g i s s2 := e1.then_alike ⟨rfl, rfl, rfl⟩
    split
    · exact (e2.then_alike (by simp)).trans (State.pinRefresh_leads _)
    · exact e2
  · exact e1

/-! ### Steps that wait -/

/-- A partition whose step is issued. -/
theorem Busy.of_ctx {p : Nat} {c : Ctx} (h : (s.getP p).ctx = some c) : Busy s := by
  have listed : s.getP p ∈ s.prt := by
    by_contra no
    have reset : s.getP p = Prt.reset := by
      refine List.getD_eq_default _ _ (Nat.le_of_not_lt fun lt => no ?_)
      rw [State.getP, nth, List.getD_eq_getElem _ _ lt]
      exact List.getElem_mem lt
    rw [reset] at h
    cases h
  exact ⟨_, List.mem_map_of_mem listed, by simp [h]⟩

theorem State.pump_leads (s : State) (p : Nat) : Leads g i s (s.pump p) := by
  cases issued : s.ctxOf p with
  | none =>
    rw [State.pump, issued]
    exact .refl s
  | some c => exact .of_busy (s.pump_chart p) (.of_ctx issued)

theorem State.settleDrawer_leads (s : State) (p drw : Nat) (st : Status) : Leads g i s (s.settleDrawer p drw st) := by
  cases issued : s.ctxOf p with
  | none =>
    rw [State.settleDrawer, issued]
    exact .refl s
  | some c => exact .of_busy (s.settleDrawer_chart p drw st) (.of_ctx issued)

theorem State.settleStep_leads (s : State) (p sseq drw : Nat) (st : Status) : Leads g i s (s.settleStep p sseq drw st) := by
  unfold State.settleStep
  dsimp only
  split
  · exact s.settleDrawer_leads ..
  · split
    · exact (s.settleSaved_alike ..).leads
    · exact .refl s

theorem State.versionLost_leads (s : State) (path : Path) (aid ep : Nat) : Leads g i s (s.versionLost path aid ep) := by
  refine .foldl _ _ s fun s p => ?_
  extract_lets q a b s1 s2
  split
  · exact .refl s
  · have e1 : Leads g i s s1 := .foldl _ _ s fun t k => t.settleDrawer_leads ..
    have e2 : Leads g i s s2 := e1.trans (.foldl _ _ s1 fun t k => (t.settleSaved_alike ..).leads)
    exact (e2.then_alike (s2.modP_alike p fun q => Prod.ext (by simp) (Ctx.map_used (f := fun c => c.dropDrawers b) q.svCtx fun _ => rfl))).trans (State.pump_leads _ p)

/-! ### Fills end -/

theorem State.failFill_leads (s : State) {aid ep : Nat} (other : (aid, ep) ≠ g) : Leads g i s (s.failFill aid ep) := by
  unfold State.failFill
  split
  · split
    · exact s.dropCached_leads other
    · exact .refl s
  · exact .refl s

/-- The steps of a partition let go of a version. -/
def Prt.without (q : Prt) (x : Nat × Nat) : Prt :=
  let drop (c : Ctx) : Ctx := { c with used := c.used.filter fun y => y != x, fetchWait := c.fetchWait.filter fun y => y != x }
  { q with ctx := q.ctx.map drop, svCtx := q.svCtx.map drop }

theorem Prt.without_used {q : Prt} {x : Nat × Nat} {l : List (Nat × Nat)} (h : (q.without x).svCtx.map (·.used) = some l) :
    ∃ k, q.svCtx.map (·.used) = some k ∧ l = k.filter fun y => y != x := by
  cases held : q.svCtx with
  | none => simp [Prt.without, held] at h
  | some c => exact ⟨c.used, rfl, by simpa [Prt.without, held] using h.symm⟩

/-- A version that the steps let go of is released; another one is held as before. -/
theorem State.without_leads (s : State) (x : Nat × Nat) : Leads g i s { s with prt := s.prt.map fun q => q.without x } := by
  refine .of_prt rfl rfl (fun released h hh l hl => ?_) fun ⟨h, hh, issued⟩ => ?_
  · obtain ⟨_, hr, rfl⟩ := List.mem_map.mp hh
    obtain ⟨q, hq, rfl⟩ := List.mem_map.mp hr
    obtain ⟨k, hk, rfl⟩ := Prt.without_used hl
    exact fun mem => released _ (List.mem_map_of_mem hq) k hk (List.mem_of_mem_filter mem)
  · obtain ⟨q, hq, rfl⟩ := List.mem_map.mp hh
    exact ⟨_, List.mem_map_of_mem (f := Prt.holding) (List.mem_map_of_mem (f := fun q => q.without x) hq), by simpa [Prt.without] using issued⟩

theorem State.without_released (s : State) : Released g { s with prt := s.prt.map fun q => q.without g } := by
  intro h hh l hl
  obtain ⟨_, hr, rfl⟩ := List.mem_map.mp hh
  obtain ⟨q, hq, rfl⟩ := List.mem_map.mp hr
  obtain ⟨k, hk, rfl⟩ := Prt.without_used hl
  simp

theorem State.fillFailed_leads (s : State) (aid ep : Nat) : Leads g i s (s.fillFailed aid ep) := by
  have parted : s.fillFailed aid ep
      = State.pinSettle { (s.failFill aid ep).versionLost .fetch aid ep with
          prt := ((s.failFill aid ep).versionLost .fetch aid ep).prt.map fun q => q.without (aid, ep) } := rfl
  rw [parted]
  refine .trans ?_ (State.pinSettle_leads _)
  by_cases same : (aid, ep) = g
  · exact ⟨fun _ => same ▸ (State.without_released _).kept⟩
  · exact ((s.failFill_leads same).trans (State.versionLost_leads _ _ aid ep)).trans (State.without_leads _ (aid, ep))

/-! ### Notice records -/

theorem SMap.insert_ne_nil {α : Type} (m : SMap α) (k : Nat) (v : α) : m.insert k v ≠ [] := by
  unfold SMap.insert
  repeat' split
  all_goals exact List.cons_ne_nil _ _

/-- A record is kept where a table is not closed. -/
theorem State.noteCreate_marked (s : State) (n : NoteRec) : Marked i (s.noteCreate n) := by
  unfold State.noteCreate
  extract_lets put free
  have noted (t : State) : Marked i (put t) := .of_notes (SMap.insert_ne_nil _ _ _)
  split
  · exact noted s
  next full =>
    split
    · exact noted _
    · by_cases none : s.pol.notes = []
      · have closed : s.pol.noteCap = 0 := BitVec.eq_of_toNat_eq (by simpa [none] using full)
        exact .inr (.inr (.inr (.inr (.inl closed))))
      · exact .of_notes none

theorem Marked.of_note {aid : Nat} {r : NoteRec} (h : s.note aid = some r) : Marked i s := by
  refine .of_notes fun none => ?_
  simp [State.note, none] at h

theorem State.noteMove_marked (s : State) (n : NoteRec) : Marked i (s.noteMove n) := by
  unfold State.noteMove
  split
  · exact s.noteCreate_marked n
  next known =>
    split
    · exact .of_notes (SMap.insert_ne_nil _ _ _)
    · exact .of_note known

theorem State.noteReplace_marked (s : State) (n : NoteRec) : Marked i (s.noteReplace n) := by
  unfold State.noteReplace
  split
  · exact .of_notes (SMap.insert_ne_nil _ _ _)
  · exact s.noteCreate_marked n

/-- The record of a completed fill is there before its blobs can go. -/
theorem State.fillDone_leads (s : State) (e : Entry) (v : VSlot) : Leads g i s (s.fillDone e v) := by
  unfold State.fillDone
  extract_lets h stamp s1
  split
  · have settled : Kept g i (s1.noteMove (s1.fillNote e v h)).evictInval :=
      (State.evictInval_sheds _).kept_of_marked (s1.noteMove_marked _)
    exact ⟨fun _ => (State.pinSettle_leads _).keeps settled⟩
  · exact s.fillFailed_leads ..

/-! ### Serving fills -/

theorem State.serveFills_leads (s : State) : Leads g i s s.serveFills :=
  (State.reclaim_leads _).after (State.foldl_alike _ _ s fun _ _ => State.serveFill_alike ..)

theorem State.promotionEnd_leads (s : State) (aid ep : Nat) (bytes : Option (List Byte)) : Leads g i s (s.promotionEnd aid ep bytes) := by
  unfold State.promotionEnd
  extract_lets s1 s2
  have e1 : Leads g i s s1 := (s.promoted_alike aid ep bytes).leads
  refine .trans (t := s2) ?_ s2.serveFills_leads
  unfold s2
  split
  · exact e1
  · exact e1.trans (s1.versionLost_leads ..)

end

end Sys2Proof.Machine
end

section
/-! PROOF. What views, requests that end, moves and the messages of the pool leave of a version that is kept (R285, R307, R316, R318, R341, R365). -/

namespace Sys2Proof.Machine

open Sys2Proof

section
variable {g : Nat × Nat} {i : Nat} {s t u : State}

/-! ### Adapter IDs -/

/-- A new entry is an owned one. -/
theorem State.newEntry_leads (s : State) (aid p ward : Nat) : Leads g i s (s.newEntry aid p ward) := by
  unfold State.newEntry
  split
  · refine .of_dir rfl rfl (fun ⟨o, ho, same⟩ => ?_) fun owned o ho aid => ?_
    · refine ⟨o, ?_, same⟩
      rw [State.modCab_cab, outlines, List.map_append]
      exact List.mem_append_left _ ho
    · rw [State.modCab_cab, outlines, List.map_append] at ho
      rcases List.mem_append.mp ho with ho | ho
      · exact owned o ho aid
      · rw [List.mem_singleton.mp ho]
        rfl
  · exact .refl s

theorem State.takeId_leads {p ward a : Nat} {l : List Nat} (h : s.takeId p ward l = some (a, t)) : Leads g i s t := by
  obtain ⟨_, -, e⟩ := Option.map_eq_some_iff.mp h
  cases e
  exact s.newEntry_leads ..

theorem State.blobSkip_leads (s : State) : Leads g i s s.blobSkip := by
  unfold State.blobSkip
  extract_lets s1 s2
  have e1 : s.Alike s1 := ⟨rfl, rfl, rfl⟩
  have e2 : Leads g i s s2 := by
    unfold s2
    split
    · exact e1.leads
    · exact (s1.freeAdapter_leads _).after e1
  exact e2.then_alike (by simp)

theorem State.blobReserve_leads (s : State) (aid home : Nat) : Leads g i s (s.blobReserve aid home) := by
  unfold State.blobReserve
  dsimp only
  split
  · next h => exact (State.blobSkip_leads _).after (State.alike_of_pair h (State.charge_alike ..))
  · next h => exact .of_alike (State.Alike.trans (s := s) (State.alike_of_pair h (State.charge_alike ..)) ⟨rfl, rfl, rfl⟩)

theorem State.rangeFail_leads (s : State) (long : Nat) (st : Status) : Leads g i s (s.rangeFail long st) := by
  unfold State.rangeFail
  split
  · exact s.blobSkip_leads
  · exact .of_alike (by simp)

theorem State.rangeFor_leads (s : State) (long k : Nat) : Leads g i s (s.rangeFor long k) := by
  unfold State.rangeFor
  dsimp only
  split
  · exact .refl s
  · split
    · exact s.rangeFail_leads ..
    · split
      · exact s.rangeFail_leads ..
      · next h =>
        refine (State.takeId_leads h).trans ?_
        split
        · exact State.blobReserve_leads ..
        · exact .of_alike (by simp)

/-! ### Requests that end -/

theorem State.noteFor_leads (s : State) (p : Nat) (l : List NoteRec) (dead : List Nat) : Leads g i s (s.noteFor p l dead) := by
  unfold State.noteFor
  extract_lets got f waits q
  split
  next waiting =>
    cases issued : q.ctx with
    | none => simp [waits, issued] at waiting
    | some c => exact .of_busy (by simp) (.of_ctx issued)
  · split
    · exact .of_alike (s.modP_alike p fun q => Prod.ext rfl (Ctx.map_used (f := f) q.svCtx fun _ => rfl))
    · exact .refl s

@[simp] theorem State.pullFailed_alike (s : State) (peer : Nat) : s.Alike (s.pullFailed peer) := by
  unfold State.pullFailed
  dsimp only
  split <;> simp

theorem State.failOne_leads (s : State) (r : PReq) (st : Status) : Leads g i s (s.failOne r st) := by
  unfold State.failOne
  refine .trans (t := s.dropReq r.id) (.of_alike (s.dropReq_alike r.id)) ?_
  dsimp only
  split
  case h_9 => exact State.rangeFail_leads ..
  case h_10 =>
    split
    · exact State.pinSettle_leads _
    · exact State.noteFor_leads ..
  case h_11 => exact .foldl _ _ _ fun t x => t.fillFailed_leads ..
  case h_12 => exact (Leads.foldl _ _ _ fun t k => t.settleStep_leads ..).trans (State.pump_leads ..)
  case h_15 => exact State.promotionEnd_leads ..
  case h_16 =>
    refine .of_alike (State.modSlot_alike _ _ _ fun v => ?_)
    split <;> rfl
  all_goals exact .of_alike (by simp)

theorem State.failReq_leads (s : State) (r : PReq) (st : Status) : Leads g i s (s.failReq r st) := by
  unfold State.failReq
  split
  · exact (Leads.foldl _ _ _ fun t x => t.failOne_leads x st).after (by simp)
  · exact s.failOne_leads r st

/-! ### Views -/

/-- A view that is installed leaves none of its number or a lower one to be agreed on. -/
theorem State.install_marked (s : State) (v : ViewPl) : Marked i (s.install v) := by
  refine .inl fun p hp => ?_
  have chart := s.install_chart v
  simp only [Pol.chart, Prod.mk.injEq] at chart
  obtain ⟨-, -, -, pend⟩ := chart
  rw [pend, Option.filter_eq_some_iff] at hp
  exact Nat.ne_of_gt (Nat.zero_lt_of_lt (of_decide_eq_true hp.2))

theorem State.install_leads (s : State) (v : ViewPl) : Leads g i s (s.install v) := (s.install_marked v).leads

theorem State.tryIssue_leads (s : State) : Leads g i s s.tryIssue := by
  unfold State.tryIssue
  split
  · exact .refl s
  · next v _ =>
    dsimp only
    split
    · exact (s.install_leads v).then_alike (by simp)
    · exact .refl s

theorem State.issueView_leads (s : State) : Leads g i s s.issueView := by
  unfold State.issueView
  split
  · exact .refl s
  · extract_lets v s1 s2
    have e1 : Leads g i s s1 := Marked.leads (.inl fun p hp => by cases hp; exact Nat.succ_ne_zero _)
    exact (e1.then_alike (State.foldl_alike _ _ s1 fun t k => by simp)).trans (State.tryIssue_leads _)

theorem State.propose_leads (s : State) (v : ViewPl) : Leads g i s (s.propose v) := (State.issueView_leads _).after (by simp)

theorem State.grantRange_leads (s : State) (peer tag : Nat) : Leads g i s (s.grantRange peer tag).2 := by
  unfold State.grantRange
  split
  · exact .refl s
  · exact (State.propose_leads _ _).after (by simp)

theorem State.askRange_leads (s : State) (long : Nat) : Leads g i s (s.askRange long) := by
  unfold State.askRange
  split
  · exact s.rangeFail_leads ..
  · split
    · split
      · next h => exact (Leads.of_pair h (s.grantRange_leads ..)).trans (State.rangeFail_leads ..)
      · next h => exact .of_pair h (s.grantRange_leads ..)
    · exact .of_alike (by simp)

theorem State.blobPump_leads (n : Nat) (s : State) : Leads g i s (State.blobPump n s) := by
  induction n generalizing s with
  | zero => exact .refl s
  | succ n ih =>
    unfold State.blobPump
    split
    · exact .refl s
    · split
      · exact .refl s
      · split
        · exact s.blobSkip_leads.trans (ih _)
        · split
          · next h => exact ((State.takeId_leads h).trans (State.blobReserve_leads ..)).trans (ih _)
          · exact (s.askRange_leads 0).trans (ih _)

theorem State.moveGo_leads (s : State) (k : Nat) : Leads g i s (s.moveGo k) := by
  unfold State.moveGo
  split
  · exact .refl s
  · extract_lets -underBinder es set commit transfer
    have committed (t : State) : Leads g i t (commit t) := by
      unfold commit
      dsimp only
      split
      · exact (State.propose_leads _ _).after (by simp [set])
      · split <;> exact .of_alike (by simp [set])
    have transferred (t : State) : Leads g i t (transfer t) := by
      unfold transfer
      extract_lets -underBinder slow s1
      have e1 : t.Alike s1 := by
        simp [s1, set]
      split
      · exact .refl t
      · split
        · refine .of_alike (State.foldl_alike _ _ _ fun u x => ?_)
          split
          all_goals next h => simp [State.alike_of_pair h (State.promote_alike ..)]
        · split
          · exact (committed s1).after e1
          · exact .of_alike e1
    split
    · exact .refl s
    · split
      · exact .refl s
      · exact (transferred _).after (by simp [set])
    · exact transferred s
    · split
      · exact .refl s
      · exact committed s
    · split <;> exact .of_alike (by simp)

theorem State.showMoving_leads (s : State) (k inst : Nat) : Leads g i s (s.showMoving k inst) := by
  unfold State.showMoving
  dsimp only
  split
  · exact s.propose_leads _
  · exact .refl s

theorem State.movesGo_leads (s : State) : Leads g i s s.movesGo := .foldl _ _ s fun t m => t.moveGo_leads m.range

/-! ### Machine/PoolMsg -/

theorem State.serveReq_leads (s : State) (m : RppMsg) (peer : Nat) {body : State → State} (h : ∀ t : State, Leads g i t (body t)) :
    Leads g i s (s.serveReq m peer body) := by
  unfold State.serveReq
  dsimp only
  split
  · exact h s
  · split
    · exact .refl s
    · split
      · exact .of_alike (by simp)
      · exact (h s).then_alike (by simp)

theorem State.resend_leads (s : State) (r : PReq) : Leads g i s (s.resend r) := by
  unfold State.resend
  dsimp only
  split
  · exact .of_alike (by simp)
  · exact s.failReq_leads ..

theorem State.reask_leads (s : State) (r : PReq) : Leads g i s (s.reask r) := by
  unfold State.reask
  split
  · exact s.failReq_leads ..
  · refine (Leads.foldl _ _ _ fun t x => ?_).after (s.dropReq_alike _)
    split
    · exact .of_alike (by simp)
    · exact t.failOne_leads ..

theorem hRedirect_leads (s : State) (m : RppMsg) (peer : Nat) : Leads g i s (hRedirect s m peer) := by
  unfold hRedirect
  split
  · exact .refl s
  · split
    · exact .of_alike (by simp)
    · split
      · split
        · exact s.failReq_leads ..
        · exact .of_alike (by simp)
      · exact s.reask_leads _

theorem hHelloAck_leads (s : State) (m : RppMsg) (peer : Nat) : Leads g i s (hHelloAck s m peer) := by
  unfold hHelloAck
  split
  · exact .refl s
  · split
    · exact s.failReq_leads ..
    · exact .of_alike (by simp)

theorem hJoinReq_leads (s : State) (m : RppMsg) (peer : Nat) : Leads g i s (hJoinReq s m peer) := by
  unfold hJoinReq
  split
  · split
    · exact .refl s
    · split
      · split <;> exact .of_alike (by simp)
      · split
        · exact .refl s
        · refine s.serveReq_leads m peer fun t => ?_
          split
          · exact .of_alike (by simp)
          · split
            · exact .of_alike (by simp)
            · dsimp only
              split
              · exact .of_alike (by simp)
              · exact (State.propose_leads _ _).after (by simp)
  · exact .refl s

theorem hLeave_leads (s : State) (m : RppMsg) (peer : Nat) : Leads g i s (hLeave s m peer) := by
  unfold hLeave
  split
  · exact .refl s
  · exact s.serveReq_leads m peer fun t => (State.propose_leads _ _).after (by simp)

theorem hView_leads (s : State) (m : RppMsg) (peer : Nat) : Leads g i s (hView s m peer) := by
  unfold hView
  split
  · extract_lets -underBinder s1 ack
    have e1 : s.Alike s1 := ⟨rfl, rfl, rfl⟩
    have acked (t : State) : t.Alike (ack t) := by simp [ack]
    split
    · exact .of_alike e1
    · split
      · exact .of_alike (e1.trans (acked s1))
      · split
        · exact ((s1.install_leads _).after e1).then_alike (acked _)
        · exact .of_alike (e1.trans (by simp))
  · exact .refl s

theorem hViewAck_leads (s : State) (m : RppMsg) (peer : Nat) : Leads g i s (hViewAck s m peer) := by
  unfold hViewAck
  split
  · exact ((State.tryIssue_leads _).trans (State.issueView_leads _)).after (by simp)
  · exact .refl s

theorem hRangeReq_leads (s : State) (m : RppMsg) (peer : Nat) : Leads g i s (hRangeReq s m peer) := by
  unfold hRangeReq
  split
  · exact .of_alike (by simp)
  · split
    · exact .refl s
    · refine s.serveReq_leads m peer fun t => ?_
      split
      · next h => exact (Leads.of_pair h (t.grantRange_leads ..)).then_alike (by simp)
      · next h => exact .of_pair h (t.grantRange_leads ..)

theorem hSlowAck_leads (s : State) (m : RppMsg) (peer : Nat) : Leads g i s (hSlowAck s m peer) := by
  unfold hSlowAck
  split
  · split
    · split
      · exact .of_alike (by simp)
      · exact s.failReq_leads ..
    · exact .refl s
  · exact .refl s

theorem hFetchData_leads (s : State) (m : RppMsg) (peer : Nat) : Leads g i s (hFetchData s m peer) := by
  unfold hFetchData
  split
  · exact .refl s
  · split
    next r _ _ _ =>
      split
      · exact .refl s
      next aid ep _ =>
        split
        · split
          · exact s.resend_leads _
          · exact .refl s
        · split
          · exact (State.fillFailed_leads ..).after (by simp)
          · split
            next off bs _ _ =>
              extract_lets s1 s2
              have e2 : s.Alike s2 := by simp [s2, s1]
              split
              · exact .of_alike (e2.trans (by simp))
              · split
                · exact .of_alike (e2.trans (by simp))
                · extract_lets f v s3 bs s4 n s5
                  have e5 : s.Alike s5 := e2.trans (by simp [s5, s4, s3])
                  split
                  · exact .of_alike e2
                  · split
                    · exact (State.fillFailed_leads ..).after (e2.trans (by simp))
                    · split
                      · exact .of_alike e5
                      · exact (State.fillDone_leads ..).after (e5.trans (by simp))
            · exact .refl s
    · exact .refl s

theorem hMoveBegin_leads (s : State) (m : RppMsg) (peer : Nat) : Leads g i s (hMoveBegin s m peer) := by
  unfold hMoveBegin
  split
  · refine s.serveReq_leads m peer fun t => .of_alike ?_
    dsimp only
    repeat' split
    all_goals simp
  · split
    · exact s.showMoving_leads ..
    · exact .refl s
  · split
    · split
      · split
        · exact (State.moveGo_leads _ _).after (by simp)
        · exact .of_alike (by simp)
      · exact .refl s
    · exact .refl s

theorem hMoveData_leads (s : State) (m : RppMsg) (peer : Nat) : Leads g i s (hMoveData s m peer) := by
  unfold hMoveData
  split
  · refine s.serveReq_leads m peer fun t => .of_alike ?_
    split
    · simp
    · split
      · next h => simp [State.moveLand_alike h]
      · simp
  · split
    · split
      · split
        · exact (State.moveGo_leads _ _).after (by simp)
        · exact .of_alike (by simp)
      · exact .refl s
    · exact .refl s

theorem hMoveCommit_leads (s : State) (m : RppMsg) (peer : Nat) : Leads g i s (hMoveCommit s m peer) := by
  unfold hMoveCommit
  split
  · split
    · exact .of_alike (by simp)
    · split
      · exact .refl s
      · refine s.serveReq_leads m peer fun t => ?_
        dsimp only
        split
        · exact (t.propose_leads _).then_alike (State.reply_alike ..)
        · exact .of_alike (by simp)
  · refine .of_alike ?_
    repeat' split
    all_goals simp

/-! ### Machine/Work -/
end

end Sys2Proof.Machine
end

section
/-! PROOF. The pool pair's whole turn leaves a version that is kept (R365, R553, R554); a cached entry that lists a version twice loses it to the batch that
invalidates it, although a step holds it. -/

namespace Sys2Proof.Machine

open Sys2Proof

section
variable {g : Nat × Nat} {i : Nat} {s t u : State}

/-! ### Joining, ranges, records -/

theorem State.joined_leads (s : State) (inst : Nat) (v : ViewPl) : Leads g i s (s.joined inst v) := by
  unfold State.joined
  exact (Marked.leads (State.install_marked _ v)).then_alike (State.ackView_alike _)

theorem hJoinAck_leads (s : State) (m : RppMsg) (peer : Nat) : Leads g i s (hJoinAck s m peer) := by
  unfold hJoinAck
  split
  · exact .refl s
  · split
    · extract_lets s1
      have e1 : Leads g i s s1 := (State.joined_leads _ _ _).after (by simp)
      split
      · exact e1.then_alike (by simp)
      · exact e1
    · exact .of_alike (by simp)

theorem hRangeGrant_leads (s : State) (m : RppMsg) (peer : Nat) : Leads g i s (hRangeGrant s m peer) := by
  unfold hRangeGrant
  split
  · split
    · exact (State.rangeFor_leads ..).after (by simp)
    · exact (State.rangeFail_leads ..).after (by simp)
    · exact (State.rangeFail_leads ..).after (by simp)
    · exact .refl s
  · exact .refl s

theorem hSlowData_leads (s : State) (m : RppMsg) (peer : Nat) : Leads g i s (hSlowData s m peer) := by
  unfold hSlowData
  split
  · split
    · split
      · exact .refl s
      · dsimp only
        split
        · exact (State.promotionEnd_leads ..).after (by simp)
        · exact .of_alike (by simp)
    · exact .refl s
  · exact .refl s

theorem hNoteRep_leads (s : State) (m : RppMsg) (peer : Nat) : Leads g i s (hNoteRep s m peer) := by
  unfold hNoteRep
  split
  · split
    · extract_lets l left s1 s2
      have e1 : Leads g i s s1 := .foldl _ _ s fun t n => (t.noteReplace_marked n).leads
      have e2 : Leads g i s s2 := by
        unfold s2
        split <;> exact e1.then_alike (by simp)
      split
      · exact e2.trans s2.pinSettle_leads
      · exact e2.trans (s2.noteFor_leads ..)
    · exact .refl s
  · exact .refl s

theorem State.modStep_alike (s : State) (p sseq : Nat) {f : Ctx → Ctx} (h : ∀ c, (f c).used = c.used) : s.Alike (s.modStep p sseq f) := by
  refine s.modP_alike p fun q => Prod.ext (by simp) (Ctx.map_used q.svCtx fun c => ?_)
  split
  · exact h c
  · rfl

theorem hVisitDelta_leads (s : State) (m : RppMsg) (peer : Nat) : Leads g i s (hVisitDelta s m peer) := by
  unfold hVisitDelta
  split
  · exact .refl s
  · split
    · extract_lets new s1 s2 aidOf s3 s4 s5
      have e2 : s.Alike s2 := by simp [s2, s1]
      have e3 : Leads g i s s3 := by
        refine Leads.after (.foldl _ _ s2 fun t x => ?_) e2
        split
        · exact .refl t
        · split
          · refine .of_alike (t.modStep_alike _ _ fun c => ?_)
            split <;> rfl
          · exact t.settleStep_leads ..
      have e5 : Leads g i s s5 := by
        unfold s5
        split
        · split <;> exact e3.then_alike (by simp [s4])
        · exact e3
      exact e5.trans (s5.pump_leads _)
    · exact .refl s

/-! ### Versions and batches -/

theorem hPubNotice_leads (s : State) (m : RppMsg) (peer : Nat) : Leads g i s (hPubNotice s m peer) := by
  unfold hPubNotice
  split
  · refine .foldl _ _ s fun t n => (Marked.leads (t.noteMove_marked n)).then_alike (State.modEntry_alike _ _ fun e => ?_)
    split <;> rfl
  · exact .refl s

/-- A batch that comes behind another one leaves a trace, and what it evicts does not matter. -/
theorem State.evictBatch_leads (s : State) (b : RxBatch) : Leads g i s (s.modPol fun q => { q with rx := q.rx ++ [b] }).evictInval := by
  have sheds := State.evictInval_sheds (s.modPol fun q => { q with rx := q.rx ++ [b] })
  constructor
  rintro (⟨-, waits⟩ | owned | released | busy | marked)
  · have two : 2 ≤ (s.pol.rx ++ [b]).length := by
      have := List.length_pos_iff.mpr waits
      rw [List.length_append, List.length_singleton]
      omega
    exact sheds.kept_of_marked (.inr (.inr (.inr (.inr (.inr (.inl two))))))
  · exact (sheds.owned (g := g) owned).kept
  · exact Released.kept fun h hh => released h (sheds.1 ▸ hh)
  · obtain ⟨h, hh, issued⟩ := busy
    exact Busy.kept ⟨h, sheds.1 ▸ hh, issued⟩
  · refine sheds.kept_of_marked ?_
    rcases marked with h | h | h | h | h | h | ⟨x, hx, told⟩
    · exact .inl h
    · exact .inr (.inl h)
    · exact .inr (.inr (.inl h))
    · exact .of_notes h
    · exact .inr (.inr (.inr (.inr (.inl h))))
    · exact .inr (.inr (.inr (.inr (.inr (.inl (h.trans (List.length_append ▸ Nat.le_add_right ..)))))))
    · exact .inr (.inr (.inr (.inr (.inr (.inr ⟨x, List.mem_append_left _ hx, told⟩)))))

theorem hInvalidate_leads (s : State) (m : RppMsg) (peer : Nat) : Leads g i s (hInvalidate s m peer) := by
  unfold hInvalidate
  split
  · refine .trans (.foldl _ _ s fun t x => ?_) (State.evictBatch_leads _ _)
    extract_lets t1
    have e1 : Leads g i t t1 := .of_alike (t.modEntry_alike _ fun e => by
      split
      · rfl
      · exact e.modSlot_outline (f := fun v => { v with inval := true }) (fun _ => rfl) x.2)
    split
    · split
      · exact Marked.leads (.of_notes (SMap.insert_ne_nil _ _ _))
      · exact e1
    · exact e1
  · exact .refl s

theorem SMap.has_insert {α : Type} {m : SMap α} {k : Nat} (j : Nat) (v : α) (h : m.has k = true) : (m.insert j v).has k = true := by
  induction m with
  | nil => cases h
  | cons x m ih =>
    simp only [SMap.has, Bool.or_eq_true, beq_iff_eq] at h
    unfold SMap.insert
    split
    · simp [SMap.has, h]
    · split
      · next same =>
        rcases h with h | h
        · simp [SMap.has, h, same]
        · simp [SMap.has, h]
      · rcases h with h | h
        · simp [SMap.has, h]
        · simp [SMap.has, ih h]

theorem State.ackFrom_leads (s : State) (peer n : Nat) : Leads g i s (s.ackFrom peer n) := by
  unfold State.ackFrom
  split
  · exact .refl s
  · refine .trans ?_ (State.reclaim_leads _)
    unfold State.modPol
    dsimp only
    split
    · exact .refl s
    · refine .of_pol rfl rfl id fun marked => ?_
      rcases marked with h | h | h
      · exact .inl h
      · exact .inr (.inl (SMap.has_insert _ _ h))
      · exact .inr (.inr h)

theorem hEvictNotice_leads (s : State) (m : RppMsg) (peer : Nat) : Leads g i s (hEvictNotice s m peer) := by
  unfold hEvictNotice
  split
  · exact s.ackFrom_leads ..
  · exact .refl s

theorem hRetireAck_leads (s : State) (m : RppMsg) (peer : Nat) : Leads g i s (hRetireAck s m peer) := by
  unfold hRetireAck
  split
  · exact s.ackFrom_leads ..
  · exact .refl s

theorem State.sendBatch_leads (s : State) : Leads g i s s.sendBatch := by
  unfold State.sendBatch
  dsimp only
  split
  · exact .refl s
  · refine (State.reclaim_leads _).after ?_
    simp

/-- What is fully processed is 0 or the number of a batch. -/
theorem State.processed_mem {o : Nat} (h : s.processed o ≠ 0) : ∃ b ∈ s.pol.rx, b.owner = o ∧ b.num = s.processed o := by
  have counted (done : RxBatch → Bool) (n : Nat) (l : List RxBatch) :
      State.processed.go done n l = n ∨ ∃ b ∈ l, b.num = State.processed.go done n l := by
    induction l generalizing n with
    | nil => exact .inl rfl
    | cons b l ih =>
      rw [State.processed.go]
      split
      · rcases ih (if b.whole then b.num else n) with same | ⟨x, hx, same⟩
        · rw [same]
          split
          · exact .inr ⟨b, List.mem_cons_self .., rfl⟩
          · exact .inl rfl
        · exact .inr ⟨x, List.mem_cons_of_mem _ hx, same⟩
      · exact .inl rfl
  obtain ⟨b, hb, same⟩ := (counted _ _ _).resolve_left h
  obtain ⟨listed, owner⟩ := List.mem_filter.mp hb
  exact ⟨b, listed, eq_of_beq owner, same⟩

theorem precedes_self (n : Nat) : precedes n n = false := by
  have : (n + 2 ^ 32 - n % 2 ^ 32) % 2 ^ 32 = 0 := by omega
  unfold precedes
  rw [this]
  rfl

/-- An acknowledgement leaves the batch of its number as processed. -/
theorem State.sendAcks_leads (s : State) : Leads g i s s.sendAcks := by
  refine .foldl _ _ s fun t o => ?_
  extract_lets n done
  split
  · next some_done =>
    obtain ⟨x, -, due⟩ := List.any_eq_true.mp some_done
    have n_ne : n ≠ 0 := by
      intro zero
      simp [done, zero] at due
    obtain ⟨b, hb, owner, num⟩ := State.processed_mem n_ne
    have b_done : done b = true := by
      simp [done, owner, num, n_ne, n, precedes_self]
    have rx : (t.sendRpp o 0x23 0 .ok 0 0 (.batch n [])).pol.rx = t.pol.rx := congrArg (·.2.2.2.1) (State.sendRpp_alike ..).2.2
    refine Marked.leads (.inr (.inr (.inr (.inr (.inr (.inr ⟨{ b with told := true }, ?_, rfl⟩))))))
    rw [State.modPol_pol]
    refine List.mem_filter.mpr ⟨List.mem_map.mpr ⟨b, rx ▸ hb, if_pos b_done⟩, ?_⟩
    simp [n, num]
  · exact .refl t

/-! ### The pair's work -/

theorem rppHandler_leads (ty : Nat) (s : State) (m : RppMsg) (peer : Nat) : Leads g i s (rppHandler ty s m peer) := by
  unfold rppHandler
  split
  all_goals simp [Leads.of_alike, hHelloAck_leads, hJoinReq_leads, hJoinAck_leads, hLeave_leads, hView_leads, hViewAck_leads,
    hRedirect_leads, hRangeReq_leads, hRangeGrant_leads, hNoteRep_leads, hFetchData_leads, hVisitDelta_leads, hSlowData_leads, hSlowAck_leads,
    hPubNotice_leads, hInvalidate_leads, hEvictNotice_leads, hRetireAck_leads, hMoveBegin_leads, hMoveData_leads, hMoveCommit_leads]

theorem State.visitPart_leads (s : State) (m : RppMsg) (bs : List Byte) : Leads g i s (s.visitPart m bs) := by
  unfold State.visitPart
  dsimp only
  split
  · split
    · exact (rppHandler_leads ..).after (by simp)
    · exact .of_alike (by simp)
  · exact .of_alike (by simp)

theorem State.deliver_leads (s : State) (m : RppMsg) : Leads g i s (s.deliver m) := by
  unfold State.deliver
  split
  · exact s.visitPart_leads ..
  · split
    · exact .of_alike (by simp)
    · exact .refl s
  · split
    · exact rppHandler_leads ..
    · exact .of_alike ⟨rfl, rfl, rfl⟩

theorem State.heldDue_leads (s : State) : Leads g i s s.heldDue := by
  unfold State.heldDue
  dsimp only
  split
  · exact .refl s
  · exact (Leads.foldl _ _ _ fun t m => t.deliver_leads m).after ⟨rfl, rfl, rfl⟩

theorem State.doItem_leads (s : State) (w : Work) : Leads g i s (s.doItem w) := by
  cases w
  case msg m => exact rppHandler_leads ..
  case views => exact s.issueView_leads
  case batch => exact s.sendBatch_leads
  case acks => exact s.sendAcks_leads
  case pin => exact s.pinStart_leads
  case moves => exact s.movesGo_leads
  case blobs => exact State.blobPump_leads 64 s
  all_goals exact .of_alike (by simp [State.doItem])

theorem State.runWork_leads (n : Nat) (s : State) : Leads g i s (State.runWork n s) := by
  induction n generalizing s with
  | zero => exact .refl s
  | succ n ih =>
    rw [State.runWork]
    refine s.heldDue_leads.trans ?_
    split
    · exact .refl _
    · split
      · exact .refl _
      · refine .trans (t := State.doItem _ _) ?_ (ih _)
        exact (State.doItem_leads _ _).after ⟨rfl, rfl, rfl⟩

theorem State.item_alike (s : State) (w : Work) : s.Alike (s.item w) := by
  unfold State.item
  split <;> exact ⟨rfl, rfl, rfl⟩

theorem State.poolWork_leads (s : State) : Leads g i s s.poolWork := by
  refine (State.runWork_leads _ _).after ?_
  exact (((s.item_alike _).trans (State.item_alike _ _)).trans (State.item_alike _ _)).trans (State.item_alike _ _)

theorem State.afterMsg_leads (ty : Nat) (s : State) : Leads g i s (s.afterMsg ty) := by
  have turn (n : Nat) : Leads g i s (State.poolWork (State.runWork n s).serveFills) :=
    ((State.runWork_leads n s).trans (State.serveFills_leads _)).trans (State.poolWork_leads _)
  unfold State.afterMsg
  split
  · exact turn _
  · exact turn 8

end

/-! ### A version listed twice -/

/-- A step that holds version 3 of adapter 256. -/
def holdingCtx : Ctx := { freshCtx 0 .generator { sseq := 1, progH := 0, rptH := 0, ofsH := 0, htag := 0 } .run with used := [(256, 3)] }

/-- Member 3 of a pool with member 4, whose cached entry of adapter 256 lists version 3 twice: once with a reference, once without and marked. -/
def twiceListed : State :=
  { State.reset with
    mgt := { State.reset.mgt with coreLive := 0x3F, bootStage := 10 }
    prt := modNth State.reset.prt 0 fun q => { q with svCtx := some holdingCtx }
    cab := { State.reset.cab with dir := [{ Entry.fresh 0 256 0 4 0 3 false with
      vtab := [{ freshSlot 3 .valid 0 64 0 with refs := 1 }, { freshSlot 3 .valid 1 64 0 with inval := true },
        { freshSlot 7 .valid 2 64 0 with refs := 1 }] }] }
    pol := { State.reset.pol with
      instId := 3, instValid := true, noteCap := 1
      members := [{ inst := 3, devId := 3, addr := 3, group := 0, rppMinor := 0, blobMinor := 0, serves := true },
        { inst := 4, devId := 4, addr := 4, group := 0, rppMinor := 0, blobMinor := 0, serves := true }]
      sess := [{ inst := 4, minor := 0, blobMinor := 0, pubMinor := 0, opening := false, unreach := false, nextTag := 1, idle := 0
                 doneTags := [], busyTags := [], used := 0, used0 := 0, wait := [], asm := [] }]
      pend := some noChange } }

/-- The batch that invalidates version 3 of adapter 256, from member 4. -/
def invalidates : RppMsg :=
  { hdr := { w0 := BitVec.ofNat 32 (1 + 2 ^ 16 * 0x21 + 2 ^ 24 * rppVc 0x21 + 2 ^ 26), w1 := 4 + 2 ^ 16 * 3, w2 := 0, w3 := 0, w4 := 0, w5 := 0, w6 := 0
             w7 := 0 }
    pl := .batch 1 [(256, 3)] }

/-- Whether what a command leaves has no slot of version 3 of adapter 256, and no trace that says why. -/
def untraced (o : Host.Outcome State Fault Refusal) : Bool :=
  match o with
  | .next t =>
    outlines t.cab.dir == [(256, false, [7])] && (holdings t.prt).contains (false, some [(256, 3)]) && (holdings t.prt).all (fun h => !h.1)
      && t.pol.pend.map (·.num) == some 0 && !SMap.has t.pol.acks 4 && t.others.contains 4 && t.pol.notes.isEmpty && t.pol.noteCap != 0
      && t.pol.rx.map (·.told) == [false]
  | _ => false

theorem not_kept_of_untraced {t : State} (h : untraced (.next t) = true) : ¬ Kept (256, 3) 4 t := by
  simp only [untraced, Bool.and_eq_true, and_assoc] at h
  obtain ⟨dir, saved, idle, pend, acks, others, notes, cap, rx⟩ := h
  have dir : outlines t.cab.dir = [(256, false, [7])] := eq_of_beq dir
  rintro (⟨⟨o, ho, -, slot⟩, -⟩ | owned | released | ⟨h, hh, issued⟩ | marked)
  · rw [dir, List.mem_singleton] at ho
    subst ho
    exact absurd slot (by decide)
  · exact absurd (owned _ (dir ▸ List.mem_singleton.mpr rfl) rfl) (by decide)
  · exact released _ (List.contains_iff_mem.mp saved) _ rfl (by decide)
  · simpa [issued] using List.all_eq_true.mp idle h hh
  · rcases marked with view | ack | alone | noted | closed | two | ⟨b, hb, told⟩
    · obtain ⟨v, hv, num⟩ := Option.map_eq_some_iff.mp (eq_of_beq pend)
      exact view v hv num
    · simp [ack] at acks
    · exact alone (List.contains_iff_mem.mp others)
    · exact noted (List.isEmpty_iff.mp notes)
    · simp [closed] at cap
    · have one := congrArg List.length (eq_of_beq rx)
      rw [List.length_map, List.length_singleton] at one
      omega
    · have none := List.mem_map_of_mem (f := (·.told)) hb
      rw [eq_of_beq rx, told] at none
      simp at none

/-- A slot that is found is in the directory. -/
theorem Held.of_slot {s : State} {a ep : Nat} {e : Entry} {x : VSlot} (found : s.entry a = some e) (slot : e.slot ep = some x) : Held (a, ep) s := by
  have hit := List.find?_some slot
  rw [Bool.and_eq_true] at hit
  have aid : (e.aid == a) = true := List.find?_some (p := fun e : Entry => e.aid == a) found
  exact ⟨_, List.mem_map_of_mem (List.mem_of_find?_eq_some found), eq_of_beq aid,
    List.mem_map.mpr ⟨x, List.mem_of_find?_eq_some slot, eq_of_beq hit.1⟩⟩

/-- Refutes O45: a cached entry that lists a version twice, with a reference and without, loses both slots to the `INVALIDATE` that names it, since the
one without a reference is evicted by its epoch (R365); so the slot with the reference is not there to be marked. -/
theorem not_versionsAndMovesSpread : ¬ Obligations.VersionsAndMovesSpread := by
  unfold Obligations.VersionsAndMovesSpread
  intro all
  obtain ⟨-, invalidate, -⟩ := all twiceListed invalidates
  obtain ⟨u, run, rx, marked⟩ := invalidate 1 [(256, 3)] (by decide +kernel) rfl
  obtain ⟨e, x, found, slot, -⟩ : ∃ e x, u.entry 256 = some e ∧ e.slot 3 = some x ∧ x.inval = true :=
    marked 256 3 _ _ (List.mem_singleton.mpr rfl) rfl rfl rfl (by decide)
  have waits : u.pol.rx ≠ [] := by
    rw [rx]
    exact List.append_ne_nil_of_right_ne_nil _ (List.cons_ne_nil _ _)
  have kept : Kept (256, 3) 4 (u.afterMsg 0x21) := (State.afterMsg_leads 0x21 u).keeps (.inl ⟨.of_slot found slot, waits⟩)
  have lost : untraced (exec (.invalidate invalidates) twiceListed) = true := by decide +kernel
  exact not_kept_of_untraced (run ▸ lost) kept

end Sys2Proof.Machine
end
